-- ==== Sys2Proof/Word.lean ====
section
/-! DEFINITION. The word types of the GBX-1924 and their plainest arithmetic (R8, R9, R67). -/

namespace Sys2Proof

/-- One octet, as every transport carries values (R67). -/
abbrev Byte := BitVec 8

/-- A point word (R45): VALUE, TOFF, QUALITY and FLAGS in 64 bits. -/
abbrev PointWord := BitVec 64

/-- A 24-bit object number 0xAA_BBBB (R64). -/
abbrev ObjNo := BitVec 24

/-- Two's-complement reading of the low `w` bits of `n` (R9). -/
def signed (w n : Nat) : Int :=
  let m := n % 2 ^ w
  if m < 2 ^ (w - 1) then (m : Int) else (m : Int) - (2 ^ w : Nat)

/-- The raw bits of an integer in `w` bits, two's complement (R9). -/
def rawBits (w : Nat) (i : Int) : Nat := (i % (2 ^ w : Nat)).toNat

/-- Bits [lo + w - 1 : lo] of `n` (R8). -/
def field (n lo w : Nat) : Nat := (n / 2 ^ lo) % 2 ^ w

/-- Bit `b` of `n`. -/
def bitOf (n b : Nat) : Bool := field n b 1 == 1

/-- A Bool as a bit. -/
def ofBool (b : Bool) : Nat := if b then 1 else 0

end Sys2Proof
end

