-- ==== Sys2Proof/Syntax.lean ====
section
/-! DEFINITION. The commands of the block: one constructor of `Instr` per row of spec/opcode_table.json, in the
table's order, with the operands the row's rule gives it. Physical indices are `Fin`, so that an index the hardware
does not have cannot be written; frames received on a lane are the blocks that carry them, DAP payloads the raw octets. -/

namespace Sys2Proof

/-- The source of a DAP request (R90): an IPv4 address and UDP port on E0 or E1, a CAN FD controller, or host SPI. -/
inductive Src where
  | udp (e : Fin 2) (ip : BitVec 32) (port : BitVec 16)
  | can (c : Fin 2)
  | spi
  deriving DecidableEq, Repr

/-- The header of a DAP request as it arrived (R81): where it came from, SEQ, SESSION and the 16 octets of TAG
(empty where none was sent); `rsv` are the reserved octets 10 and 11, which only the tag covers. -/
structure Req where
  src : Src
  seq : BitVec 16
  session : BitVec 32
  tag : List Byte
  rsv : BitVec 16 := 0
  deriving DecidableEq, Repr

/-- The sample word of one conversion or filter output, as it crosses the die-to-die link (R370). -/
structure Sample where
  word : BitVec 32
  deriving DecidableEq, Repr

/-- A 66-bit block of a lane (R143): the sync header, 01 for data and 10 for control, and the 64 payload bits. -/
structure Block where
  sync : BitVec 2
  payload : BitVec 64
  deriving DecidableEq, Repr

/-- What the boot ROM reads of the flash before it verifies a firmware copy: the densities in MiB that the two selects answer, 0 for no
answer (R94), and the versions that the headers of the two copies hold (R109). -/
structure FlashRead where
  density0 : Nat
  density1 : Nat
  version0 : BitVec 32
  version1 : BitVec 32
  deriving DecidableEq, Repr

/-- The commands (one per row of spec/opcode_table.json). -/
inductive Instr where
  | dapRead (q : Req) (obj : ObjNo) (flags : Byte) (first count : BitVec 16)
  | dapWrite (q : Req) (obj : ObjNo) (flags : Byte) (first count : BitVec 16) (vals : List Byte)
  | dapOpen (q : Req) (level : Byte) (nonce : List Byte)
  | dapProve (q : Req) (proof : List Byte)
  | dapClose (q : Req)
  | keepalive (q : Req)
  | proveTimeout (slot : Fin 8)
  | sessionTimeout (slot : Fin 8)
  | authLockoutEnd (src : Src)
  | dapcSegment (c : Fin 2) (octets : List Byte)
  | dapcMessageTimeout (c : Fin 2)
  | spiPut (len : BitVec 16) (msg : List Byte) (crc : BitVec 32)
  | spiGet
  | spiStatus
  | commit (q : Req) (args : List Byte)
  | abandon (q : Req) (args : List Byte)
  | commitActivation (d : Fin 15)
  | peerCommitMissed (d : Fin 15)
  | store (q : Req) (args : List Byte)
  | storeComplete (verified : Bool)
  | troubleW1c (q : Req) (vals : List Byte)
  | stickyClear (q : Req) (obj : ObjNo) (first count : BitVec 16) (vals : List Byte)
  | resetNRise (suppliesInRange : Bool)
  | resetNLow (lowNs : Nat)
  | jtagSysreset
  | suppliesInRange
  | pllLock (pll : Fin 3) (riseUs : Nat)
  | pllLockFail
  | sramSelfTestDone (uncorrectable : Bool) (singleBitWords : Nat)
  | firmwareVerifyDone (flash : FlashRead) (digest : Option (BitVec 384))
  | dictionaryRestore (flashReadable : Bool)
  | roleNegotiation (presentN roleOk : Bool)
  | roleWaitExpiry
  | start (q : Req) (args : List Byte)
  | stop (q : Req) (args : List Byte)
  | trip (q : Req) (args : List Byte)
  | safeExit (q : Req) (args : List Byte)
  | discoveryEnd (peerIds : List (Fin 24 × List (BitVec 64))) (peerVers : List (Fin 24 × List (BitVec 16)))
  | discoverRetry
  | repeatedDiscovery
  | frameStart
  | checkpointComplete
  | canarySend
  | inputDeadline
  | beaconSend
  | overrun (unfinished : List (Fin 512))
  | chargeTimeout
  | syncTimeout
  | brkFail
  | stopTimeout
  | derateClearTimeout
  | derateHoldExpiry
  | pwrFailNAssert (lowNs : Nat)
  | pwrFailNRelease (highNs : Nat)
  | reqIdle (q : Req) (cell : Byte)
  | reqActive (q : Req) (cell : Byte)
  | reqBypass (q : Req) (cell : Byte)
  | reqRejoin (q : Req) (cell : Byte)
  | reqRetire (q : Req) (cell : Byte)
  | cellLost (cell : Fin 192)
  | cellSuspect (cell : Fin 192)
  | joinTimeout (cell : Fin 192)
  | bypassOpenTimeout (cell : Fin 192)
  | laneWakeDone (lane : Fin 28)
  | adaptationEnd (lane : Fin 28) (quiet : Bool) (eq : BitVec 64)
  | laneAcquireDone (lane : Fin 28)
  | blockLock (lane : Fin 28) (headers : List (BitVec 2)) (slip : Fin 66)
  | lockLoss (lane : Fin 28) (blocks : List Block)
  | losAssert (lane : Fin 28) (ampMv belowNs : Nat)
  | losClear (lane : Fin 28) (ampMv aboveNs : Nat)
  | lolAssert (lane : Fin 28) (ppm forNs : Nat) (outOfLock : Bool)
  | lolClear (lane : Fin 28) (ppm forNs : Nat)
  | warmAcquireTimeout (lane : Fin 28)
  | laneDown (lane : Fin 28)
  | laneStop (q : Req) (args : List Byte)
  | laneStart (q : Req) (args : List Byte)
  | measureReceive (chain : Fin 24) (blocks : List Block)
  | responseReceive (chain : Fin 24) (blocks : List Block) (roundTrip : Nat)
  | scheduleReceive (chain : Fin 24) (blocks : List Block)
  | beaconReceive (chain : Fin 24) (blocks : List Block)
  | tripBlockReceive (peerLane : Fin 2) (block : Block)
  | canaryReceive (peerLane : Fin 2) (blocks : List Block) (arrival : Int)
  | availReceive (peerLane : Fin 2) (blocks : List Block)
  | digestReceive (peerLane : Fin 2) (blocks : List Block)
  | relayDnReceive (peerLane : Fin 2) (blocks : List Block)
  | relayUpReceive (peerLane : Fin 2) (blocks : List Block)
  | fillReqReceive (peerLane : Fin 2) (blocks : List Block)
  | fillReceive (peerLane : Fin 2) (blocks : List Block)
  | outdigReceive (peerLane : Fin 2) (blocks : List Block)
  | convFrameReceive (peerLane : Fin 2) (blocks : List Block)
  | ckptReceive (peerLane : Fin 2) (blocks : List Block)
  | controlConfig (peerLane : Fin 2) (blocks : List Block)
  | controlCommit (peerLane : Fin 2) (blocks : List Block)
  | controlAction (peerLane : Fin 2) (blocks : List Block)
  | controlAck (peerLane : Fin 2) (blocks : List Block)
  | controlLatch (peerLane : Fin 2) (blocks : List Block)
  | controlMeter (peerLane : Fin 2) (blocks : List Block)
  | replayResult (peerLane : Fin 2) (blocks : List Block)
  | handover (peerLane : Fin 2) (blocks : List Block)
  | ckptReq (peerLane : Fin 2) (blocks : List Block)
  | retiring (peerLane : Fin 2) (blocks : List Block)
  | controlRepeat
  | standbyAbsent
  | roleOkHigh (highNs : Nat)
  | claimRelease
  | joinNoCanary
  | presentNChange (high : Bool)
  | pairHandover (q : Req) (args : List Byte)
  | pairRejoin (q : Req) (args : List Byte)
  | shadowStart
  | shadowLimit
  | resyncDone
  | selfReplayDone (pass : Bool)
  | replayResultTimeout
  | joinReplayDone
  | joinStepTimeout
  | hubPeriodStart (leg : Fin 12)
  | hubMidReload (leg : Fin 12)
  | fastTick
  | triggerCompareMatch (tc : Fin 24)
  | commEdge (pin : Fin 4) (level : Bool) (stableNs : Nat)
  | hubHaltDetect (noUpdateNs : Nat)
  | gateCommand (gate : Fin 24) (on : Bool)
  | guardDeadTimeEnd (gate : Fin 24)
  | blankingEnd (gate : Fin 24)
  | senseQualified (gate : Fin 24) (asserted : Bool) (forNs : Nat)
  | supplyFail (gate : Fin 24) (positiveOk negativeOk : Bool) (forNs : Nat)
  | gateEnNRise
  | gateEnNFall
  | cellEnToggle (q : Req) (args : List Byte)
  | slotReset (q : Req) (args : List Byte)
  | conversionTrigger (conv : Fin 4) (seq : Fin 4)
  | convTrigger (q : Req) (args : List Byte)
  | entryResult (conv : Fin 4) (lower upper : List Sample)
  | sequenceEnd (conv : Fin 4)
  | sdOutput (ch : Fin 24) (sample : Sample)
  | sdStuck (ch : Fin 24) (clocks : Nat) (clockMissing : Bool)
  | bitstreamResume (ch : Fin 24) (clocks : Nat)
  | calConverged (conv : Fin 4)
  | auxProspect (q : Req) (args : List Byte)
  | auxTestDone (out : Fin 16) (vaMv vbMv vauxMv : Nat)
  | auxTestAbort (out : Fin 16)
  | auxOvercurrent (out : Fin 16) (ma forUs : Nat)
  | auxOcBlankEnd (out : Fin 16)
  | auxOvertemp (out : Fin 16) (hot : Bool)
  | auxClear (q : Req) (args : List Byte)
  | faultReport (source : BitVec 12) (kind : Byte) (address : BitVec 32) (master atype : Nat)
  | tripRepeat
  | queueAccept
  | holdingDrop (source : BitVec 12)
  | ledgerDrain
  | ledgerStore
  | firstErrRearm (q : Req) (args : List Byte)
  | ledgerRead (q : Req) (args : List Byte)
  | ledgerClear (q : Req) (args : List Byte)
  | injectOpen (q : Req) (args : List Byte)
  | injectClose (q : Req) (args : List Byte)
  | injectExpiry
  | force (q : Req) (args : List Byte)
  | forcePoint (q : Req) (args : List Byte)
  | evSubscribe (q : Req) (args : List Byte)
  | eventNotification (slot : Fin 8) (ev : Fin 128)
  | dispEmerg (q : Req) (args : List Byte)
  | socSet (q : Req) (args : List Byte)
  | meterClose (q : Req) (args : List Byte)
  | meterRead (q : Req) (args : List Byte)
  | meterAck (q : Req) (args : List Byte)
  | meterSign (port : Fin 192)
  | ptpSyncReceive (e : Fin 2) (seq : BitVec 16) (twoStep : Bool) (t1 ingress correction : Int) (logInterval : Int)
  | ptpFollowUpReceive (e : Fin 2) (seq : BitVec 16) (t1 correction : Int)
  | ptpDelayRespReceive (e : Fin 2) (seq : BitVec 16) (t4 correction : Int)
  | ptpPdelayReqReceive (e : Fin 2) (seq : BitVec 16) (ingress correction : Int)
  | ptpPdelayRespReceive (e : Fin 2) (seq : BitVec 16) (ingress turnaround : Int)
  | ptpAnnounceReceive (e : Fin 2) (gm : BitVec 64) (priority1 clockClass accuracy variance priority2 : Nat)
      (utcOffset : Nat) (utcValid leap61 leap59 : Bool) (stepsRemoved : Nat)
  | announceTimeout (e : Fin 2)
  | timeHold
  | stepAuthorise (q : Req) (args : List Byte)
  | leapSecond
  | calendarCompare
  | calSet (q : Req) (args : List Byte)
  | calTamperClear (q : Req) (args : List Byte)
  | tamperNFall (lowUs : Nat)
  | vbatLow (mv : Nat)
  | oscillatorStop (noEdgeUs : Nat)
  | timedAction (q : Req) (args : List Byte)
  | timedCancel (q : Req) (args : List Byte)
  | transferPost (requester : Fin 16) (bank : Fin 8) (write : Bool) (lines : List (Nat × Byte × List PointWord))
  | storeCycle (bank : Fin 8) (completes : Bool)
  | bankWatchdog (bank : Fin 8)
  | watchRead (unit : Fin 32) (line : Fin 262144)
  | wuArm (q : Req) (args : List Byte)
  | wuDisarm (q : Req) (args : List Byte)
  | wuTrigger (q : Req) (args : List Byte)
  | wuRelease (q : Req) (args : List Byte)
  | postEnd (unit : Fin 32)
  | holdoffEnd (unit : Fin 32)
  | acqExport (q : Req) (args : List Byte)
  | jrnlHold (q : Req) (args : List Byte)
  | jrnlRelease (q : Req) (args : List Byte)
  | jrnlExport (q : Req) (args : List Byte)
  | streamDatagram
  | rrStart (q : Req) (args : List Byte)
  | rrStop (q : Req) (args : List Byte)
  | rrImport (q : Req) (args : List Byte)
  | replayFrame (digestsEqual : Bool) (changes : List (Fin 2097152 × PointWord))
  | pllUnlock (pll : Fin 3)
  | refclkLoss (lane : Bool) (noEdgeNs : Nat)
  | islandClockFault (island : Fin 38)
  | debugHalt (island : Option (Fin 38))
  | bootstat
  | supplyOor (rail : Fin 10) (mv forNs : Nat)
  | supplyReset (rail : Fin 10) (mv forNs : Nat)
  | junctionHot (deciC : Int)
  | roleOkFall
  | refclkReturn (lane : Bool)
  | islandClockRestore (island : Fin 38)
  | debugHaltRelease (island : Option (Fin 38))
  | railReturn (rail : Fin 10) (mv : Nat)
  | ptpDelayReqReceive (e : Fin 2) (seq : BitVec 16) (ingress correction : Int)
  | ptpSyncSend (egress : Int)
  | ptpAnnounceSend
  | ptpDelayReqSend (egress : Int)
  | ptpPdelayReqSend (egress : Int)
  deriving DecidableEq, Repr

end Sys2Proof
end

