-- ==== Sys2Proof/Machine/Octets.lean ====
section
/-! DEFINITION. Octet encodings and the two digests of the device: little-endian fields (R11, R67), CRC-32C (R89,
R96, R175) and SHA-256 with HMAC (R91, R328). -/

namespace Sys2Proof.Machine

/-- The `n` octets of `v`, least significant first (R67). -/
def le : Nat → Nat → List Byte
  | 0, _ => []
  | n + 1, v => BitVec.ofNat 8 v :: le n (v / 256)

/-- The value of octets sent least significant first (R67). -/
def unle : List Byte → Nat
  | [] => 0
  | b :: r => b.toNat + 256 * unle r

/-- The `n` octets of `v`, most significant first, as standard protocols send them (R11). -/
def be (n v : Nat) : List Byte := (le n v).reverse

/-- The `n` octets from position `i`, read little-endian; octets past the end read as 0. -/
def fieldLe (bs : List Byte) (i n : Nat) : Nat := unle ((bs.drop i).take n)

/-- One octet of a message; 0 past its end. -/
def octet (bs : List Byte) (i : Nat) : Nat := ((bs.drop i).headD 0).toNat

/-- `n` zero octets. -/
def zeros (n : Nat) : List Byte := List.replicate n 0

/-- The first `n` octets of `bs`, padded with zeros. -/
def padTo (n : Nat) (bs : List Byte) : List Byte := (bs.take n) ++ zeros (n - bs.length)

/-- One bit step of the reflected CRC-32C (polynomial 0x1EDC6F41). -/
def crcBit (c : BitVec 32) : BitVec 32 := if c.getLsbD 0 then (c >>> 1) ^^^ 0x82F63B78#32 else c >>> 1

/-- One octet of CRC-32C. -/
def crcByte (c : BitVec 32) (b : Byte) : BitVec 32 :=
  let c := c ^^^ (b.setWidth 32)
  crcBit (crcBit (crcBit (crcBit (crcBit (crcBit (crcBit (crcBit c)))))))

/-- CRC-32C of octets, initial value and final inversion all ones (R175). -/
def crc32c (bs : List Byte) : BitVec 32 := ~~~ (bs.foldl crcByte 0xFFFF_FFFF#32)

/-- The `n` 32-bit words of a numeral, most significant first. -/
def wordsOf (n v : Nat) : List (BitVec 32) := (List.range n).map fun i => BitVec.ofNat 32 (v >>> (32 * (n - 1 - i)))

/-- The round constants of SHA-256 in order, eight words to a numeral. -/
def shaK : List (BitVec 32) :=
  wordsOf 8 0x428a2f9871374491b5c0fbcfe9b5dba53956c25b59f111f1923f82a4ab1c5ed5 ++
  wordsOf 8 0xd807aa9812835b01243185be550c7dc372be5d7480deb1fe9bdc06a7c19bf174 ++
  wordsOf 8 0xe49b69c1efbe47860fc19dc6240ca1cc2de92c6f4a7484aa5cb0a9dc76f988da ++
  wordsOf 8 0x983e5152a831c66db00327c8bf597fc7c6e00bf3d5a7914706ca635114292967 ++
  wordsOf 8 0x27b70a852e1b21384d2c6dfc53380d13650a7354766a0abb81c2c92e92722c85 ++
  wordsOf 8 0xa2bfe8a1a81a664bc24b8b70c76c51a3d192e819d6990624f40e3585106aa070 ++
  wordsOf 8 0x19a4c1161e376c082748774c34b0bcb5391c0cb34ed8aa4a5b9cca4f682e6ff3 ++
  wordsOf 8 0x748f82ee78a5636f84c878148cc7020890befffaa4506cebbef9a3f7c67178f2

/-- The chaining value of SHA-256: eight 32-bit words. -/
structure Sha where
  a : BitVec 32
  b : BitVec 32
  c : BitVec 32
  d : BitVec 32
  e : BitVec 32
  f : BitVec 32
  g : BitVec 32
  h : BitVec 32
  deriving DecidableEq, Repr

/-- The initial chaining value of SHA-256. -/
def shaInit : Sha :=
  match wordsOf 8 0x6a09e667bb67ae853c6ef372a54ff53a510e527f9b05688c1f83d9ab5be0cd19 with
  | [a, b, c, d, e, f, g, h] => ⟨a, b, c, d, e, f, g, h⟩
  | _ => ⟨0, 0, 0, 0, 0, 0, 0, 0⟩

/-- One round of SHA-256. -/
def shaRound (s : Sha) (kw : BitVec 32) : Sha :=
  let s1 := s.e.rotateRight 6 ^^^ s.e.rotateRight 11 ^^^ s.e.rotateRight 25
  let ch := (s.e &&& s.f) ^^^ (~~~ s.e &&& s.g)
  let t1 := s.h + s1 + ch + kw
  let s0 := s.a.rotateRight 2 ^^^ s.a.rotateRight 13 ^^^ s.a.rotateRight 22
  let mj := (s.a &&& s.b) ^^^ (s.a &&& s.c) ^^^ (s.b &&& s.c)
  ⟨t1 + (s0 + mj), s.a, s.b, s.c, s.d + t1, s.e, s.f, s.g⟩

/-- The message schedule, newest word first. -/
def shaSched : Nat → List (BitVec 32) → List (BitVec 32)
  | 0, w => w
  | n + 1, w =>
    let x15 := w.getD 14 0
    let x2 := w.getD 1 0
    let s0 := x15.rotateRight 7 ^^^ x15.rotateRight 18 ^^^ (x15 >>> 3)
    let s1 := x2.rotateRight 17 ^^^ x2.rotateRight 19 ^^^ (x2 >>> 10)
    shaSched n ((w.getD 15 0 + s0 + w.getD 6 0 + s1) :: w)

/-- The big-endian 32-bit words of octets, at most `n` of them. -/
def shaWords : Nat → List Byte → List (BitVec 32)
  | 0, _ => []
  | n + 1, bs => BitVec.ofNat 32 (unle ((bs.take 4).reverse)) :: shaWords n (bs.drop 4)

/-- One 64-octet block of SHA-256. -/
def shaBlock (s : Sha) (bs : List Byte) : Sha :=
  let w := (shaSched 48 (shaWords 16 bs).reverse).reverse
  let t := (List.zipWith (· + ·) shaK w).foldl shaRound s
  ⟨s.a + t.a, s.b + t.b, s.c + t.c, s.d + t.d, s.e + t.e, s.f + t.f, s.g + t.g, s.h + t.h⟩

/-- `n` blocks of SHA-256. -/
def shaBlocks : Nat → Sha → List Byte → Sha
  | 0, s, _ => s
  | n + 1, s, bs => shaBlocks n (shaBlock s (bs.take 64)) (bs.drop 64)

/-- SHA-256 of octets: 32 octets. -/
def sha256 (m : List Byte) : List Byte :=
  let p := m ++ [0x80#8] ++ zeros ((119 - m.length % 64) % 64) ++ be 8 (8 * m.length)
  let s := shaBlocks (p.length / 64) shaInit p
  be 4 s.a.toNat ++ be 4 s.b.toNat ++ be 4 s.c.toNat ++ be 4 s.d.toNat ++ be 4 s.e.toNat ++ be 4 s.f.toNat ++
    be 4 s.g.toNat ++ be 4 s.h.toNat

/-- HMAC with SHA-256; keys of the device have at most 64 octets (R91). -/
def hmac (key m : List Byte) : List Byte :=
  let k := padTo 64 key
  sha256 (k.map (· ^^^ 0x5c#8) ++ sha256 (k.map (· ^^^ 0x36#8) ++ m))

/-- The ASCII octets of a label (R91). -/
def ascii (s : String) : List Byte := s.toList.map (fun c => BitVec.ofNat 8 c.toNat)

end Sys2Proof.Machine
end

