-- ==== Sys2Proof/Machine/PartsA.lean ====
section
/-! DEFINITION. Parts of the state as plain data: the dictionary, faults, device states, lanes and cells. Indexed state
is kept in `SMap`, a list of (index, value) pairs in one canonical form: indexes strictly rising and no entry equal to
what an unlisted index reads as. -/

namespace Sys2Proof.Machine

/-- Indexed state: (index, value) pairs, sorted, without entries equal to the default of the map. -/
abbrev SMap (β : Type) := List (Nat × β)

/-! ### The object dictionary (R64 to R100) -/

/-- The types of R67, with I8 (R384). -/
inductive Ty where
  | bool | u8 | u16 | u32 | u64 | i8 | i16 | i32 | i64 | q31 | q230 | time96 | string | blob | pointref
  deriving DecidableEq, Repr

/-- The access attributes of R69. -/
inductive Acc where
  | ro | rw | rws | w1c | act
  deriving DecidableEq, Repr

/-- The default of an object: one value, a value that rises with the element, a list (0 past its end), or one of the
three default tables of the manual (R88, R435, R529). -/
inductive Dflt where
  | con (v : Nat)
  | lin (base step : Nat)
  | list (vs : List Nat)
  | dapcId
  | reaction
  | slotTable
  deriving DecidableEq, Repr

/-- The stated range of an object, checked at commit (R68, R76). -/
inductive Rng where
  | any
  | range (lo hi : Nat)
  | srange (lo hi : Int)
  | step (lo hi st : Nat)
  | orVal (lo hi v : Nat)
  | oneOf (vs : List Nat)
  deriving DecidableEq, Repr

/-- One row of the object tables: index in its area, elements, type, access, domain (255 = none), least write right,
default, range and the mask of its defined bits. -/
structure ObjRow where
  idx : Nat
  n : Nat
  ty : Ty
  acc : Acc
  dom : Nat
  right : Nat
  dflt : Dflt
  rng : Rng
  mask : Option Nat
  deriving DecidableEq, Repr

/-- Where the answer to an action goes: to a request, into the slot of a scheduled action (R513), or nowhere. -/
inductive Ret where
  | nobody
  | req (q : Req)
  | slot (i : Nat)
  deriving DecidableEq, Repr

/-- A commit that is acknowledged or being confirmed and not yet active (R72, R74, R79); `ackAt` is the local clock (2⁻³² ns)
at its acknowledgement. -/
structure PendCommit where
  values : List (Nat × Nat)
  answer : Ret
  waitPeer : Bool
  sentFrame : Nat
  actAt : Nat
  ackAt : Int
  deriving DecidableEq, Repr

/-- One commit domain (R72 to R80): staging lock, commit sequence, last refusal, pending commit, and the staged RWS elements
whose block has left idle since their write (R76). -/
structure Domain where
  owner : Nat
  seq : Nat
  lastRefusal : Nat
  pend : Option PendCommit
  left : List Nat
  deriving DecidableEq, Repr

def Domain.reset : Domain := ⟨0, 0, 0, none, []⟩

/-- One of the 8 sessions (R90 to R93): number, level, source, client and device nonce, proof state, session key, the
highest SEQ, the last four answers (newest first) and the uptimes of OPEN and of the last valid request in ns. -/
structure Session where
  id : Nat
  level : Nat
  src : Src
  cn : List Byte
  dn : List Byte
  proved : Bool
  ks : List Byte
  hiSeq : Option Nat
  cache : List (Nat × List Byte)
  opened : Nat
  lastValid : Nat
  deriving DecidableEq, Repr

/-- A partial DAP-C message (R88). -/
structure Partial where
  octets : List Byte
  next : Nat
  started : Nat
  deriving DecidableEq, Repr

/-- The transports and sessions (R87 to R93). -/
structure SessSt where
  slots : SMap (Option Session)
  authFail : Nat
  fails : List (Src × Nat)
  lockouts : List (Src × Nat)
  canPart : SMap (Option Partial)
  canBusy : List Nat
  spiResp : List (List Byte)
  spiNote : List (List Byte)
  spiRejected : Bool
  spiBusy : Bool
  deriving DecidableEq, Repr

/-- An image slot of flash that has been written (R95 to R97): the 64 octets of its commit record and the stored values of a
configuration domain. -/
structure Image where
  record : List Byte
  values : List (Nat × Nat)
  deriving DecidableEq, Repr

/-- The trouble record is kept as the word of R99. -/
abbrev Trouble := Nat

/-! ### Faults and the Ledger (R422 to R448) -/

/-- A fault message with what its Ledger entry adds (R422, R442). `rid` numbers the reports, so that the captures of
R428 can find the ring entry of their own report; `time` counts 2⁻¹⁶ ns. -/
structure Entry where
  addr : Nat
  kind : Nat
  sev : Nat
  source : Nat
  time : Int
  frame : Nat
  merges : Nat
  access : Option (Nat × Nat)
  forced : Bool
  notActed : Bool
  peer : Bool
  pfTail : Bool
  seq : Nat
  rid : Nat
  deriving DecidableEq, Repr

/-- A Ledger slot of flash that has been written (R442, R443): its commit record, FIRST, LAST, and the entries of the ring, newest
first. -/
structure LedgerImage where
  record : List Byte
  first : Option Entry
  last : Option Entry
  entries : List Entry
  deriving DecidableEq, Repr

/-- A STORE in progress (R95, R333, R443): the domains still to do (the head is running), the bank whose slot has been erased, and
the image as its store took it: values of a configuration domain, or FIRST, LAST and the entries of the Ledger. -/
structure StoreJob where
  todo : List Nat
  bank : Nat
  values : List (Nat × Nat)
  first : Option Entry
  last : Option Entry
  entries : List Entry
  deriving DecidableEq, Repr

/-- An open injection session (R439): its session, mode and end (uptime in ns). -/
structure Inject where
  sess : Nat
  mode : Nat
  ends : Nat
  deriving DecidableEq, Repr

/-- A notification registration (R447): the session slot, and per event the occurrences since the last notification
and the uptime of that notification. -/
structure Sub where
  sess : Nat
  counts : SMap Nat
  lastAt : SMap Nat
  deriving DecidableEq, Repr

/-- The fault collector but for its queue and the ring, which stand in State. `forced` holds the forced points and
their values (R441), `fullAt` the uptime at which the queue last became full (R427), `evPend` the 128 pending bits of R446, `evMsg` the latest message of EV0 to EV7; `consumed` the VALUE of a point as a requester of the
point store last took it, by requester and point (R44). -/
structure FaultSt where
  holding : SMap (Option Entry)
  heldSince : SMap Nat
  first : Option Entry
  last : Option Entry
  firstErr : Option Entry
  lost : SMap Nat
  ledgerSeq : Nat
  reports : Nat
  storedSeq : Nat
  lastStore : Nat
  safeEntry : Option Nat
  inject : Option Inject
  forced : SMap (Option Nat)
  releaseAll : Bool
  evPend : Nat
  evCount : SMap Nat
  evMsg : SMap Nat
  subs : List Sub
  readUpTo : Nat
  fullAt : Nat
  consumed : SMap (Option Nat)
  deriving DecidableEq, Repr

/-! ### Device states (R101 to R131) -/

/-- The device states of R101. -/
inductive DevState where
  | off | boot | ready | discover | charge | sync | run | derated | stopping | safe
  deriving DecidableEq, Repr

/-- A state change that has reached the state machine and takes effect at the next frame boundary (R103, R104): where
it leads, its STATE_CAUSE, and the request to answer where an action asked for it. -/
structure StateEv where
  dest : DevState
  cause : Nat
  answer : Ret
  deriving DecidableEq, Repr

/-- The device state machine (R101 to R131). Uptimes are ns; `conds` lists the fault conditions that persist, as (kind,
address); `releasedAt` is the uptime of the rising edge of RESET_N. `fwTried` are the firmware copies that failed to verify, `fwVer` and
`fwDigest` the version and the SHA-384 digest of the one that runs (R109); `tripRepeat` is the TRIP block that goes out again, with the uptime of the first (R437). -/
structure DevSt where
  state : DevState
  cause : Nat
  bootStage : Nat
  bootFail : Bool
  releasedAt : Nat
  pllLocked : List Nat
  fwTried : List Nat
  fwVer : Nat
  fwDigest : Nat
  events : List StateEv
  derate : Nat
  derateSince : Nat
  derateClear : Option Nat
  conds : List (Nat × Nat)
  pwrFail : Bool
  pwrFailAt : Nat
  tripRepeat : Option (Block × Nat)
  discStep : Nat
  discAt : Nat
  discFaults : List Nat
  auxTodo : List Nat
  chargePhase : Nat
  chargeAt : Nat
  chargeHold : Nat
  syncAt : Nat
  syncFrame : Nat
  syncGood : Nat
  syncBlockOk : Bool
  syncReady : Bool
  matched : Bool
  brkAt : Option Nat
  brkOpen : Nat
  stopAt : Nat
  stopStep : Nat
  busStart : Option Int
  deriving DecidableEq, Repr

def DevSt.reset : DevSt :=
  { state := .off, cause := 0, bootStage := 0, bootFail := false, releasedAt := 0, pllLocked := [], fwTried := [],
    fwVer := 0, fwDigest := 0, events := [], derate := 0, derateSince := 0, derateClear := none, conds := [], pwrFail := false, pwrFailAt := 0,
    tripRepeat := none, discStep := 0, discAt := 0, discFaults := [], auxTodo := [],
    chargePhase := 0, chargeAt := 0, chargeHold := 0,
    syncAt := 0, syncFrame := 0, syncGood := 0, syncBlockOk := true, syncReady := false, matched := false, brkAt := none,
    brkOpen := 0, stopAt := 0, stopStep := 0, busStart := none }

def SessSt.reset : SessSt := ⟨[], 0, [], [], [], [], [], [], false, false⟩

def FaultSt.reset : FaultSt :=
  { holding := [], heldSince := [], first := none, last := none, firstErr := none, lost := [], ledgerSeq := 0,
    reports := 0, storedSeq := 0, lastStore := 0, safeEntry := none, inject := none, forced := [], releaseAll := false,
    evPend := 0, evCount := [], evMsg := [], subs := [], readUpTo := 0, fullAt := 0, consumed := [] }

/-! ### Chain and peer lanes (R142 to R170) -/

/-- The lane states of R154. -/
inductive LaneState where
  | off | wake | acquire | hunt | locked
  deriving DecidableEq, Repr

/-- One of the 28 lanes (R142 to R170, R213). `stopReq` is a LANE_STOP or LANE_START that acts at the next frame
start; `downSince` the uptime from which an enabled lane has not been LOCKED, `downRaised` whether its LANE_DOWN has
been raised; `eq` the word of R170. -/
structure Lane where
  state : LaneState
  enabled : Bool
  warm : Bool
  los : Bool
  lol : Bool
  adaptDone : Bool
  stopped : Bool
  stopReq : Option Bool
  slip : Nat
  windowBad : Nat
  eq : Nat
  trouble : Nat
  errBlocks : Nat
  lockLosses : Nat
  frameErr : Nat
  acquireAt : Nat
  downSince : Nat
  downRaised : Bool
  berSecond : Nat
  berCount : Nat
  rxLat : Nat
  txLat : Nat
  rxBase : Option Nat
  window : Nat
  good : Nat
  rx : Option (List Byte)
  lockLostAt : Option Nat
  deriving DecidableEq, Repr

def Lane.reset : Lane :=
  { state := .off, enabled := false, warm := false, los := true, lol := true, adaptDone := false, stopped := false,
    stopReq := none, slip := 0, windowBad := 0, eq := 8, trouble := 0, errBlocks := 0, lockLosses := 0, frameErr := 0,
    acquireAt := 0, downSince := 0, downRaised := false, berSecond := 0, berCount := 0, rxLat := 0,
    txLat := 0, rxBase := none, window := 0, good := 0, rx := none, lockLostAt := none }

/-! ### Cells (R132 to R140) and what their terminals report (R188 to R196) -/

/-- The cell states of R132. -/
inductive CellState where
  | absent | joining | idle | active | bypassed | retired
  deriving DecidableEq, Repr

/-- A measurement record as accepted under R204: its octets 0 to 95, and whether it came through the relay. -/
structure MeasRec where
  octets : List Byte
  relayed : Bool
  deriving DecidableEq, Repr

/-- A cell request that waits for the deadline (R135, R140): the request to answer and its code. -/
structure CellReq where
  req : Ret
  cell : Nat
  code : Nat
  deriving DecidableEq, Repr

/-- One cell and its terminal (R133 to R140, R189 to R196, R205). `meas` and `batt` are the record and the battery
segment held for the snapshot of the running frame; `measDis` and `battDis` mark them DISAGREE; `miss` counts frames
without a valid record; `joinAt` is an uptime, `orderAt` the uptime of the order to become ACTIVE while no record since has reported the
bypass switch open; `en` is the EN bit sent, `enOff` the frames whose record carries EN = 0 (R223); `dig` holds the standby's two CRC values of the running frame (R200), `lastTerm` the
last terminal identity found, `changed` that it changed while the cell was ABSENT or RETIRED (R136), `linkOk` whether the link was within 2 % of VDC_NOM at the last deadline, `want` a REQ ACTIVE that waits for it. -/
structure Cell where
  state : CellState
  cause : Nat
  termId : Nat
  ifver : Nat
  meas : Option MeasRec
  batt : Option (List Byte)
  measDis : Bool
  battDis : Bool
  disagreeRun : Nat
  mismatches : Nat
  miss : Nat
  direct : Bool
  joinCount : Nat
  joinAt : Nat
  orderAt : Option Nat
  en : Bool
  enOff : List Nat
  gfault : Nat
  early : Nat
  bypClosed : Bool
  aligned : Bool
  uvlo : Nat
  packAvail : Bool
  packId : Nat
  accEpoch : Nat
  hops : Nat
  dig : Option (Option Nat × Nat)
  copy : Option (Nat × Nat)
  lastTerm : Nat
  linkOk : Bool
  want : Bool
  changed : Bool
  deriving DecidableEq, Repr

def Cell.reset : Cell :=
  { state := .absent, cause := 0, termId := 0, ifver := 0, meas := none, batt := none, measDis := false,
    battDis := false, disagreeRun := 0, mismatches := 0, miss := 0, direct := false, joinCount := 0, joinAt := 0,
    orderAt := none, en := true, enOff := [], gfault := 0, early := 0, bypClosed := true, aligned := false, uvlo := 0,
    packAvail := false, packId := 0, accEpoch := 0xFFFF, hops := 0xFFFF, dig := none, copy := none,
    lastTerm := 0, linkOk := false, want := false, changed := false }

/-- A COMMAND that awaits its RESPONSE (R194 to R196): chain, hop, TAG and CMD. -/
structure ChainCmd where
  chain : Nat
  hop : Nat
  tag : Nat
  cmd : Nat
  deriving DecidableEq, Repr

/-- The chain manager: commands outstanding, discovery answers of this pass per chain, the late digests of R205, the
cells that leave in this frame and why (R135), the requests waiting for the deadline, the margins behind UP_SLACK, the
positions a repeated discovery has asked, the cells that answered this pass, and the cell transitions that take effect at the
next frame boundary (R133), in their order; `joins` are the cells that discovery moves to JOINING at the next deadline,
`held` the SCHEDULE and RELAY_DN frames of the running frame that have not left yet, with their lanes, and `beaconK` the frame of the last
BEACON (R187). -/
structure ChainSt where
  cmds : List ChainCmd
  nextTag : Nat
  found : SMap Nat
  terms : List (Nat × Nat × Nat)
  digestLate : Nat
  departs : List (Nat × Nat)
  reqs : List CellReq
  relaying : SMap Nat
  relayReq : List Nat
  peerHas : SMap Nat
  peerNow : List Nat
  slackNow : SMap (Option Int)
  slackHist : SMap (List (Option Int))
  asked : List Nat
  answered : List Nat
  moves : List (Nat × CellState × Nat)
  joins : List Nat
  held : List (Nat × List Byte)
  beaconK : Option Nat
  deriving DecidableEq, Repr

def ChainSt.reset : ChainSt := ⟨[], 0, [], [], 0, [], [], [], [], [], [], [], [], [], [], [], [], [], none⟩

end Sys2Proof.Machine
end

