-- ==== Sys2Proof/Machine/PartsB.lean ====
section
/-! DEFINITION. Parts of the state as plain data: gates and auxiliary outputs, the pair, frames, time, persistence and
what the device sends. -/

namespace Sys2Proof.Machine

/-! ### Hub gates and auxiliary outputs (R389 to R421) -/

/-- The states of one gate (R392); LATCHED is a state of its leg. -/
inductive GState where
  | disabled | off | wait | blank | on
  deriving DecidableEq, Repr

/-- One hub gate channel (R390, R392): state, level commanded, sense input asserted, its two supplies, the EARLY latch, and
the uptimes at which its output last went off and on. -/
structure Gate where
  st : GState
  cmd : Bool
  sense : Bool
  supPos : Bool
  supNeg : Bool
  early : Bool
  offAt : Option Nat
  onAt : Nat
  blank : Nat
  earlyDue : Bool
  deriving DecidableEq, Repr

def Gate.reset : Gate := ⟨.disabled, false, true, false, false, false, none, 0, 0, false⟩

/-- One hub leg of the gate model (R389, R398 to R400, R409, R410). `tripAt`, the trip instant on
record, and `rawAt`, the leg's own, count 2⁻¹⁶ ns of local time; `overlapEnd` is the uptime at which the last overlap of commands
ended (R394). -/
structure Leg where
  mon : Bool
  trip : Bool
  uv : Bool
  escalated : Bool
  hTrip : Bool
  lTrip : Bool
  hUv : Bool
  lUv : Bool
  tripAt : Option Int
  rawAt : Option Int
  overlap : Bool
  overlapEnd : Option Nat
  trouble : Nat
  deriving DecidableEq, Repr

def Leg.reset : Leg := ⟨false, false, false, false, false, false, false, false, none, none, false, none, 0⟩

/-- The hub gate model: channels, legs, the stage latch, the level of GATE_EN_N (true is high) and the uptime of its
last rise, and the counters of R408. `hiZ` holds while the hub outputs are high-impedance (R102). -/
structure GateSt where
  gates : SMap Gate
  legs : SMap Leg
  stage : Bool
  enN : Bool
  enRise : Nat
  lastToggle : Option Int
  trips : Nat
  shoots : Nat
  hiZ : Bool
  deriving DecidableEq, Repr

def GateSt.reset : GateSt := ⟨[], [], false, true, 0, none, 0, 0, true⟩

/-- One auxiliary output (R411 to R421). `blankAt` and `testAt` are the uptimes at which AX_OC_BLANK and the last test began. -/
structure Aux where
  cmd : Bool
  duty : Nat
  energised : Bool
  oc : Bool
  ot : Bool
  testing : Bool
  result : Nat
  va : Nat
  vb : Nat
  blanking : Bool
  blankAt : Nat
  mode2 : Bool
  testAt : Nat
  deriving DecidableEq, Repr

def Aux.reset : Aux := ⟨false, 0, false, false, false, false, 0, 0, 0, false, 0, false, 0⟩

/-! ### The pair (R449 to R485) -/

/-- The roles of R449; `unset` before start-up step 6. -/
inductive Role where
  | unset | active | standby | joining | retired
  deriving DecidableEq, Repr

/-- A CONTROL message sent and not acknowledged (R456, R457). -/
structure CtrlMsg where
  type : Nat
  cseq : Nat
  frame : Nat
  payload : List Byte
  sentAt : Nat
  repeated : Bool
  deriving DecidableEq, Repr

/-- A segment of a CONTROL message received (R456). -/
structure CtrlSeg where
  cseq : Nat
  seg : Nat
  last : Bool
  payload : List Byte
  deriving DecidableEq, Repr

/-- A journalled action that waits for the standby's acknowledgement (R256, R309, R441): its object, arguments, CSEQ, the frame
it acts at, whether the answer carries RESULT and that frame, and the request to answer. -/
structure PendAct where
  obj : Nat
  args : List Byte
  cseq : Nat
  frame : Nat
  result : Bool
  ret : Ret
  deriving DecidableEq, Repr

/-- The digests of one frame (R467). -/
structure Digests where
  sched : Nat
  point : Nat
  hub : Nat
  deriving DecidableEq, Repr

/-- A checkpoint in transfer (R458): its frame, length, IMAGE_CRC and the segments held by offset. -/
structure CkptRx where
  frame : Nat
  total : Nat
  crc : Nat
  segs : List (Nat × List Byte)
  deriving DecidableEq, Repr

/-- The loop engine: section states s1 and s2 in Q8.40 by pool section, the points handed over at the last frame start (R259),
the run of overrun frames (R268), OVERRUNS and FAST_LATE; the points as the core took them at the last deadline, and the slots
that an SRAM error has stopped for the rest of the frame (R44); the instant of the last fast tick that has run and the words of the
fast lanes' outputs before it (R258). -/
structure LoopSt where
  s1 : SMap Int
  s2 : SMap Int
  handed : SMap PointWord
  ovrRun : Nat
  overruns : Nat
  fastLate : Nat
  taken : SMap PointWord
  halted : List Nat
  tickAt : Int
  tickOld : SMap PointWord
  deriving DecidableEq, Repr

def LoopSt.reset : LoopSt := ⟨[], [], [], 0, 0, 0, [], [], 0, []⟩

/-- The pair unit (R449 to R485). Pins: `strapB` is ROLE high, `presentN` and `roleOk` the levels of their lines, `roleQual` whether ROLE_OK has been qualified high (R476).
`timed` lists the journalled actions that act at a coming frame start (frame, object, arguments). `lastP0`, `lastP1` and
`lastC` list the frames of the latest canaries on each path, newest first. `digests` holds the device's own digests,
newest first, `before` the loop engine and the points before the standby's shadow of the running frame (R468), `digSent` the
chains whose DIGEST has gone out, `ckptReq` a CKPT_REQ that waits for the next frame start, `image` a checkpoint image received
(F_c and octets), `resyncNext` a resynchronisation that ends at the next frame start. -/
structure PairSt where
  role : Role
  strapB : Bool
  presentN : Bool
  roleOk : Bool
  roleQual : Bool
  claim : Bool
  refreshAt : Nat
  schedSent : Bool
  waitAt : Option Nat
  epoch : Nat
  peerSerial : Nat
  peerWord : Nat
  lastP0 : List Nat
  lastP1 : List Nat
  lastC : List Nat
  pathP0 : Bool
  pathP1 : Bool
  pathC : Bool
  absentP : Nat
  absentC : Nat
  pathRaised : Bool
  peerMiss : Nat
  standby : Bool
  peerAt : Nat
  synced : Bool
  resync : Bool
  replay : Bool
  cleanRun : Nat
  incompleteFrames : Nat
  divergences : Nat
  takeovers : Nat
  lastTakeover : Nat
  trouble : Nat
  divTimes : List Int
  joinStep : Nat
  joinAttempts : Nat
  joinAt : Nat
  barred : Bool
  outbox : List CtrlMsg
  nextCseq : Nat
  rxDone : List Nat
  rxSegs : List CtrlSeg
  handoverAt : Option Nat
  avail : Option (Nat × List Byte)
  lackRun : SMap Nat
  haveRun : SMap Nat
  standing : List Nat
  onceWait : List Nat
  peerStanding : List Nat
  outdig : Option (List Byte)
  incomplete : Bool
  shadowDone : Nat
  kd : Nat
  replayAt : Nat
  ownPass : Option Bool
  peerPass : Option Bool
  ckpt : Option CkptRx
  frFrame : Nat
  joinConfig : List Nat
  newerSeen : Bool
  finishing : Bool
  timed : List (Nat × Nat × List Byte)
  waitActs : List PendAct
  digests : List (Nat × Digests)
  before : Option (LoopSt × SMap PointWord)
  digSent : List Nat
  ckptReq : Option Nat
  image : Option (Nat × List Byte)
  resyncNext : Bool
  deriving DecidableEq, Repr

def PairSt.reset : PairSt :=
  { role := .unset, strapB := false, presentN := true, roleOk := true, roleQual := false, claim := false, refreshAt := 0,
    schedSent := false, waitAt := none, epoch := 0, peerSerial := 0, peerWord := 0, lastP0 := [], lastP1 := [],
    lastC := [], pathP0 := false, pathP1 := false, pathC := false, absentP := 0, absentC := 0, pathRaised := false,
    peerMiss := 0, standby := false, peerAt := 0, synced := false, resync := false, replay := false, cleanRun := 0,
    incompleteFrames := 0, divergences := 0, takeovers := 0, lastTakeover := 0, trouble := 0, divTimes := [],
    joinStep := 0, joinAttempts := 0, joinAt := 0, barred := false, outbox := [], nextCseq := 1, rxDone := [],
    rxSegs := [], handoverAt := none, avail := none, lackRun := [], haveRun := [], standing := [], onceWait := [],
    peerStanding := [], outdig := none, incomplete := false, shadowDone := 0, kd := 0, replayAt := 0, ownPass := none,
    peerPass := none, ckpt := none, frFrame := 0, joinConfig := [], newerSeen := false, finishing := false, timed := [],
    waitActs := [], digests := [], before := none, digSent := [], ckptReq := none, image := none, resyncNext := false }

/-! ### Frames -/

/-- The frame counter and the availability vector (R59, R177). `tk` and `tkPrev` are t_k and t_{k−1} of the local time
in 2⁻³² ns; `vector` lists the data present in the snapshot of frame `snapK`: cell numbers, and 192 more than the port for
BATT; `snapMeas` and `snapBatt` hold what that snapshot took, `snapDis` the data whose copies differ (R205). `boundaryDue` holds
on a standby whose frame boundary waits for its shadow, `peerVec` where the vector is the active device's (R61); `tkOld` is the
frame start before tkPrev, which the late shadow of a frame needs; `dl` and `so` the DEADLINE and SAMPLE_OFFSET that the running frame
follows, those of the set before a SCHED set that became active at its start (R224). -/
structure FrameSt where
  running : Bool
  k : Nat
  tk : Int
  tkPrev : Int
  snapped : Bool
  vector : List Nat
  snapK : Nat
  snapMeas : SMap (Option MeasRec)
  snapBatt : SMap (Option (List Byte))
  snapDis : List Nat
  boundaryDue : Bool
  peerVec : Bool
  tkOld : Int
  dl : Nat
  so : Nat
  dlPrev : Nat
  deriving DecidableEq, Repr

def FrameSt.reset : FrameSt := ⟨false, 0, 0, 0, false, [], 0, [], [], [], false, false, 0, 0, 0, 0⟩

/-! ### Time (R486 to R519) -/

/-- The servo states of R492. -/
inductive Servo where
  | free | acquire | locked | hold
  deriving DecidableEq, Repr

/-- A scheduled action (R511 to R517): target in 2⁻¹⁶ ns, its frame, object, flags, outcome, session, right and
arguments. -/
structure Timed where
  target : Int
  fx : Nat
  obj : Nat
  lateOk : Bool
  late : Bool
  isDone : Bool
  status : Nat
  detail : Nat
  sess : Nat
  level : Nat
  args : List Byte
  deriving DecidableEq, Repr

/-- The measured delay of one hop (R503): the last measurements, newest first, in 1/256 ns, and the value in use. -/
structure Hop where
  samples : List Int
  rts : List Int
  value : Nat
  measured : Nat
  deriving DecidableEq, Repr

def Hop.reset : Hop := ⟨[], [], 0xFFFF_FFFF, 0⟩

/-- A foreign master of a PTP port (R497): its data set in the order of clause 9.3, what it announces of UTC, and its Announces since the
last timeout. -/
structure Foreign where
  gm : Nat
  set : List Nat
  utc : Nat
  utcValid : Bool
  leap61 : Bool
  leap59 : Bool
  count : Nat
  deriving DecidableEq, Repr

/-- What the PTP port of one Ethernet port has seen (R497, R498): instants in 2⁻¹⁶ ns. -/
structure PtpPort where
  masters : List Foreign
  announces : Nat
  syncSeq : Nat
  syncT2 : Option Int
  syncCorr : Int
  t1 : Int
  t2 : Int
  reqT3 : Option (Nat × Int)
  pdelT1 : Option (Nat × Int)
  pathDelay : Int
  interval : Int
  seqs : SMap Nat
  deriving DecidableEq, Repr

def PtpPort.reset : PtpPort := ⟨[], 0, 0, none, 0, 0, 0, none, none, 0, 0, []⟩

/-- The time unit. `up` is MODEL ONLY: the uptime in ns, which no reset sets back. `clock` is the local clock in
2⁻³² ns (SEC, NS and FRAC of R486 in one number), `incr` INCREMENT. The calendar clock is held as the value `calBase`
in 1/32,768 s that it had at uptime `calAt`, `calErr` what it was off by after the last compare (R509); `leapDay` is the UTC second
that ends the day of a leap second (R489). -/
structure TimeSt where
  up : Nat
  clock : Int
  incr : Nat
  servo : Servo
  source : Nat
  samples : List Int
  incrs : List Nat
  holdGood : Nat
  everLocked : Bool
  stepped : Bool
  stepUsed : Bool
  valid : Bool
  stepAt : Option Int
  stepAuth : Bool
  lastSampleAt : Nat
  lastSample : Int
  ptpOffset : Int
  pathDelay : Int
  peerOffset : Int
  utc : Nat
  utcFromPtp : Bool
  leap : Int
  leapDay : Int
  ports : SMap PtpPort
  selected : Nat
  master : Bool
  timed : SMap (Option Timed)
  hops : SMap Hop
  echoNext : SMap Nat
  echoRejects : Nat
  canaryRho : SMap (Option (Nat × Int))
  beaconFrame : Nat
  beaconTk : Int
  calBase : Nat
  calAt : Nat
  calValid : Bool
  oscOk : Bool
  vbatLow : Bool
  tamperLow : Bool
  tamper : List (Nat × Nat)
  lastCompare : Nat
  drift : Int
  calErr : Int
  meterLocked : Bool
  deriving DecidableEq, Repr

def TimeSt.reset : TimeSt :=
  { up := 0, clock := 0, incr := 0x04_0000_0000, servo := .free, source := 0, samples := [], incrs := [], holdGood := 0,
    everLocked := false, stepped := false, stepUsed := false, valid := false, stepAt := none, stepAuth := false,
    lastSampleAt := 0, lastSample := 0, ptpOffset := 0, pathDelay := 0, peerOffset := 0, utc := 37, utcFromPtp := false,
    leap := 0, leapDay := 0, ports := [], selected := 0, master := false, timed := [], hops := [], echoNext := [], echoRejects := 0,
    canaryRho := [], beaconFrame := 0, beaconTk := 0, calBase := 0, calAt := 0, calValid := false, oscOk := true, vbatLow := false,
    tamperLow := false, tamper := [], lastCompare := 0, drift := 0, calErr := 0, meterLocked := false }

/-! ### Persistence (R94 to R98) -/

/-- The power-fail tail (R443): FIRST, LAST and the newest entries not yet stored, newest first. -/
structure PfTail where
  first : Option Entry
  last : Option Entry
  entries : List Entry
  deriving DecidableEq, Repr

/-- The flash banks (R94 to R98): the count of devices the boot ROM found, whether the total falls short of 64 MiB, the image
slots by 2 × domain + bank, the Ledger slots by bank, the power-fail tail with its sequence and FIRST (R443), and the running
STORE. A slot that is not listed is erased. STORE_STATUS is `status`. -/
structure PersistSt where
  count : Nat
  small : Bool
  slots : SMap (Option Image)
  ledger : SMap (Option LedgerImage)
  tail : Option PfTail
  job : Option StoreJob
  answer : Ret
  status : Nat
  deriving DecidableEq, Repr

def PersistSt.reset : PersistSt := ⟨1, false, [], [], none, none, .nobody, 0⟩

/-! ### What the device sends -/

/-- The PTP messages that the device sends. -/
inductive PtpKind where
  | sync | delayReq | delayResp | pdelayReq | pdelayResp | announce
  deriving DecidableEq, Repr

/-- Where a PTP message goes (R496, R499): an L2 destination under an EtherType, or a multicast group and port of UDP/IPv4 with the
checksum, which is stated for event messages alone. -/
inductive PtpLink where
  | l2 (etherType destination : Nat)
  | udp (group port : Nat) (checksum : Option Nat)
  deriving DecidableEq, Repr

/-- What a master announces of itself (R497): priority1, clockClass, clockAccuracy, priority2 and timeSource. -/
structure PtpClock where
  priority1 : Nat
  clockClass : Nat
  accuracy : Nat
  priority2 : Nat
  timeSource : Nat
  deriving DecidableEq, Repr

/-- A PTP message that the device sends (R496 to R499), with twoStepFlag 0: port, domainNumber, its timestamp field and correctionField in
2⁻¹⁶ ns. -/
structure PtpMsg where
  port : Nat
  kind : PtpKind
  domain : Nat
  seq : Nat
  link : PtpLink
  stamp : Int
  correction : Int
  clock : Option PtpClock
  deriving DecidableEq, Repr

/-- What leaves the device, newest first in `State.sent`: DAP messages to their source, CAN FD segments, Wynlink frames
on a lane, TRIP blocks, PTP messages, UDP streams, and levels on pins. MODEL ONLY: the manual gives the device no
memory of what it sent. -/
inductive Out where
  | dap (dst : Src) (octets : List Byte)
  | can (c id : Nat) (octets : List Byte)
  | spi (octets : List Byte)
  | wynlink (lane : Nat) (blocks : List Block)
  | canary (lane : Nat) (instant : Int) (blocks : List Block)
  | trip (lane : Nat) (block : Block)
  | ptp (m : PtpMsg)
  | stream (dst : Src) (octets : List Byte)
  | bootstat (w : BitVec 32)
  deriving DecidableEq, Repr

end Sys2Proof.Machine
end

