-- ==== Sys2Proof/Machine/Blocks.lean ====
section
/-! DEFINITION. Blocks (R143, R171 to R173): a Wynlink frame as the blocks that carry it, and what a receiver makes of the blocks that
reach it: the window of sync headers (R153) and the frames. -/

namespace Sys2Proof.Machine

/-! ### Blocks and frames -/

/-- A block of a sync header and up to 8 payload octets, the earliest in bits [7:0]; those not given are 0. -/
def blockOf (sync : BitVec 2) (bs : List Byte) : Block := ⟨sync, BitVec.ofNat 64 (unle bs)⟩

/-- A data block (R143). -/
def dataBlock (bs : List Byte) : Block := blockOf 1 bs

/-- A control block; its first octet is BTYPE (R171). -/
def ctrlBlock (bs : List Byte) : Block := blockOf 2 bs

/-- The payload octets of a block. -/
def blockOctets (b : Block) : List Byte := le 8 b.payload.toNat

/-- Whether a sync header is valid (R143). -/
def validSync (h : BitVec 2) : Bool := h == 1 || h == 2

/-- The IDLE, START and END blocks (R171); END tells how many octets of the last data block belong to the frame. -/
def idleBlock : Block := ctrlBlock [0x1E]
def startBlock : Block := ctrlBlock [0x33]
def endBlock (valid : Nat) : Block := ctrlBlock [0x66, BitVec.ofNat 8 valid]

/-- The data blocks of `n` times 8 octets. -/
def dataBlocks : Nat → List Byte → List Block
  | 0, _ => []
  | n + 1, bs => dataBlock (bs.take 8) :: dataBlocks n (bs.drop 8)

/-- A frame as its sender sends it (R172). -/
def frameBlocks (bs : List Byte) : List Block :=
  startBlock :: (dataBlocks ((bs.length + 7) / 8) bs ++ [endBlock ((bs.length + 7) % 8 + 1)])

/-! ### The receiver -/

/-- What a receiver makes of a block: a frame complete with its END, a frame discarded (R173), or block lock lost (R153). -/
inductive Heard where
  | frame (octets : List Byte)
  | discarded
  | lost
  deriving DecidableEq, Repr

/-- The frame being received is given up. -/
def giveUp (part : Option (List Byte)) : List Heard := if part.isSome then [.discarded] else []

/-- One block at a receiver (R171, R173); `part` holds the octets of the frame being received, newest first. -/
def rxStep (part : Option (List Byte)) (b : Block) : Option (List Byte) × List Heard :=
  if !validSync b.sync then (none, giveUp part)
  else if b.sync == 1 then (part.map ((blockOctets b).reverse ++ ·), [])
  else
    let t := octet (blockOctets b) 0
    if t = 0x33 then (some [], giveUp part)
    else if t = 0xAA then (part, [])
    else if t = 0x66 then
      match part with
      | none => (none, [])
      | some bs =>
        let v := octet (blockOctets b) 1
        if 1 ≤ v && v ≤ 8 && 8 ≤ bs.length then (none, [.frame (bs.drop (8 - v)).reverse]) else (none, [.discarded])
    else (none, giveUp part)

/-- An invalid header seen in LOCKED in second `sec` of local time: ERR_BLOCKS, and BER_WARN above 100 within a second (R167, R169). -/
def Lane.countBad (x : Lane) (sec : Nat) : Lane :=
  let c := (if x.berSecond = sec then x.berCount else 0) + 1
  { x with errBlocks := (x.errBlocks + 1) % 2 ^ 32, berSecond := sec, berCount := c
           trouble := x.trouble ||| (if 100 < c then 8 else 0) }

/-- One sync header of a LOCKED lane (R153): the window of the last 256, and the loss of lock with the 24th invalid one in it. An
Ethernet lane (`eth`) loses lock by the rules of its own standard (R164). -/
def Lane.header (x : Lane) (eth : Bool) (sec : Nat) (ok : Bool) : Lane :=
  let n := x.windowBad + ofBool (!ok) - ofBool (x.window.testBit 255)
  let x := if ok then x else x.countBad sec
  let x := { x with window := (2 * x.window + ofBool (!ok)) % 2 ^ 256, windowBad := n }
  if ok || n < 24 || eth then x else { x with state := .hunt, good := 0 }

/-- One block at a LOCKED lane: the block that loses lock is the first that is not handed over (R153). -/
def Lane.take (x : Lane) (eth : Bool) (sec : Nat) (b : Block) : Lane × List Heard :=
  if x.state != .locked then (x, [])
  else
    let x := x.header eth sec (validSync b.sync)
    if x.state != .locked then (x, [.lost])
    else
      let r := rxStep x.rx b
      ({ x with rx := r.1 }, r.2)

/-- The blocks that reach a lane, in their order. -/
def Lane.takes (x : Lane) (eth : Bool) (sec : Nat) (bl : List Block) : Lane × List Heard :=
  bl.foldl (fun a b => let r := a.1.take eth sec b; (r.1, a.2 ++ r.2)) (x, [])

/-- One sync header of a lane in HUNT (R152): an invalid one shifts the block boundary by a bit and restarts the count. -/
def Lane.hunt (x : Lane) (h : BitVec 2) : Lane :=
  if validSync h then { x with good := x.good + 1 } else { x with good := 0, slip := (x.slip + 1) % 66 }

/-- The headers that a lane in HUNT examines, up to the 128th valid one in a row (R152). -/
def Lane.hunts (x : Lane) : List (BitVec 2) → Lane
  | [] => x
  | h :: r => if 128 ≤ x.good then x else (x.hunt h).hunts r

/-- What a transmitter sends between frames (R147, R172): IDLE blocks from the end of WAKE on, electrical idle in OFF. -/
def Lane.between (x : Lane) : Option Block := if x.state == .off || x.state == .wake then none else some idleBlock

end Sys2Proof.Machine
end

