-- ==== Sys2Proof/Machine/PartsC.lean ====
section
/-! DEFINITION. Parts of the state as plain data: the hub counters and compares (R225 to R244) and the point-store banks
(R520 to R536). -/

namespace Sys2Proof.Machine

/-- One hub leg (R225 to R235, R244): whether its first period has begun, the instant the running period started (2⁻³² ns),
the period number, the raw compare words and the resolved compares of the running period, whether the period is held off
(R231), whether the leg is held at SAFE levels after a stop, the lane values that wait for the next reload with the instants of their
arrival, newest first (R233), and the gates that R236 asks for with the uptime of their last change (R230). -/
structure HubLeg where
  begun : Bool
  startAt : Int
  period : Nat
  word0 : Nat
  word1 : Nat
  c0 : Nat
  c1 : Nat
  refused : Bool
  safeHeld : Bool
  lane0 : List (Int × Nat)
  lane1 : List (Int × Nat)
  wantH : Bool
  wantL : Bool
  wantAt : Nat
  trouble : Nat
  deriving DecidableEq, Repr

def HubLeg.reset : HubLeg := ⟨false, 0, 0, 0, 0, 0, 0, false, false, [], [], false, false, 0, 0⟩

/-- The HUB island: whether it runs, its start instant t_s (2⁻³² ns), legs, the pattern that events have selected for each
group (R237), the halted groups (R239), the COMM levels, the legs that have taken a pending HUB commit, whether a start waits
for the next frame (R225), whether a stop waits for the periods' ends (R129), fast ticks since t_s, PAIR_SPLITS, and the
octets that HUB_CRC covers in the running frame (R467); `late` marks the lane compares that kept their
value since the last fast tick (R455), `lateAt` is the reload instant last counted in FAST_LATE (R269), `maskAt` the HUB-island cycle of
each group's last bound event (R237). -/
structure HubSt where
  running : Bool
  ts : Int
  legs : SMap HubLeg
  mask : SMap Nat
  halted : List Nat
  comm : Nat
  switched : List Nat
  startNext : Bool
  stopReq : Bool
  ticks : Nat
  splits : Nat
  reloads : List Byte
  late : Nat
  lateAt : Option Int
  maskAt : SMap Int
  deriving DecidableEq, Repr

def HubSt.reset : HubSt := ⟨false, 0, [], [], [], 0, [], false, false, 0, 0, [], 0, none, []⟩

/-! ### The point-store banks -/

/-- One transfer of a burst (R521, R526): its line, point mask and the words it writes. -/
structure Xfer where
  line : Nat
  mask : Byte
  words : List PointWord
  deriving DecidableEq, Repr

/-- A burst a requester has posted to a bank (R526): direction, the transfers not yet granted, the progress count and the
STORE cycle from which it waits. -/
structure Burst where
  write : Bool
  todo : List Xfer
  progress : Nat
  since : Nat
  deriving DecidableEq, Repr

/-- One bank (R524 to R536): whether it has switched to a pending STORE set (R527), its copy number, slot counter, STORE
cycles, background grants since the last reservation, bursts by requester, the transfer held (requester, direction,
transfer) and the cycles it has been held, and the counters. -/
structure Bank where
  switched : Bool
  copy : Nat
  slot : Nat
  cycle : Nat
  count : Nat
  bursts : SMap (Option Burst)
  held : Option (Nat × Bool × Xfer)
  heldFor : Nat
  grants : SMap Nat
  reserve : Nat
  wdog : Nat
  deriving DecidableEq, Repr

def Bank.reset : Bank := ⟨false, 0, 0, 0, 0, [], none, 0, [], 0, 0⟩

end Sys2Proof.Machine
end

