-- ==== Sys2Proof/Machine/PartsD.lean ====
section
/-! DEFINITION. Parts of the state as plain data: the converters (R359 to R388) and clocks, resets and supplies (R564 to
R588). -/

namespace Sys2Proof.Machine

/-! ### Converters -/

/-- One fast converter: the sequence that runs (its number, the index of its next entry, the conversion number that entry
starts at and the instant of its first edge in 2⁻³² ns), the queued trigger with its edge, the last channel and gain, the
conversions still settling (R368), calibration, counters, the conversions of the last millisecond (first edge and number, newest first),
and the fast tick that last triggered it. -/
structure ConvF where
  running : Option Nat
  lastSeq : Nat
  entry : Nat
  conv : Nat
  start : Int
  queued : Option (Nat × Int)
  prev : Option (Nat × Nat)
  settle : Nat
  settleGain : Bool
  calOk : Bool
  uses : List (Int × Nat)
  tickDone : Option Nat
  dropped : Nat
  invalid : Nat
  deriving DecidableEq, Repr

def ConvF.reset : ConvF :=
  { running := none, lastSeq := 0, entry := 0, conv := 0, start := 0, queued := none, prev := none, settle := 0
    settleGain := false, calOk := false, uses := [], tickDone := none, dropped := 0, invalid := 0 }

/-- The comparison of one channel of a pair in CHECK (R374). -/
structure ChkRun where
  bad : Nat
  good : Nat
  failed : Bool
  deriving DecidableEq, Repr

def ChkRun.reset : ChkRun := ⟨0, 0, false⟩

/-- One sigma-delta channel (R376 to R380): outputs still settling, modulator faults, outputs whose span includes a gap of
CLKOUT (R570), the completion instant of the latest output and the point word before it. -/
structure SdCh where
  settle : Option Nat
  stuck : Bool
  clkMissing : Bool
  gap : Nat
  doneAt : Int
  before : Nat
  deriving DecidableEq, Repr

def SdCh.reset : SdCh := ⟨none, false, false, 0, 0, 0⟩

/-- The converters: fast converters, CHECK runs by 8p + i, sigma-delta channels, CONV_TROUBLE by unit, soft triggers that
fire at the next frame start (4f + q), FRAME sequences triggered (4f + q) and FRAME points written in this frame, and the units (f, or 4 + s) that have switched to a
pending CONV set (R382). -/
structure ConvSt where
  fs : SMap ConvF
  chk : SMap ChkRun
  sd : SMap SdCh
  trouble : SMap Nat
  soft : List Nat
  fired : List Nat
  written : List Nat
  switched : List Nat
  deriving DecidableEq, Repr

def ConvSt.reset : ConvSt := ⟨[], [], [], [], [], [], [], []⟩

/-! ### Clocks, resets and supplies -/

/-- A CLKOUT pin (R569): CLKOUT_CFG as it runs, 0 while it is stopped; the instant of its first rising edge, and of the falling edge at
which it last stopped. -/
structure ClkPin where
  code : Nat
  first : Int
  low : Int
  deriving DecidableEq, Repr

def ClkPin.reset : ClkPin := ⟨0, 0, 0⟩

/-- PLL lock pins, references, island clocks, rails, the boot status register and the junction (R566 to R588). `notOk` lists
the rails outside their window, `stepAt` the uptime at which start-up step 2 began, `resetN` the level of RESET_N. CLKOUT pins are
high-impedance while the hub outputs are (R570), else as `clkouts` says. -/
structure ClkSt where
  pllFail : List Nat
  riseFail : List Nat
  holdover : List Nat
  refSysLost : Bool
  refLaneLost : Bool
  stopped : List Nat
  halted : List Nat
  resetCause : Nat
  notOk : List Nat
  railMv : SMap Nat
  junction : Int
  hot : Bool
  pfCount : Nat
  holdup : Bool
  pfDone : Bool
  pfWrite : Bool
  sramFail : Bool
  fwBad : List Nat
  stepAt : Nat
  resetN : Bool
  clkouts : SMap ClkPin
  deriving DecidableEq, Repr

def ClkSt.reset : ClkSt :=
  { pllFail := [], riseFail := [], holdover := [], refSysLost := false, refLaneLost := false, stopped := [], halted := []
    resetCause := 0, notOk := [], railMv := [], junction := 250, hot := false, pfCount := 0, holdup := false
    pfDone := false, pfWrite := false, sramFail := false, fwBad := [], stepAt := 0, resetN := false, clkouts := [] }

end Sys2Proof.Machine
end

