-- ==== Sys2Proof/Machine/PartsE.lean ====
section
/-! DEFINITION. Parts of the state as plain data: the loop engine (R245 to R274), the schedule generator
(R214 to R224), the cascade functions (R275 to R300),
and the dispatcher and meter (R301 to R335). -/

namespace Sys2Proof.Machine

/-- What the schedule generator keeps of a cell (R214 to R217): the MODE of its last record, and for legs H1 and H2 the level at
the end of that frame and how long before that end (q_E) the last transition was placed. -/
structure GenCell where
  mode : Nat
  lvl1 : Bool
  lvl2 : Bool
  ago1 : Option Int
  ago2 : Option Int
  deriving DecidableEq, Repr

def GenCell.reset : GenCell := ⟨0, false, false, none, none⟩

/-- The schedule generator: its cells, PULSE_MOVES, the records it has built for the coming frame, and its cells and PULSE_MOVES
before it built them (R468: a standby takes an overrun of the active device over). -/
structure SchedSt where
  cells : SMap GenCell
  moves : Nat
  recs : List (Nat × List Byte)
  prev : SMap GenCell
  prevMoves : Nat
  deriving DecidableEq, Repr

def SchedSt.reset : SchedSt := ⟨[], 0, [], [], 0⟩

/-- What the cascade functions keep from frame to frame; quantities with 40 fraction bits in SI units. The tracker: th, wi, w, vd,
lock and its two runs, the past v0 of SINGLE for the D in force. By cell: the integral I_c, the direction in which the regulated
bridge was at its limit, the ramping link reference. The LV reference and integral. The counted cells of the last frame. By
frame, newest first: the demodulated phase voltages (grid re, im, converter re, im of each phase, and 1 where a consumed point degrades) and the mean string current of
each phase. PWR_SCALE, and its value at entry to STOPPING with that frame. -/
structure CascSt where
  th : Int
  wi : Int
  w : Int
  vd : Int
  lock : Bool
  lockRun : Nat
  unlockRun : Nat
  v0Hist : List Int
  v0D : Nat
  link : SMap Int
  push : SMap Int
  vref : SMap (Option Int)
  lvRef : Option Int
  lvInt : Int
  counted : List Nat
  demod : List (List Int)
  means : List (List Int)
  pwr : Int
  stopFrom : Int
  stopK : Nat
  deriving DecidableEq, Repr

def CascSt.reset : CascSt :=
  { th := 0, wi := 0, w := 0, vd := 0, lock := false, lockRun := 0, unlockRun := 0, v0Hist := [], v0D := 0, link := [], push := [],
    vref := [], lvRef := none, lvInt := 0, counted := [], demod := [], means := [], pwr := 0, stopFrom := 0, stopK := 0 }

/-- The meter of one port (R308, R321 to R334): SOC (Q8.40) and its anchor, counters in mWh, residues, the counters at the
budget day start, whether its exhaustion has been raised today; the running interval: its start, the counters at its start,
EMERG_INT, EST_FRAMES, flags, identity, CRCs; the next REC_SEQ, and the latest records (REC_SEQ, octets, acknowledged), newest
first. -/
structure MPort where
  soc : Int
  anchored : Bool
  imp : Nat
  exp : Nat
  aImp : Nat
  aExp : Nat
  dayImp : Nat
  dayExp : Nat
  exhausted : Bool
  started : Bool
  startT : Int
  startK : Nat
  imp0 : Nat
  exp0 : Nat
  emerg : Nat
  est : Nat
  ptp : Bool
  disc : Bool
  switched : Bool
  gap : Bool
  emergency : Bool
  lessor : Nat
  pack : Nat
  calCrc : Nat
  conCrc : Nat
  seq : Nat
  recs : List (Nat × List Byte × Bool)
  deriving DecidableEq, Repr

def MPort.reset : MPort :=
  { soc := 0x80_0000_0000, anchored := false, imp := 0, exp := 0, aImp := 0, aExp := 0, dayImp := 0, dayExp := 0,
    exhausted := false, started := false, startT := 0, startK := 0, imp0 := 0, exp0 := 0, emerg := 0, est := 0, ptp := true,
    disc := false, switched := false, gap := false, emergency := false, lessor := 0, pack := 0, calCrc := 0, conCrc := 0,
    seq := 0, recs := [] }

/-- A closed interval that waits for its signature: port, REC_SEQ, and octets 4 to 111 of its record but for SERIAL (R328). -/
structure MClose where
  port : Nat
  seq : Nat
  cause : Nat
  flags : Nat
  body : List Byte
  deriving DecidableEq, Repr

/-- A meter slot of flash that has been written (R333): its commit record and the ports of the image. -/
structure MImage where
  record : List Byte
  ports : SMap MPort
  deriving DecidableEq, Repr

/-- The dispatcher and the meter: ports, closes that wait, emergency support and the change that waits for a dispatch cycle, the
ports it applies to, the frame in which each BATT datum was last present, METER_LOST, closes since the image was stored, the
image that a running store writes, the meter slots of flash by bank, and its power-fail area with the SEQ of its commit record
(R333). -/
structure MeterSt where
  ports : SMap MPort
  closes : List MClose
  emerg : Bool
  emergNext : Option Bool
  emergPorts : List Nat
  battSeen : SMap (Option Nat)
  lost : Nat
  count : Nat
  storing : SMap MPort
  slots : SMap (Option MImage)
  pfArea : Option (Nat × SMap MPort × List MClose)
  deriving DecidableEq, Repr

def MeterSt.reset : MeterSt := ⟨[], [], false, none, [], [], 0, 0, [], [], none⟩

end Sys2Proof.Machine
end

