-- ==== Sys2Proof/Machine/PartsF.lean ====
section
/-! DEFINITION. Parts of the state as plain data: the assay engine (R336 to R358), the Archive, the input journal, the record
stream and Reading Room (R537 to R563). -/

namespace Sys2Proof.Machine

/-! ### The assay engine -/

/-- One write of a publication (R339): the point, its new VALUE (none: held), QUALITY and FLAGS. -/
structure AWrite where
  pt : Nat
  value : Option Int
  qual : Nat
  flags : Nat
  deriving DecidableEq, Repr

/-- A closed window that waits for its publication frame: its end frame C, the writes, the new TRIM where it changes, and the
copy of the accumulators that the close buffer holds (R349). -/
structure AClose where
  ends : Nat
  writes : List AWrite
  trim : Option Int
  buffer : List Byte
  deriving DecidableEq, Repr

/-- One assayed port: whether a window runs, the frame from which it runs and whether it runs from its start, its nominal start
frame; G, whether a degraded point entered it, and TRIM with 40 fraction bits; the current accumulators by bin (re, im), their
weight sum and i0; the frames excluded of late, whether the coming frame is excluded, frames excluded in the window; the sum of
TMAX + TMIN with its count and whether a degraded summary entered it, and the close that waits. -/
structure AssayPort where
  on : Bool
  since : Nat
  full : Bool
  start : Int
  g : Int
  gBad : Bool
  trim : Int
  pi : List Int
  si : Int
  i0 : Option Int
  excl : List Nat
  exclNext : Bool
  clipped : Nat
  tsum : Int
  tn : Nat
  tBad : Bool
  due : Option AClose
  deriving DecidableEq, Repr

def AssayPort.reset : AssayPort :=
  { on := false, since := 0, full := false, start := 0, g := 0, gBad := false, trim := 0x100_0000_0000, pi := [], si := 0,
    i0 := none, excl := [], exclNext := true, clipped := 0, tsum := 0, tn := 0, tBad := false, due := none }

/-- The voltage accumulators of one battery cell: by bin (re, im), the weight sum and u0 (R347). -/
structure BatCell where
  pv : List Int
  sv : Int
  u0 : Option Int
  deriving DecidableEq, Repr

def BatCell.reset : BatCell := ⟨[], 0, none⟩

/-- The assay engine: ports, battery cells by 256 × port + cell, its three counters, the ports published in the last frame, and those
whose results the new identity of a pack makes INVALID in it. -/
structure AssaySt where
  ports : SMap AssayPort
  cells : SMap BatCell
  late : Nat
  excluded : Nat
  published : Nat
  fresh : List Nat
  wiped : List Nat
  deriving DecidableEq, Repr

def AssaySt.reset : AssaySt := ⟨[], [], 0, 0, 0, [], []⟩

/-! ### The Archive -/

/-- The states of a watch unit (R563); LENT is the Archive's. -/
inductive WState where
  | off | run | arming | pre | post | holdoff | full
  deriving DecidableEq, Repr

/-- An Archive record (R541): point, KIND, RPOS, the frame of the read and the word. -/
structure ARec where
  point : Nat
  kind : Nat
  rpos : Nat
  frame : Nat
  word : PointWord
  deriving DecidableEq, Repr

/-- A closed capture: the 64 octets of its header, its CAPSEQ and its records, oldest first. -/
structure Capture where
  header : List Byte
  seq : Nat
  recs : List ARec
  deriving DecidableEq, Repr

/-- One watch unit (R537 to R547): state, slot being filled, closed slots, records being written (newest first), the greatest
frame of a record overwritten, the last word recorded by list entry, the lines read in the running pass, the first pass since
arming, image passes by their start frames (newest first); the edges' armed states and whether the pass is the first of PRE;
what fires at the next read (source code) and the count of its event or unit seen last; the trigger: frame, time, source;
the close's frame and the triggers since; WU_MISSED, CAPSEQ and firings. -/
structure WUnit where
  state : WState
  slot : Nat
  closed : SMap (Option Capture)
  recs : List ARec
  dropped : Option Nat
  last : SMap (Option PointWord)
  passLines : List Nat
  armPass : Nat
  images : List Nat
  prePass : Nat
  rise : Bool
  fall : Bool
  manual : Bool
  mark : Nat
  trigFrame : Nat
  trigTime : Int
  tsrc : Nat
  closeFrame : Nat
  holdTrigs : Nat
  truncated : Bool
  missed : Nat
  capseq : Nat
  fired : Nat
  deriving DecidableEq, Repr

def WUnit.reset : WUnit :=
  { state := .off, slot := 0, closed := [], recs := [], dropped := none, last := [], passLines := [], armPass := 0,
    images := [], prePass := 0, rise := false, fall := false, manual := false, mark := 0, trigFrame := 0, trigTime := 0,
    tsrc := 0, closeFrame := 0, holdTrigs := 0, truncated := false, missed := 0, capseq := 0, fired := 0 }

/-! ### The journal, the stream and Reading Room -/

/-- An item of a journal entry (R550). -/
structure JItem where
  itype : Nat
  id : Nat
  body : List Byte
  deriving DecidableEq, Repr

/-- A checkpoint (R552): its frame, whether every line has been copied, whether the conditions of R58 held at its taking, and what
it holds. -/
structure Ckpt where
  frame : Nat
  done : Bool
  clean : Bool
  cfg : SMap (Option Nat)
  timed : SMap (Option Timed)
  forced : SMap (Option Nat)
  pts : SMap PointWord
  loop : LoopSt
  sched : SchedSt
  casc : CascSt
  meter : MeterSt
  assay : AssaySt
  hub : HubSt
  cells : SMap Cell
  dev : DevState
  deriving DecidableEq, Repr

/-- A hold (R555): number, span, F_h, entries kept (newest first), octets, the flags of HOLD_INFO, and its checkpoint. -/
structure Hold where
  num : Nat
  first : Nat
  fh : Nat
  last : Nat
  entries : List (Nat × List Byte)
  octets : Nat
  complete : Bool
  cut : Bool
  ckpt : Option Ckpt
  deriving DecidableEq, Repr

/-- An object being sent on the record stream (R556): SKIND, OBJ_ID, its octets, the offset of the next payload, and whether more
octets are still to come. -/
structure SJob where
  kind : Nat
  id : Nat
  octets : List Byte
  offset : Nat
  growing : Bool
  deriving DecidableEq, Repr

/-- A Reading Room run (R558): mode TRIAL, source import, mask, the frames named, the frame to replay next, the session and run
number. -/
structure RRun where
  trial : Bool
  imported : Bool
  mask : Nat
  first : Nat
  last : Nat
  next : Nat
  num : Nat
  deriving DecidableEq, Repr

/-- The journal, the stream and Reading Room: items of the running frame and of the entry before it, entries (frame, octets;
newest first), the two checkpoint slots, CKPT_LAST, the hold and its counters; stream jobs, its SEQ and the uptime before which
it sends nothing; the import, the replay, RR_STATUS, first difference, differences and the last words recorded; whether a condition
of R58 has failed in the running frame, and since the last checkpoint. -/
structure JrnlSt where
  items : List JItem
  prior : List JItem
  priorFrame : Nat
  entries : List (Nat × List Byte)
  slotA : Option Ckpt
  slotB : Option Ckpt
  ckptLast : Nat
  ckptTaken : Bool
  hold : Option Hold
  holdNum : Nat
  holdsMissed : Nat
  jobs : List SJob
  seq : Nat
  nextAt : Nat
  image : List Byte
  run : Option RRun
  status : Nat
  runs : Nat
  firstDiff : Option Nat
  diffs : Nat
  words : SMap (Option PointWord)
  nondet : Bool
  sinceCkpt : Bool
  deriving DecidableEq, Repr

def JrnlSt.reset : JrnlSt :=
  { items := [], prior := [], priorFrame := 0, entries := [], slotA := none, slotB := none, ckptLast := 0, ckptTaken := false,
    hold := none, holdNum := 0, holdsMissed := 0, jobs := [], seq := 0, nextAt := 0, image := [], run := none,
    status := 0, runs := 0, firstDiff := none, diffs := 0, words := [], nondet := false, sinceCkpt := false }

end Sys2Proof.Machine
end

