-- ==== Sys2Proof/Machine/State.lean ====
section
/-! DEFINITION. The state of the GBX-1924 as plain data, put together from the parts of its blocks, the reasons a
command could stop, and the machine right after reset. -/

namespace Sys2Proof.Machine

/-! ### The whole state -/

/-- The state of the device. -/
structure State where
  /-- The point store (R45): 2,097,152 points, unlisted points hold their reset word. -/
  pts : SMap PointWord
  /-- The committed dictionary: values of RW and RWS objects by object and element, where they differ from the defaults. -/
  cfg : SMap (Option Nat)
  /-- The staged sets of all domains (R69). -/
  stg : SMap (Option Nat)
  /-- The commit domains (R72 to R80). -/
  doms : SMap Domain
  /-- Transports and sessions (R87 to R93). -/
  sess : SessSt
  /-- The flash banks and the running STORE (R94 to R98). -/
  persist : PersistSt
  /-- The trouble record (R99). -/
  trouble : Trouble
  /-- The device state machine (R101 to R131). -/
  dev : DevSt
  /-- The fault collector and events (R422 to R448). -/
  faults : FaultSt
  /-- The collector queue, oldest first, at most 256 messages (R426). -/
  queue : List Entry
  /-- The Ledger ring, newest first, at most 32,766 entries (R442). -/
  ring : List Entry
  /-- The 28 lanes (R142). -/
  lanes : SMap Lane
  /-- The 192 cells (R132). -/
  cells : SMap Cell
  /-- The chain manager (R113 to R118, R194 to R206). -/
  chain : ChainSt
  /-- The hub gate model (R389 to R410). -/
  gate : GateSt
  /-- The 16 auxiliary outputs (R411 to R421). -/
  aux : SMap Aux
  /-- The pair unit (R449 to R485). -/
  pair : PairSt
  /-- The frame counter and the snapshot (R51 to R60, R177). -/
  frame : FrameSt
  /-- The time unit and the calendar clock (R486 to R519). -/
  time : TimeSt
  /-- The HUB island (R225 to R244). -/
  hub : HubSt
  /-- The 8 banks of the point store (R520 to R536). -/
  banks : SMap Bank
  /-- The converters (R359 to R388). -/
  conv : ConvSt
  /-- Clocks, resets and supplies (R564 to R588). -/
  clk : ClkSt
  /-- The loop engine (R245 to R274). -/
  loop : LoopSt
  /-- The schedule generator (R214 to R224). -/
  sched : SchedSt
  /-- The cascade functions (R275 to R300). -/
  casc : CascSt
  /-- The dispatcher and the meter (R301 to R335). -/
  meter : MeterSt
  /-- The assay engine (R336 to R358). -/
  assay : AssaySt
  /-- The 32 watch units (R537 to R547). -/
  watch : SMap WUnit
  /-- The journal, the record stream and Reading Room (R548 to R563). -/
  jrnl : JrnlSt
  /-- MODEL ONLY: the number of free values consumed so far (an index into the opaque constants of Config). -/
  free : Nat
  /-- MODEL ONLY: everything the device has sent, newest first. -/
  sent : List Out
  /-- The commands that wait, first in first out. -/
  pending : List Instr
  deriving DecidableEq, Repr

/-- Faults of the block. No command of this device stops it: `exec` answers a next state for every command. The type is
needed by the interface; its one constructor is raised by nobody (safe). -/
inductive Fault where
  /-- Raised by nobody; safe. -/
  | neverRaised
  deriving DecidableEq, Repr

/-- Refusals of the block. -/
inductive Refusal where
  /-- Raised by a dispatch arm whose command has no meaning yet; safe: nothing can be proved about that command. -/
  | notModelled (mnemonic : String)
  deriving DecidableEq, Repr

/-- The machine right after reset: unpowered or RESET_N low (R101), nothing stored in flash, the queue empty. -/
def State.reset : State :=
  { pts := [], cfg := [], stg := [], doms := [], sess := SessSt.reset, persist := PersistSt.reset, trouble := 0, dev
    := DevSt.reset, faults := FaultSt.reset, queue := [], ring := [], lanes := [], cells := [], chain :=
    ChainSt.reset, gate := GateSt.reset, aux := [], pair := PairSt.reset, frame := FrameSt.reset, time :=
    TimeSt.reset, hub := HubSt.reset, banks := [], conv := ConvSt.reset, clk := ClkSt.reset, loop := LoopSt.reset,
    sched := SchedSt.reset, casc := CascSt.reset, meter := MeterSt.reset, assay := AssaySt.reset, watch := [], jrnl :=
    JrnlSt.reset, free := 0, sent := [], pending := [] }

end Sys2Proof.Machine
end

