-- ==== Sys2Proof/Machine/Catalogue.lean ====
section
/-! DEFINITION. The object catalogue: one row per object of the tables of the manual (R12, R64 to R72), with its
elements, type, access, domain, least write right (R66), default, stated range (R76) and its reserved bits. -/

namespace Sys2Proof.Machine

/-- Objects of area 0x01. -/
def rows01 : List ObjRow := [
  ⟨0x0000, 1, .string, .ro, 255, 2, .con 0, .any, none⟩  /- PART (R5) -/,
  ⟨0x0001, 1, .u8, .ro, 255, 2, .con 0, .any, none⟩  /- SIREV (R5) -/,
  ⟨0x0002, 1, .u32, .ro, 255, 2, .con 0, .any, none⟩  /- FWVER (R5) -/,
  ⟨0x0003, 1, .u64, .ro, 255, 2, .con 0, .any, none⟩  /- SERIAL (R5) -/,
  ⟨0x0004, 1, .u8, .ro, 255, 2, .con 0, .any, none⟩  /- FDREV (R66) -/,
  ⟨0x0005, 1, .u32, .ro, 255, 2, .con 0, .any, none⟩  /- BOOTVER (R66) -/,
  ⟨0x0006, 1, .blob, .ro, 255, 2, .con 0, .any, none⟩  /- FWDIGEST (R66) -/,
  ⟨0x0007, 1, .u32, .ro, 255, 2, .con 0, .any, none⟩  /- DICTVER (R66) -/,
  ⟨0x0008, 1, .blob, .ro, 255, 2, .con 0, .any, none⟩  /- METER_PUBKEY (R66) -/]

/-- Objects of area 0x02, part 0. -/
def rows02_0 : List ObjRow := [
  ⟨0x0000, 1, .u8, .ro, 255, 1, .con 0, .any, none⟩  /- DEV_STATE (R105) -/,
  ⟨0x0001, 1, .u8, .ro, 255, 1, .con 0, .any, none⟩  /- STATE_CAUSE (R105) -/,
  ⟨0x0002, 1, .u8, .ro, 255, 1, .con 0, .any, none⟩  /- BOOT_STAGE (R105) -/,
  ⟨0x0003, 1, .u8, .act, 255, 1, .con 0, .any, none⟩  /- START (R105) -/,
  ⟨0x0004, 1, .u8, .act, 255, 1, .con 0, .any, none⟩  /- STOP (R105) -/,
  ⟨0x0005, 1, .u8, .act, 255, 1, .con 0, .any, none⟩  /- TRIP (R105) -/,
  ⟨0x0006, 1, .u8, .act, 255, 1, .con 0, .any, none⟩  /- SAFE_EXIT (R105) -/,
  ⟨0x0007, 1, .bool, .rw, 0, 1, .con 0, .any, none⟩  /- AUTOSTART (R105) -/,
  ⟨0x0008, 1, .q31, .rw, 5, 2, .con 0x40000000, .srange (214748365) (2147483647), none⟩  /- DERATE_LIMIT (R105) -/,
  ⟨0x0009, 1, .bool, .rw, 5, 2, .con 1, .any, none⟩  /- DERATE_AUTO (R105) -/,
  ⟨0x000A, 1, .u32, .ro, 255, 1, .con 0, .any, none⟩  /- DERATE_CAUSES (R105) -/,
  ⟨0x000B, 1, .bool, .rw, 5, 2, .con 0, .any, none⟩  /- REDUNDANCY_DERATE (R105) -/,
  ⟨0x0010, 1, .u8, .act, 255, 1, .con 0, .any, none⟩  /- COMMIT (R80) -/,
  ⟨0x0011, 1, .u8, .act, 255, 1, .con 0, .any, none⟩  /- ABANDON (R80) -/,
  ⟨0x0012, 15, .u32, .ro, 255, 1, .con 0, .any, none⟩  /- STAGE_OWNER (R80) -/,
  ⟨0x0013, 15, .u32, .ro, 255, 1, .con 0, .any, none⟩  /- COMMIT_SEQ (R80) -/,
  ⟨0x0014, 15, .bool, .ro, 255, 1, .con 0, .any, none⟩  /- COMMIT_PENDING (R80) -/,
  ⟨0x0015, 15, .u8, .ro, 255, 1, .con 0, .any, none⟩  /- LAST_REFUSAL (R80) -/,
  ⟨0x0020, 1, .u16, .rw, 5, 2, .con 1000, .range 100 5000, none⟩  /- PRECHARGE_RATE (R119) -/,
  ⟨0x0021, 1, .q31, .rw, 5, 2, .con 0x1999999a, .srange (107374183) (1073741824), none⟩  /- PRECHARGE_ILIM (R119) -/,
  ⟨0x0022, 1, .u16, .rw, 5, 2, .con 10000, .range 1000 60000, none⟩  /- CHARGE_TIMEOUT (R119) -/,
  ⟨0x0023, 1, .u16, .rw, 5, 2, .con 30000, .range 1000 60000, none⟩  /- SYNC_TIMEOUT (R119) -/,
  ⟨0x0024, 1, .u16, .rw, 5, 2, .con 200, .range 50 1000, none⟩  /- SYNC_VTOL (R119) -/,
  ⟨0x0025, 1, .u16, .rw, 5, 2, .con 200, .range 50 1000, none⟩  /- SYNC_ATOL (R119) -/]

/-- Objects of area 0x02, part 1. -/
def rows02_1 : List ObjRow := [
  ⟨0x0026, 1, .u16, .rw, 5, 2, .con 20, .range 5 500, none⟩  /- SYNC_HOLD (R119) -/,
  ⟨0x0027, 1, .u8, .rw, 5, 2, .con 255, .orVal 0 15 255, none⟩  /- BRK_AUX (R119) -/,
  ⟨0x0028, 1, .pointref, .rw, 5, 2, .con 0x80000000, .any, none⟩  /- BRK_FB (R119) -/,
  ⟨0x0029, 1, .u16, .rw, 5, 2, .con 100, .range 20 1000, none⟩  /- BRK_TIME (R119) -/,
  ⟨0x002A, 1, .u16, .rw, 5, 2, .con 500, .range 50 10000, none⟩  /- STOP_RAMP (R119) -/]

/-- Objects of area 0x02. -/
def rows02 : List ObjRow := rows02_0 ++ rows02_1

/-- Objects of area 0x03. -/
def rows03 : List ObjRow := [
  ⟨0x0000, 1, .u32, .w1c, 255, 2, .con 0, .any, some 0x1FFF⟩  /- TROUBLE (R100) -/]

/-- Objects of area 0x04. -/
def rows04 : List ObjRow := [
  ⟨0x0000, 1, .bool, .rw, 0, 2, .con 1, .any, none⟩  /- OBSERVER_OPEN (R93) -/,
  ⟨0x0001, 1, .u16, .rw, 0, 2, .con 60, .range 5 3600, none⟩  /- SESSION_TIMEOUT (R93) -/,
  ⟨0x0002, 1, .blob, .rw, 0, 2, .con 0, .any, none⟩  /- K_OPERATOR (R93) -/,
  ⟨0x0003, 1, .blob, .rw, 0, 2, .con 0, .any, none⟩  /- K_ENGINEER (R93) -/,
  ⟨0x0004, 1, .bool, .ro, 255, 2, .con 0, .any, none⟩  /- KEYS_SET (R93) -/,
  ⟨0x0005, 8, .u64, .ro, 255, 2, .con 0, .any, none⟩  /- SESSION_INFO (R93) -/,
  ⟨0x0006, 1, .u32, .ro, 255, 2, .con 0, .any, none⟩  /- AUTH_FAIL (R93) -/]

/-- Objects of area 0x08. -/
def rows08 : List ObjRow := [
  ⟨0x0000, 1, .u8, .act, 255, 2, .con 0, .any, none⟩  /- STORE (R98) -/,
  ⟨0x0001, 34, .u32, .ro, 255, 2, .con 0, .any, none⟩  /- STORE_SEQ (R98) -/,
  ⟨0x0002, 1, .u8, .ro, 255, 2, .con 0, .any, none⟩  /- STORE_STATUS (R98) -/,
  ⟨0x0003, 1, .blob, .ro, 255, 2, .con 0, .any, none⟩  /- PERSIST_MAP (R98) -/,
  ⟨0x0004, 1, .u8, .ro, 255, 2, .con 0, .any, none⟩  /- FLASH_COUNT (R98) -/]

/-- Objects of area 0x10, part 0. -/
def rows10_0 : List ObjRow := [
  ⟨0x0000, 1, .time96, .ro, 255, 2, .con 0, .any, none⟩  /- LOCAL_TIME (R515) -/,
  ⟨0x0001, 1, .u32, .ro, 255, 2, .con 0, .any, none⟩  /- TIME_STATUS (R515) -/,
  ⟨0x0002, 1, .u8, .rw, 11, 2, .con 1, .range 0 1, none⟩  /- TIME_SOURCE (R515) -/,
  ⟨0x0003, 1, .u32, .rw, 11, 2, .con 1000, .range 100 1000000, none⟩  /- STEP_THRESHOLD (R515) -/,
  ⟨0x0004, 1, .u16, .rw, 11, 2, .con 100, .range 10 10000, none⟩  /- LOCK_TOL (R515) -/,
  ⟨0x0005, 1, .u16, .rw, 11, 2, .con 50, .range 1 200, none⟩  /- RATE_LIMIT (R515) -/,
  ⟨0x0006, 1, .u32, .rw, 11, 2, .con 1000, .range 10 1000000, none⟩  /- RATE_SLEW (R515) -/,
  ⟨0x0007, 1, .u64, .ro, 255, 2, .con 0, .any, none⟩  /- INCREMENT (R515) -/,
  ⟨0x0008, 1, .i64, .ro, 255, 2, .con 0, .any, none⟩  /- TIME_OFFSET (R515) -/,
  ⟨0x0009, 1, .i64, .ro, 255, 2, .con 0, .any, none⟩  /- PTP_OFFSET (R515) -/,
  ⟨0x000A, 1, .i16, .rw, 11, 2, .con 37, .srange (0) (1000), none⟩  /- UTC_OFFSET (R515) -/,
  ⟨0x000B, 1, .u8, .act, 255, 2, .con 0, .any, none⟩  /- STEP_AUTHORISE (R515) -/,
  ⟨0x0010, 1, .u8, .rws, 11, 2, .con 0, .range 0 1, none⟩  /- PTP_PROFILE (R515) -/,
  ⟨0x0011, 1, .u8, .rws, 11, 2, .con 0, .range 0 1, none⟩  /- PTP_TRANSPORT (R515) -/,
  ⟨0x0012, 1, .u8, .rws, 11, 2, .con 2, .range 0 2, none⟩  /- PTP_PORT (R515) -/,
  ⟨0x0013, 1, .u8, .rw, 11, 2, .con 0, .range 0 127, none⟩  /- PTP_DOMAIN (R515) -/,
  ⟨0x0014, 1, .bool, .rw, 11, 2, .con 1, .any, none⟩  /- PTP_SLAVE_ONLY (R515) -/,
  ⟨0x0015, 2, .u8, .rw, 11, 2, .con 128, .any, none⟩  /- PTP_PRIORITY (R515) -/,
  ⟨0x0016, 1, .i16, .rw, 11, 2, .con 0, .srange (-4) (1), none⟩  /- PTP_LOG_SYNC (R515) -/,
  ⟨0x0017, 4, .i32, .rw, 11, 2, .con 0, .srange (-100000) (100000), none⟩  /- PTP_INGRESS_LAT (R515) -/,
  ⟨0x0018, 4, .i32, .rw, 11, 2, .con 0, .srange (-100000) (100000), none⟩  /- PTP_EGRESS_LAT (R515) -/,
  ⟨0x0019, 4, .i32, .rw, 11, 2, .con 0, .srange (-1000000) (1000000), none⟩  /- PTP_ASYM (R515) -/,
  ⟨0x001A, 1, .u8, .ro, 255, 2, .con 0, .any, none⟩  /- PTP_PORT_STATE (R515) -/,
  ⟨0x001B, 1, .u64, .ro, 255, 2, .con 0, .any, none⟩  /- PTP_GM (R515) -/]

/-- Objects of area 0x10, part 1. -/
def rows10_1 : List ObjRow := [
  ⟨0x001C, 1, .i64, .ro, 255, 2, .con 0, .any, none⟩  /- PTP_PATH_DELAY (R515) -/,
  ⟨0x0020, 48, .i16, .rw, 11, 2, .con 0, .any, none⟩  /- CH_ASYM (R515) -/,
  ⟨0x0021, 384, .i16, .rw, 11, 2, .con 0, .any, none⟩  /- HOP_ASYM (R515) -/,
  ⟨0x0022, 192, .u32, .ro, 255, 2, .con 0xFFFFFFFF, .any, none⟩  /- HOP_DELAY (R515) -/,
  ⟨0x0023, 1, .u16, .rw, 11, 2, .con 64, .range 8 10000, none⟩  /- ECHO_PERIOD (R515) -/,
  ⟨0x0024, 1, .u32, .ro, 255, 2, .con 0, .any, none⟩  /- ECHO_REJECTS (R515) -/,
  ⟨0x0028, 1, .i16, .rw, 11, 2, .con 0, .any, none⟩  /- PEER_ASYM (R515) -/,
  ⟨0x0029, 1, .i32, .ro, 255, 2, .con 0, .any, none⟩  /- PEER_OFFSET (R515) -/,
  ⟨0x0030, 1, .u8, .act, 255, 2, .con 0, .any, none⟩  /- TIMED_ACTION (R515) -/,
  ⟨0x0031, 32, .blob, .ro, 255, 2, .con 0, .any, none⟩  /- TIMED_SLOT (R515) -/,
  ⟨0x0032, 1, .u8, .act, 255, 2, .con 0, .any, none⟩  /- TIMED_CANCEL (R515) -/]

/-- Objects of area 0x10. -/
def rows10 : List ObjRow := rows10_0 ++ rows10_1

/-- Objects of area 0x12. -/
def rows12 : List ObjRow := [
  ⟨0x0000, 1, .u64, .ro, 255, 2, .con 0, .any, none⟩  /- CAL_UTC (R518) -/,
  ⟨0x0001, 1, .u32, .ro, 255, 2, .con 0, .any, none⟩  /- CAL_STATUS (R518) -/,
  ⟨0x0002, 1, .u8, .act, 255, 2, .con 0, .any, none⟩  /- CAL_SET (R518) -/,
  ⟨0x0003, 1, .i16, .rw, 11, 2, .con 0, .srange (-2000) (2000), none⟩  /- CAL_TRIM (R518) -/,
  ⟨0x0004, 1, .bool, .rw, 11, 2, .con 1, .any, none⟩  /- CAL_AUTO (R518) -/,
  ⟨0x0005, 8, .u64, .ro, 255, 2, .con 0, .any, none⟩  /- CAL_TAMPER (R518) -/,
  ⟨0x0006, 1, .u8, .act, 255, 2, .con 0, .any, none⟩  /- CAL_TAMPER_CLEAR (R518) -/]

/-- Objects of area 0x18. -/
def rows18 : List ObjRow := [
  ⟨0x0000, 1, .u8, .ro, 255, 2, .con 0, .any, none⟩  /- ROLE (R483) -/,
  ⟨0x0001, 1, .u32, .ro, 255, 2, .con 0, .any, none⟩  /- PAIR_STATUS (R483) -/,
  ⟨0x0002, 1, .u16, .ro, 255, 2, .con 0, .any, none⟩  /- EPOCH (R483) -/,
  ⟨0x0003, 1, .u64, .ro, 255, 2, .con 0, .any, none⟩  /- PEER_SERIAL (R483) -/,
  ⟨0x0004, 1, .u32, .ro, 255, 2, .con 0, .any, none⟩  /- PEER_WORD (R483) -/,
  ⟨0x0005, 1, .u32, .ro, 255, 2, .con 0, .any, none⟩  /- CLEAN_RUN (R483) -/,
  ⟨0x0006, 1, .u32, .ro, 255, 2, .con 0, .any, none⟩  /- INCOMPLETE_FRAMES (R483) -/,
  ⟨0x0007, 1, .u32, .ro, 255, 2, .con 0, .any, none⟩  /- DIVERGENCES (R483) -/,
  ⟨0x0008, 1, .u16, .ro, 255, 2, .con 0, .any, none⟩  /- TAKEOVERS (R483) -/,
  ⟨0x0009, 1, .u64, .ro, 255, 2, .con 0, .any, none⟩  /- LAST_TAKEOVER (R483) -/,
  ⟨0x000A, 1, .u32, .w1c, 255, 2, .con 0, .any, some 0x3F⟩  /- PAIR_TROUBLE (R483) -/,
  ⟨0x000B, 1, .u8, .act, 255, 2, .con 0, .any, none⟩  /- PAIR_HANDOVER (R483) -/,
  ⟨0x000C, 1, .u8, .act, 255, 2, .con 0, .any, none⟩  /- PAIR_REJOIN (R483) -/]

/-- Objects of area 0x20, part 0. -/
def rows20_0 : List ObjRow := [
  ⟨0x0000, 28, .u8, .rws, 1, 2, .con 0, .range 0 2, none⟩  /- LANE_MODE (R167) -/,
  ⟨0x0001, 28, .u16, .rw, 1, 2, .con 600, .step 300 1000 50, none⟩  /- TX_SWING (R167) -/,
  ⟨0x0002, 28, .u8, .rw, 1, 2, .con 0, .range 0 15, none⟩  /- TX_PRE (R167) -/,
  ⟨0x0003, 28, .u8, .rw, 1, 2, .con 4, .range 0 24, none⟩  /- TX_POST (R167) -/,
  ⟨0x0004, 28, .u8, .rws, 1, 2, .con 0, .any, some 0x3⟩  /- POLARITY (R167) -/,
  ⟨0x0005, 28, .u8, .rws, 1, 2, .con 0, .range 0 2, none⟩  /- RX_ADAPT (R167) -/,
  ⟨0x0006, 28, .u8, .rws, 1, 2, .con 8, .range 0 15, none⟩  /- RX_CTLE (R167) -/,
  ⟨0x0007, 28, .u8, .ro, 255, 2, .con 0, .any, none⟩  /- LANE_STATE (R167) -/,
  ⟨0x0008, 28, .u32, .ro, 255, 2, .con 0, .any, none⟩  /- LANE_STATUS (R167) -/,
  ⟨0x0009, 28, .u32, .w1c, 255, 2, .con 0, .any, some 0x1F⟩  /- LANE_TROUBLE (R167) -/,
  ⟨0x000A, 28, .u32, .ro, 255, 2, .con 0, .any, none⟩  /- ERR_BLOCKS (R167) -/,
  ⟨0x000B, 28, .u16, .ro, 255, 2, .con 0, .any, none⟩  /- LOCK_LOSSES (R167) -/,
  ⟨0x000C, 28, .u64, .ro, 255, 2, .con 0, .any, none⟩  /- RX_EQ (R167) -/,
  ⟨0x000D, 28, .u16, .ro, 255, 2, .con 0, .any, none⟩  /- EYE_MARGIN (R167) -/,
  ⟨0x000E, 28, .u16, .ro, 255, 2, .con 0, .any, none⟩  /- LAT_TX (R167) -/,
  ⟨0x000F, 28, .u16, .ro, 255, 2, .con 0, .any, none⟩  /- LAT_RX (R167) -/,
  ⟨0x0010, 1, .u8, .act, 255, 2, .con 0, .any, none⟩  /- LANE_STOP (R167) -/,
  ⟨0x0011, 1, .u8, .act, 255, 2, .con 0, .any, none⟩  /- LANE_START (R167) -/,
  ⟨0x0020, 26, .u32, .ro, 255, 2, .con 0, .any, none⟩  /- FRAME_ERR (R213) -/,
  ⟨0x0021, 24, .i32, .ro, 255, 2, .con 0, .any, none⟩  /- UP_SLACK (R213) -/,
  ⟨0x0022, 24, .u8, .ro, 255, 2, .con 0, .any, none⟩  /- RELAYING (R213) -/,
  ⟨0x0040, 2, .u32, .rw, 0, 2, .lin 0xC0A80A0A 1, .any, none⟩  /- IP_ADDR (R87) -/,
  ⟨0x0041, 2, .u32, .rw, 0, 2, .con 0xffffff00, .any, none⟩  /- IP_MASK (R87) -/,
  ⟨0x0042, 2, .u32, .rw, 0, 2, .con 0, .any, none⟩  /- IP_GW (R87) -/]

/-- Objects of area 0x20, part 1. -/
def rows20_1 : List ObjRow := [
  ⟨0x0050, 2, .u16, .rws, 0, 2, .dapcId, .range 0 2044, none⟩  /- DAPC_ID (R88) -/,
  ⟨0x0051, 2, .u8, .rws, 0, 2, .con 0, .range 0 2, none⟩  /- DAPC_RATE (R88) -/]

/-- Objects of area 0x20. -/
def rows20 : List ObjRow := rows20_0 ++ rows20_1

/-- Objects of area 0x22. -/
def rows22 : List ObjRow := [
  ⟨0x0000, 192, .u8, .rws, 5, 2, .con 3, .range 0 3, none⟩  /- CELL_PHASE (R33) -/,
  ⟨0x0001, 24, .u8, .rws, 1, 2, .con 0, .range 0 8, none⟩  /- CHAIN_LEN (R33) -/,
  ⟨0x0002, 1, .u8, .rws, 5, 2, .con 0, .range 0 1, none⟩  /- CONNECTION (R33) -/,
  ⟨0x0003, 1, .u32, .rws, 5, 2, .con 13800, .range 6600 34500, none⟩  /- VLL_NOM (R33) -/,
  ⟨0x0004, 1, .u16, .rw, 5, 2, .con 1100, .range 900 1200, none⟩  /- VDC_NOM (R33) -/,
  ⟨0x0005, 1, .u16, .rw, 5, 2, .con 800, .range 700 1000, none⟩  /- VLV_NOM (R33) -/,
  ⟨0x0006, 3, .u8, .ro, 255, 2, .con 0, .any, none⟩  /- NMIN (R33) -/,
  ⟨0x0007, 3, .u8, .ro, 255, 2, .con 0, .any, none⟩  /- NCELL (R33) -/,
  ⟨0x0008, 192, .u16, .rw, 6, 2, .con 0, .orVal 300 900 0, none⟩  /- PACK_VNOM (R33) -/,
  ⟨0x0009, 192, .u16, .rw, 6, 2, .con 0, .range 0 600, none⟩  /- PORT_IRATED (R33) -/,
  ⟨0x000A, 1, .u32, .rws, 2, 2, .con 50000, .range 20000 100000, none⟩  /- TAB_FSW (R33) -/,
  ⟨0x000B, 192, .u64, .ro, 255, 2, .con 0, .any, none⟩  /- TERM_ID (R33) -/,
  ⟨0x000C, 192, .u64, .ro, 255, 2, .con 0, .any, none⟩  /- PACK_ID (R33) -/,
  ⟨0x0010, 192, .u8, .ro, 255, 2, .con 0, .any, none⟩  /- CELL_STATE (R140) -/,
  ⟨0x0011, 192, .u8, .ro, 255, 2, .con 0, .any, none⟩  /- CELL_CAUSE (R140) -/,
  ⟨0x0012, 1, .u8, .act, 255, 2, .con 0, .any, none⟩  /- CELL_REQ (R140) -/,
  ⟨0x0013, 1, .u16, .rw, 5, 2, .con 64, .range 16 10000, none⟩  /- JOIN_FRAMES (R140) -/,
  ⟨0x0014, 1, .bool, .rw, 5, 2, .con 1, .any, none⟩  /- AUTO_ACTIVE (R140) -/,
  ⟨0x0020, 192, .u16, .ro, 255, 2, .con 0, .any, none⟩  /- TERM_IFVER (R213) -/,
  ⟨0x0021, 192, .u8, .ro, 255, 2, .con 0, .any, none⟩  /- DISAGREE_RUN (R213) -/,
  ⟨0x0022, 192, .u32, .ro, 255, 2, .con 0, .any, none⟩  /- COPY_MISMATCHES (R213) -/,
  ⟨0x0023, 1, .u32, .ro, 255, 2, .con 0, .any, none⟩  /- DIGEST_LATE (R213) -/]

/-- Objects of area 0x28. -/
def rows28 : List ObjRow := [
  ⟨0x0000, 1, .u32, .rws, 2, 2, .con 10000, .step 5000 50000 1250, none⟩  /- FRAME_PERIOD (R51) -/,
  ⟨0x0001, 1, .u32, .rw, 2, 2, .con 2400, .range 1000 4294967295, none⟩  /- DEADLINE (R51) -/,
  ⟨0x0002, 1, .u32, .rw, 2, 2, .con 0, .any, none⟩  /- SAMPLE_OFFSET (R51) -/,
  ⟨0x0003, 1, .u32, .rw, 2, 2, .con 2000, .any, none⟩  /- TX_MARGIN (R51) -/,
  ⟨0x0004, 1, .u32, .ro, 255, 2, .con 0, .any, none⟩  /- CORE_BUDGET (R51) -/,
  ⟨0x0005, 1, .u16, .ro, 255, 2, .con 0, .any, none⟩  /- DISP_FRAMES (R51) -/,
  ⟨0x0010, 1, .u16, .rw, 2, 2, .con 20, .range 2 1000, none⟩  /- H_CARR_FRAMES (R222) -/,
  ⟨0x0011, 1, .u16, .rw, 2, 2, .con 2400, .range 800 4095, none⟩  /- DT_H (R222) -/,
  ⟨0x0012, 3, .u16, .rw, 2, 2, .con 1600, .range 400 4095, none⟩  /- DT_TAB (R222) -/,
  ⟨0x0013, 1, .u16, .rw, 2, 2, .con 4000, .range 0 40000, none⟩  /- H_PULSE_MIN (R222) -/,
  ⟨0x0014, 1, .u8, .rws, 2, 2, .con 8, .range 1 64, none⟩  /- TAB_INTERLEAVE (R222) -/,
  ⟨0x0015, 1, .q31, .rw, 2, 2, .con 0x40000000, .srange (214748365) (1073741824), none⟩  /- PHI_MAX (R222) -/,
  ⟨0x0016, 1, .u8, .act, 255, 2, .con 0, .any, none⟩  /- CELL_EN_TOGGLE (R222) -/,
  ⟨0x0017, 1, .u32, .ro, 255, 2, .con 0, .any, none⟩  /- PULSE_MOVES (R222) -/]

/-- Objects of area 0x2A. -/
def rows2A : List ObjRow := [
  ⟨0x0000, 12, .bool, .rw, 3, 2, .con 0, .any, none⟩  /- LEG_EN (R242) -/,
  ⟨0x0001, 12, .u8, .rws, 3, 2, .con 0, .any, some 0xf⟩  /- LEG_MODE (R242) -/,
  ⟨0x0002, 12, .u32, .rw, 3, 2, .con 0x61a80, .range 8000 80000000, none⟩  /- PER (R242) -/,
  ⟨0x0003, 12, .u32, .rws, 3, 2, .con 0, .any, none⟩  /- PHASE (R242) -/,
  ⟨0x0004, 24, .u32, .rw, 3, 2, .con 0, .any, none⟩  /- CMP (R242) -/,
  ⟨0x0005, 12, .u16, .rw, 3, 2, .con 1600, .range 400 8000, none⟩  /- DT (R242) -/,
  ⟨0x0006, 24, .u32, .rw, 3, 2, .con 0xffffffff, .any, none⟩  /- TC (R242) -/,
  ⟨0x0007, 24, .pointref, .rw, 3, 2, .con 0x80000000, .any, none⟩  /- SRC (R242) -/,
  ⟨0x0008, 12, .u8, .rws, 3, 2, .con 0, .range 0 3, none⟩  /- HUB_GROUP (R242) -/,
  ⟨0x0009, 12, .u32, .w1c, 255, 2, .con 0, .any, some 0xF⟩  /- LEG_TROUBLE (R242) -/,
  ⟨0x000A, 12, .u64, .ro, 255, 2, .con 0, .any, none⟩  /- HUB_PERIOD (R242) -/,
  ⟨0x0020, 4, .u8, .rw, 3, 2, .con 0, .range 0 1, none⟩  /- HALT_MODE (R242) -/,
  ⟨0x0021, 1, .u32, .rw, 3, 2, .con 0, .any, none⟩  /- FREEZE_CONFIRM (R242) -/,
  ⟨0x0022, 1, .u32, .rw, 3, 2, .con 0, .any, some 0xffffff⟩  /- SAFE_LEVELS (R242) -/,
  ⟨0x0023, 32, .u32, .rw, 3, 2, .con 0, .any, some 0xffffff⟩  /- MASK_PAT (R242) -/,
  ⟨0x0024, 4, .u8, .rw, 3, 2, .con 0, .range 0 2, none⟩  /- MASK_SRC (R242) -/,
  ⟨0x0025, 64, .u8, .rw, 3, 2, .con 0, .range 0 7, none⟩  /- MASK_LUT (R242) -/,
  ⟨0x0026, 32, .u8, .rw, 3, 2, .con 255, .any, none⟩  /- MASK_EVT (R242) -/,
  ⟨0x0027, 4, .u8, .ro, 255, 2, .con 0, .any, none⟩  /- MASK_ACTIVE (R242) -/,
  ⟨0x0030, 1, .u32, .rws, 3, 2, .con 8000, .step 4000 80000 100, none⟩  /- FAST_TICK (R242) -/,
  ⟨0x0031, 1, .u32, .rws, 3, 2, .con 1600, .step 1600 80000 100, none⟩  /- TICK_LEAD (R242) -/,
  ⟨0x0032, 1, .u32, .ro, 255, 2, .con 0, .any, none⟩  /- PAIR_SPLITS (R242) -/]

/-- Objects of area 0x30. -/
def rows30 : List ObjRow := [
  ⟨0x0000, 512, .u32, .rw, 4, 2, .con 0, .any, some 0x7f7fff⟩  /- SLOT_CFG (R271) -/,
  ⟨0x0001, 512, .u16, .rw, 4, 2, .con 0, .range 0 4095, none⟩  /- SEC_BASE (R271) -/,
  ⟨0x0002, 512, .u16, .rw, 4, 2, .con 1, .any, none⟩  /- BR_LEN (R271) -/,
  ⟨0x0003, 2048, .pointref, .rw, 4, 2, .con 0x80000000, .any, none⟩  /- IN_PT (R271) -/,
  ⟨0x0004, 2048, .q230, .rw, 4, 2, .con 0, .any, none⟩  /- IN_W (R271) -/,
  ⟨0x0005, 512, .q31, .rw, 4, 2, .con 0x7fffffff, .any, none⟩  /- OUT_MAX (R271) -/,
  ⟨0x0006, 512, .q31, .rw, 4, 2, .con 0x80000000, .any, none⟩  /- OUT_MIN (R271) -/,
  ⟨0x0007, 512, .pointref, .rw, 4, 2, .con 0x80000000, .any, none⟩  /- LIM_PT (R271) -/,
  ⟨0x0008, 512, .pointref, .rw, 4, 2, .con 0x80000000, .any, none⟩  /- RUN_PT (R271) -/,
  ⟨0x0009, 512, .q31, .rw, 4, 2, .con 0, .any, none⟩  /- INIT (R271) -/,
  ⟨0x000A, 512, .q31, .rw, 4, 2, .con 0x7fffffff, .any, none⟩  /- THRESH (R271) -/,
  ⟨0x0010, 20480, .q230, .rw, 4, 2, .con 0, .any, none⟩  /- SEC_COEF (R271) -/,
  ⟨0x0011, 4096, .u8, .rw, 4, 2, .con 0, .any, some 0xf⟩  /- SEC_CTL (R271) -/,
  ⟨0x0020, 64, .q31, .rw, 4, 1, .con 0, .any, none⟩  /- SETPT (R271) -/,
  ⟨0x0030, 10, .u16, .ro, 255, 2, .con 0, .any, none⟩  /- LANE_CYCLES (R271) -/,
  ⟨0x0031, 1, .u32, .ro, 255, 2, .con 0, .any, none⟩  /- CORE_TIME (R271) -/,
  ⟨0x0032, 1, .u8, .rw, 4, 2, .con 1, .range 0 3, none⟩  /- OVR_TOLERANCE (R271) -/,
  ⟨0x0033, 1, .u32, .ro, 255, 2, .con 0, .any, none⟩  /- OVERRUNS (R271) -/,
  ⟨0x0034, 1, .u32, .ro, 255, 2, .con 0, .any, none⟩  /- FAST_LATE (R271) -/,
  ⟨0x0035, 1, .u8, .act, 255, 2, .con 0, .any, none⟩  /- SLOT_RESET (R271) -/,
  ⟨0x0040, 16, .u32, .rw, 4, 2, .con 0, .any, some 0x7fffff⟩  /- TAP_SEL (R271) -/]

/-- Objects of area 0x34, part 0. -/
def rows34_0 : List ObjRow := [
  ⟨0x0000, 2, .pointref, .rw, 5, 2, .con 0x80000000, .any, none⟩  /- GRID_V_PT (R300) -/,
  ⟨0x0001, 2, .pointref, .rw, 5, 2, .con 0x80000000, .any, none⟩  /- CONV_V_PT (R300) -/,
  ⟨0x0002, 1, .u32, .rw, 5, 2, .con 32000, .range 1000 100000, none⟩  /- GRID_VFS (R300) -/,
  ⟨0x0003, 1, .u32, .rw, 5, 2, .con 2000, .range 100 20000, none⟩  /- GRID_IFS (R300) -/,
  ⟨0x0004, 1, .u8, .rws, 5, 2, .con 50, .oneOf [50, 60], none⟩  /- GRID_FNOM (R300) -/,
  ⟨0x0005, 1, .u16, .rw, 5, 2, .con 178, .range 10 2000, none⟩  /- PLL_KP (R300) -/,
  ⟨0x0006, 1, .u32, .rw, 5, 2, .con 15791, .range 10 1000000, none⟩  /- PLL_KI (R300) -/,
  ⟨0x0007, 1, .u16, .rw, 5, 2, .con 100, .range 10 1000, none⟩  /- PLL_LOCK_TOL (R300) -/,
  ⟨0x0008, 3, .pointref, .rw, 5, 2, .con 0x80000000, .any, none⟩  /- VREF_PT (R300) -/,
  ⟨0x0009, 1, .u32, .rw, 5, 2, .con 10000, .range 1000 40000, none⟩  /- S_RATED (R300) -/,
  ⟨0x000A, 1, .pointref, .rw, 5, 2, .con 0x80000000, .any, none⟩  /- P_DEM_PT (R300) -/,
  ⟨0x000B, 1, .pointref, .rw, 5, 2, .con 0x80000000, .any, none⟩  /- Q_REF_PT (R300) -/,
  ⟨0x000C, 1, .q31, .rw, 5, 2, .con 0, .any, none⟩  /- Q_REF (R300) -/,
  ⟨0x000D, 1, .q31, .rw, 5, 2, .con 0x7fffffff, .any, none⟩  /- P_GRID_MAX (R300) -/,
  ⟨0x000E, 1, .q31, .rw, 5, 2, .con 0x60000000, .any, none⟩  /- I_MAX (R300) -/,
  ⟨0x000F, 1, .u8, .rw, 5, 2, .con 0, .range 0 1, none⟩  /- I_PRIORITY (R300) -/,
  ⟨0x0010, 1, .bool, .rw, 5, 2, .con 1, .any, none⟩  /- GRID_FF (R300) -/,
  ⟨0x0011, 1, .q230, .rw, 5, 2, .con 0x4000000, .range 0 536870912, none⟩  /- BAL_KH (R300) -/,
  ⟨0x0012, 1, .u32, .rw, 5, 2, .con 10000, .orVal 100 10000000 0, none⟩  /- ROT_FRAMES (R300) -/,
  ⟨0x0013, 1, .bool, .rw, 5, 2, .con 1, .any, none⟩  /- CARR_STAGGER (R300) -/,
  ⟨0x0014, 1, .u32, .rw, 5, 2, .con 1100, .range 0 100000, none⟩  /- LINK_KP (R300) -/,
  ⟨0x0015, 1, .u32, .rw, 5, 2, .con 0x186a0, .range 0 10000000, none⟩  /- LINK_KI (R300) -/,
  ⟨0x0016, 1, .q31, .rw, 5, 2, .con 0x6666666, .any, none⟩  /- LINK_IMAX (R300) -/,
  ⟨0x0017, 1, .q31, .rw, 5, 2, .con 0x33333333, .any, none⟩  /- PS_MAX (R300) -/]

/-- Objects of area 0x34, part 1. -/
def rows34_1 : List ObjRow := [
  ⟨0x0018, 3, .u32, .rw, 5, 2, .con 8000, .range 500 200000, none⟩  /- TAB_L (R300) -/,
  ⟨0x0019, 2, .u16, .rw, 5, 2, .list [1375, 1700], .range 250 8000, none⟩  /- TAB_N (R300) -/,
  ⟨0x001A, 1, .q31, .rw, 5, 2, .con 0x83126f, .any, none⟩  /- PHI_SLEW (R300) -/,
  ⟨0x001B, 192, .u16, .rw, 5, 2, .con 65535, .any, none⟩  /- BTRIM_SLOT (R300) -/]

/-- Objects of area 0x34. -/
def rows34 : List ObjRow := rows34_0 ++ rows34_1

/-- Objects of area 0x38, part 0. -/
def rows38_0 : List ObjRow := [
  ⟨0x0000, 192, .u32, .rw, 6, 2, .con 0, .any, none⟩  /- LESSOR_ID (R305) -/,
  ⟨0x0001, 192, .u64, .rw, 6, 2, .con 0, .any, none⟩  /- CONTRACT_PACK (R305) -/,
  ⟨0x0002, 192, .u32, .rw, 6, 2, .con 0, .any, none⟩  /- BUDGET_WH (R305) -/,
  ⟨0x0003, 192, .u16, .rw, 6, 2, .con 50, .range 5 1000, none⟩  /- C_RATE (R305) -/,
  ⟨0x0004, 192, .u16, .rw, 6, 2, .con 0, .any, none⟩  /- CAP_AH (R305) -/,
  ⟨0x0005, 192, .u16, .rw, 6, 2, .con 1000, .range 0 10000, none⟩  /- SOC_MIN (R305) -/,
  ⟨0x0006, 192, .u16, .rw, 6, 2, .con 9000, .range 0 10000, none⟩  /- SOC_MAX (R305) -/,
  ⟨0x0007, 192, .i16, .rw, 6, 2, .con 65436, .srange (-400) (800), none⟩  /- T_MIN (R305) -/,
  ⟨0x0008, 192, .i16, .rw, 6, 2, .con 450, .srange (-400) (800), none⟩  /- T_MAX (R305) -/,
  ⟨0x0009, 192, .bool, .rw, 6, 2, .con 0, .any, none⟩  /- EMERG_OK (R305) -/,
  ⟨0x000A, 192, .u16, .rw, 6, 2, .con 500, .range 0 10000, none⟩  /- EMERG_SOC_MIN (R305) -/,
  ⟨0x000B, 192, .u16, .rw, 6, 2, .con 41500, .any, none⟩  /- VCELL_FULL (R305) -/,
  ⟨0x000C, 192, .u16, .rw, 6, 2, .con 30000, .any, none⟩  /- VCELL_EMPTY (R305) -/,
  ⟨0x000D, 192, .q230, .rw, 6, 2, .con 0x40000000, .range 1052266988 1095216660, none⟩  /- CAL_GAIN (R335) -/,
  ⟨0x000E, 192, .q31, .rw, 6, 2, .con 0, .srange (-214748) (214748), none⟩  /- CAL_OFS (R335) -/,
  ⟨0x0020, 1, .pointref, .rw, 6, 2, .con 0x80000000, .any, none⟩  /- DISP_REQ_PT (R335) -/,
  ⟨0x0021, 1, .q31, .rw, 6, 2, .con 0, .any, none⟩  /- DISP_REQ (R335) -/,
  ⟨0x0022, 1, .q31, .rw, 6, 2, .con 0xccccccd, .srange (21474837) (2147483647), none⟩  /- BUDGET_KNEE (R335) -/,
  ⟨0x0023, 1, .u16, .rw, 6, 2, .con 50, .range 10 200, none⟩  /- TEMP_MARGIN (R335) -/,
  ⟨0x0024, 1, .u16, .rw, 6, 2, .con 0, .range 0 1439, none⟩  /- BUDGET_DAY_START (R335) -/,
  ⟨0x0025, 1, .u8, .act, 255, 2, .con 0, .any, none⟩  /- DISP_EMERG (R335) -/,
  ⟨0x0026, 1, .bool, .ro, 255, 2, .con 0, .any, none⟩  /- EMERG_ACTIVE (R335) -/,
  ⟨0x0027, 1, .u8, .act, 255, 2, .con 0, .any, none⟩  /- SOC_SET (R335) -/,
  ⟨0x0030, 1, .u8, .rw, 6, 2, .con 15, .oneOf [5, 10, 15, 30, 60], none⟩  /- METER_INTERVAL (R335) -/]

/-- Objects of area 0x38, part 1. -/
def rows38_1 : List ObjRow := [
  ⟨0x0031, 1, .u8, .rw, 6, 2, .con 4, .range 1 12, none⟩  /- METER_STORE_N (R335) -/,
  ⟨0x0032, 1, .u32, .rw, 6, 2, .con 0, .range 0 10000, none⟩  /- EST_TOL (R335) -/,
  ⟨0x0033, 1, .u8, .act, 255, 2, .con 0, .any, none⟩  /- METER_CLOSE (R335) -/,
  ⟨0x0034, 1, .u8, .act, 255, 2, .con 0, .any, none⟩  /- METER_READ (R335) -/,
  ⟨0x0035, 1, .u8, .act, 255, 2, .con 0, .any, none⟩  /- METER_ACK (R335) -/,
  ⟨0x0036, 192, .u16, .ro, 255, 2, .con 0, .any, none⟩  /- METER_UNACKED (R335) -/,
  ⟨0x0037, 192, .u64, .ro, 255, 2, .con 0, .any, none⟩  /- IMPORT_MWH (R335) -/,
  ⟨0x0038, 192, .u64, .ro, 255, 2, .con 0, .any, none⟩  /- EXPORT_MWH (R335) -/,
  ⟨0x0039, 1, .u32, .ro, 255, 2, .con 0, .any, none⟩  /- METER_LOST (R335) -/]

/-- Objects of area 0x38. -/
def rows38 : List ObjRow := rows38_0 ++ rows38_1

/-- Objects of area 0x3C. -/
def rows3C : List ObjRow := [
  ⟨0x0000, 8, .u32, .rw, 7, 2, .list [100, 300, 1000, 3000, 10000, 30000, 100000, 500000], .orVal 100 500000 0, none⟩  /- ASSAY_FREQ (R358) -/,
  ⟨0x0001, 8, .u8, .rw, 7, 2, .con 16, .any, none⟩  /- BIN_WEIGHT (R358) -/,
  ⟨0x0002, 1, .q31, .rw, 7, 2, .con 0x1eb851f, .srange (2147484) (40802189), none⟩  /- EXC_LEVEL (R358) -/,
  ⟨0x0003, 1, .u16, .rw, 7, 2, .con 60, .range 10 3600, none⟩  /- ASSAY_WINDOW (R358) -/,
  ⟨0x0004, 1, .u8, .rw, 7, 2, .con 4, .range 2 64, none⟩  /- MIN_CYCLES (R358) -/,
  ⟨0x0005, 1, .q31, .rw, 7, 2, .con 0x7999999a, .srange (1073741824) (2147483647), none⟩  /- COVER_MIN (R358) -/,
  ⟨0x0006, 1, .q31, .rw, 7, 2, .con 0x418937, .srange (1073742) (21474836), none⟩  /- I_FLOOR (R358) -/,
  ⟨0x0007, 1, .q31, .rw, 7, 2, .con 0x6666666, .srange (2147484) (1073741824), none⟩  /- RESID_MAX (R358) -/,
  ⟨0x0008, 1, .i16, .rw, 7, 2, .con 64336, .srange (-3000) (0), none⟩  /- RTC (R358) -/,
  ⟨0x0010, 192, .u16, .rw, 7, 2, .con 0, .orVal 100 2000 0, none⟩  /- STREAM_RATE (R358) -/,
  ⟨0x0011, 192, .u16, .rw, 7, 2, .con 0, .range 0 5000, none⟩  /- BMS_DELAY (R358) -/,
  ⟨0x0012, 192, .u8, .rw, 7, 2, .con 1, .range 1 8, none⟩  /- ASSAY_PAR (R358) -/,
  ⟨0x0013, 192, .u32, .rw, 7, 2, .con 0, .orVal 10 65535 0, none⟩  /- R_NEW (R358) -/,
  ⟨0x0020, 1, .u32, .ro, 255, 2, .con 0, .any, none⟩  /- LATE_SAMPLES (R358) -/,
  ⟨0x0021, 1, .u32, .ro, 255, 2, .con 0, .any, none⟩  /- EXC_EXCLUDED (R358) -/,
  ⟨0x0022, 1, .u32, .ro, 255, 2, .con 0, .any, none⟩  /- WINDOWS_PUBLISHED (R358) -/]

/-- Objects of area 0x40. -/
def rows40 : List ObjRow := [
  ⟨0x0000, 16, .u32, .rw, 8, 2, .con 0, .any, some 0x7ffff⟩  /- SEQ_CFG (R384) -/,
  ⟨0x0001, 128, .u32, .rw, 8, 2, .con 0, .any, some 0x3ff⟩  /- ENTRY (R384) -/,
  ⟨0x0002, 2, .u8, .rws, 8, 2, .con 0, .range 0 2, none⟩  /- PAIR_MODE (R384) -/,
  ⟨0x0003, 2, .q31, .rw, 8, 2, .con 0xa3d70a, .srange (1073742) (214748364), none⟩  /- CHECK_TOL (R384) -/,
  ⟨0x0004, 2, .u8, .rw, 8, 2, .con 3, .range 1 255, none⟩  /- CHECK_COUNT (R384) -/,
  ⟨0x0005, 128, .q230, .rw, 8, 2, .con 0x40000000, .range 536870912 1610612736, none⟩  /- CH_GAIN (R384) -/,
  ⟨0x0006, 128, .q31, .rw, 8, 2, .con 0, .srange (-134217728) (134217728), none⟩  /- CH_OFS (R384) -/,
  ⟨0x0007, 4, .u8, .rw, 8, 2, .con 0, .range 0 2, none⟩  /- SLICE_CAL (R384) -/,
  ⟨0x0008, 32, .i16, .rw, 8, 2, .con 0, .any, none⟩  /- SLICE_OFS (R384) -/,
  ⟨0x0009, 32, .q230, .rw, 8, 2, .con 0x40000000, .range 1052266988 1095216660, none⟩  /- SLICE_GAIN (R384) -/,
  ⟨0x000A, 32, .i8, .rw, 8, 2, .con 0, .srange (-127) (127), none⟩  /- SLICE_SKEW (R384) -/,
  ⟨0x000B, 32, .u64, .ro, 255, 2, .con 0, .any, none⟩  /- SLICE_LIVE (R384) -/,
  ⟨0x0010, 24, .u8, .rw, 8, 2, .con 2, .range 0 7, none⟩  /- SD_FILT (R384) -/,
  ⟨0x0011, 24, .q230, .rw, 8, 2, .con 0x40000000, .range 536870912 1610612736, none⟩  /- SDX_GAIN (R384) -/,
  ⟨0x0012, 24, .q31, .rw, 8, 2, .con 0, .srange (-134217728) (134217728), none⟩  /- SDX_OFS (R384) -/,
  ⟨0x0013, 8, .u8, .rws, 8, 2, .con 3, .any, some 0x1f⟩  /- XB_CLK (R384) -/,
  ⟨0x0014, 8, .u8, .rw, 8, 2, .con 0, .range 0 63, none⟩  /- XB_DELAY (R384) -/,
  ⟨0x0020, 4, .u32, .ro, 255, 2, .con 0, .any, none⟩  /- CONV_STATUS (R384) -/,
  ⟨0x0021, 5, .u32, .w1c, 255, 2, .con 0, .any, some 0x1F⟩  /- CONV_TROUBLE (R384) -/,
  ⟨0x0022, 4, .u32, .ro, 255, 2, .con 0, .any, none⟩  /- DROPPED (R384) -/,
  ⟨0x0023, 4, .u32, .ro, 255, 2, .con 0, .any, none⟩  /- INVALID_CNT (R384) -/,
  ⟨0x0024, 1, .u8, .act, 255, 2, .con 0, .any, none⟩  /- CONV_TRIGGER (R384) -/]

/-- Objects of area 0x44. -/
def rows44 : List ObjRow := [
  ⟨0x0000, 12, .u16, .rw, 9, 2, .con 1000, .range 100 10000, none⟩  /- BLANK_HUB (R408) -/,
  ⟨0x0001, 12, .u16, .rw, 9, 2, .con 40, .range 20 500, none⟩  /- GATE_DT_MIN (R408) -/,
  ⟨0x0002, 12, .u32, .ro, 255, 2, .con 0, .any, none⟩  /- GATE_STATUS (R408) -/,
  ⟨0x0003, 12, .u32, .w1c, 255, 2, .con 0, .any, some 0x3F⟩  /- GATE_TROUBLE (R408) -/,
  ⟨0x0004, 12, .time96, .ro, 255, 2, .con 0, .any, none⟩  /- GATE_TRIP_TIME (R408) -/,
  ⟨0x0005, 1, .u32, .ro, 255, 2, .con 0, .any, none⟩  /- GATE_TRIPS (R408) -/,
  ⟨0x0006, 1, .u32, .ro, 255, 2, .con 0, .any, none⟩  /- SHOOT_GUARDS (R408) -/,
  ⟨0x0010, 16, .u8, .rw, 9, 2, .con 0, .range 0 2, none⟩  /- AX_MODE (R420) -/,
  ⟨0x0011, 16, .bool, .rw, 9, 2, .con 0, .any, none⟩  /- AX_LEVEL (R420) -/,
  ⟨0x0012, 16, .pointref, .rw, 9, 2, .con 0x80000000, .any, none⟩  /- AX_SRC (R420) -/,
  ⟨0x0013, 16, .u16, .rw, 9, 2, .con 25000, .range 20 25000, none⟩  /- AX_PWM_FREQ (R420) -/,
  ⟨0x0014, 16, .bool, .rw, 9, 2, .con 0, .any, none⟩  /- AX_IDLE (R420) -/,
  ⟨0x0015, 16, .bool, .rw, 9, 2, .con 0, .any, none⟩  /- AX_SAFE (R420) -/,
  ⟨0x0016, 16, .bool, .rw, 9, 2, .con 1, .any, none⟩  /- AX_LOAD (R420) -/,
  ⟨0x0017, 16, .u16, .rw, 9, 2, .con 20, .range 10 1000, none⟩  /- AX_RMIN (R420) -/,
  ⟨0x0018, 1, .u16, .rw, 9, 2, .con 500, .range 100 1500, none⟩  /- AX_SETTLE (R420) -/,
  ⟨0x0019, 16, .u16, .rw, 9, 2, .con 10, .range 0 100, none⟩  /- AX_OC_BLANK (R420) -/,
  ⟨0x001A, 16, .u32, .ro, 255, 2, .con 0, .any, none⟩  /- AX_STATUS (R420) -/,
  ⟨0x001B, 16, .u32, .ro, 255, 2, .con 0, .any, none⟩  /- AX_PROBE (R420) -/,
  ⟨0x001C, 1, .u8, .act, 255, 2, .con 0, .any, none⟩  /- AUX_PROSPECT (R420) -/,
  ⟨0x001D, 1, .u8, .act, 255, 2, .con 0, .any, none⟩  /- AUX_CLEAR (R420) -/]

/-- Objects of area 0x48. -/
def rows48 : List ObjRow := [
  ⟨0x0000, 512, .u8, .rw, 10, 2, .reaction, .range 0 7, none⟩  /- REACTION (R448) -/,
  ⟨0x0001, 1, .u16, .rw, 10, 2, .con 10, .range 1 3600, none⟩  /- DERATE_HOLD (R448) -/,
  ⟨0x0002, 1, .u16, .rw, 10, 2, .con 60, .range 10 1440, none⟩  /- LEDGER_STORE_MIN (R448) -/,
  ⟨0x0003, 1, .u16, .ro, 255, 2, .con 0, .any, none⟩  /- QUEUE_FILL (R448) -/,
  ⟨0x0004, 8, .u32, .ro, 255, 2, .con 0, .any, none⟩  /- LOST (R448) -/,
  ⟨0x0005, 1, .blob, .ro, 255, 2, .con 0, .any, none⟩  /- FIRST_ERR (R448) -/,
  ⟨0x0006, 1, .u8, .act, 255, 2, .con 0, .any, none⟩  /- FIRST_ERR_REARM (R448) -/,
  ⟨0x0007, 1, .u8, .act, 255, 2, .con 0, .any, none⟩  /- LEDGER_READ (R448) -/,
  ⟨0x0008, 1, .u8, .act, 255, 2, .con 0, .any, none⟩  /- LEDGER_CLEAR (R448) -/,
  ⟨0x0009, 1, .u64, .ro, 255, 2, .con 0, .any, none⟩  /- LEDGER_INFO (R448) -/,
  ⟨0x000A, 1, .u8, .act, 255, 2, .con 0, .any, none⟩  /- INJECT_OPEN (R448) -/,
  ⟨0x000B, 1, .u8, .act, 255, 2, .con 0, .any, none⟩  /- INJECT_CLOSE (R448) -/,
  ⟨0x000C, 1, .u8, .act, 255, 2, .con 0, .any, none⟩  /- FORCE (R448) -/,
  ⟨0x000D, 1, .u8, .act, 255, 2, .con 0, .any, none⟩  /- FORCE_POINT (R448) -/,
  ⟨0x000E, 1, .u32, .ro, 255, 2, .con 0, .any, none⟩  /- INJECT_STATE (R448) -/,
  ⟨0x0010, 128, .u8, .rw, 10, 2, .con 0, .any, some 0x7⟩  /- EV_ROUTE (R448) -/,
  ⟨0x0011, 64, .u16, .rw, 10, 2, .con 65535, .orVal 0 511 65535, none⟩  /- EV_SLOT (R448) -/,
  ⟨0x0012, 4, .u32, .w1c, 255, 1, .con 0, .any, none⟩  /- EV_PENDING (R448) -/,
  ⟨0x0013, 128, .u16, .ro, 255, 2, .con 0, .any, none⟩  /- EV_COUNT (R448) -/,
  ⟨0x0014, 1, .u8, .act, 255, 2, .con 0, .any, none⟩  /- EV_SUBSCRIBE (R448) -/]

/-- Objects of area 0x50. -/
def rows50 : List ObjRow := [
  ⟨0x0000, 1024, .u8, .rw, 13, 2, .slotTable, .any, some 0x1f⟩  /- SLOT_TABLE (R534) -/,
  ⟨0x0001, 16, .u8, .rw, 13, 2, .list [12, 12, 12, 12, 14, 15, 13, 8, 6, 11, 4, 10, 3, 5, 5, 2], .range 0 15, none⟩  /- RANK (R534) -/,
  ⟨0x0002, 8, .u8, .rw, 13, 2, .con 16, .range 4 64, none⟩  /- STARVE_N (R534) -/,
  ⟨0x0003, 128, .u8, .ro, 255, 2, .con 0, .any, none⟩  /- SLOTS_OWNED (R534) -/,
  ⟨0x0004, 128, .u32, .ro, 255, 2, .con 0, .any, none⟩  /- GUARANTEED (R534) -/,
  ⟨0x0005, 128, .u32, .ro, 255, 2, .con 0, .any, none⟩  /- NEED (R534) -/,
  ⟨0x0006, 128, .u8, .ro, 255, 2, .con 0, .any, none⟩  /- MAX_GAP (R534) -/,
  ⟨0x0007, 8, .u32, .ro, 255, 2, .con 0, .any, none⟩  /- BANK_STATUS (R534) -/,
  ⟨0x0008, 128, .u32, .ro, 255, 2, .con 0, .any, none⟩  /- GRANTS (R534) -/,
  ⟨0x0009, 8, .u32, .ro, 255, 2, .con 0, .any, none⟩  /- RESERVE_GRANTS (R534) -/,
  ⟨0x000A, 8, .u16, .ro, 255, 2, .con 0, .any, none⟩  /- WDOG_FIRES (R534) -/]

/-- Objects of area 0x54, part 0. -/
def rows54_0 : List ObjRow := [
  ⟨0x0000, 32, .u32, .rw, 12, 2, .con 0, .any, some 0x7ffff⟩  /- WU_CFG (R561) -/,
  ⟨0x0001, 32, .u16, .rw, 12, 2, .con 0, .range 0 4095, none⟩  /- WU_BASE (R561) -/,
  ⟨0x0002, 32, .u16, .rw, 12, 2, .con 0, .range 0 4096, none⟩  /- WU_LEN (R561) -/,
  ⟨0x0003, 4096, .pointref, .rw, 12, 2, .con 0x80000000, .any, none⟩  /- WL_PT (R561) -/,
  ⟨0x0004, 4096, .u32, .rw, 12, 2, .con 0, .any, none⟩  /- WL_DBAND (R561) -/,
  ⟨0x0005, 32, .u16, .rw, 12, 2, .con 0, .range 0 511, none⟩  /- WU_RBASE (R561) -/,
  ⟨0x0006, 32, .u16, .rw, 12, 2, .con 0, .range 0 512, none⟩  /- WU_RSIZE (R561) -/,
  ⟨0x0007, 32, .pointref, .rw, 12, 2, .con 0x80000000, .any, none⟩  /- WU_TRIG_PT (R561) -/,
  ⟨0x0008, 32, .u32, .rw, 12, 2, .con 0, .any, none⟩  /- WU_LEVEL (R561) -/,
  ⟨0x0009, 32, .u32, .rw, 12, 2, .con 0, .any, none⟩  /- WU_HYST (R561) -/,
  ⟨0x000A, 32, .u8, .rw, 12, 2, .con 0, .any, none⟩  /- WU_TRIG_SEL (R561) -/,
  ⟨0x000B, 32, .u32, .rw, 12, 2, .con 1000, .any, none⟩  /- WU_PRE (R561) -/,
  ⟨0x000C, 32, .u32, .rw, 12, 2, .con 1000, .any, none⟩  /- WU_POST (R561) -/,
  ⟨0x000D, 32, .u32, .rw, 12, 2, .con 0, .any, none⟩  /- WU_HOLD_FR (R561) -/,
  ⟨0x000E, 32, .u16, .rw, 12, 2, .con 0, .any, none⟩  /- WU_HOLD_TRIG (R561) -/,
  ⟨0x000F, 32, .u16, .rw, 12, 2, .con 64, .range 1 1024, none⟩  /- IMAGE_SCANS (R561) -/,
  ⟨0x0010, 32, .u32, .ro, 255, 2, .con 0, .any, none⟩  /- WU_STATUS (R561) -/,
  ⟨0x0011, 32, .u32, .ro, 255, 2, .con 0, .any, none⟩  /- WU_MISSED (R561) -/,
  ⟨0x0012, 1, .u8, .act, 255, 2, .con 0, .any, none⟩  /- WU_ARM (R561) -/,
  ⟨0x0013, 1, .u8, .act, 255, 2, .con 0, .any, none⟩  /- WU_DISARM (R561) -/,
  ⟨0x0014, 1, .u8, .act, 255, 2, .con 0, .any, none⟩  /- WU_TRIGGER (R561) -/,
  ⟨0x0015, 1, .u8, .act, 255, 2, .con 0, .any, none⟩  /- WU_RELEASE (R561) -/,
  ⟨0x0016, 1, .u8, .act, 255, 2, .con 0, .any, none⟩  /- ACQ_EXPORT (R561) -/,
  ⟨0x0020, 1, .u32, .rw, 12, 2, .con 0, .any, none⟩  /- STREAM_IP (R561) -/]

/-- Objects of area 0x54, part 1. -/
def rows54_1 : List ObjRow := [
  ⟨0x0021, 1, .u16, .rw, 12, 2, .con 61491, .any, none⟩  /- STREAM_UDP (R561) -/,
  ⟨0x0022, 1, .u8, .rw, 12, 2, .con 0, .range 0 1, none⟩  /- STREAM_E (R561) -/,
  ⟨0x0023, 1, .u16, .rw, 12, 2, .con 100, .range 10 5000, none⟩  /- STREAM_RATE (R561) -/,
  ⟨0x0024, 1, .bool, .rw, 12, 2, .con 0, .any, none⟩  /- STREAM_METER (R561) -/]

/-- Objects of area 0x54. -/
def rows54 : List ObjRow := rows54_0 ++ rows54_1

/-- Objects of area 0x58. -/
def rows58 : List ObjRow := [
  ⟨0x0000, 1, .u16, .rw, 14, 2, .con 128, .step 64 1024 64, none⟩  /- CKPT_FRAMES (R561) -/,
  ⟨0x0001, 1, .u64, .ro, 255, 2, .con 0, .any, none⟩  /- CKPT_LAST (R561) -/,
  ⟨0x0002, 1, .u32, .ro, 255, 2, .con 0, .any, none⟩  /- JRNL_SPAN (R561) -/,
  ⟨0x0003, 1, .u32, .ro, 255, 2, .con 0, .any, none⟩  /- JOIN_SPAN (R561) -/,
  ⟨0x0004, 1, .u32, .ro, 255, 2, .con 0, .any, none⟩  /- E_MAX (R561) -/,
  ⟨0x0005, 1, .u8, .rw, 14, 2, .con 2, .orVal 0 7 255, none⟩  /- JRNL_HOLD_CLASS (R561) -/,
  ⟨0x0006, 1, .u16, .rw, 14, 2, .con 200, .any, none⟩  /- JRNL_PRE (R561) -/,
  ⟨0x0007, 1, .u16, .rw, 14, 2, .con 100, .any, none⟩  /- JRNL_POST (R561) -/,
  ⟨0x0008, 1, .blob, .ro, 255, 2, .con 0, .any, none⟩  /- HOLD_INFO (R561) -/,
  ⟨0x0009, 1, .u32, .ro, 255, 2, .con 0, .any, none⟩  /- HOLDS_MISSED (R561) -/,
  ⟨0x000A, 1, .u8, .act, 255, 2, .con 0, .any, none⟩  /- JRNL_HOLD (R561) -/,
  ⟨0x000B, 1, .u8, .act, 255, 2, .con 0, .any, none⟩  /- JRNL_RELEASE (R561) -/,
  ⟨0x000C, 1, .u8, .act, 255, 2, .con 0, .any, none⟩  /- JRNL_EXPORT (R561) -/,
  ⟨0x0010, 1, .u8, .act, 255, 2, .con 0, .any, none⟩  /- RR_START (R561) -/,
  ⟨0x0011, 1, .u8, .act, 255, 2, .con 0, .any, none⟩  /- RR_STOP (R561) -/,
  ⟨0x0012, 1, .u8, .act, 255, 2, .con 0, .any, none⟩  /- RR_IMPORT (R561) -/,
  ⟨0x0013, 256, .pointref, .rw, 12, 2, .con 0x80000000, .any, none⟩  /- RR_WATCH (R561) -/,
  ⟨0x0014, 1, .u8, .rw, 12, 2, .con 31, .range 0 31, none⟩  /- RR_UNIT (R561) -/,
  ⟨0x0015, 1, .bool, .rw, 12, 2, .con 0, .any, none⟩  /- RR_STREAM (R561) -/,
  ⟨0x0016, 1, .u32, .ro, 255, 2, .con 0, .any, none⟩  /- RR_STATUS (R561) -/,
  ⟨0x0017, 1, .u64, .ro, 255, 2, .con 0, .any, none⟩  /- RR_FIRST_DIFF (R561) -/,
  ⟨0x0018, 1, .u32, .ro, 255, 2, .con 0, .any, none⟩  /- RR_DIFFS (R561) -/]

/-- Objects of area 0x60. -/
def rows60 : List ObjRow := [
  ⟨0x0000, 1, .u32, .ro, 255, 2, .con 0, .any, none⟩  /- PLL_STATUS (R586) -/,
  ⟨0x0001, 1, .u64, .ro, 255, 2, .con 0, .any, none⟩  /- ISLAND_CLK (R586) -/,
  ⟨0x0002, 4, .u8, .rw, 8, 2, .list [4, 0, 0, 0], .any, some 0x7⟩  /- CLKOUT_CFG (R586) -/,
  ⟨0x0003, 1, .u32, .ro, 255, 2, .con 0, .any, none⟩  /- SUPPLY_STATUS (R586) -/,
  ⟨0x0004, 10, .u16, .ro, 255, 2, .con 0, .any, none⟩  /- RAIL_MV (R586) -/,
  ⟨0x0005, 1, .u8, .ro, 255, 2, .con 0, .any, none⟩  /- RESET_CAUSE (R586) -/,
  ⟨0x0006, 1, .i16, .ro, 255, 2, .con 0, .any, none⟩  /- JUNCTION_TEMP (R586) -/,
  ⟨0x0007, 1, .i16, .rw, 0, 2, .con 1050, .srange (800) (1100), none⟩  /- TJ_HOT (R586) -/,
  ⟨0x0008, 1, .u32, .ro, 255, 2, .con 0, .any, none⟩  /- PF_COUNT (R586) -/]

/-- The rows of an area (R64). -/
def areaRows (a : Nat) : List ObjRow :=
  if a = 0x01 then rows01
  else if a = 0x02 then rows02
  else if a = 0x03 then rows03
  else if a = 0x04 then rows04
  else if a = 0x08 then rows08
  else if a = 0x10 then rows10
  else if a = 0x12 then rows12
  else if a = 0x18 then rows18
  else if a = 0x20 then rows20
  else if a = 0x22 then rows22
  else if a = 0x28 then rows28
  else if a = 0x2A then rows2A
  else if a = 0x30 then rows30
  else if a = 0x34 then rows34
  else if a = 0x38 then rows38
  else if a = 0x3C then rows3C
  else if a = 0x40 then rows40
  else if a = 0x44 then rows44
  else if a = 0x48 then rows48
  else if a = 0x50 then rows50
  else if a = 0x54 then rows54
  else if a = 0x58 then rows58
  else if a = 0x60 then rows60
  else []

/-- The row of an object, none where the dictionary has no such object. -/
def objRow? (obj : Nat) : Option ObjRow := (areaRows (obj / 0x10000)).find? (fun r => r.idx == obj % 0x10000)

end Sys2Proof.Machine
end

