-- ==== Sys2Proof/Config.lean ====
section
/-! DEFINITION. What one unit or one firmware build fixes and the manual leaves open. Every constant here is OPAQUE: it
has no body, so nothing in Lean can evaluate it or prove a value of it, and a claim holds whatever it is. The
assumption log names each (notes/assumptions). -/

namespace Sys2Proof.Config

/-- SERIAL, unique per device (R5): 'unit value'. -/
opaque serial : BitVec 64
/-- BOOTVER (R66): 'build value'. -/
opaque bootver : BitVec 32
/-- DICTVER (R66): 'build value'. -/
opaque dictver : BitVec 32
/-- The private half of the meter signing key (R329): the unit's. -/
opaque meterKey : BitVec 256
/-- The image formats besides its own that the firmware reads (R97): 'one the firmware reads'. -/
opaque otherFormat : Nat → Bool
/-- The octets of the meter image (R333), whose layout the manual does not give. -/
opaque meterOctets : Machine.SMap Machine.MPort → List Byte
/-- The VENDOR key in one-time-programmable memory (R93). -/
opaque vendorKey : BitVec 128
/-- PERSIST_MAP (R98): 'firmware value'. -/
opaque persistMap : List Byte
/-- The session number the device gives the n-th OPEN (R91 states none). -/
opaque freeSession : Nat → BitVec 32
/-- The 16 random octets of DEVICE_NONCE of the n-th OPEN (R91). -/
opaque freeNonce : Nat → BitVec 128
/-- The type code that responses carry for the type I8, which R67 does not list. -/
opaque typeCodeI8 : Byte
/-- A 32-bit value the manual leaves undefined or unstated: the n-th such value of a run. -/
opaque freeWord : Nat → BitVec 32
/-- A 64-bit value the manual leaves unstated: the n-th such value of a run. -/
opaque freeLong : Nat → BitVec 64
/-- The quotient of a number by 0, in the unit of the quotient, which the manual does not state (R276, R288, R296, R341): a function of its
operand, as R57 asks of every result of the core. -/
opaque quotZero : Int → Int
/-- A truth value the manual leaves open (a coincidence between two stated bounds): the n-th such value of a run. -/
opaque freeBool : Nat → Bool

/-- The octets of a checkpoint image (R552, R553), whose layout the manual does not give, from what it holds. -/
opaque ckptOctets : Machine.Ckpt → List Byte
/-- The slots whose coefficients or section states lie at an SRAM address (R42, R44): the layout within the allocation is the
firmware's. -/
opaque slotsAt : Nat → List Nat
/-- What a checkpoint image holds (R552, R553): the reading of its octets, none where they are no image. -/
opaque ckptOf : List Byte → Option Machine.Ckpt
/-- The state of the core that a replay reaches (R466, R481): from a checkpoint and the journal entries after it. -/
opaque replay : Machine.Ckpt → List (List Byte) → Option Machine.Ckpt

end Sys2Proof.Config
end

