-- ==== Sys2Proof/Machine/Eff.lean ====
section
/-! DEFINITION. Indexed state, and effects: an `Eff s0` is a state on the way from `s0`, reached by the named
operations of this file and by nothing else. Every operation shows once what it can do to the parts of the state that
carry an invariant (`Moves`); every command's meaning is built from these operations, so each keeps the invariants. -/

namespace Sys2Proof.Machine

/-! ### Indexed state -/

/-- The value at an index; `d` where the index is not listed. -/
def smGet {β : Type} (d : β) : SMap β → Nat → β
  | [], _ => d
  | (k, v) :: r, n => if n < k then d else if n = k then v else smGet d r n

/-- Writes the value at an index, keeping the list sorted and free of entries equal to `d`. -/
def smSet {β : Type} [DecidableEq β] (d : β) : SMap β → Nat → β → SMap β
  | [], n, v => if v = d then [] else [(n, v)]
  | (k, w) :: r, n, v =>
    if n < k then (if v = d then (k, w) :: r else (n, v) :: (k, w) :: r)
    else if n = k then (if v = d then r else (n, v) :: r)
    else (k, w) :: smSet d r n v

/-- Every index of the list is above `b`, indexes rise, and no entry equals `d`. -/
def smAbove {β : Type} [DecidableEq β] (d : β) : Option Nat → SMap β → Bool
  | _, [] => true
  | b, (k, v) :: r => (match b with | none => true | some b => decide (b < k)) && decide (v ≠ d) && smAbove d (some k) r

/-- The canonical form of indexed state. -/
def smWf {β : Type} [DecidableEq β] (d : β) (m : SMap β) : Bool := smAbove d none m

/-- Changes the value at an index. -/
def smMod {β : Type} [DecidableEq β] (d : β) (m : SMap β) (n : Nat) (f : β → β) : SMap β := smSet d m n (f (smGet d m n))

theorem smAbove_weaken {β : Type} [DecidableEq β] (d : β) (b : Option Nat) (m : SMap β) (h : smAbove d b m = true) :
    smAbove d none m = true := by
  cases m with
  | nil => rfl
  | cons p r => simp only [smAbove, Bool.and_eq_true] at h ⊢; exact ⟨⟨trivial, h.1.2⟩, h.2⟩

theorem smAbove_lower {β : Type} [DecidableEq β] (d : β) (b c : Nat) (m : SMap β) (h : smAbove d (some c) m = true)
    (hb : b < c) : smAbove d (some b) m = true := by
  cases m with
  | nil => rfl
  | cons p r =>
    simp only [smAbove, Bool.and_eq_true, decide_eq_true_eq] at h ⊢
    exact ⟨⟨Nat.lt_trans hb h.1.1, h.1.2⟩, h.2⟩

theorem smAbove_set {β : Type} [DecidableEq β] (d : β) (m : SMap β) (b : Option Nat) (n : Nat) (v : β)
    (h : smAbove d b m = true) (hb : ∀ c, b = some c → c < n) : smAbove d b (smSet d m n v) = true := by
  induction m generalizing b with
  | nil =>
    unfold smSet
    split
    · rfl
    · rename_i hv
      cases b with
      | none => simp [smAbove, hv]
      | some c => simp [smAbove, hv, hb c rfl]
  | cons p r ih =>
    obtain ⟨k, w⟩ := p
    unfold smSet
    have h' := h
    simp only [smAbove, Bool.and_eq_true] at h'
    split
    · rename_i hlt
      split
      · exact h
      · rename_i hv
        cases b with
        | none => simp [smAbove, hv, hlt]; simpa [smAbove] using h'
        | some c => simp [smAbove, hv, hlt, hb c rfl]; exact ⟨by simpa using h'.1.2, h'.2⟩
    · rename_i hge
      split
      · rename_i heq
        split
        · cases b with
          | none => exact smAbove_weaken d _ r h'.2
          | some c => exact smAbove_lower d c k r h'.2 (by simpa using h'.1.1)
        · rename_i hv
          cases b with
          | none => simp [smAbove, hv, heq, h'.2]
          | some c => simp [smAbove, hv, heq, h'.2]; simpa using h'.1.1
      · rename_i hne
        have hr := ih (some k) h'.2 (by intro c hc; cases hc; omega)
        simp only [smAbove, Bool.and_eq_true]
        exact ⟨h'.1, hr⟩

theorem smWf_set {β : Type} [DecidableEq β] (d : β) (m : SMap β) (n : Nat) (v : β) (h : smWf d m = true) :
    smWf d (smSet d m n v) = true := smAbove_set d m none n v h (by intro c hc; cases hc)

theorem all_smSet {β : Type} [DecidableEq β] (d : β) (q : Nat × β → Bool) (m : SMap β) (n : Nat) (v : β) (hm : m.all q = true)
    (hv : q (n, v) = true) : (smSet d m n v).all q = true := by
  induction m with
  | nil => unfold smSet; split <;> simp [hv]
  | cons p r ih =>
    obtain ⟨k, w⟩ := p
    simp only [List.all_cons, Bool.and_eq_true] at hm
    unfold smSet
    split
    · split <;> simp [hv, hm.1, hm.2]
    · split
      · split <;> simp [hv, hm.2]
      · simp only [List.all_cons, Bool.and_eq_true]; exact ⟨hm.1, ih hm.2⟩

/-! ### Effects -/

/-- The word of a point that has never been written (R45): QUALITY 0x44, all else 0. -/
def pointReset : PointWord := 0x0044_0000_0000_0000#64

/-- The number of points (R45). -/
abbrev pointCount : Nat := 2097152

/-- The point store is in canonical form, and lists only points that exist. -/
def Memory.wf (m : SMap PointWord) : Bool := smWf pointReset m && m.all fun p => decide (p.1 < pointCount)

/-- Whether no auxiliary output is energised. -/
def auxDead (m : SMap Aux) : Bool := m.all fun p => !p.2.energised

/-- The outputs are where role, claim and state let them be: the hub is driven only under the claim (R476), only an ACTIVE device holds
the claim (R102, R476), no device is ACTIVE in OFF or BOOT (R112), and an auxiliary output is energised only on an ACTIVE device
(R412). -/
def State.OutputsOk (s : State) : Prop :=
  (s.gate.hiZ = false → s.pair.claim = true) ∧ (s.pair.claim = true → s.pair.role = .active) ∧
    (s.pair.role = .active → s.dev.state ≠ .off ∧ s.dev.state ≠ .boot) ∧ (s.pair.role ≠ .active → auxDead s.aux = true)

/-- What a state reached from `a` may be, as far as the invariants go: the point store, the committed and the staged
dictionary stay in canonical form, the queue of commands is untouched, what was sent stays sent, local uptime and the
count of free values never go back, the collector queue and the Ledger ring keep their sizes (R426, R442), and the outputs stay
with the claim and the role (R101, R102, R412, R476). -/
structure Moves (a b : State) : Prop where
  pts : Memory.wf a.pts = true → Memory.wf b.pts = true
  cfg : smWf none a.cfg = true → smWf none b.cfg = true
  stg : smWf none a.stg = true → smWf none b.stg = true
  pending : b.pending = a.pending
  sent : ∃ l, b.sent = l ++ a.sent
  up : a.time.up ≤ b.time.up
  free : a.free ≤ b.free
  queue : a.queue.length ≤ 256 → b.queue.length ≤ 256
  ring : a.ring.length ≤ 32766 → b.ring.length ≤ 32766
  outputs : a.OutputsOk → b.OutputsOk

theorem Moves.refl (a : State) : Moves a a :=
  ⟨id, id, id, rfl, ⟨[], rfl⟩, Nat.le_refl _, Nat.le_refl _, id, id, id⟩

theorem Moves.trans {a b c : State} (h : Moves a b) (k : Moves b c) : Moves a c :=
  ⟨fun x => k.pts (h.pts x), fun x => k.cfg (h.cfg x), fun x => k.stg (h.stg x), k.pending.trans h.pending,
    by obtain ⟨l, hl⟩ := h.sent; obtain ⟨m, hm⟩ := k.sent; exact ⟨m ++ l, by rw [hm, hl, List.append_assoc]⟩,
    Nat.le_trans h.up k.up, Nat.le_trans h.free k.free, fun x => k.queue (h.queue x), fun x => k.ring (h.ring x),
    fun x => k.outputs (h.outputs x)⟩

/-- Where an effect starts: a state, and whether the frame record of that state stays as it is throughout. -/
structure Root where
  state : State
  fixed : Bool

/-- A state reached from the state of `s0` by the operations below. -/
structure Eff (s0 : Root) where
  st : State
  ok : Moves s0.state st
  frameOk : s0.fixed = true → st.frame = s0.state.frame

/-- An effect that may also change the frame record. -/
abbrev Act (b0 : State) := Eff ⟨b0, false⟩

variable {s0 : Root} {b0 : State}

/-- Nothing done yet. -/
def Eff.start (s : State) : Act s := ⟨s, Moves.refl s, nofun⟩

/-- Does `f`, none of whose operations changes the frame record. -/
def Eff.keep (e : Eff s0) (f : {r : Root} → Eff r → Eff r) : Eff s0 :=
  let r := f (r := ⟨e.st, true⟩) ⟨e.st, Moves.refl e.st, fun _ => rfl⟩
  ⟨r.st, e.ok.trans r.ok, fun h => (r.frameOk rfl).trans (e.frameOk h)⟩

theorem Eff.keep_frame (e : Eff s0) (f : {r : Root} → Eff r → Eff r) : (e.keep f).st.frame = e.st.frame :=
  (f (r := ⟨e.st, true⟩) ⟨e.st, Moves.refl e.st, fun _ => rfl⟩).frameOk rfl

/-- Reads pts. -/
@[simp] abbrev Eff.pts (e : Eff s0) : SMap PointWord := e.st.pts

/-- Reads cfg. -/
@[simp] abbrev Eff.cfg (e : Eff s0) : SMap (Option Nat) := e.st.cfg

/-- Reads stg. -/
@[simp] abbrev Eff.stg (e : Eff s0) : SMap (Option Nat) := e.st.stg

/-- Reads doms. -/
@[simp] abbrev Eff.doms (e : Eff s0) : SMap Domain := e.st.doms

/-- Reads sess. -/
@[simp] abbrev Eff.sess (e : Eff s0) : SessSt := e.st.sess

/-- Reads persist. -/
@[simp] abbrev Eff.persist (e : Eff s0) : PersistSt := e.st.persist

/-- Reads trouble. -/
@[simp] abbrev Eff.trouble (e : Eff s0) : Trouble := e.st.trouble

/-- Reads dev. -/
@[simp] abbrev Eff.dev (e : Eff s0) : DevSt := e.st.dev

/-- Reads faults. -/
@[simp] abbrev Eff.faults (e : Eff s0) : FaultSt := e.st.faults

/-- Reads queue. -/
@[simp] abbrev Eff.queue (e : Eff s0) : List Entry := e.st.queue

/-- Reads ring. -/
@[simp] abbrev Eff.ring (e : Eff s0) : List Entry := e.st.ring

/-- Reads lanes. -/
@[simp] abbrev Eff.lanes (e : Eff s0) : SMap Lane := e.st.lanes

/-- Reads cells. -/
@[simp] abbrev Eff.cells (e : Eff s0) : SMap Cell := e.st.cells

/-- Reads chain. -/
@[simp] abbrev Eff.chain (e : Eff s0) : ChainSt := e.st.chain

/-- Reads gate. -/
@[simp] abbrev Eff.gate (e : Eff s0) : GateSt := e.st.gate

/-- Reads aux. -/
@[simp] abbrev Eff.aux (e : Eff s0) : SMap Aux := e.st.aux

/-- Reads pair. -/
@[simp] abbrev Eff.pair (e : Eff s0) : PairSt := e.st.pair

/-- Reads frame. -/
@[simp] abbrev Eff.frame (e : Eff s0) : FrameSt := e.st.frame

/-- Reads time. -/
@[simp] abbrev Eff.time (e : Eff s0) : TimeSt := e.st.time

/-- Reads hub. -/
@[simp] abbrev Eff.hub (e : Eff s0) : HubSt := e.st.hub

/-- Reads banks. -/
@[simp] abbrev Eff.banks (e : Eff s0) : SMap Bank := e.st.banks

/-- Reads conv. -/
@[simp] abbrev Eff.conv (e : Eff s0) : ConvSt := e.st.conv

/-- Reads clk. -/
@[simp] abbrev Eff.clk (e : Eff s0) : ClkSt := e.st.clk

/-- Reads loop. -/
@[simp] abbrev Eff.loop (e : Eff s0) : LoopSt := e.st.loop

/-- Reads sched. -/
@[simp] abbrev Eff.sched (e : Eff s0) : SchedSt := e.st.sched

/-- Reads casc. -/
@[simp] abbrev Eff.casc (e : Eff s0) : CascSt := e.st.casc

/-- Reads meter. -/
@[simp] abbrev Eff.meter (e : Eff s0) : MeterSt := e.st.meter

/-- Reads assay. -/
@[simp] abbrev Eff.assay (e : Eff s0) : AssaySt := e.st.assay

/-- Reads watch. -/
@[simp] abbrev Eff.watch (e : Eff s0) : SMap WUnit := e.st.watch

/-- Reads jrnl. -/
@[simp] abbrev Eff.jrnl (e : Eff s0) : JrnlSt := e.st.jrnl

/-- Reads free. -/
@[simp] abbrev Eff.free (e : Eff s0) : Nat := e.st.free

/-- Reads sent. -/
@[simp] abbrev Eff.sent (e : Eff s0) : List Out := e.st.sent

/-- Changes doms: the commit domains (R72 to R80). -/
def Eff.modDoms (e : Eff s0) (f : SMap Domain → SMap Domain) : Eff s0 :=
  ⟨{ e.st with doms := f e.st.doms }, e.ok.trans ⟨id, id, id, rfl, ⟨[], rfl⟩, Nat.le_refl _, Nat.le_refl _, id, id, id⟩, e.frameOk⟩

/-- Changes sess: transports and sessions (R87 to R93). -/
def Eff.modSess (e : Eff s0) (f : SessSt → SessSt) : Eff s0 :=
  ⟨{ e.st with sess := f e.st.sess }, e.ok.trans ⟨id, id, id, rfl, ⟨[], rfl⟩, Nat.le_refl _, Nat.le_refl _, id, id, id⟩, e.frameOk⟩

/-- Changes persist: the flash banks and the running STORE (R94 to R98). -/
def Eff.modPersist (e : Eff s0) (f : PersistSt → PersistSt) : Eff s0 :=
  ⟨{ e.st with persist := f e.st.persist }, e.ok.trans ⟨id, id, id, rfl, ⟨[], rfl⟩, Nat.le_refl _, Nat.le_refl _, id, id, id⟩, e.frameOk⟩

/-- Changes trouble: the trouble record (R99). -/
def Eff.modTrouble (e : Eff s0) (f : Trouble → Trouble) : Eff s0 :=
  ⟨{ e.st with trouble := f e.st.trouble }, e.ok.trans ⟨id, id, id, rfl, ⟨[], rfl⟩, Nat.le_refl _, Nat.le_refl _, id, id, id⟩, e.frameOk⟩

/-- Changes dev: the device state machine (R101 to R131), but for the state itself. -/
def Eff.modDev (e : Eff s0) (f : DevSt → DevSt) : Eff s0 :=
  ⟨{ e.st with dev := { f e.st.dev with state := e.st.dev.state } },
    e.ok.trans ⟨id, id, id, rfl, ⟨[], rfl⟩, Nat.le_refl _, Nat.le_refl _, id, id, id⟩, e.frameOk⟩

/-- Changes faults: the fault collector and events (R422 to R448). -/
def Eff.modFaults (e : Eff s0) (f : FaultSt → FaultSt) : Eff s0 :=
  ⟨{ e.st with faults := f e.st.faults }, e.ok.trans ⟨id, id, id, rfl, ⟨[], rfl⟩, Nat.le_refl _, Nat.le_refl _, id, id, id⟩, e.frameOk⟩

/-- Changes lanes: the 28 lanes (R142). -/
def Eff.modLanes (e : Eff s0) (f : SMap Lane → SMap Lane) : Eff s0 :=
  ⟨{ e.st with lanes := f e.st.lanes }, e.ok.trans ⟨id, id, id, rfl, ⟨[], rfl⟩, Nat.le_refl _, Nat.le_refl _, id, id, id⟩, e.frameOk⟩

/-- Changes cells: the 192 cells (R132). -/
def Eff.modCells (e : Eff s0) (f : SMap Cell → SMap Cell) : Eff s0 :=
  ⟨{ e.st with cells := f e.st.cells }, e.ok.trans ⟨id, id, id, rfl, ⟨[], rfl⟩, Nat.le_refl _, Nat.le_refl _, id, id, id⟩, e.frameOk⟩

/-- Changes chain: the chain manager (R113 to R118, R194 to R206). -/
def Eff.modChain (e : Eff s0) (f : ChainSt → ChainSt) : Eff s0 :=
  ⟨{ e.st with chain := f e.st.chain }, e.ok.trans ⟨id, id, id, rfl, ⟨[], rfl⟩, Nat.le_refl _, Nat.le_refl _, id, id, id⟩, e.frameOk⟩

/-- Changes gate: the hub gate model (R389 to R410), but not whether the hub is driven. -/
def Eff.modGate (e : Eff s0) (f : GateSt → GateSt) : Eff s0 :=
  ⟨{ e.st with gate := { f e.st.gate with hiZ := e.st.gate.hiZ } },
    e.ok.trans ⟨id, id, id, rfl, ⟨[], rfl⟩, Nat.le_refl _, Nat.le_refl _, id, id, id⟩, e.frameOk⟩

/-- Changes auxiliary output n (R411 to R421); only an ACTIVE device energises one (R412). -/
def Eff.modOut (e : Eff s0) (n : Nat) (f : Aux → Aux) : Eff s0 :=
  ⟨{ e.st with aux := smMod Aux.reset e.st.aux n fun a => { f a with energised := (f a).energised && e.st.pair.role == .active } },
    e.ok.trans ⟨id, id, id, rfl, ⟨[], rfl⟩, Nat.le_refl _, Nat.le_refl _, id, id, fun h =>
      ⟨h.1, h.2.1, h.2.2.1, fun r => all_smSet _ _ _ _ _ (h.2.2.2 r) (by simp [show (e.st.pair.role == .active) = false from by simpa using r])⟩⟩, e.frameOk⟩

/-- Every auxiliary output back at its reset value. -/
def Eff.clearAux (e : Eff s0) : Eff s0 :=
  ⟨{ e.st with aux := [] }, e.ok.trans ⟨id, id, id, rfl, ⟨[], rfl⟩, Nat.le_refl _, Nat.le_refl _, id, id, fun h => ⟨h.1, h.2.1, h.2.2.1, fun _ => rfl⟩⟩, e.frameOk⟩

/-- Every auxiliary output de-energised. -/
def deadAux (m : SMap Aux) : SMap Aux := m.map fun p => (p.1, { p.2 with energised := false })

theorem auxDead_deadAux (m : SMap Aux) : auxDead (deadAux m) = true := by simp [auxDead, deadAux]

/-- Releases the claim: the hub outputs and the CLKOUT pins go high-impedance, ROLE_OK is released (R476, R570). -/
def Eff.dropClaim (e : Eff s0) : Eff s0 :=
  ⟨{ e.st with pair := { e.st.pair with claim := false }, gate := { e.st.gate with hiZ := true } },
    e.ok.trans ⟨id, id, id, rfl, ⟨[], rfl⟩, Nat.le_refl _, Nat.le_refl _, id, id, fun h => ⟨by simp, by simp, h.2.2.1, h.2.2.2⟩⟩, e.frameOk⟩

/-- Takes the claim and drives the hub: an ACTIVE device alone does (R102, R476). -/
def Eff.takeClaim (e : Eff s0) : Eff s0 :=
  if hr : e.st.pair.role = .active then
    ⟨{ e.st with pair := { e.st.pair with claim := true }, gate := { e.st.gate with hiZ := false } },
      e.ok.trans ⟨id, id, id, rfl, ⟨[], rfl⟩, Nat.le_refl _, Nat.le_refl _, id, id, fun h => ⟨by simp, fun _ => hr, h.2.2.1, h.2.2.2⟩⟩, e.frameOk⟩
  else e

/-- Sets ROLE. Any role but ACTIVE holds no claim, drives no hub output and energises no auxiliary output (R102, R412, R476); a device in
OFF or BOOT does not become ACTIVE (R112). -/
def Eff.setRole (e : Eff s0) (r : Role) : Eff s0 :=
  if hr : r = .active then
    if hs : e.st.dev.state ≠ .off ∧ e.st.dev.state ≠ .boot then
      ⟨{ e.st with pair := { e.st.pair with role := r } },
        e.ok.trans ⟨id, id, id, rfl, ⟨[], rfl⟩, Nat.le_refl _, Nat.le_refl _, id, id, fun h => ⟨h.1, fun _ => hr, fun _ => hs, fun n => absurd hr n⟩⟩, e.frameOk⟩
    else e
  else
    ⟨{ e.st with pair := { e.st.pair with role := r, claim := false }, gate := { e.st.gate with hiZ := true }, aux := deadAux e.st.aux },
      e.ok.trans ⟨id, id, id, rfl, ⟨[], rfl⟩, Nat.le_refl _, Nat.le_refl _, id, id, fun _ => ⟨by simp, by simp, fun a => absurd a hr, fun _ => auxDead_deadAux _⟩⟩, e.frameOk⟩

/-- Sets DEV_STATE and STATE_CAUSE. In OFF and BOOT the device has no role yet (R101, R112, R412). -/
def Eff.putState (e : Eff s0) (d : DevState) (cause : Nat) : Eff s0 :=
  if hd : d = .off ∨ d = .boot then
    ⟨{ e.st with dev := { e.st.dev with state := d, cause := cause }, pair := { e.st.pair with role := .unset, claim := false }, gate :=
        { e.st.gate with hiZ := true }, aux := deadAux e.st.aux },
      e.ok.trans ⟨id, id, id, rfl, ⟨[], rfl⟩, Nat.le_refl _, Nat.le_refl _, id, id, fun _ => ⟨by simp, by simp, by simp, fun _ => auxDead_deadAux _⟩⟩, e.frameOk⟩
  else
    ⟨{ e.st with dev := { e.st.dev with state := d, cause := cause } },
      e.ok.trans ⟨id, id, id, rfl, ⟨[], rfl⟩, Nat.le_refl _, Nat.le_refl _, id, id, fun h => ⟨h.1, h.2.1, fun _ => ⟨fun a => hd (Or.inl a), fun a => hd (Or.inr a)⟩, h.2.2.2⟩⟩, e.frameOk⟩

/-- Changes pair: the pair unit (R449 to R485), but for role and claim. -/
def Eff.modPair (e : Eff s0) (f : PairSt → PairSt) : Eff s0 :=
  ⟨{ e.st with pair := { f e.st.pair with role := e.st.pair.role, claim := e.st.pair.claim } },
    e.ok.trans ⟨id, id, id, rfl, ⟨[], rfl⟩, Nat.le_refl _, Nat.le_refl _, id, id, id⟩, e.frameOk⟩

/-- Changes frame: the frame counter and the snapshot (R51 to R60, R177). -/
def Eff.modFrame (e : Act b0) (f : FrameSt → FrameSt) : Act b0 :=
  ⟨{ e.st with frame := f e.st.frame }, e.ok.trans ⟨id, id, id, rfl, ⟨[], rfl⟩, Nat.le_refl _, Nat.le_refl _, id, id, id⟩, nofun⟩

/-- Changes hub: the HUB island (R225 to R244). -/
def Eff.modHub (e : Eff s0) (f : HubSt → HubSt) : Eff s0 :=
  ⟨{ e.st with hub := f e.st.hub }, e.ok.trans ⟨id, id, id, rfl, ⟨[], rfl⟩, Nat.le_refl _, Nat.le_refl _, id, id, id⟩, e.frameOk⟩

/-- Changes banks: the 8 banks of the point store (R520 to R536). -/
def Eff.modBanks (e : Eff s0) (f : SMap Bank → SMap Bank) : Eff s0 :=
  ⟨{ e.st with banks := f e.st.banks }, e.ok.trans ⟨id, id, id, rfl, ⟨[], rfl⟩, Nat.le_refl _, Nat.le_refl _, id, id, id⟩, e.frameOk⟩

/-- Changes conv: the converters (R359 to R388). -/
def Eff.modConv (e : Eff s0) (f : ConvSt → ConvSt) : Eff s0 :=
  ⟨{ e.st with conv := f e.st.conv }, e.ok.trans ⟨id, id, id, rfl, ⟨[], rfl⟩, Nat.le_refl _, Nat.le_refl _, id, id, id⟩, e.frameOk⟩

/-- Changes clk: clocks, resets and supplies (R564 to R588). -/
def Eff.modClk (e : Eff s0) (f : ClkSt → ClkSt) : Eff s0 :=
  ⟨{ e.st with clk := f e.st.clk }, e.ok.trans ⟨id, id, id, rfl, ⟨[], rfl⟩, Nat.le_refl _, Nat.le_refl _, id, id, id⟩, e.frameOk⟩

/-- Changes loop: the loop engine (R245 to R274). -/
def Eff.modLoop (e : Eff s0) (f : LoopSt → LoopSt) : Eff s0 :=
  ⟨{ e.st with loop := f e.st.loop }, e.ok.trans ⟨id, id, id, rfl, ⟨[], rfl⟩, Nat.le_refl _, Nat.le_refl _, id, id, id⟩, e.frameOk⟩

/-- Changes sched: the schedule generator (R214 to R224). -/
def Eff.modSched (e : Eff s0) (f : SchedSt → SchedSt) : Eff s0 :=
  ⟨{ e.st with sched := f e.st.sched }, e.ok.trans ⟨id, id, id, rfl, ⟨[], rfl⟩, Nat.le_refl _, Nat.le_refl _, id, id, id⟩, e.frameOk⟩

/-- Changes casc: the cascade functions (R275 to R300). -/
def Eff.modCasc (e : Eff s0) (f : CascSt → CascSt) : Eff s0 :=
  ⟨{ e.st with casc := f e.st.casc }, e.ok.trans ⟨id, id, id, rfl, ⟨[], rfl⟩, Nat.le_refl _, Nat.le_refl _, id, id, id⟩, e.frameOk⟩

/-- Changes meter: the dispatcher and the meter (R301 to R335). -/
def Eff.modMeter (e : Eff s0) (f : MeterSt → MeterSt) : Eff s0 :=
  ⟨{ e.st with meter := f e.st.meter }, e.ok.trans ⟨id, id, id, rfl, ⟨[], rfl⟩, Nat.le_refl _, Nat.le_refl _, id, id, id⟩, e.frameOk⟩

/-- Changes assay: the assay engine (R336 to R358). -/
def Eff.modAssay (e : Eff s0) (f : AssaySt → AssaySt) : Eff s0 :=
  ⟨{ e.st with assay := f e.st.assay }, e.ok.trans ⟨id, id, id, rfl, ⟨[], rfl⟩, Nat.le_refl _, Nat.le_refl _, id, id, id⟩, e.frameOk⟩

/-- Changes watch: the 32 watch units (R537 to R547). -/
def Eff.modWatch (e : Eff s0) (f : SMap WUnit → SMap WUnit) : Eff s0 :=
  ⟨{ e.st with watch := f e.st.watch }, e.ok.trans ⟨id, id, id, rfl, ⟨[], rfl⟩, Nat.le_refl _, Nat.le_refl _, id, id, id⟩, e.frameOk⟩

/-- Changes jrnl: the journal, the record stream and Reading Room (R548 to R563). -/
def Eff.modJrnl (e : Eff s0) (f : JrnlSt → JrnlSt) : Eff s0 :=
  ⟨{ e.st with jrnl := f e.st.jrnl }, e.ok.trans ⟨id, id, id, rfl, ⟨[], rfl⟩, Nat.le_refl _, Nat.le_refl _, id, id, id⟩, e.frameOk⟩

/-- Changes the time unit but not the uptime. -/
def Eff.modTime (e : Eff s0) (f : TimeSt → TimeSt) : Eff s0 :=
  ⟨{ e.st with time := { f e.st.time with up := e.st.time.up } },
    e.ok.trans ⟨id, id, id, rfl, ⟨[], rfl⟩, Nat.le_refl _, Nat.le_refl _, id, id, id⟩, e.frameOk⟩

/-- Lets `ns` of uptime pass. -/
def Eff.pass (e : Eff s0) (ns : Nat) : Eff s0 :=
  ⟨{ e.st with time := { e.st.time with up := e.st.time.up + ns } },
    e.ok.trans ⟨id, id, id, rfl, ⟨[], rfl⟩, Nat.le_add_right _ _, Nat.le_refl _, id, id, id⟩, e.frameOk⟩

/-- Writes one point word; there are 2,097,152 points (R45). -/
def Eff.setPoint (e : Eff s0) (n : Nat) (w : PointWord) : Eff s0 :=
  if hn : n < pointCount then
    ⟨{ e.st with pts := smSet pointReset e.st.pts n w },
      e.ok.trans ⟨fun h => by
        simp only [Memory.wf, Bool.and_eq_true] at h ⊢
        exact ⟨smWf_set _ _ _ _ h.1, all_smSet _ _ _ _ _ h.2 (by simpa using hn)⟩,
        id, id, rfl, ⟨[], rfl⟩, Nat.le_refl _, Nat.le_refl _, id, id, id⟩, e.frameOk⟩
  else e

/-- Every point back at its reset word. -/
def Eff.clearPoints (e : Eff s0) : Eff s0 :=
  ⟨{ e.st with pts := [] }, e.ok.trans ⟨fun _ => rfl, id, id, rfl, ⟨[], rfl⟩, Nat.le_refl _, Nat.le_refl _, id, id, id⟩, e.frameOk⟩

/-- Sets a committed value (none: the default). -/
def Eff.setCfg (e : Eff s0) (k : Nat) (v : Option Nat) : Eff s0 :=
  ⟨{ e.st with cfg := smSet none e.st.cfg k v },
    e.ok.trans ⟨id, smWf_set _ _ _ _, id, rfl, ⟨[], rfl⟩, Nat.le_refl _, Nat.le_refl _, id, id, id⟩, e.frameOk⟩

/-- Every committed value back at its default. -/
def Eff.clearCfg (e : Eff s0) : Eff s0 :=
  ⟨{ e.st with cfg := [] }, e.ok.trans ⟨id, fun _ => rfl, id, rfl, ⟨[], rfl⟩, Nat.le_refl _, Nat.le_refl _, id, id, id⟩, e.frameOk⟩

/-- Stages a value, or unstages it. -/
def Eff.setStg (e : Eff s0) (k : Nat) (v : Option Nat) : Eff s0 :=
  ⟨{ e.st with stg := smSet none e.st.stg k v },
    e.ok.trans ⟨id, id, smWf_set _ _ _ _, rfl, ⟨[], rfl⟩, Nat.le_refl _, Nat.le_refl _, id, id, id⟩, e.frameOk⟩

/-- Discards every staged value. -/
def Eff.clearStg (e : Eff s0) : Eff s0 :=
  ⟨{ e.st with stg := [] }, e.ok.trans ⟨id, id, fun _ => rfl, rfl, ⟨[], rfl⟩, Nat.le_refl _, Nat.le_refl _, id, id, id⟩, e.frameOk⟩

/-- Sends something. -/
def Eff.emit (e : Eff s0) (o : Out) : Eff s0 :=
  ⟨{ e.st with sent := o :: e.st.sent },
    e.ok.trans ⟨id, id, id, rfl, ⟨[o], rfl⟩, Nat.le_refl _, Nat.le_refl _, id, id, id⟩, e.frameOk⟩

/-- Consumes one free value. -/
def Eff.tick (e : Eff s0) : Eff s0 :=
  ⟨{ e.st with free := e.st.free + 1 },
    e.ok.trans ⟨id, id, id, rfl, ⟨[], rfl⟩, Nat.le_refl _, Nat.le_add_right _ _, id, id, id⟩, e.frameOk⟩

/-- The collector queue accepts a message where it has space (R426). -/
def Eff.pushQueue (e : Eff s0) (m : Entry) : Eff s0 :=
  ⟨{ e.st with queue := (e.st.queue ++ [m]).take 256 },
    e.ok.trans ⟨id, id, id, rfl, ⟨[], rfl⟩, Nat.le_refl _, Nat.le_refl _, fun _ => List.length_take_le _ _, id, id⟩, e.frameOk⟩

/-- The oldest message leaves the collector queue. -/
def Eff.popQueue (e : Eff s0) : Eff s0 :=
  ⟨{ e.st with queue := e.st.queue.drop 1 },
    e.ok.trans ⟨id, id, id, rfl, ⟨[], rfl⟩, Nat.le_refl _, Nat.le_refl _,
      fun h => by simp only [List.length_drop]; omega, id, id⟩, e.frameOk⟩

/-- The collector queue is empty. -/
def Eff.clearQueue (e : Eff s0) : Eff s0 :=
  ⟨{ e.st with queue := [] }, e.ok.trans ⟨id, id, id, rfl, ⟨[], rfl⟩, Nat.le_refl _, Nat.le_refl _,
    fun _ => Nat.zero_le _, id, id⟩, e.frameOk⟩

/-- The ring takes an entry and overwrites its oldest where it is full (R442). -/
def Eff.pushRing (e : Eff s0) (m : Entry) : Eff s0 :=
  ⟨{ e.st with ring := (m :: e.st.ring).take 32766 },
    e.ok.trans ⟨id, id, id, rfl, ⟨[], rfl⟩, Nat.le_refl _, Nat.le_refl _, id, fun _ => List.length_take_le _ _, id⟩, e.frameOk⟩

/-- The ring holds these entries, at most its size. -/
def Eff.setRing (e : Eff s0) (l : List Entry) : Eff s0 :=
  ⟨{ e.st with ring := l.take 32766 },
    e.ok.trans ⟨id, id, id, rfl, ⟨[], rfl⟩, Nat.le_refl _, Nat.le_refl _, id, fun _ => List.length_take_le _ _, id⟩, e.frameOk⟩

/-- Does `f` where `c` holds. -/
def Eff.when (e : Eff s0) (c : Bool) (f : Eff s0 → Eff s0) : Eff s0 := if c then f e else e

/-- Does `f` for each element in turn. -/
def Eff.each {α : Type} (e : Eff s0) (l : List α) (f : Eff s0 → α → Eff s0) : Eff s0 := l.foldl f e

end Sys2Proof.Machine
end

