-- ==== Sys2Proof/Machine/Kinds.lean ====
section
/-! DEFINITION. The fault kinds and sources of the manual (R423, R436), the default reaction table (R435) and the event
numbers (R445). -/

namespace Sys2Proof.Machine

/-- SRAM_CE. -/
abbrev kSramCe : Nat := 0x01
/-- SRAM_UE. -/
abbrev kSramUe : Nat := 0x02
/-- BANK_WATCHDOG. -/
abbrev kBankWatchdog : Nat := 0x03
/-- OVERRUN. -/
abbrev kOverrun : Nat := 0x20
/-- FAST_OVERRUN. -/
abbrev kFastOverrun : Nat := 0x21
/-- SCHED_REFUSED. -/
abbrev kSchedRefused : Nat := 0x22
/-- PAIR_SPLIT. -/
abbrev kPairSplit : Nat := 0x23
/-- NMIN_LOST. -/
abbrev kNminLost : Nat := 0x24
/-- DISP_SHORT. -/
abbrev kDispShort : Nat := 0x25
/-- BUDGET_EXHAUSTED. -/
abbrev kBudgetExhausted : Nat := 0x26
/-- METER_LOSS. -/
abbrev kMeterLoss : Nat := 0x27
/-- GRID_UNLOCK. -/
abbrev kGridUnlock : Nat := 0x28
/-- REDUNDANCY_LOW. -/
abbrev kRedundancyLow : Nat := 0x29
/-- SYNC_READY. -/
abbrev kSyncReady : Nat := 0x2A
/-- STOP_READY. -/
abbrev kStopReady : Nat := 0x2B
/-- BRK_UNSYNC. -/
abbrev kBrkUnsync : Nat := 0x2C
/-- BRK_FAIL. -/
abbrev kBrkFail : Nat := 0x2D
/-- BRK_TRIPPED. -/
abbrev kBrkTripped : Nat := 0x2E
/-- OVERRUN_TRIP. -/
abbrev kOverrunTrip : Nat := 0x2F
/-- EVENT_SUPERSEDED. -/
abbrev kEventSuperseded : Nat := 0x30
/-- LANE_LOST. -/
abbrev kLaneLost : Nat := 0x40
/-- LANE_DOWN. -/
abbrev kLaneDown : Nat := 0x41
/-- CHAIN_MISWIRED. -/
abbrev kChainMiswired : Nat := 0x42
/-- CHAIN_COUNT. -/
abbrev kChainCount : Nat := 0x43
/-- CHAIN_SLOW. -/
abbrev kChainSlow : Nat := 0x44
/-- COPY_MISMATCH. -/
abbrev kCopyMismatch : Nat := 0x45
/-- CELL_SUSPECT. -/
abbrev kCellSuspect : Nat := 0x46
/-- CELL_LOST. -/
abbrev kCellLost : Nat := 0x47
/-- CELL_BYPASS_CLOSED. -/
abbrev kCellBypassClosed : Nat := 0x48
/-- GATE_TRIP. -/
abbrev kGateTrip : Nat := 0x60
/-- GATE_UVLO. -/
abbrev kGateUvlo : Nat := 0x61
/-- GATE_ESCALATE. -/
abbrev kGateEscalate : Nat := 0x62
/-- GATE_EARLY. -/
abbrev kGateEarly : Nat := 0x63
/-- SHOOT_GUARD. -/
abbrev kShootGuard : Nat := 0x64
/-- GATE_EN_OFF. -/
abbrev kGateEnOff : Nat := 0x65
/-- CONV_OVERRUN. -/
abbrev kConvOverrun : Nat := 0x80
/-- CONV_CHECK. -/
abbrev kConvCheck : Nat := 0x81
/-- SD_STUCK. -/
abbrev kSdStuck : Nat := 0x82
/-- XB_CLOCK. -/
abbrev kXbClock : Nat := 0x83
/-- AUX_OPEN. -/
abbrev kAuxOpen : Nat := 0x84
/-- AUX_SHORT_VAUX. -/
abbrev kAuxShortVaux : Nat := 0x85
/-- AUX_SHORT_GND. -/
abbrev kAuxShortGnd : Nat := 0x86
/-- AUX_OVERCURRENT. -/
abbrev kAuxOvercurrent : Nat := 0x87
/-- AUX_OVERTEMP. -/
abbrev kAuxOvertemp : Nat := 0x88
/-- CANARY_PATH. -/
abbrev kCanaryPath : Nat := 0xA0
/-- DIVERGENCE. -/
abbrev kDivergence : Nat := 0xA1
/-- ROLE_CONFLICT. -/
abbrev kRoleConflict : Nat := 0xA2
/-- ROLE_LINE. -/
abbrev kRoleLine : Nat := 0xA3
/-- TIME_HOLD. -/
abbrev kTimeHold : Nat := 0xA4
/-- TIME_DISCONTINUITY. -/
abbrev kTimeDiscontinuity : Nat := 0xA5
/-- LATE_EXEC. -/
abbrev kLateExec : Nat := 0xA6
/-- PEER_COMMIT_MISSED. -/
abbrev kPeerCommitMissed : Nat := 0xA7
/-- SUP_LOCKSTEP. -/
abbrev kSupLockstep : Nat := 0xC0
/-- STORE_FAIL. -/
abbrev kStoreFail : Nat := 0xC1
/-- FLASH_SMALL. -/
abbrev kFlashSmall : Nat := 0xC2
/-- RESTORE_REFUSED. -/
abbrev kRestoreRefused : Nat := 0xC3
/-- RESTORE_DEFAULT. -/
abbrev kRestoreDefault : Nat := 0xC4
/-- AUTH_LOCKOUT. -/
abbrev kAuthLockout : Nat := 0xC5
/-- TROUBLE_CLEAR. -/
abbrev kTroubleClear : Nat := 0xC6
/-- LEDGER_CLEARED. -/
abbrev kLedgerCleared : Nat := 0xC7
/-- PWR_FAIL. -/
abbrev kPwrFail : Nat := 0xE0
/-- SUPPLY_OOR. -/
abbrev kSupplyOor : Nat := 0xE1
/-- PLL_UNLOCK. -/
abbrev kPllUnlock : Nat := 0xE2
/-- D2D_ERROR. -/
abbrev kD2dError : Nat := 0xE3
/-- JUNCTION_HOT. -/
abbrev kJunctionHot : Nat := 0xE4
/-- TRIP_ACTION. -/
abbrev kTripAction : Nat := 0xE5

/-- A fault kind (R436): code, address form (1 a cell, 2 a gate, 0 any other), default class at device scope and at
cell scope (R435), and the least class (R431). -/
structure KindRow where
  code : Nat
  form : Nat
  dev : Nat
  cell : Nat
  least : Nat
  deriving DecidableEq, Repr

/-- The kinds of R436, part 0. -/
def kinds0 : List KindRow := [
  ⟨0x01, 0, 0, 0, 0⟩  /- SRAM_CE -/,
  ⟨0x02, 0, 6, 6, 1⟩  /- SRAM_UE -/,
  ⟨0x03, 0, 6, 6, 1⟩  /- BANK_WATCHDOG -/,
  ⟨0x20, 0, 1, 1, 0⟩  /- OVERRUN -/,
  ⟨0x21, 0, 1, 1, 0⟩  /- FAST_OVERRUN -/,
  ⟨0x22, 0, 1, 1, 0⟩  /- SCHED_REFUSED -/,
  ⟨0x23, 0, 0, 0, 0⟩  /- PAIR_SPLIT -/,
  ⟨0x24, 0, 5, 5, 5⟩  /- NMIN_LOST -/,
  ⟨0x25, 0, 1, 1, 0⟩  /- DISP_SHORT -/,
  ⟨0x26, 0, 1, 1, 0⟩  /- BUDGET_EXHAUSTED -/,
  ⟨0x27, 0, 1, 1, 0⟩  /- METER_LOSS -/,
  ⟨0x28, 0, 1, 1, 0⟩  /- GRID_UNLOCK -/,
  ⟨0x29, 0, 1, 1, 0⟩  /- REDUNDANCY_LOW -/,
  ⟨0x2A, 0, 1, 1, 0⟩  /- SYNC_READY -/,
  ⟨0x2B, 0, 1, 1, 0⟩  /- STOP_READY -/,
  ⟨0x2C, 0, 5, 5, 5⟩  /- BRK_UNSYNC -/,
  ⟨0x2D, 0, 1, 1, 0⟩  /- BRK_FAIL -/,
  ⟨0x2E, 0, 5, 5, 0⟩  /- BRK_TRIPPED -/,
  ⟨0x2F, 0, 5, 5, 5⟩  /- OVERRUN_TRIP -/,
  ⟨0x30, 0, 0, 0, 0⟩  /- EVENT_SUPERSEDED -/,
  ⟨0x40, 0, 1, 1, 0⟩  /- LANE_LOST -/,
  ⟨0x41, 0, 1, 1, 0⟩  /- LANE_DOWN -/,
  ⟨0x42, 0, 1, 1, 0⟩  /- CHAIN_MISWIRED -/]

/-- The kinds of R436, part 1. -/
def kinds1 : List KindRow := [
  ⟨0x43, 0, 1, 1, 0⟩  /- CHAIN_COUNT -/,
  ⟨0x44, 0, 1, 1, 1⟩  /- CHAIN_SLOW -/,
  ⟨0x45, 1, 0, 0, 0⟩  /- COPY_MISMATCH -/,
  ⟨0x46, 1, 1, 3, 0⟩  /- CELL_SUSPECT -/,
  ⟨0x47, 1, 1, 1, 0⟩  /- CELL_LOST -/,
  ⟨0x48, 1, 1, 3, 0⟩  /- CELL_BYPASS_CLOSED -/,
  ⟨0x60, 2, 4, 3, 0⟩  /- GATE_TRIP -/,
  ⟨0x61, 2, 4, 3, 0⟩  /- GATE_UVLO -/,
  ⟨0x62, 2, 4, 3, 0⟩  /- GATE_ESCALATE -/,
  ⟨0x63, 2, 0, 0, 0⟩  /- GATE_EARLY -/,
  ⟨0x64, 2, 4, 3, 0⟩  /- SHOOT_GUARD -/,
  ⟨0x65, 2, 1, 1, 0⟩  /- GATE_EN_OFF -/,
  ⟨0x80, 0, 1, 1, 0⟩  /- CONV_OVERRUN -/,
  ⟨0x81, 0, 2, 2, 0⟩  /- CONV_CHECK -/,
  ⟨0x82, 0, 1, 1, 0⟩  /- SD_STUCK -/,
  ⟨0x83, 0, 1, 1, 0⟩  /- XB_CLOCK -/,
  ⟨0x84, 0, 1, 1, 0⟩  /- AUX_OPEN -/,
  ⟨0x85, 0, 5, 5, 0⟩  /- AUX_SHORT_VAUX -/,
  ⟨0x86, 0, 1, 1, 0⟩  /- AUX_SHORT_GND -/,
  ⟨0x87, 0, 1, 1, 0⟩  /- AUX_OVERCURRENT -/,
  ⟨0x88, 0, 1, 1, 0⟩  /- AUX_OVERTEMP -/,
  ⟨0xA0, 0, 1, 1, 0⟩  /- CANARY_PATH -/,
  ⟨0xA1, 0, 0, 0, 0⟩  /- DIVERGENCE -/]

/-- The kinds of R436, part 2. -/
def kinds2 : List KindRow := [
  ⟨0xA2, 0, 1, 1, 0⟩  /- ROLE_CONFLICT -/,
  ⟨0xA3, 0, 7, 7, 7⟩  /- ROLE_LINE -/,
  ⟨0xA4, 0, 1, 1, 0⟩  /- TIME_HOLD -/,
  ⟨0xA5, 0, 1, 1, 0⟩  /- TIME_DISCONTINUITY -/,
  ⟨0xA6, 0, 0, 0, 0⟩  /- LATE_EXEC -/,
  ⟨0xA7, 0, 1, 1, 0⟩  /- PEER_COMMIT_MISSED -/,
  ⟨0xC0, 0, 6, 6, 6⟩  /- SUP_LOCKSTEP -/,
  ⟨0xC1, 0, 1, 1, 0⟩  /- STORE_FAIL -/,
  ⟨0xC2, 0, 1, 1, 0⟩  /- FLASH_SMALL -/,
  ⟨0xC3, 0, 1, 1, 0⟩  /- RESTORE_REFUSED -/,
  ⟨0xC4, 0, 1, 1, 0⟩  /- RESTORE_DEFAULT -/,
  ⟨0xC5, 0, 1, 1, 0⟩  /- AUTH_LOCKOUT -/,
  ⟨0xC6, 0, 0, 0, 0⟩  /- TROUBLE_CLEAR -/,
  ⟨0xC7, 0, 0, 0, 0⟩  /- LEDGER_CLEARED -/,
  ⟨0xE0, 0, 6, 6, 6⟩  /- PWR_FAIL -/,
  ⟨0xE1, 0, 7, 7, 6⟩  /- SUPPLY_OOR -/,
  ⟨0xE2, 0, 7, 7, 6⟩  /- PLL_UNLOCK -/,
  ⟨0xE3, 0, 6, 6, 6⟩  /- D2D_ERROR -/,
  ⟨0xE4, 0, 2, 2, 2⟩  /- JUNCTION_HOT -/,
  ⟨0xE5, 0, 5, 5, 5⟩  /- TRIP_ACTION -/]

/-- The kinds of R436. -/
def kinds : List KindRow := kinds0 ++ kinds1 ++ kinds2

/-- The row of a kind code, none for a reserved code. -/
def kind? (k : Nat) : Option KindRow := kinds.find? (fun r => r.code == k)

/-- The default of REACTION[i] (R435): kind i div 2, scope i mod 2; reserved kinds hold LOG. -/
def reactionDefault (i : Nat) : Nat :=
  match kind? (i / 2) with
  | none => 0
  | some r => if i % 2 = 0 then r.dev else r.cell

/-- Kinds whose address is an SRAM address, which capture the requester (R429). -/
def sramKind (k : Nat) : Bool := k == kSramCe || k == kSramUe || k == kBankWatchdog

/-- Whether a number names a source of R423. -/
def isSource (n : Nat) : Bool :=
  (1 ≤ n && n ≤ 9) || n == 0x10 || n == 0x11 || n == 0x12 || n == 0x13 || n == 0x14 || n == 0x15 ||
  (0x20 ≤ n && n ≤ 0x3B) || n == 0x40 || n == 0x50 || n == 0x51 || (0x60 ≤ n && n ≤ 0x64) ||
  (0x70 ≤ n && n ≤ 0x72) || (0x80 ≤ n && n ≤ 0x82) || (0x90 ≤ n && n ≤ 0x93) || n == 0xA0 || n == 0xF0

end Sys2Proof.Machine
end

