-- ==== Sys2Proof/Machine/Objects.lean ====
section
/-! DEFINITION. The object numbers of the dictionary (R64), under the names of the manual. -/

namespace Sys2Proof.Machine

/-- PART (R5). -/
abbrev oPart : Nat := 0x010000
/-- SIREV (R5). -/
abbrev oSirev : Nat := 0x010001
/-- FWVER (R5). -/
abbrev oFwver : Nat := 0x010002
/-- SERIAL (R5). -/
abbrev oSerial : Nat := 0x010003
/-- CELL_PHASE (R33). -/
abbrev oCellPhase : Nat := 0x220000
/-- CHAIN_LEN (R33). -/
abbrev oChainLen : Nat := 0x220001
/-- CONNECTION (R33). -/
abbrev oConnection : Nat := 0x220002
/-- VLL_NOM (R33). -/
abbrev oVllNom : Nat := 0x220003
/-- VDC_NOM (R33). -/
abbrev oVdcNom : Nat := 0x220004
/-- VLV_NOM (R33). -/
abbrev oVlvNom : Nat := 0x220005
/-- NMIN (R33). -/
abbrev oNmin : Nat := 0x220006
/-- NCELL (R33). -/
abbrev oNcell : Nat := 0x220007
/-- PACK_VNOM (R33). -/
abbrev oPackVnom : Nat := 0x220008
/-- PORT_IRATED (R33). -/
abbrev oPortIrated : Nat := 0x220009
/-- TAB_FSW (R33). -/
abbrev oTabFsw : Nat := 0x22000A
/-- TERM_ID (R33). -/
abbrev oTermId : Nat := 0x22000B
/-- PACK_ID (R33). -/
abbrev oPackId : Nat := 0x22000C
/-- FRAME_PERIOD (R51). -/
abbrev oFramePeriod : Nat := 0x280000
/-- DEADLINE (R51). -/
abbrev oDeadline : Nat := 0x280001
/-- SAMPLE_OFFSET (R51). -/
abbrev oSampleOffset : Nat := 0x280002
/-- TX_MARGIN (R51). -/
abbrev oTxMargin : Nat := 0x280003
/-- CORE_BUDGET (R51). -/
abbrev oCoreBudget : Nat := 0x280004
/-- DISP_FRAMES (R51). -/
abbrev oDispFrames : Nat := 0x280005
/-- FDREV (R66). -/
abbrev oFdrev : Nat := 0x010004
/-- BOOTVER (R66). -/
abbrev oBootver : Nat := 0x010005
/-- FWDIGEST (R66). -/
abbrev oFwdigest : Nat := 0x010006
/-- DICTVER (R66). -/
abbrev oDictver : Nat := 0x010007
/-- METER_PUBKEY (R66). -/
abbrev oMeterPubkey : Nat := 0x010008
/-- COMMIT (R80). -/
abbrev oCommit : Nat := 0x020010
/-- ABANDON (R80). -/
abbrev oAbandon : Nat := 0x020011
/-- STAGE_OWNER (R80). -/
abbrev oStageOwner : Nat := 0x020012
/-- COMMIT_SEQ (R80). -/
abbrev oCommitSeq : Nat := 0x020013
/-- COMMIT_PENDING (R80). -/
abbrev oCommitPending : Nat := 0x020014
/-- LAST_REFUSAL (R80). -/
abbrev oLastRefusal : Nat := 0x020015
/-- IP_ADDR (R87). -/
abbrev oIpAddr : Nat := 0x200040
/-- IP_MASK (R87). -/
abbrev oIpMask : Nat := 0x200041
/-- IP_GW (R87). -/
abbrev oIpGw : Nat := 0x200042
/-- DAPC_ID (R88). -/
abbrev oDapcId : Nat := 0x200050
/-- DAPC_RATE (R88). -/
abbrev oDapcRate : Nat := 0x200051
/-- OBSERVER_OPEN (R93). -/
abbrev oObserverOpen : Nat := 0x040000
/-- SESSION_TIMEOUT (R93). -/
abbrev oSessionTimeout : Nat := 0x040001
/-- K_OPERATOR (R93). -/
abbrev oKOperator : Nat := 0x040002
/-- K_ENGINEER (R93). -/
abbrev oKEngineer : Nat := 0x040003
/-- KEYS_SET (R93). -/
abbrev oKeysSet : Nat := 0x040004
/-- SESSION_INFO (R93). -/
abbrev oSessionInfo : Nat := 0x040005
/-- AUTH_FAIL (R93). -/
abbrev oAuthFail : Nat := 0x040006
/-- STORE (R98). -/
abbrev oStore : Nat := 0x080000
/-- STORE_SEQ (R98). -/
abbrev oStoreSeq : Nat := 0x080001
/-- STORE_STATUS (R98). -/
abbrev oStoreStatus : Nat := 0x080002
/-- PERSIST_MAP (R98). -/
abbrev oPersistMap : Nat := 0x080003
/-- FLASH_COUNT (R98). -/
abbrev oFlashCount : Nat := 0x080004
/-- DEV_STATE (R105). -/
abbrev oDevState : Nat := 0x020000
/-- STATE_CAUSE (R105). -/
abbrev oStateCause : Nat := 0x020001
/-- BOOT_STAGE (R105). -/
abbrev oBootStage : Nat := 0x020002
/-- START (R105). -/
abbrev oStart : Nat := 0x020003
/-- STOP (R105). -/
abbrev oStop : Nat := 0x020004
/-- TRIP (R105). -/
abbrev oTrip : Nat := 0x020005
/-- SAFE_EXIT (R105). -/
abbrev oSafeExit : Nat := 0x020006
/-- AUTOSTART (R105). -/
abbrev oAutostart : Nat := 0x020007
/-- DERATE_LIMIT (R105). -/
abbrev oDerateLimit : Nat := 0x020008
/-- DERATE_AUTO (R105). -/
abbrev oDerateAuto : Nat := 0x020009
/-- DERATE_CAUSES (R105). -/
abbrev oDerateCauses : Nat := 0x02000A
/-- REDUNDANCY_DERATE (R105). -/
abbrev oRedundancyDerate : Nat := 0x02000B
/-- PRECHARGE_RATE (R119). -/
abbrev oPrechargeRate : Nat := 0x020020
/-- PRECHARGE_ILIM (R119). -/
abbrev oPrechargeIlim : Nat := 0x020021
/-- CHARGE_TIMEOUT (R119). -/
abbrev oChargeTimeout : Nat := 0x020022
/-- SYNC_TIMEOUT (R119). -/
abbrev oSyncTimeout : Nat := 0x020023
/-- SYNC_VTOL (R119). -/
abbrev oSyncVtol : Nat := 0x020024
/-- SYNC_ATOL (R119). -/
abbrev oSyncAtol : Nat := 0x020025
/-- SYNC_HOLD (R119). -/
abbrev oSyncHold : Nat := 0x020026
/-- BRK_AUX (R119). -/
abbrev oBrkAux : Nat := 0x020027
/-- BRK_FB (R119). -/
abbrev oBrkFb : Nat := 0x020028
/-- BRK_TIME (R119). -/
abbrev oBrkTime : Nat := 0x020029
/-- STOP_RAMP (R119). -/
abbrev oStopRamp : Nat := 0x02002A
/-- CELL_STATE (R140). -/
abbrev oCellState : Nat := 0x220010
/-- CELL_CAUSE (R140). -/
abbrev oCellCause : Nat := 0x220011
/-- CELL_REQ (R140). -/
abbrev oCellReq : Nat := 0x220012
/-- JOIN_FRAMES (R140). -/
abbrev oJoinFrames : Nat := 0x220013
/-- AUTO_ACTIVE (R140). -/
abbrev oAutoActive : Nat := 0x220014
/-- LANE_MODE (R167). -/
abbrev oLaneMode : Nat := 0x200000
/-- TX_SWING (R167). -/
abbrev oTxSwing : Nat := 0x200001
/-- TX_PRE (R167). -/
abbrev oTxPre : Nat := 0x200002
/-- TX_POST (R167). -/
abbrev oTxPost : Nat := 0x200003
/-- POLARITY (R167). -/
abbrev oPolarity : Nat := 0x200004
/-- RX_ADAPT (R167). -/
abbrev oRxAdapt : Nat := 0x200005
/-- RX_CTLE (R167). -/
abbrev oRxCtle : Nat := 0x200006
/-- LANE_STATE (R167). -/
abbrev oLaneState : Nat := 0x200007
/-- LANE_STATUS (R167). -/
abbrev oLaneStatus : Nat := 0x200008
/-- LANE_TROUBLE (R167). -/
abbrev oLaneTrouble : Nat := 0x200009
/-- ERR_BLOCKS (R167). -/
abbrev oErrBlocks : Nat := 0x20000A
/-- LOCK_LOSSES (R167). -/
abbrev oLockLosses : Nat := 0x20000B
/-- RX_EQ (R167). -/
abbrev oRxEq : Nat := 0x20000C
/-- EYE_MARGIN (R167). -/
abbrev oEyeMargin : Nat := 0x20000D
/-- LAT_TX (R167). -/
abbrev oLatTx : Nat := 0x20000E
/-- LAT_RX (R167). -/
abbrev oLatRx : Nat := 0x20000F
/-- LANE_STOP (R167). -/
abbrev oLaneStop : Nat := 0x200010
/-- LANE_START (R167). -/
abbrev oLaneStart : Nat := 0x200011
/-- FRAME_ERR (R213). -/
abbrev oFrameErr : Nat := 0x200020
/-- UP_SLACK (R213). -/
abbrev oUpSlack : Nat := 0x200021
/-- RELAYING (R213). -/
abbrev oRelaying : Nat := 0x200022
/-- TERM_IFVER (R213). -/
abbrev oTermIfver : Nat := 0x220020
/-- DISAGREE_RUN (R213). -/
abbrev oDisagreeRun : Nat := 0x220021
/-- COPY_MISMATCHES (R213). -/
abbrev oCopyMismatches : Nat := 0x220022
/-- DIGEST_LATE (R213). -/
abbrev oDigestLate : Nat := 0x220023
/-- H_CARR_FRAMES (R222). -/
abbrev oHCarrFrames : Nat := 0x280010
/-- DT_H (R222). -/
abbrev oDtH : Nat := 0x280011
/-- DT_TAB (R222). -/
abbrev oDtTab : Nat := 0x280012
/-- H_PULSE_MIN (R222). -/
abbrev oHPulseMin : Nat := 0x280013
/-- TAB_INTERLEAVE (R222). -/
abbrev oTabInterleave : Nat := 0x280014
/-- PHI_MAX (R222). -/
abbrev oPhiMax : Nat := 0x280015
/-- CELL_EN_TOGGLE (R222). -/
abbrev oCellEnToggle : Nat := 0x280016
/-- PULSE_MOVES (R222). -/
abbrev oPulseMoves : Nat := 0x280017
/-- LEG_EN (R242). -/
abbrev oLegEn : Nat := 0x2A0000
/-- LEG_MODE (R242). -/
abbrev oLegMode : Nat := 0x2A0001
/-- PER (R242). -/
abbrev oPer : Nat := 0x2A0002
/-- PHASE (R242). -/
abbrev oPhase : Nat := 0x2A0003
/-- CMP (R242). -/
abbrev oCmp : Nat := 0x2A0004
/-- DT (R242). -/
abbrev oDt : Nat := 0x2A0005
/-- TC (R242). -/
abbrev oTc : Nat := 0x2A0006
/-- SRC (R242). -/
abbrev oSrc : Nat := 0x2A0007
/-- HUB_GROUP (R242). -/
abbrev oHubGroup : Nat := 0x2A0008
/-- LEG_TROUBLE (R242). -/
abbrev oLegTrouble : Nat := 0x2A0009
/-- HUB_PERIOD (R242). -/
abbrev oHubPeriod : Nat := 0x2A000A
/-- HALT_MODE (R242). -/
abbrev oHaltMode : Nat := 0x2A0020
/-- FREEZE_CONFIRM (R242). -/
abbrev oFreezeConfirm : Nat := 0x2A0021
/-- SAFE_LEVELS (R242). -/
abbrev oSafeLevels : Nat := 0x2A0022
/-- MASK_PAT (R242). -/
abbrev oMaskPat : Nat := 0x2A0023
/-- MASK_SRC (R242). -/
abbrev oMaskSrc : Nat := 0x2A0024
/-- MASK_LUT (R242). -/
abbrev oMaskLut : Nat := 0x2A0025
/-- MASK_EVT (R242). -/
abbrev oMaskEvt : Nat := 0x2A0026
/-- MASK_ACTIVE (R242). -/
abbrev oMaskActive : Nat := 0x2A0027
/-- FAST_TICK (R242). -/
abbrev oFastTick : Nat := 0x2A0030
/-- TICK_LEAD (R242). -/
abbrev oTickLead : Nat := 0x2A0031
/-- PAIR_SPLITS (R242). -/
abbrev oPairSplits : Nat := 0x2A0032
/-- SLOT_CFG (R271). -/
abbrev oSlotCfg : Nat := 0x300000
/-- SEC_BASE (R271). -/
abbrev oSecBase : Nat := 0x300001
/-- BR_LEN (R271). -/
abbrev oBrLen : Nat := 0x300002
/-- IN_PT (R271). -/
abbrev oInPt : Nat := 0x300003
/-- IN_W (R271). -/
abbrev oInW : Nat := 0x300004
/-- OUT_MAX (R271). -/
abbrev oOutMax : Nat := 0x300005
/-- OUT_MIN (R271). -/
abbrev oOutMin : Nat := 0x300006
/-- LIM_PT (R271). -/
abbrev oLimPt : Nat := 0x300007
/-- RUN_PT (R271). -/
abbrev oRunPt : Nat := 0x300008
/-- INIT (R271). -/
abbrev oInit : Nat := 0x300009
/-- THRESH (R271). -/
abbrev oThresh : Nat := 0x30000A
/-- SEC_COEF (R271). -/
abbrev oSecCoef : Nat := 0x300010
/-- SEC_CTL (R271). -/
abbrev oSecCtl : Nat := 0x300011
/-- SETPT (R271). -/
abbrev oSetpt : Nat := 0x300020
/-- LANE_CYCLES (R271). -/
abbrev oLaneCycles : Nat := 0x300030
/-- CORE_TIME (R271). -/
abbrev oCoreTime : Nat := 0x300031
/-- OVR_TOLERANCE (R271). -/
abbrev oOvrTolerance : Nat := 0x300032
/-- OVERRUNS (R271). -/
abbrev oOverruns : Nat := 0x300033
/-- FAST_LATE (R271). -/
abbrev oFastLate : Nat := 0x300034
/-- SLOT_RESET (R271). -/
abbrev oSlotReset : Nat := 0x300035
/-- TAP_SEL (R271). -/
abbrev oTapSel : Nat := 0x300040
/-- GRID_V_PT (R300). -/
abbrev oGridVPt : Nat := 0x340000
/-- CONV_V_PT (R300). -/
abbrev oConvVPt : Nat := 0x340001
/-- GRID_VFS (R300). -/
abbrev oGridVfs : Nat := 0x340002
/-- GRID_IFS (R300). -/
abbrev oGridIfs : Nat := 0x340003
/-- GRID_FNOM (R300). -/
abbrev oGridFnom : Nat := 0x340004
/-- PLL_KP (R300). -/
abbrev oPllKp : Nat := 0x340005
/-- PLL_KI (R300). -/
abbrev oPllKi : Nat := 0x340006
/-- PLL_LOCK_TOL (R300). -/
abbrev oPllLockTol : Nat := 0x340007
/-- VREF_PT (R300). -/
abbrev oVrefPt : Nat := 0x340008
/-- S_RATED (R300). -/
abbrev oSRated : Nat := 0x340009
/-- P_DEM_PT (R300). -/
abbrev oPDemPt : Nat := 0x34000A
/-- Q_REF_PT (R300). -/
abbrev oQRefPt : Nat := 0x34000B
/-- Q_REF (R300). -/
abbrev oQRef : Nat := 0x34000C
/-- P_GRID_MAX (R300). -/
abbrev oPGridMax : Nat := 0x34000D
/-- I_MAX (R300). -/
abbrev oIMax : Nat := 0x34000E
/-- I_PRIORITY (R300). -/
abbrev oIPriority : Nat := 0x34000F
/-- GRID_FF (R300). -/
abbrev oGridFf : Nat := 0x340010
/-- BAL_KH (R300). -/
abbrev oBalKh : Nat := 0x340011
/-- ROT_FRAMES (R300). -/
abbrev oRotFrames : Nat := 0x340012
/-- CARR_STAGGER (R300). -/
abbrev oCarrStagger : Nat := 0x340013
/-- LINK_KP (R300). -/
abbrev oLinkKp : Nat := 0x340014
/-- LINK_KI (R300). -/
abbrev oLinkKi : Nat := 0x340015
/-- LINK_IMAX (R300). -/
abbrev oLinkImax : Nat := 0x340016
/-- PS_MAX (R300). -/
abbrev oPsMax : Nat := 0x340017
/-- TAB_L (R300). -/
abbrev oTabL : Nat := 0x340018
/-- TAB_N (R300). -/
abbrev oTabN : Nat := 0x340019
/-- PHI_SLEW (R300). -/
abbrev oPhiSlew : Nat := 0x34001A
/-- BTRIM_SLOT (R300). -/
abbrev oBtrimSlot : Nat := 0x34001B
/-- LESSOR_ID (R305). -/
abbrev oLessorId : Nat := 0x380000
/-- CONTRACT_PACK (R305). -/
abbrev oContractPack : Nat := 0x380001
/-- BUDGET_WH (R305). -/
abbrev oBudgetWh : Nat := 0x380002
/-- C_RATE (R305). -/
abbrev oCRate : Nat := 0x380003
/-- CAP_AH (R305). -/
abbrev oCapAh : Nat := 0x380004
/-- SOC_MIN (R305). -/
abbrev oSocMin : Nat := 0x380005
/-- SOC_MAX (R305). -/
abbrev oSocMax : Nat := 0x380006
/-- T_MIN (R305). -/
abbrev oTMin : Nat := 0x380007
/-- T_MAX (R305). -/
abbrev oTMax : Nat := 0x380008
/-- EMERG_OK (R305). -/
abbrev oEmergOk : Nat := 0x380009
/-- EMERG_SOC_MIN (R305). -/
abbrev oEmergSocMin : Nat := 0x38000A
/-- VCELL_FULL (R305). -/
abbrev oVcellFull : Nat := 0x38000B
/-- VCELL_EMPTY (R305). -/
abbrev oVcellEmpty : Nat := 0x38000C
/-- CAL_GAIN (R335). -/
abbrev oCalGain : Nat := 0x38000D
/-- CAL_OFS (R335). -/
abbrev oCalOfs : Nat := 0x38000E
/-- DISP_REQ_PT (R335). -/
abbrev oDispReqPt : Nat := 0x380020
/-- DISP_REQ (R335). -/
abbrev oDispReq : Nat := 0x380021
/-- BUDGET_KNEE (R335). -/
abbrev oBudgetKnee : Nat := 0x380022
/-- TEMP_MARGIN (R335). -/
abbrev oTempMargin : Nat := 0x380023
/-- BUDGET_DAY_START (R335). -/
abbrev oBudgetDayStart : Nat := 0x380024
/-- DISP_EMERG (R335). -/
abbrev oDispEmerg : Nat := 0x380025
/-- EMERG_ACTIVE (R335). -/
abbrev oEmergActive : Nat := 0x380026
/-- SOC_SET (R335). -/
abbrev oSocSet : Nat := 0x380027
/-- METER_INTERVAL (R335). -/
abbrev oMeterInterval : Nat := 0x380030
/-- METER_STORE_N (R335). -/
abbrev oMeterStoreN : Nat := 0x380031
/-- EST_TOL (R335). -/
abbrev oEstTol : Nat := 0x380032
/-- METER_CLOSE (R335). -/
abbrev oMeterClose : Nat := 0x380033
/-- METER_READ (R335). -/
abbrev oMeterRead : Nat := 0x380034
/-- METER_ACK (R335). -/
abbrev oMeterAck : Nat := 0x380035
/-- METER_UNACKED (R335). -/
abbrev oMeterUnacked : Nat := 0x380036
/-- IMPORT_MWH (R335). -/
abbrev oImportMwh : Nat := 0x380037
/-- EXPORT_MWH (R335). -/
abbrev oExportMwh : Nat := 0x380038
/-- METER_LOST (R335). -/
abbrev oMeterLost : Nat := 0x380039
/-- ASSAY_FREQ (R358). -/
abbrev oAssayFreq : Nat := 0x3C0000
/-- BIN_WEIGHT (R358). -/
abbrev oBinWeight : Nat := 0x3C0001
/-- EXC_LEVEL (R358). -/
abbrev oExcLevel : Nat := 0x3C0002
/-- ASSAY_WINDOW (R358). -/
abbrev oAssayWindow : Nat := 0x3C0003
/-- MIN_CYCLES (R358). -/
abbrev oMinCycles : Nat := 0x3C0004
/-- COVER_MIN (R358). -/
abbrev oCoverMin : Nat := 0x3C0005
/-- I_FLOOR (R358). -/
abbrev oIFloor : Nat := 0x3C0006
/-- RESID_MAX (R358). -/
abbrev oResidMax : Nat := 0x3C0007
/-- RTC (R358). -/
abbrev oRtc : Nat := 0x3C0008
/-- STREAM_RATE (R358). -/
abbrev oStreamRateAssay : Nat := 0x3C0010
/-- BMS_DELAY (R358). -/
abbrev oBmsDelay : Nat := 0x3C0011
/-- ASSAY_PAR (R358). -/
abbrev oAssayPar : Nat := 0x3C0012
/-- R_NEW (R358). -/
abbrev oRNew : Nat := 0x3C0013
/-- LATE_SAMPLES (R358). -/
abbrev oLateSamples : Nat := 0x3C0020
/-- EXC_EXCLUDED (R358). -/
abbrev oExcExcluded : Nat := 0x3C0021
/-- WINDOWS_PUBLISHED (R358). -/
abbrev oWindowsPublished : Nat := 0x3C0022
/-- SEQ_CFG (R384). -/
abbrev oSeqCfg : Nat := 0x400000
/-- ENTRY (R384). -/
abbrev oEntry : Nat := 0x400001
/-- PAIR_MODE (R384). -/
abbrev oPairMode : Nat := 0x400002
/-- CHECK_TOL (R384). -/
abbrev oCheckTol : Nat := 0x400003
/-- CHECK_COUNT (R384). -/
abbrev oCheckCount : Nat := 0x400004
/-- CH_GAIN (R384). -/
abbrev oChGain : Nat := 0x400005
/-- CH_OFS (R384). -/
abbrev oChOfs : Nat := 0x400006
/-- SLICE_CAL (R384). -/
abbrev oSliceCal : Nat := 0x400007
/-- SLICE_OFS (R384). -/
abbrev oSliceOfs : Nat := 0x400008
/-- SLICE_GAIN (R384). -/
abbrev oSliceGain : Nat := 0x400009
/-- SLICE_SKEW (R384). -/
abbrev oSliceSkew : Nat := 0x40000A
/-- SLICE_LIVE (R384). -/
abbrev oSliceLive : Nat := 0x40000B
/-- SD_FILT (R384). -/
abbrev oSdFilt : Nat := 0x400010
/-- SDX_GAIN (R384). -/
abbrev oSdxGain : Nat := 0x400011
/-- SDX_OFS (R384). -/
abbrev oSdxOfs : Nat := 0x400012
/-- XB_CLK (R384). -/
abbrev oXbClk : Nat := 0x400013
/-- XB_DELAY (R384). -/
abbrev oXbDelay : Nat := 0x400014
/-- CONV_STATUS (R384). -/
abbrev oConvStatus : Nat := 0x400020
/-- CONV_TROUBLE (R384). -/
abbrev oConvTrouble : Nat := 0x400021
/-- DROPPED (R384). -/
abbrev oDropped : Nat := 0x400022
/-- INVALID_CNT (R384). -/
abbrev oInvalidCnt : Nat := 0x400023
/-- CONV_TRIGGER (R384). -/
abbrev oConvTrigger : Nat := 0x400024
/-- BLANK_HUB (R408). -/
abbrev oBlankHub : Nat := 0x440000
/-- GATE_DT_MIN (R408). -/
abbrev oGateDtMin : Nat := 0x440001
/-- GATE_STATUS (R408). -/
abbrev oGateStatus : Nat := 0x440002
/-- GATE_TROUBLE (R408). -/
abbrev oGateTrouble : Nat := 0x440003
/-- GATE_TRIP_TIME (R408). -/
abbrev oGateTripTime : Nat := 0x440004
/-- GATE_TRIPS (R408). -/
abbrev oGateTrips : Nat := 0x440005
/-- SHOOT_GUARDS (R408). -/
abbrev oShootGuards : Nat := 0x440006
/-- AX_MODE (R420). -/
abbrev oAxMode : Nat := 0x440010
/-- AX_LEVEL (R420). -/
abbrev oAxLevel : Nat := 0x440011
/-- AX_SRC (R420). -/
abbrev oAxSrc : Nat := 0x440012
/-- AX_PWM_FREQ (R420). -/
abbrev oAxPwmFreq : Nat := 0x440013
/-- AX_IDLE (R420). -/
abbrev oAxIdle : Nat := 0x440014
/-- AX_SAFE (R420). -/
abbrev oAxSafe : Nat := 0x440015
/-- AX_LOAD (R420). -/
abbrev oAxLoad : Nat := 0x440016
/-- AX_RMIN (R420). -/
abbrev oAxRmin : Nat := 0x440017
/-- AX_SETTLE (R420). -/
abbrev oAxSettle : Nat := 0x440018
/-- AX_OC_BLANK (R420). -/
abbrev oAxOcBlank : Nat := 0x440019
/-- AX_STATUS (R420). -/
abbrev oAxStatus : Nat := 0x44001A
/-- AX_PROBE (R420). -/
abbrev oAxProbe : Nat := 0x44001B
/-- AUX_PROSPECT (R420). -/
abbrev oAuxProspect : Nat := 0x44001C
/-- AUX_CLEAR (R420). -/
abbrev oAuxClear : Nat := 0x44001D
/-- REACTION (R448). -/
abbrev oReaction : Nat := 0x480000
/-- DERATE_HOLD (R448). -/
abbrev oDerateHold : Nat := 0x480001
/-- LEDGER_STORE_MIN (R448). -/
abbrev oLedgerStoreMin : Nat := 0x480002
/-- QUEUE_FILL (R448). -/
abbrev oQueueFill : Nat := 0x480003
/-- LOST (R448). -/
abbrev oLost : Nat := 0x480004
/-- FIRST_ERR (R448). -/
abbrev oFirstErr : Nat := 0x480005
/-- FIRST_ERR_REARM (R448). -/
abbrev oFirstErrRearm : Nat := 0x480006
/-- LEDGER_READ (R448). -/
abbrev oLedgerRead : Nat := 0x480007
/-- LEDGER_CLEAR (R448). -/
abbrev oLedgerClear : Nat := 0x480008
/-- LEDGER_INFO (R448). -/
abbrev oLedgerInfo : Nat := 0x480009
/-- INJECT_OPEN (R448). -/
abbrev oInjectOpen : Nat := 0x48000A
/-- INJECT_CLOSE (R448). -/
abbrev oInjectClose : Nat := 0x48000B
/-- FORCE (R448). -/
abbrev oForce : Nat := 0x48000C
/-- FORCE_POINT (R448). -/
abbrev oForcePoint : Nat := 0x48000D
/-- INJECT_STATE (R448). -/
abbrev oInjectState : Nat := 0x48000E
/-- EV_ROUTE (R448). -/
abbrev oEvRoute : Nat := 0x480010
/-- EV_SLOT (R448). -/
abbrev oEvSlot : Nat := 0x480011
/-- EV_PENDING (R448). -/
abbrev oEvPending : Nat := 0x480012
/-- EV_COUNT (R448). -/
abbrev oEvCount : Nat := 0x480013
/-- EV_SUBSCRIBE (R448). -/
abbrev oEvSubscribe : Nat := 0x480014
/-- ROLE (R483). -/
abbrev oRole : Nat := 0x180000
/-- PAIR_STATUS (R483). -/
abbrev oPairStatus : Nat := 0x180001
/-- EPOCH (R483). -/
abbrev oEpoch : Nat := 0x180002
/-- PEER_SERIAL (R483). -/
abbrev oPeerSerial : Nat := 0x180003
/-- PEER_WORD (R483). -/
abbrev oPeerWord : Nat := 0x180004
/-- CLEAN_RUN (R483). -/
abbrev oCleanRun : Nat := 0x180005
/-- INCOMPLETE_FRAMES (R483). -/
abbrev oIncompleteFrames : Nat := 0x180006
/-- DIVERGENCES (R483). -/
abbrev oDivergences : Nat := 0x180007
/-- TAKEOVERS (R483). -/
abbrev oTakeovers : Nat := 0x180008
/-- LAST_TAKEOVER (R483). -/
abbrev oLastTakeover : Nat := 0x180009
/-- PAIR_TROUBLE (R483). -/
abbrev oPairTrouble : Nat := 0x18000A
/-- PAIR_HANDOVER (R483). -/
abbrev oPairHandover : Nat := 0x18000B
/-- PAIR_REJOIN (R483). -/
abbrev oPairRejoin : Nat := 0x18000C
/-- LOCAL_TIME (R515). -/
abbrev oLocalTime : Nat := 0x100000
/-- TIME_STATUS (R515). -/
abbrev oTimeStatus : Nat := 0x100001
/-- TIME_SOURCE (R515). -/
abbrev oTimeSource : Nat := 0x100002
/-- STEP_THRESHOLD (R515). -/
abbrev oStepThreshold : Nat := 0x100003
/-- LOCK_TOL (R515). -/
abbrev oLockTol : Nat := 0x100004
/-- RATE_LIMIT (R515). -/
abbrev oRateLimit : Nat := 0x100005
/-- RATE_SLEW (R515). -/
abbrev oRateSlew : Nat := 0x100006
/-- INCREMENT (R515). -/
abbrev oIncrement : Nat := 0x100007
/-- TIME_OFFSET (R515). -/
abbrev oTimeOffset : Nat := 0x100008
/-- PTP_OFFSET (R515). -/
abbrev oPtpOffset : Nat := 0x100009
/-- UTC_OFFSET (R515). -/
abbrev oUtcOffset : Nat := 0x10000A
/-- STEP_AUTHORISE (R515). -/
abbrev oStepAuthorise : Nat := 0x10000B
/-- PTP_PROFILE (R515). -/
abbrev oPtpProfile : Nat := 0x100010
/-- PTP_TRANSPORT (R515). -/
abbrev oPtpTransport : Nat := 0x100011
/-- PTP_PORT (R515). -/
abbrev oPtpPort : Nat := 0x100012
/-- PTP_DOMAIN (R515). -/
abbrev oPtpDomain : Nat := 0x100013
/-- PTP_SLAVE_ONLY (R515). -/
abbrev oPtpSlaveOnly : Nat := 0x100014
/-- PTP_PRIORITY (R515). -/
abbrev oPtpPriority : Nat := 0x100015
/-- PTP_LOG_SYNC (R515). -/
abbrev oPtpLogSync : Nat := 0x100016
/-- PTP_INGRESS_LAT (R515). -/
abbrev oPtpIngressLat : Nat := 0x100017
/-- PTP_EGRESS_LAT (R515). -/
abbrev oPtpEgressLat : Nat := 0x100018
/-- PTP_ASYM (R515). -/
abbrev oPtpAsym : Nat := 0x100019
/-- PTP_PORT_STATE (R515). -/
abbrev oPtpPortState : Nat := 0x10001A
/-- PTP_GM (R515). -/
abbrev oPtpGm : Nat := 0x10001B
/-- PTP_PATH_DELAY (R515). -/
abbrev oPtpPathDelay : Nat := 0x10001C
/-- CH_ASYM (R515). -/
abbrev oChAsym : Nat := 0x100020
/-- HOP_ASYM (R515). -/
abbrev oHopAsym : Nat := 0x100021
/-- HOP_DELAY (R515). -/
abbrev oHopDelay : Nat := 0x100022
/-- ECHO_PERIOD (R515). -/
abbrev oEchoPeriod : Nat := 0x100023
/-- ECHO_REJECTS (R515). -/
abbrev oEchoRejects : Nat := 0x100024
/-- PEER_ASYM (R515). -/
abbrev oPeerAsym : Nat := 0x100028
/-- PEER_OFFSET (R515). -/
abbrev oPeerOffset : Nat := 0x100029
/-- TIMED_ACTION (R515). -/
abbrev oTimedAction : Nat := 0x100030
/-- TIMED_SLOT (R515). -/
abbrev oTimedSlot : Nat := 0x100031
/-- TIMED_CANCEL (R515). -/
abbrev oTimedCancel : Nat := 0x100032
/-- CAL_UTC (R518). -/
abbrev oCalUtc : Nat := 0x120000
/-- CAL_STATUS (R518). -/
abbrev oCalStatus : Nat := 0x120001
/-- CAL_SET (R518). -/
abbrev oCalSet : Nat := 0x120002
/-- CAL_TRIM (R518). -/
abbrev oCalTrim : Nat := 0x120003
/-- CAL_AUTO (R518). -/
abbrev oCalAuto : Nat := 0x120004
/-- CAL_TAMPER (R518). -/
abbrev oCalTamper : Nat := 0x120005
/-- CAL_TAMPER_CLEAR (R518). -/
abbrev oCalTamperClear : Nat := 0x120006
/-- SLOT_TABLE (R534). -/
abbrev oSlotTable : Nat := 0x500000
/-- RANK (R534). -/
abbrev oRank : Nat := 0x500001
/-- STARVE_N (R534). -/
abbrev oStarveN : Nat := 0x500002
/-- SLOTS_OWNED (R534). -/
abbrev oSlotsOwned : Nat := 0x500003
/-- GUARANTEED (R534). -/
abbrev oGuaranteed : Nat := 0x500004
/-- NEED (R534). -/
abbrev oNeed : Nat := 0x500005
/-- MAX_GAP (R534). -/
abbrev oMaxGap : Nat := 0x500006
/-- BANK_STATUS (R534). -/
abbrev oBankStatus : Nat := 0x500007
/-- GRANTS (R534). -/
abbrev oGrants : Nat := 0x500008
/-- RESERVE_GRANTS (R534). -/
abbrev oReserveGrants : Nat := 0x500009
/-- WDOG_FIRES (R534). -/
abbrev oWdogFires : Nat := 0x50000A
/-- WU_CFG (R561). -/
abbrev oWuCfg : Nat := 0x540000
/-- WU_BASE (R561). -/
abbrev oWuBase : Nat := 0x540001
/-- WU_LEN (R561). -/
abbrev oWuLen : Nat := 0x540002
/-- WL_PT (R561). -/
abbrev oWlPt : Nat := 0x540003
/-- WL_DBAND (R561). -/
abbrev oWlDband : Nat := 0x540004
/-- WU_RBASE (R561). -/
abbrev oWuRbase : Nat := 0x540005
/-- WU_RSIZE (R561). -/
abbrev oWuRsize : Nat := 0x540006
/-- WU_TRIG_PT (R561). -/
abbrev oWuTrigPt : Nat := 0x540007
/-- WU_LEVEL (R561). -/
abbrev oWuLevel : Nat := 0x540008
/-- WU_HYST (R561). -/
abbrev oWuHyst : Nat := 0x540009
/-- WU_TRIG_SEL (R561). -/
abbrev oWuTrigSel : Nat := 0x54000A
/-- WU_PRE (R561). -/
abbrev oWuPre : Nat := 0x54000B
/-- WU_POST (R561). -/
abbrev oWuPost : Nat := 0x54000C
/-- WU_HOLD_FR (R561). -/
abbrev oWuHoldFr : Nat := 0x54000D
/-- WU_HOLD_TRIG (R561). -/
abbrev oWuHoldTrig : Nat := 0x54000E
/-- IMAGE_SCANS (R561). -/
abbrev oImageScans : Nat := 0x54000F
/-- WU_STATUS (R561). -/
abbrev oWuStatus : Nat := 0x540010
/-- WU_MISSED (R561). -/
abbrev oWuMissed : Nat := 0x540011
/-- WU_ARM (R561). -/
abbrev oWuArm : Nat := 0x540012
/-- WU_DISARM (R561). -/
abbrev oWuDisarm : Nat := 0x540013
/-- WU_TRIGGER (R561). -/
abbrev oWuTrigger : Nat := 0x540014
/-- WU_RELEASE (R561). -/
abbrev oWuRelease : Nat := 0x540015
/-- ACQ_EXPORT (R561). -/
abbrev oAcqExport : Nat := 0x540016
/-- STREAM_IP (R561). -/
abbrev oStreamIp : Nat := 0x540020
/-- STREAM_UDP (R561). -/
abbrev oStreamUdp : Nat := 0x540021
/-- STREAM_E (R561). -/
abbrev oStreamE : Nat := 0x540022
/-- STREAM_RATE (R561). -/
abbrev oStreamRateNet : Nat := 0x540023
/-- STREAM_METER (R561). -/
abbrev oStreamMeter : Nat := 0x540024
/-- CKPT_FRAMES (R561). -/
abbrev oCkptFrames : Nat := 0x580000
/-- CKPT_LAST (R561). -/
abbrev oCkptLast : Nat := 0x580001
/-- JRNL_SPAN (R561). -/
abbrev oJrnlSpan : Nat := 0x580002
/-- JOIN_SPAN (R561). -/
abbrev oJoinSpan : Nat := 0x580003
/-- E_MAX (R561). -/
abbrev oEMax : Nat := 0x580004
/-- JRNL_HOLD_CLASS (R561). -/
abbrev oJrnlHoldClass : Nat := 0x580005
/-- JRNL_PRE (R561). -/
abbrev oJrnlPre : Nat := 0x580006
/-- JRNL_POST (R561). -/
abbrev oJrnlPost : Nat := 0x580007
/-- HOLD_INFO (R561). -/
abbrev oHoldInfo : Nat := 0x580008
/-- HOLDS_MISSED (R561). -/
abbrev oHoldsMissed : Nat := 0x580009
/-- JRNL_HOLD (R561). -/
abbrev oJrnlHold : Nat := 0x58000A
/-- JRNL_RELEASE (R561). -/
abbrev oJrnlRelease : Nat := 0x58000B
/-- JRNL_EXPORT (R561). -/
abbrev oJrnlExport : Nat := 0x58000C
/-- RR_START (R561). -/
abbrev oRrStart : Nat := 0x580010
/-- RR_STOP (R561). -/
abbrev oRrStop : Nat := 0x580011
/-- RR_IMPORT (R561). -/
abbrev oRrImport : Nat := 0x580012
/-- RR_WATCH (R561). -/
abbrev oRrWatch : Nat := 0x580013
/-- RR_UNIT (R561). -/
abbrev oRrUnit : Nat := 0x580014
/-- RR_STREAM (R561). -/
abbrev oRrStream : Nat := 0x580015
/-- RR_STATUS (R561). -/
abbrev oRrStatus : Nat := 0x580016
/-- RR_FIRST_DIFF (R561). -/
abbrev oRrFirstDiff : Nat := 0x580017
/-- RR_DIFFS (R561). -/
abbrev oRrDiffs : Nat := 0x580018
/-- PLL_STATUS (R586). -/
abbrev oPllStatus : Nat := 0x600000
/-- ISLAND_CLK (R586). -/
abbrev oIslandClk : Nat := 0x600001
/-- CLKOUT_CFG (R586). -/
abbrev oClkoutCfg : Nat := 0x600002
/-- SUPPLY_STATUS (R586). -/
abbrev oSupplyStatus : Nat := 0x600003
/-- RAIL_MV (R586). -/
abbrev oRailMv : Nat := 0x600004
/-- RESET_CAUSE (R586). -/
abbrev oResetCause : Nat := 0x600005
/-- JUNCTION_TEMP (R586). -/
abbrev oJunctionTemp : Nat := 0x600006
/-- TJ_HOT (R586). -/
abbrev oTjHot : Nat := 0x600007
/-- PF_COUNT (R586). -/
abbrev oPfCount : Nat := 0x600008
/-- TROUBLE (R100). -/
abbrev oTrouble : Nat := 0x030000

end Sys2Proof.Machine
end

