-- ==== Sys2Proof/Machine/Ops.lean ====
section
/-! DEFINITION. The named operations over the state that every family uses: dictionary values, points, time, free
values, events and the trouble record. -/

namespace Sys2Proof.Machine

variable {s0 : Root}

/-! ### Free values -/

/-- The next free 32-bit value (the manual leaves it open). -/
def Eff.freeWord (e : Eff s0) : BitVec 32 := Config.freeWord e.free

/-- The next free truth value. -/
def Eff.freeBool (e : Eff s0) : Bool := Config.freeBool e.free

/-! ### Dictionary values -/

/-- The index of an element of an object in the committed and staged sets. -/
def key (obj elem : Nat) : Nat := obj * 65536 + elem

/-- The default slot table (R529): position i of the table of one bank, as the entry of R535. -/
def slotDefault (i : Nat) : Nat :=
  let g := i / 16
  match i % 16 with
  | 0 => 16 | 1 => 17 | 2 => 18 | 3 => 19
  | 4 => 20 | 10 => 20 | 5 => 21 | 6 => 23 | 7 => 24 | 8 => 25 | 9 => 27
  | 11 => if g % 2 = 0 then 22 else 26
  | 12 => if g % 2 = 0 then 31 else 0
  | 13 => if g % 4 = 0 then 28 else if g % 4 = 1 then 29 else if g % 4 = 2 then 30 else 0
  | _ => 0

/-- The default of an element (R12): `strapB` selects the default of DAPC_ID (R88). -/
def dfltVal (strapB : Bool) (r : ObjRow) (elem : Nat) : Nat :=
  match r.dflt with
  | .con v => v
  | .lin b st => b + st * elem
  | .list vs => vs.getD elem 0
  | .dapcId => if strapB then 0x648 else 0x640
  | .reaction => reactionDefault elem
  | .slotTable => slotDefault (elem % 128)

/-- The default of an object's element, 0 for an object the dictionary does not have. -/
def objDefault (strapB : Bool) (obj elem : Nat) : Nat :=
  match objRow? obj with
  | some r => dfltVal strapB r elem
  | none => 0

/-- The committed (active) value of an element, as raw bits (R71). -/
def State.cv (s : State) (obj elem : Nat) : Nat :=
  match smGet none s.cfg (key obj elem) with
  | some v => v
  | none => objDefault s.pair.strapB obj elem

/-- The committed value of an element. -/
@[simp] abbrev Eff.cv (e : Eff s0) (obj : Nat) (elem : Nat := 0) : Nat := e.st.cv obj elem

/-- The committed value of an element as a signed 32-bit number. -/
@[simp] abbrev Eff.cvi (e : Eff s0) (obj : Nat) (elem : Nat := 0) : Int := signed 32 (e.st.cv obj elem)

/-- The octets of a value of a type of fixed width (R67); 0 for the types that carry their own length. -/
def Ty.width : Ty → Nat
  | .bool => 1 | .u8 => 1 | .i8 => 1 | .u16 => 2 | .i16 => 2 | .u32 => 4 | .i32 => 4 | .q31 => 4 | .q230 => 4
  | .pointref => 4 | .u64 => 8 | .i64 => 8 | .time96 => 12 | .string => 0 | .blob => 0

/-- The type code that responses carry (R67). -/
def Ty.code : Ty → Byte
  | .bool => 1 | .u8 => 2 | .u16 => 3 | .u32 => 4 | .u64 => 5 | .i16 => 6 | .i32 => 7 | .i64 => 8 | .q31 => 9
  | .q230 => 0x0A | .time96 => 0x0B | .string => 0x0C | .blob => 0x0D | .pointref => 0x0E | .i8 => Config.typeCodeI8

/-! ### Time -/

/-- One nanosecond of the local clock, whose unit is 2⁻³² ns (R486). -/
def nsq : Int := 0x1_0000_0000

/-- The local clock in 2⁻¹⁶ ns, as TIME96 reads truncate it (R486). -/
def Eff.now16 (e : Eff s0) : Int := e.time.clock / 65536

/-- TIME96 of an instant in 2⁻¹⁶ ns as 12 octets: seconds, nanoseconds, fraction (R10, R67). -/
def time96 (t : Int) : List Byte :=
  let ns := t / 65536
  le 6 (rawBits 48 (ns / 1000000000)) ++ le 4 (ns % 1000000000).toNat ++ le 2 (t % 65536).toNat

/-- The instant of a TIME96 in 2⁻¹⁶ ns (R10). -/
def untime96 (bs : List Byte) : Int :=
  ((fieldLe bs 0 6 * 1000000000 + fieldLe bs 6 4) * 65536 + fieldLe bs 10 2 : Nat)

/-- FRAME_PERIOD in ns. -/
@[simp] abbrev Eff.tf (e : Eff s0) : Nat := e.cv oFramePeriod

/-- N_D, the frames of a dispatch cycle (R55). -/
def Eff.nd (e : Eff s0) : Nat := (1000000 + e.tf - 1) / e.tf

/-! ### Points (R45 to R49) -/

/-- The VALUE of a point word. -/
def ptVal (w : PointWord) : Int := signed 32 w.toNat

/-- The TOFF of a point word. -/
def ptToff (w : PointWord) : Int := signed 16 (w.toNat / 2 ^ 32)

/-- The QUALITY of a point word. -/
def ptQual (w : PointWord) : Nat := field w.toNat 48 8

/-- The FLAGS of a point word. -/
def ptFlags (w : PointWord) : Nat := field w.toNat 56 8

/-- A point word from its fields (R45). -/
def mkPoint (value toff : Int) (qual flags : Nat) : PointWord :=
  BitVec.ofNat 64 (rawBits 32 value + rawBits 16 toff * 2 ^ 32 + qual % 256 * 2 ^ 48 + flags % 256 * 2 ^ 56)

/-- QUALITY bits (R46). -/
abbrev qStale : Nat := 1
abbrev qDisagree : Nat := 2
abbrev qInvalid : Nat := 4
abbrev qSat : Nat := 8
abbrev qForced : Nat := 16
abbrev qDegraded : Nat := 32
abbrev qOld : Nat := 64

/-- Whether a quality makes a derived value DEGRADED (R49): STALE, INVALID, FORCED or DEGRADED. -/
def degrades (q : Nat) : Bool := field q 0 1 == 1 || field q 2 1 == 1 || field q 4 1 == 1 || field q 5 1 == 1

/-- The stored word of a point. -/
def State.pt (s : State) (n : Nat) : PointWord := smGet pointReset s.pts n

/-- The stored word of a point. -/
@[simp] abbrev Eff.pt (e : Eff s0) (n : Nat) : PointWord := e.st.pt n

/-- The VALUE of a point. -/
@[simp] abbrev Eff.pv (e : Eff s0) (n : Nat) : Int := ptVal (e.st.pt n)

/-- The QUALITY of a point. -/
@[simp] abbrev Eff.pq (e : Eff s0) (n : Nat) : Nat := ptQual (e.st.pt n)

/-- Writes a point. -/
def Eff.putPt (e : Eff s0) (n : Nat) (value toff : Int) (qual : Nat) (flags : Nat := 0) : Eff s0 :=
  e.setPoint n (mkPoint value toff qual flags)

/-- The reduction of TOFF at a missing frame (R48): whole units of 4 ns between the last two frame starts. -/
def Eff.toffStep (e : Eff s0) : Int := e.frame.tk / (4 * nsq) - e.frame.tkPrev / (4 * nsq)

/-- A point rewritten for a frame in which its input is missing (R48); `dis` where two intact copies differed. -/
def missWord (w : PointWord) (red : Int) (dis : Bool) : PointWord :=
  let q := ptQual w
  let keep := q - (field q 0 1) - 2 * field q 1 1
  let old := field q 6 1 == 1
  let t := ptToff w - red
  let q1 := keep + 1 + (if dis then 2 else 0)
  if old then mkPoint (ptVal w) (-32768) q1 (ptFlags w)
  else if t < -32768 then mkPoint (ptVal w) (-32768) (q1 + 64) (ptFlags w)
  else mkPoint (ptVal w) t q1 (ptFlags w)

/-- Rewrites a point whose input is missing in this frame (R48). -/
def Eff.missPt (e : Eff s0) (n : Nat) (dis : Bool := false) : Eff s0 := e.setPoint n (missWord (e.pt n) e.toffStep dis)

/-! ### Events and the trouble record (R99, R445, R446) -/

/-- An event occurs (R446): its pending bit, its count and the count of each registered session (R447). -/
def Eff.event (e : Eff s0) (ev : Nat) : Eff s0 :=
  e.modFaults fun f => { f with
    evPend := f.evPend ||| 2 ^ ev
    evCount := smMod 0 f.evCount ev (fun c => (c + 1) % 65536)
    subs := f.subs.map fun b => { b with counts := smMod 0 b.counts ev (· + 1) } }

/-- Sets a bit of the trouble record (R99) and raises EV11; OVERFLOW, bit 2, also EV12 (R445). -/
def Eff.setTrouble (e : Eff s0) (bit : Nat) : Eff s0 :=
  let e := (e.modTrouble (· ||| 2 ^ bit)).event 11
  e.when (bit == 2) (·.event 12)

/-- A condition of R58 fails: NONDET is set, and the journal marks the frame. -/
def Eff.nondet (e : Eff s0) : Eff s0 :=
  (e.setTrouble 0).modJrnl fun j => { j with nondet := true, sinceCkpt := true }

/-- Clears a bit of the trouble record, as R58 lets the device do with NONDET. -/
def Eff.clearTrouble (e : Eff s0) (bit : Nat) : Eff s0 := e.modTrouble fun t => if bitOf t bit then t - 2 ^ bit else t

/-- An item for the journal entry of the running frame (R548, R550). -/
def Eff.jitem (e : Eff s0) (itype id : Nat) (body : List Byte) : Eff s0 :=
  e.when e.frame.running (·.modJrnl fun j => { j with items := j.items ++ [⟨itype, id, body⟩] })

/-! ### Cells and lanes -/

/-- Cell n. -/
@[simp] abbrev Eff.cell (e : Eff s0) (n : Nat) : Cell := smGet Cell.reset e.st.cells n

/-- Changes cell n. -/
def Eff.modCell (e : Eff s0) (n : Nat) (f : Cell → Cell) : Eff s0 := e.modCells (smMod Cell.reset · n f)

/-- Lane l. -/
@[simp] abbrev Eff.lane (e : Eff s0) (l : Nat) : Lane := smGet Lane.reset e.st.lanes l

/-- Changes lane l; a change of the LANE_STATE of a chain raises its event (R445). -/
def Eff.modLane (e : Eff s0) (l : Nat) (f : Lane → Lane) : Eff s0 :=
  let old := (e.lane l).state
  let e := e.modLanes (smMod Lane.reset · l f)
  e.when (decide (l < 24) && (e.lane l).state != old) (·.event (24 + l))

/-- Domain d. -/
@[simp] abbrev Eff.dom (e : Eff s0) (d : Nat) : Domain := smGet Domain.reset e.st.doms d

/-- Changes domain d. -/
def Eff.modDom (e : Eff s0) (d : Nat) (f : Domain → Domain) : Eff s0 := e.modDoms (smMod Domain.reset · d f)

/-- Auxiliary output a. -/
@[simp] abbrev Eff.out (e : Eff s0) (a : Nat) : Aux := smGet Aux.reset e.st.aux a

/-- The phase of cell c in the committed set; 3 is not installed (R33). -/
@[simp] abbrev Eff.phase (e : Eff s0) (c : Nat) : Nat := e.cv oCellPhase c

/-- Whether cell c is installed. -/
def Eff.installed (e : Eff s0) (c : Nat) : Bool := e.phase c != 3

/-- The used phases (R18). -/
def Eff.usedPhases (e : Eff s0) : List Nat := if e.cv oConnection == 1 then [0] else [0, 1, 2]

/-- All cell numbers. -/
def allCells : List Nat := List.range 192

/-- The device's position: 0 on device A, 1 on device B (R112, R503). -/
def Eff.pos (e : Eff s0) : Nat := ofBool e.pair.strapB

/-- Whether the clock of island i runs (R572): neither faulty nor in debug halt. -/
def State.islandOn (s : State) (i : Nat) : Bool := !s.clk.stopped.contains i && !s.clk.halted.contains i

/-- Requester r has consumed the word of point n (R44). -/
def Eff.consume (e : Eff s0) (r n : Nat) : Eff s0 :=
  e.modFaults fun f => { f with consumed := smSet none f.consumed (r * pointCount + n) (some (rawBits 32 (ptVal (e.pt n)))) }

/-- Whether the role is ACTIVE (R449). -/
def Eff.isActive (e : Eff s0) : Bool := e.pair.role == .active

end Sys2Proof.Machine
end

