-- ==== Sys2Proof/Machine/SessOps.lean ====
section
/-! DEFINITION. Sessions and answers (R77, R81 to R93, R607): reading a request's header, sending a response on the
transport it came from, and ending a session. -/

namespace Sys2Proof.Machine

variable {s0 : Root}

/-! ### Status codes (R83) -/

abbrev stOk : Nat := 0x00
abbrev stNoObject : Nat := 0x01
abbrev stType : Nat := 0x02
abbrev stReadOnly : Nat := 0x03
abbrev stRights : Nat := 0x04
abbrev stNotStopped : Nat := 0x05
abbrev stLocked : Nat := 0x06
abbrev stBusy : Nat := 0x07
abbrev stRefused : Nat := 0x08
abbrev stIslandOff : Nat := 0x09
abbrev stNotActive : Nat := 0x0A
abbrev stLate : Nat := 0x0B
abbrev stAuth : Nat := 0x0C
abbrev stSeq : Nat := 0x0D
abbrev stTooLong : Nat := 0x0E
abbrev stNoSession : Nat := 0x0F

/-- The answer to a request: STATUS, DETAIL and what follows them (R82, R83). -/
structure Ans where
  status : Nat
  detail : Nat
  body : List Byte
  deriving DecidableEq, Repr

/-- OK with a result. -/
def ansOk (body : List Byte := []) : Ans := ⟨stOk, 0, body⟩

/-- OK with DETAIL NOCHANGE (R83). -/
def ansNoChange : Ans := ⟨stOk, 1, []⟩

/-- A refusal by its status. -/
def ansErr (status : Nat) (detail : Nat := 0) : Ans := ⟨status, detail, []⟩

/-- REFUSED with DETAIL RANGE (R608). -/
def ansRange : Ans := ⟨stRefused, 1, []⟩

/-- REFUSED with DETAIL REFERENCE (R608). -/
def ansReference : Ans := ⟨stRefused, 6, []⟩

/-- A U8 RESULT followed by 3 reserved octets (R608). -/
def ansResult (r : Nat) (tail : List Byte := []) : Ans := ⟨stOk, 0, le 4 r ++ tail⟩

/-- A RESULT with a U64 frame number, which is 0 whenever RESULT is not 0 (R608). -/
def ansResultFrame (r frame : Nat) : Ans := ansResult r (le 8 (if r = 0 then frame else 0))

/-- The payload of a response (R82). -/
def Ans.payload (a : Ans) : List Byte := BitVec.ofNat 8 a.status :: BitVec.ofNat 8 a.detail :: a.body

/-! ### Messages (R81) -/

/-- The octets of a DAP message before its TAG (R81): KIND 0 request, 1 response, 2 notification; `rsv` its reserved octets. -/
def dapOctets (kind opcode seq session : Nat) (payload : List Byte) (rsv : Nat := 0) : List Byte :=
  [BitVec.ofNat 8 (0x10 + kind), BitVec.ofNat 8 opcode] ++ le 2 seq ++ le 4 session ++ le 2 payload.length ++ le 2 rsv ++
    payload

/-- The tag of a message under a session key (R91). -/
def dapTag (ks octets : List Byte) : List Byte := (hmac ks octets).take 16

/-- A session and its slot. -/
def State.findSession (s : State) (id : Nat) : Option (Nat × Session) :=
  s.sess.slots.findSome? fun p =>
    match p.2 with
    | some x => if x.id = id then some (p.1, x) else none
    | none => none

/-- The octets of a message of the device to a session: tagged once the session has completed PROVE, but for the
responses to OPEN and PROVE themselves (R91). -/
def State.sealed (s : State) (kind opcode seq session : Nat) (payload : List Byte) : List Byte :=
  let m := dapOctets kind opcode seq session payload
  match s.findSession session with
  | some (_, x) => if x.proved && opcode != 0x10 && opcode != 0x11 then m ++ dapTag x.ks m else m
  | none => m

/-- The smallest CAN FD data length that holds `n` octets (R88). -/
def canLen (n : Nat) : Nat :=
  if n ≤ 8 then n else if n ≤ 12 then 12 else if n ≤ 16 then 16 else if n ≤ 20 then 20 else if n ≤ 24 then 24
  else if n ≤ 32 then 32 else if n ≤ 48 then 48 else 64

/-- The CAN FD segments of a message, from segment `i` on; `fuel` bounds their number (R88). -/
def canSegments : Nat → Nat → List Byte → List (List Byte)
  | 0, _, _ => []
  | fuel + 1, i, bs =>
    let last := bs.length ≤ 63
    let h := (if i = 0 then 128 else 0) + (if last then 64 else 0) + i % 64
    let body := BitVec.ofNat 8 h :: bs.take 63
    if last then [padTo (canLen body.length) body] else body :: canSegments fuel (i + 1) (bs.drop 63)

/-- Sends octets to where a request came from (R87 to R89): UDP, CAN FD segments on DAPC_ID + 1 (responses) or + 2
(notifications), or the SPI response or notification queue. -/
def Eff.transmit (e : Eff s0) (dst : Src) (note : Bool) (octets : List Byte) : Eff s0 :=
  match dst with
  | .udp _ _ _ => e.emit (.dap dst octets)
  | .can c =>
    let id := e.cv oDapcId c.val + (if note then 2 else 1)
    let e := (canSegments 64 0 octets).foldl (fun e seg => e.emit (.can c.val id seg)) e
    if note then e else e.modSess fun s => { s with canBusy := s.canBusy.filter (· != c.val) }
  | .spi => e.modSess fun s =>
      if note then { s with spiNote := s.spiNote ++ [octets] }
      else { s with spiResp := s.spiResp ++ [octets], spiBusy := false }

/-- Changes the session that holds a number. -/
def Eff.modSession (e : Eff s0) (id : Nat) (f : Session → Session) : Eff s0 :=
  match e.st.findSession id with
  | some (slot, x) => e.modSess fun s => { s with slots := smSet none s.slots slot (some (f x)) }
  | none => e

/-- The octets of the response to a request (R81). -/
def Eff.response (e : Eff s0) (q : Req) (opcode : Nat) (a : Ans) : List Byte :=
  e.st.sealed 1 opcode q.seq.toNat q.session.toNat a.payload

/-- Answers a message that no session executes (R86): the response goes back to its source, and no cache holds it. -/
def Eff.reply (e : Eff s0) (q : Req) (opcode : Nat) (a : Ans) : Eff s0 := e.transmit q.src false (e.response q opcode a)

/-- Answers a request (R81, R86): the response goes back to its source and into the session's cache under its SEQ. -/
def Eff.answer (e : Eff s0) (q : Req) (opcode : Nat) (a : Ans) : Eff s0 :=
  let m := e.response q opcode a
  let e := e.modSession q.session.toNat fun x =>
    { x with cache := x.cache.map fun c => if c.1 = q.seq.toNat then (c.1, m) else c }
  e.transmit q.src false m

/-- What becomes of a request after the checks of every request (R607). -/
inductive Verdict (s0 : Root) where
  | stop (e : Eff s0)
  | go (e : Eff s0) (level sess : Nat)

/-- Whether the transports serve DAP: not while unpowered, nor before start-up step 5 has completed (R108), nor while the SUP
island that runs them has no clock. -/
def State.serving (s : State) : Bool :=
  s.islandOn 6 && s.dev.state != .off && (s.dev.state != .boot || 5 ≤ s.dev.bootStage)

/-- Whether the time of a session is over: 5 s from its OPEN without its PROVE (R91), or SESSION_TIMEOUT without a valid request
(R90). PROVE_TIMEOUT and SESSION_TIMEOUT end it then; a request that comes before them finds it over. -/
def Eff.overdue (e : Eff s0) (x : Session) : Bool :=
  (!x.proved && decide (x.opened + 5000000000 < e.time.up)) ||
    decide (x.lastValid + e.cv oSessionTimeout * 1000000000 < e.time.up)

/-- Whether SEQ lies outside the window of a session (R86). -/
def Session.outside (x : Session) (seq : Nat) : Bool :=
  match x.hiSeq with
  | none => false
  | some h =>
    let ahead := (seq + 65536 - h) % 65536
    decide (32767 < ahead ∧ ahead < 65536 - 32)

/-- A request of a session is executed (R86): its SEQ joins the last four, and it restarts the session's timeout (R90). -/
def Session.takes (x : Session) (seq now : Nat) : Session :=
  let hi := match x.hiSeq with
    | none => seq
    | some h => if (seq + 65536 - h) % 65536 ≤ 32767 then seq else h
  { x with hiSeq := some hi, cache := ((seq, []) :: x.cache).take 4, lastValid := now }

/-- The checks of every request (R86, R90, R91, R607): NO_SESSION, a wrong tag (discarded and counted), SEQ with the
cache of the last 4 answers, TOO_LONG. Session 0 has no SEQ window of its own (log 15). DESIGN CHOICE (log 103): a request other than
PROVE before its session is proved, and a second PROVE, are answered NO_SESSION; an answer from the cache does not restart the
session's timeout. -/
def Eff.vet (e : Eff s0) (q : Req) (opcode : Nat) (payload : List Byte) : Verdict s0 :=
  let refuse (st : Nat) : Verdict s0 := .stop (e.reply q opcode (ansErr st))
  if !e.st.serving then .stop e
  else if q.session = 0 then
    if e.cv oObserverOpen = 0 then refuse stNoSession
    else if payload.length > 1444 then refuse stTooLong
    else .go e 0 0
  else
    match e.st.findSession q.session.toNat with
    | none => refuse stNoSession
    | some (_, x) =>
      if x.src ≠ q.src ∨ e.overdue x ∨ (!x.proved && opcode != 0x11) then refuse stNoSession
      else if x.proved && opcode != 0x11 &&
          q.tag != dapTag x.ks (dapOctets 0 opcode q.seq.toNat q.session.toNat payload q.rsv.toNat) then
        .stop (e.modSess fun s => { s with authFail := (s.authFail + 1) % 2 ^ 32 })
      else
        match x.cache.find? (·.1 == q.seq.toNat) with
        | some (_, m) => .stop (if m.isEmpty then e else e.transmit q.src false m)
        | none =>
          if x.proved && opcode == 0x11 then refuse stNoSession
          else if x.outside q.seq.toNat then refuse stSeq
          else if payload.length > 1444 then refuse stTooLong
          else .go (e.modSession x.id (·.takes q.seq.toNat e.time.up)) x.level x.id

/-! ### Staged sets and locks (R77) -/

/-- The domain of an object, 255 for none. -/
def objDomain (obj : Nat) : Nat := match objRow? obj with | some r => r.dom | none => 255

/-- The staged values of domain d, as (key, value) pairs. -/
def State.stagedOf (s : State) (d : Nat) : List (Nat × Nat) :=
  s.stg.filterMap fun p =>
    match p.2 with
    | some v => if objDomain (p.1 / 65536) = d then some (p.1, v) else none
    | none => none

/-- Discards the staged set of domain d and releases its lock (R77). -/
def Eff.unstage (e : Eff s0) (d : Nat) : Eff s0 :=
  ((e.st.stagedOf d).foldl (fun e p => e.setStg p.1 none) e).modDom d fun x => { x with owner := 0, left := [] }

/-- The owning blocks of some staged RWS elements leave idle (R76): a COMMIT that still holds them is refused. -/
def Eff.leaveIdle (e : Eff s0) (owns : Nat → Bool) : Eff s0 :=
  e.each e.stg fun e p =>
    match p.2, objRow? (p.1 / 65536) with
    | some _, some r =>
      e.when (r.acc == .rws && owns p.1 && r.dom < 15) (·.modDom r.dom fun x => { x with left := (p.1 :: x.left).dedup })
    | _, _ => e

/-- Ends an injection session (R439): every forced point is released at the next frame start. -/
def Eff.endInjection (e : Eff s0) : Eff s0 := e.modFaults fun f => { f with inject := none, releaseAll := true }

/-- Releases the locks of a session with the sets staged under them (R77). -/
def Eff.unlockAll (e : Eff s0) (id : Nat) : Eff s0 := e.each (List.range 15) fun e d => if (e.dom d).owner = id then e.unstage d else e

/-- The injection session and the registration of a session go (R439, R447). -/
def Eff.dropFaults (e : Eff s0) (id : Nat) : Eff s0 :=
  let e := match e.faults.inject with
    | some i => if i.sess = id then e.endInjection else e
    | none => e
  e.modFaults fun f => { f with subs := f.subs.filter (·.sess != id) }

/-- A session leaves its slot. -/
def Eff.dropSlot (e : Eff s0) (id : Nat) : Eff s0 :=
  match e.st.findSession id with
  | some (slot, _) => e.modSess fun s => { s with slots := smSet none s.slots slot none }
  | none => e

/-- Ends a session (R77, R90, R439, R447): its locks and staged sets, its injection session and its registration go. -/
def Eff.endSession (e : Eff s0) (id : Nat) : Eff s0 := ((e.unlockAll id).dropFaults id).dropSlot id

/-- Ends every session, as a role change does (R90, R450); an injection session ends with it (R439). -/
def Eff.endSessions (e : Eff s0) : Eff s0 :=
  let ids := e.sess.slots.filterMap fun p => p.2.map (·.id)
  let e := ids.foldl (fun e id => e.endSession id) e
  e.when e.faults.inject.isSome (·.endInjection)

end Sys2Proof.Machine
end

