-- ==== Sys2Proof/Machine/PairOps.lean ====
section
/-! DEFINITION. What every family shares of the pair, the gates and the lanes: Wynlink frames and TRIP blocks, CONTROL
messages, the claim, the change of role, gate outputs and auxiliary levels. -/

namespace Sys2Proof.Machine

variable {s0 : Root}

/-! ### Wynlink frames (R174, R175) -/

/-- A Wynlink frame: header, body and FCRC. `flags` are bits 4 to 7 of octet 1. -/
def wynFrame (kind flags : Nat) (body : List Byte) : List Byte :=
  let m := [BitVec.ofNat 8 kind, BitVec.ofNat 8 (1 + flags)] ++ le 2 (body.length + 8) ++ body
  m ++ le 4 (crc32c m).toNat

/-- Whether lane l is LOCKED. -/
def Eff.locked (e : Eff s0) (l : Nat) : Bool := (e.lane l).state == .locked

/-- Sends a frame on one chain lane; a lane that is not LOCKED carries none. -/
def Eff.sendChain (e : Eff s0) (n : Nat) (octets : List Byte) : Eff s0 :=
  e.when (e.locked n) (·.emit (.wynlink n (frameBlocks octets)))

/-- Sends a frame on one peer lane, the other while that one is not LOCKED (R451). -/
def Eff.sendPeer (e : Eff s0) (m : Nat) (octets : List Byte) : Eff s0 :=
  if e.locked (24 + m) then e.emit (.wynlink (24 + m) (frameBlocks octets))
  else if e.locked (25 - m) then e.emit (.wynlink (25 - m) (frameBlocks octets))
  else e

/-- Sends a frame on both peer lanes (R451). -/
def Eff.sendBoth (e : Eff s0) (octets : List Byte) : Eff s0 :=
  let e := e.when (e.locked 24) (·.emit (.wynlink 24 (frameBlocks octets)))
  e.when (e.locked 25) (·.emit (.wynlink 25 (frameBlocks octets)))

/-- A TRIP block (R197). -/
def tripBlock (cause epoch frame : Nat) : Block :=
  ctrlBlock ([0xAA, BitVec.ofNat 8 cause] ++ le 2 epoch ++ le 2 frame ++ [0x5A, 0xA5])

/-- Inserts a TRIP block into the LOCKED lanes of a list (R437, R438). -/
def Eff.tripOn (e : Eff s0) (ls : List Nat) (block : Block) : Eff s0 :=
  e.each ls fun e l => e.when (e.locked l) (·.emit (.trip l block))

/-- One segment of a CONTROL message (R456). -/
def controlFrame (type seg cseq frame : Nat) (last : Bool) (p : List Byte) : List Byte :=
  wynFrame 0x2A 0 ([BitVec.ofNat 8 type, BitVec.ofNat 8 (seg + if last then 128 else 0), 0, 0] ++ le 4 cseq ++
    le 8 frame ++ le 2 p.length ++ [0, 0] ++ p)

/-- The segments of a CONTROL message from segment `i` on; `fuel` bounds their number (R456). -/
def controlSegs (type cseq frame : Nat) : Nat → Nat → List Byte → List (List Byte)
  | 0, _, _ => []
  | fuel + 1, i, p =>
    if p.length ≤ 1508 then [controlFrame type i cseq frame true p]
    else controlFrame type i cseq frame false (p.take 1508) :: controlSegs type cseq frame fuel (i + 1) (p.drop 1508)

/-- The message types that are acknowledged (R457). -/
def ackedType (t : Nat) : Bool := t == 1 || t == 2 || t == 3 || t == 5 || t == 8

/-- Sends the segments of a CONTROL message on PL0 (R451). -/
def Eff.putControl (e : Eff s0) (type cseq frame : Nat) (p : List Byte) : Eff s0 :=
  e.each (controlSegs type cseq frame 128 0 p) fun e o => e.sendPeer 0 o

/-- Sends a new CONTROL message; one of an acknowledged type waits for its ACK (R457). -/
def Eff.sendControl (e : Eff s0) (type frame : Nat) (p : List Byte) : Eff s0 :=
  let c := e.pair.nextCseq
  let e := e.putControl type c frame p
  e.modPair fun s => { s with
    nextCseq := (c + 1) % 2 ^ 32
    outbox := if ackedType type then s.outbox ++ [⟨type, c, frame, p, e.frame.k, false⟩] else s.outbox }

/-- A journalled action passed to the standby (R457 type 0x03): OBJ, ARGLEN and arguments, acting at a frame. -/
def Eff.sendAction (e : Eff s0) (frame obj : Nat) (args : List Byte) : Eff s0 :=
  e.when e.pair.standby (·.sendControl 3 frame (le 3 obj ++ [0] ++ le 2 args.length ++ args))

/-- Whether a peer with the role STANDBY is present, to which a FAILOVER can go (R430). -/
def Eff.hasStandby (e : Eff s0) : Bool := e.pair.standby && e.pair.peerWord % 16 == 1

/-! ### Gate outputs -/

/-- Gate channel k. -/
@[simp] abbrev Eff.gch (e : Eff s0) (k : Nat) : Gate := smGet Gate.reset e.st.gate.gates k

/-- Changes gate channel k. -/
def Eff.modGch (e : Eff s0) (k : Nat) (f : Gate → Gate) : Eff s0 :=
  e.modGate fun g => { g with gates := smMod Gate.reset g.gates k f }

/-- The leg state of the gate model. -/
@[simp] abbrev Eff.leg (e : Eff s0) (u : Nat) : Leg := smGet Leg.reset e.st.gate.legs u

/-- Changes a leg of the gate model. -/
def Eff.modLeg (e : Eff s0) (u : Nat) (f : Leg → Leg) : Eff s0 :=
  e.modGate fun g => { g with legs := smMod Leg.reset g.legs u f }

/-- Whether a leg is in LATCHED (R392): a trip, a UVLO or the stage latch. -/
def Eff.latched (e : Eff s0) (u : Nat) : Bool := (e.leg u).trip || (e.leg u).uv || e.gate.stage

/-- Whether the enable of a leg is asserted (R391). -/
def Eff.enabled (e : Eff s0) (u : Nat) : Bool := (e.leg u).mon && !e.gate.enN

/-- Whether a gate's output is on (R392). -/
def Gate.isOn (g : Gate) : Bool := g.st == .blank || g.st == .on

/-- Turns a gate's output off at uptime `now` without a trip check; a DISABLED gate stays so. -/
def Gate.shut (now : Nat) (g : Gate) : Gate :=
  if g.st == .disabled then g else { g with st := .off, offAt := if g.isOn then some now else g.offAt }

/-- Turns all 24 hub gates off. -/
def Eff.allGatesOff (e : Eff s0) : Eff s0 := e.each (List.range 24) fun e k => e.modGch k (Gate.shut e.time.up)

/-- The other gate of a leg. -/
def partner (k : Nat) : Nat := if k % 2 = 0 then k + 1 else k - 1

/-- Sets bits of GATE_TROUBLE (R410). -/
def Eff.gateTrouble (e : Eff s0) (u bits : Nat) : Eff s0 := e.modLeg u fun l => { l with trouble := l.trouble ||| bits }

/-- Latches EARLY for gate k in BLANK (R393, R397). -/
def Eff.latchEarly (e : Eff s0) (k : Nat) : Eff s0 :=
  (e.modGch k fun g => { g with early := true }).gateTrouble (k / 2) (if k % 2 = 0 then 1 else 2)

/-- Whether the partner's output has been off for the guard dead time (R395). -/
def Eff.guardDead (e : Eff s0) (k : Nat) : Bool :=
  let p := e.gch (partner k)
  !p.isOn && (match p.offAt with
    | none => true
    | some t => decide (t + e.cv oGateDtMin (k / 2) ≤ e.time.up))

/-- Whether gate k may leave WAIT: the guard dead time is over (R395), and an overlap of commands over for DT (R394). -/
def Eff.guardOver (e : Eff s0) (k : Nat) : Bool :=
  e.guardDead k && (match (e.leg (k / 2)).overlapEnd with
    | none => true
    | some t => decide (8 * t + e.cv oDt (k / 2) ≤ 8 * e.time.up))

/-- A gate in WAIT whose guard dead time is over turns on, and its blanking starts with the BLANK_HUB now in force (R393, R395,
R408); a sense input that is asserted already latches EARLY (log 121). -/
def Eff.leaveWait (e : Eff s0) (k : Nat) : Eff s0 :=
  if (e.gch k).st == .wait && e.guardOver k then
    (e.modGch k fun g => { g with st := .blank, early := false, onAt := e.time.up, blank := e.cv oBlankHub (k / 2) }).when
      (e.gch k).sense (·.latchEarly k)
  else e

/-- A command reaches gate k (R393): off acts at once, and a latched EARLY falls due for its report (R397); on goes to WAIT where the
leg is enabled and not latched, with DT_GUARD where the guard dead time is not over (R395). -/
def Eff.gateTo (e : Eff s0) (k : Nat) (on : Bool) : Eff s0 :=
  if on then
    let armed := (e.gch k).st == .off && !e.latched (k / 2)
    let e := e.modGch k fun g => { g with cmd := true, st := if armed then .wait else g.st }
    (e.when (armed && !e.guardDead k) (·.gateTrouble (k / 2) 8)).leaveWait k
  else e.modGch k fun g => { g.shut e.time.up with
    cmd := false, early := false, earlyDue := g.earlyDue || (g.st == .blank && g.early) }

/-- The gates that R236 asks for on leg u have changed or not: notes them, with the uptime of a change (R230). -/
def Eff.want (e : Eff s0) (u : Nat) (h l : Bool) : Eff s0 :=
  let x := smGet HubLeg.reset e.st.hub.legs u
  e.when (x.wantH != h || x.wantL != l) (·.modHub fun y => { y with legs := smMod HubLeg.reset y.legs u fun x =>
    { x with wantH := h, wantL := l, wantAt := e.time.up } })

/-- Commands the gates of leg u: the leaving gate off at once, the arriving gate on once the leg's levels have stood for `dt` q_E
(R230). -/
def Eff.driveGates (e : Eff s0) (u : Nat) (h l : Bool) (dt : Nat) : Eff s0 :=
  let e := e.want u h l
  let e := e.when (!h) (·.gateTo (2 * u) false)
  let e := e.when (!l) (·.gateTo (2 * u + 1) false)
  if 8 * e.time.up < 8 * (smGet HubLeg.reset e.st.hub.legs u).wantAt + dt then e
  else
    let e := e.when (h && !(e.gch (2 * u)).cmd) (·.gateTo (2 * u) true)
    e.when (l && !(e.gch (2 * u + 1)).cmd) (·.gateTo (2 * u + 1) true)

/-- Holds some legs at SAFE_LEVELS (R129, R131, R236): leaving gates at once, arriving gates through the dead time (R230). -/
def Eff.safeLevels (e : Eff s0) (legs : List Nat) : Eff s0 :=
  let lv := e.cv oSafeLevels
  e.each legs fun e u =>
    let e := e.modHub fun h => { h with legs := smMod HubLeg.reset h.legs u fun l => { l with safeHeld := true } }
    e.driveGates u (bitOf lv (2 * u)) (bitOf lv (2 * u + 1)) (e.cv oDt u)

/-- Output period in ns at 20 MHz, group delay in ps at 20 MHz and settling count of a filter (R377). -/
def sdFilter (n : Nat) : Nat × Nat × Nat :=
  match n with
  | 0 => (800, 1125000, 3) | 1 => (1600, 2325000, 3) | 2 => (3200, 4725000, 3) | 3 => (6400, 9525000, 3)
  | 4 => (5000, 21175000, 11) | 5 => (5000, 62425000, 27) | 6 => (20000, 164925000, 19) | _ => (80000, 489925000, 15)

/-- The CLKOUT pins were not driven for an instant (R570): the XB outputs whose span includes it carry REASON 0x6. -/
def Eff.clkoutGap (e : Eff s0) : Eff s0 :=
  e.each ((List.range 8).map (16 + ·)) fun e c => e.modConv fun v => { v with
    sd := smMod SdCh.reset v.sd c fun x => { x with gap := (sdFilter (e.cv oSdFilt c)).2.2 } }

/-- The instant of local time that starts frame 0 on the present grid. -/
def Eff.frame0 (e : Eff s0) : Int := e.frame.tk - e.frame.k * e.tf * nsq

/-- Half the period that a CLKOUT_CFG code gives (R586). -/
def clkHalf (code : Nat) : Int :=
  match code with
  | 1 => 100 * nsq | 2 => 50 * nsq | 3 => 125 * nsq / 4 | 4 => 25 * nsq | 5 => 25 * nsq / 2 | 6 => 25 * nsq / 4 | _ => 20 * nsq

/-- Whether a pin is high at instant t (R569): from each rising edge for half a period. -/
def ClkPin.high (p : ClkPin) (t : Int) : Bool :=
  p.code != 0 && decide (p.first ≤ t) && ((t - p.first) / clkHalf p.code) % 2 == 0

/-- The first falling edge of a pin at or after instant t; t itself while the pin has not risen yet. -/
def ClkPin.fallAfter (p : ClkPin) (t : Int) : Int :=
  let h := clkHalf p.code
  if t ≤ p.first then t else p.first + h + (t - p.first - h + 2 * h - 1) / (2 * h) * (2 * h)

/-- The first rising edge of a pin that starts at instant t (R569): the first grid instant of its period at least 1 µs later; 25 MHz
has no grid (log 125). -/
def Eff.clkFirst (e : Eff s0) (code : Nat) (t : Int) : Int :=
  let at1 := t + 1000 * nsq
  let per := 2 * clkHalf code
  if code = 7 then at1 else e.frame0 + (at1 - e.frame0 + per - 1) / per * per

/-- The CLKOUT pins follow CLKOUT_CFG, the lock of PLL_C and the hub (R569, R570): a pin stops after a falling edge, or at once where it
goes high-impedance; one that changes its frequency stays low for a period of the old one first. -/
def Eff.clkoutFollow (e : Eff s0) : Eff s0 :=
  e.each (List.range 4) fun e i =>
    let p := smGet ClkPin.reset e.clk.clkouts i
    let want := if e.gate.hiZ || !e.dev.pllLocked.contains 2 then 0 else e.cv oClkoutCfg i % 8
    let now := e.time.clock
    if want = p.code then e
    else
      let low := if p.code = 0 then p.low else if e.gate.hiZ then now else p.fallAfter now
      let from' := if p.code = 0 then max now p.low else low + 2 * clkHalf p.code
      let next : ClkPin := ⟨want, if want = 0 then 0 else e.clkFirst want from', low⟩
      e.modClk fun c => { c with clkouts := smSet ClkPin.reset c.clkouts i next }

/-! ### Auxiliary outputs -/

/-- AX_STATUS (R421). -/
def Aux.status (a : Aux) : Nat :=
  ofBool a.energised + 2 * ofBool a.cmd + 4 * ofBool a.oc + 8 * ofBool a.ot + 16 * ofBool a.testing + 256 * a.result

/-- The inrush time starts at each change from de-energised to energised (R415). -/
def Aux.inrush (was : Bool) (now : Nat) (a : Aux) : Aux :=
  if a.energised && !was then { a with blanking := true, blankAt := now } else a

/-- Changes an output, with AX_OC_BLANK where it becomes energised (R415); a change of its AX_STATUS raises its event (R445). -/
def Eff.setOut (e : Eff s0) (n : Nat) (f : Aux → Aux) : Eff s0 :=
  let old := e.out n
  let e := e.modOut n fun a => (f a).inrush old.energised e.time.up
  e.when ((e.out n).status != old.status) (·.event (48 + n))

/-- Whether VAUX lies below 8.0 V, where every auxiliary output is off by its own lock-out (R578). -/
def Eff.vauxLow (e : Eff s0) : Bool := e.clk.notOk.contains 8 && smGet 0 e.clk.railMv 8 < 8000

/-- Orders the level of an output (R413, R415, R418): a de-energised level clears the overcurrent latch, an energised one
stops a running test, whose result is ABORTED, and starts AX_OC_BLANK; `pwm` is mode 2, `duty` its fraction in 1/256. -/
def Eff.orderOut (e : Eff s0) (n : Nat) (on pwm : Bool) (duty : Nat) : Eff s0 :=
  e.setOut n fun a =>
    if on then
      let fresh := pwm && !a.mode2
      { a with cmd := true, mode2 := pwm, duty := duty, energised := !a.oc && !a.ot && !e.vauxLow, blanking := a.blanking || fresh,
               blankAt := if fresh then e.time.up else a.blankAt,
               testing := false, result := if a.testing then 5 else a.result }
    else { a with cmd := false, mode2 := false, duty := 0, energised := false, oc := false, blanking := false }

/-- Starts the test of an output, which is de-energised for it (R412, R416). -/
def Eff.beginTest (e : Eff s0) (n : Nat) : Eff s0 :=
  (e.orderOut n false false 0).setOut n fun a => { a with testing := true, testAt := e.time.up }

/-- De-energises every output (R412, R131). -/
def Eff.auxOff (e : Eff s0) : Eff s0 := e.each (List.range 16) fun e n => e.orderOut n false false 0

/-! ### Claim, role and device state -/

/-- Releases the claim (R476): the hub outputs and the CLKOUT pins go high-impedance first, the drivers holding their gates off, then
ROLE_OK is released. -/
def Eff.releaseClaim (e : Eff s0) : Eff s0 := ((e.when (!e.gate.hiZ) (·.clkoutGap)).allGatesOff).dropClaim.clkoutFollow

/-- Whether epoch a is newer than epoch b (R178). -/
def newerThan (a b : Nat) : Bool := let d := (a + 65536 - b) % 65536; 1 ≤ d && d ≤ 32767

/-- DEV_STATE codes (R105). -/
def DevState.code : DevState → Nat
  | .off => 0 | .boot => 1 | .ready => 2 | .discover => 3 | .charge => 4 | .sync => 5 | .run => 6 | .derated => 7
  | .stopping => 8 | .safe => 9

/-- The DEV_STATE the device reports (R102): JOINING reports READY, RETIRED reports SAFE. -/
def State.devState (s : State) : DevState :=
  match s.pair.role with
  | .joining => .ready
  | .retired => .safe
  | _ => s.dev.state

/-- A change of role (R450): every session ends, EV10; a role other than ACTIVE releases the claim and de-energises the
auxiliary outputs (R102, R412, R476). Where the state that the device reports changes with its role, STATE_CAUSE is 0x0A and EV8
occurs (R102, R106, R445). -/
def Eff.becomeRole (e : Eff s0) (r : Role) : Eff s0 :=
  let e := e.endSessions.when (r != .active) fun e => e.releaseClaim.auxOff
  let was := e.st.devState
  let e := (e.setRole r).event 10
  e.when (e.st.devState != was) fun e => (e.modDev fun v => { v with cause := 10 }).event 8

/-- Changes DEV_STATE with its cause; EV8 (R445). Leaving READY or SAFE, every block leaves idle (R70). -/
def Eff.setState (e : Eff s0) (d : DevState) (cause : Nat) : Eff s0 :=
  let quiet (x : DevState) : Bool := x == .ready || x == .safe
  ((e.when (quiet e.dev.state && !quiet d) (·.leaveIdle fun _ => true)).putState d cause).event 8

/-- Sets a bit of DERATE_CAUSES (R105). -/
def Eff.derateSet (e : Eff s0) (b : Nat) : Eff s0 := e.modDev fun v => { v with derate := v.derate ||| 2 ^ b, derateClear := none }

/-- Clears a bit of DERATE_CAUSES; with none left the 1 s of R127 starts. -/
def Eff.derateUnset (e : Eff s0) (b : Nat) : Eff s0 :=
  e.modDev fun v =>
    let d := if bitOf v.derate b then v.derate - 2 ^ b else v.derate
    { v with derate := d, derateClear := if d = 0 && v.derate != 0 then some e.time.up else v.derateClear }

/-- The order of R104: SAFE, then STOPPING, then DERATED, then RUN, then the rest. -/
def DevState.rank : DevState → Nat
  | .safe => 4 | .stopping => 3 | .derated => 2 | .run => 1 | _ => 0

end Sys2Proof.Machine
end

