-- ==== Sys2Proof/Machine/Faults.lean ====
section
/-! DEFINITION. Faults, reactions and the Ledger (R422 to R448): reporting a fault with its reaction, the collector, the
ring, injection and events. -/

namespace Sys2Proof.Machine

variable {s0 : Root}

/-! ### Actions -/

/-- How an action was invoked: level and session of the caller, and where its answer goes. -/
structure Ctx where
  level : Nat
  sess : Nat
  ret : Ret

/-- The outcome of an action: the state, and its answer unless that comes later. -/
abbrev ActRes (s0 : Root) := Eff s0 × Option Ans

/-- Delivers the answer of an action: to its request, or into the slot of the scheduled action with EV19 (R513). -/
def Eff.finish (e : Eff s0) (r : Ret) (a : Ans) : Eff s0 :=
  match r with
  | .nobody => e
  | .req q => e.answer q 0x03 a
  | .slot i =>
    (e.modTime fun t => { t with timed := smMod none t.timed i (·.map fun x =>
      { x with isDone := true, status := a.status, detail := a.detail }) }).event 19

/-! ### Messages (R422, R442) -/

/-- The 64-bit message word (R422). -/
def Entry.word (m : Entry) : Nat :=
  m.addr % 2 ^ 32 + m.kind % 256 * 2 ^ 32 + m.sev % 16 * 2 ^ 40 + m.source % 4096 * 2 ^ 44

/-- The 32 octets of a Ledger entry (R442). -/
def Entry.octets (m : Entry) : List Byte :=
  let acc := match m.access with
    | some (r, t) => r % 16 + t % 4 * 16 + 64
    | none => 0
  le 8 m.word ++ time96 m.time ++ le 4 (m.frame % 2 ^ 32) ++ le 2 (min m.merges 65535) ++ le 1 acc ++
    le 1 (ofBool m.forced + 2 * ofBool m.notActed + 4 * ofBool m.peer + 8 * ofBool m.pfTail) ++ le 4 (m.seq % 2 ^ 32)

/-- What a source reports: source, kind, address, the instant where the kind's chapter names one (R424), requester and
access type (R429), raised by FORCE, whether the reaction is withheld, and whether it is a hub latch of the peer (R403). -/
structure Rep where
  source : Nat
  kind : Nat
  addr : Nat := 0
  time : Option Int := none
  access : Option (Nat × Nat) := none
  forced : Bool := false
  withheld : Bool := false
  peer : Bool := false

/-- The cell a message names (R431): form c, or form gate with a remote gate's or a cell stage's address. -/
def scopeCell (kind addr : Nat) : Option Nat :=
  match kind? kind with
  | none => none
  | some r =>
    if r.form = 1 then some addr
    else if r.form = 2 then
      if addr < 0x0C00 then some (addr / 16)
      else if 0x4000 ≤ addr ∧ addr ≤ 0x40BF then some (addr - 0x4000)
      else none
    else none

/-- The reaction class of a kind and address in the table in force (R425, R431). -/
def Eff.classOf (e : Eff s0) (kind addr : Nat) : Nat :=
  e.cv oReaction (2 * kind + (if (scopeCell kind addr).isSome then 1 else 0))

/-- A state change reaches the state machine (R103, R104). -/
def Eff.pushEv (e : Eff s0) (d : DevState) (cause : Nat) (r : Ret := .nobody) : Eff s0 :=
  e.modDev fun v => { v with events := v.events ++ [⟨d, cause, r⟩] }

/-- Whether the device drives the converter: ACTIVE, and neither OFF nor BOOT. -/
def Eff.live (e : Eff s0) : Bool := e.isActive && e.dev.state != .off && e.dev.state != .boot

/-- The cascade-wide trip (R131, R437): TRIP blocks on every LOCKED chain and peer lane, a repeat due 1 µs later, the
hub at SAFE levels, and entry to SAFE at the next frame boundary (R434). -/
def Eff.tripCascade (e : Eff s0) (code cause : Nat) : Eff s0 :=
  e.when e.live fun e =>
    let block := tripBlock code e.pair.epoch e.frame.k
    let e := (e.tripOn (List.range 26) block).modDev fun v => { v with tripRepeat := some (block, e.time.up) }
    let e := e.safeLevels (List.range 12)
    e.when (e.dev.state != .safe) (·.pushEv .safe cause)

/-- The device retires (R430, R477): RETIRING to the peer, role RETIRED, the claim released; the schedules of the
running frame are still completed. `cause` is 0 FAILOVER, 1 PWR_FAIL_N, 2 failed replay. -/
def Eff.retire (e : Eff s0) (cause : Nat) : Eff s0 :=
  let was := e.isActive
  let e := e.when was (·.sendControl 0x0A 0 (le 1 cause))
  (e.becomeRole .retired).modPair fun p => { p with finishing := was, replay := false }

/-- The stage latch of the hub (R105, R399, R401, R430): set with bit 1 of DERATE_CAUSES, all hub gates off, told to the standby (R403). `bit` is the cause
bit of LATCH (R457). -/
def Eff.latchStage (e : Eff s0) (bit : Nat) (at16 : Int) : Eff s0 :=
  let e := ((e.modGate fun g => { g with stage := true }).allGatesOff).derateSet 1
  e.when (e.isActive && e.pair.standby) (·.sendControl 5 0 ([0xFF] ++ le 1 (2 ^ bit) ++ time96 at16))

/-- The reaction of a class (R430, R433): what acts at once. `own` is false for a forced message. -/
def Eff.react (e : Eff s0) (cls kind addr : Nat) (at16 : Int) : Eff s0 :=
  let cause := if kind = kNminLost then 9 else if kind = kPwrFail then 8 else if kind = kTripAction then 1 else 5
  if cls = 2 then (e.derateSet 0).modDev fun v => { v with derateSince := e.time.up }
  else if cls = 3 then
    match scopeCell kind addr with
    | some c => e.modChain fun h => { h with departs := h.departs ++ [(c, 4)] }
    | none => e
  else if cls = 4 then e.latchStage 3 at16
  else if cls = 5 then e.tripCascade 5 cause
  else if cls = 6 then
    if e.isActive then
      if e.hasStandby then e.retire (if kind = kPwrFail then 1 else 0) else e.tripCascade 6 cause
    else e.when (e.pair.role == .standby || e.pair.role == .joining) (·.retire 0)
  else if cls = 7 then
    if e.isActive then e.tripCascade 7 cause
    else e.when (e.pair.role == .standby || e.pair.role == .joining) (·.retire 0)
  else e

/-- A report arrives at its source's holding register (R424, R428, R429): loaded or merged, captured in LAST, in FIRST and
FIRST_ERR where those are free. Of two kinds in one cycle of 2 ns the lower is the one that is loaded. -/
def Eff.record (e : Eff s0) (m : Entry) : Eff s0 :=
  e.modFaults fun f => { f with
    reports := f.reports + 1
    holding := smMod none f.holding m.source fun h =>
      match h with
      | none => some m
      | some x =>
        if smGet 0 f.heldSince m.source / 2 == e.time.up / 2 && decide (m.kind < x.kind) then some { m with merges := x.merges + 1 }
        else some { x with merges := x.merges + 1 }
    heldSince := match smGet none f.holding m.source with
      | none => smSet 0 f.heldSince m.source e.time.up
      | some _ => f.heldSince
    first := match f.first with
      | none => some m
      | some x => some x
    last := some m
    firstErr := match f.firstErr with
      | none => if sramKind m.kind then some m else none
      | some x => some x
    evMsg := smSet 0 f.evMsg m.sev m.word }

/-- Gates in BLANK with EARLY latched that a command off would report (R397). -/
def Eff.earlyGates (e : Eff s0) : List Nat :=
  (List.range 24).filter fun k => (e.gch k).st == .blank && (e.gch k).early

/-- The largest hold (R555). -/
def holdOctets : Nat := 6 * 1048576

/-- A hold takes an entry of its span (R555): its end moves earlier where it would exceed 6 MiB. -/
def Hold.take (h : Hold) (k : Nat) (m : List Byte) : Hold :=
  if h.complete || k < h.first then h
  else if holdOctets < h.octets + m.length then { h with last := k - 1, complete := true, cut := true }
  else { h with entries := (k, m) :: h.entries, octets := h.octets + m.length, complete := decide (h.last ≤ k) }

/-- A hold on the journal starts (R555): from the newest checkpoint at or before F_h − JRNL_PRE, the oldest there is where none
is that old, to F_h + JRNL_POST. While one exists a further cause is counted. -/
def Eff.startHold (e : Eff s0) : Eff s0 :=
  let fh := e.frame.k
  let pre := fh - e.cv oJrnlPre
  let cks := ([e.jrnl.slotA, e.jrnl.slotB].filterMap id).filter (·.done)
  let fits := (cks.filter fun c => c.frame ≤ pre).map (·.frame)
  let first := if fits.isEmpty then (cks.map (·.frame)).foldl min fh else fits.foldl max 0
  e.modJrnl fun j =>
    match j.hold with
    | some _ => { j with holdsMissed := (j.holdsMissed + 1) % 2 ^ 32 }
    | none =>
      let h : Hold := ⟨j.holdNum + 1, first, fh, fh + e.cv oJrnlPost, [], 0, false, false, cks.find? (·.frame == first)⟩
      { j with holdNum := j.holdNum + 1, hold := some (j.entries.reverse.foldl (fun h x => h.take x.1 x.2) h) }

/-- A source reports a fault: its message is recorded, its class's event occurs, and its reaction acts from that instant
whether loaded or merged (R424 to R434). The `fuel` bounds reports that a reaction itself causes: gates whose EARLY is
logged when SAFE levels turn them off (R397). -/
def Eff.reportN : Nat → Eff s0 → Rep → Eff s0
  | 0, e, _ => e
  | fuel + 1, e, r =>
    let cls := e.classOf r.kind r.addr
    let at16 := r.time.getD e.now16
    let rec1 := r.forced && (match e.faults.inject with | some i => i.mode == 1 | none => false)
    let follows := e.pair.role == .standby || e.pair.role == .joining
    let off := r.withheld || (rec1 && 2 ≤ cls) || (!e.isActive && 2 ≤ cls && (cls ≤ 5 || !follows))
    let m : Entry := { addr := r.addr, kind := r.kind, sev := cls, source := r.source, time := at16, frame := e.frame.k,
                       merges := 0, access := if sramKind r.kind then r.access else none, forced := r.forced,
                       notActed := off, peer := r.peer, pfTail := false, seq := 0, rid := e.faults.reports + 1 }
    let early := e.earlyGates
    let e := (e.record m).event cls
    let e := if off then e else e.react cls r.kind r.addr at16
    let e := e.when (!off && decide (e.cv oJrnlHoldClass ≤ cls ∧ e.cv oJrnlHoldClass ≠ 0xFF)) (·.startHold)
    let gone := early.filter fun k => (e.gch k).st != .blank && 5 ≤ cls
    gone.foldl (fun e k => Eff.reportN fuel e { source := 0x070, kind := kGateEarly, addr := 0x8000 + k }) e

/-- A source reports a fault. -/
def Eff.report (e : Eff s0) (r : Rep) : Eff s0 := e.reportN 3 r

/-- A report of one kind at one address. -/
def Eff.fault (e : Eff s0) (source kind : Nat) (addr : Nat := 0) : Eff s0 := e.report { source, kind, addr }

/-- A condition that persists is entered in the list the SAFE_EXIT check reads (R103). -/
def Eff.setCond (e : Eff s0) (kind addr : Nat) (on : Bool) : Eff s0 :=
  e.modDev fun v =>
    let l := v.conds.filter (· != (kind, addr))
    { v with conds := if on then (kind, addr) :: l else l }

/-- Whether a persisting condition has a reaction of class FAILOVER or HALT_SAFE (R198), or HALT_SAFE alone. -/
def Eff.condAtLeast (e : Eff s0) (cls : Nat) : Bool := e.dev.conds.any fun c => cls ≤ e.classOf c.1 c.2

/-- An ACTIVE device sees a newer epoch (R475): the claim goes at once, ROLE_CONFLICT is raised and DUAL_COMMAND set; no
schedules from the next frame start, at which the device becomes JOINING. -/
def Eff.newerEpoch (e : Eff s0) (ep : Nat) : Eff s0 :=
  if e.isActive && newerThan ep e.pair.epoch && !e.pair.newerSeen then
    let e := e.releaseClaim.modPair fun p => { p with newerSeen := true, trouble := p.trouble ||| 8 }
    e.fault 0x050 kRoleConflict 0
  else e

/-! ### From source to Ledger -/

/-- The VALUE of a point that a requester of the point store last consumed (R44): the deterministic core takes its points at the
deadline (R522); a requester that has never read the point has none. -/
def Eff.lastConsumed (e : Eff s0) (r n : Nat) : Option Int :=
  if 4 ≤ r ∧ r ≤ 7 then some (ptVal (smGet pointReset e.st.loop.taken n))
  else (smGet none e.st.faults.consumed (r * pointCount + n)).map (signed 32 ·)

/-- An uncorrectable SRAM error (R43, R44, R99): the trouble bit and an item of the journal. A point of the point store reads INVALID
with REASON 0xF and the VALUE that its reader last consumed (a free value where it has consumed none) until its producer writes it
again; slots whose coefficients or section states the word holds stop for the rest of the frame. -/
def Eff.sramUe (e : Eff s0) (addr master : Nat) : Eff s0 :=
  let e := (e.setTrouble 9).jitem 5 0 (le 4 addr ++ le 1 (master % 16) ++ zeros 3)
  if addr < 0x1000000 then
    let n := addr / 8
    let w := e.pt n
    let q := ptQual w
    let v := (e.lastConsumed (master % 16) n).getD e.freeWord.toInt
    e.tick.setPoint n (mkPoint v (ptToff w) (if bitOf q 2 then q else q + qInvalid) (ptFlags w / 16 * 16 + 15))
  else e.modLoop fun l => { l with halted := ((Config.slotsAt addr).filter (· < 512) ++ l.halted).dedup }

/-- FAULT_REPORT (R424, R425): a source reports. A reserved source or kind raises nothing (R436). An SRAM_UE sets its
trouble bit (R99). -/
def execFaultReport (source : BitVec 12) (kind : Byte) (address : BitVec 32) (master atype : Nat) (s : State) :
    Host.Outcome State Fault Refusal :=
  let e := Eff.start s
  let ok := isSource source.toNat && (kind? kind.toNat).isSome
  let e := e.when (ok && kind.toNat == kSramUe) (·.sramUe address.toNat master)
  .next (e.when ok (·.report { source := source.toNat, kind := kind.toNat, addr := address.toNat,
                               access := some (master % 16, atype % 4) })).st

/-- TRIP_REPEAT (R437): the TRIP block goes out a second time, 1 µs after the first. -/
def execTripRepeat (s : State) : Host.Outcome State Fault Refusal :=
  let e := Eff.start s
  match e.dev.tripRepeat with
  | some (block, t) =>
    .next (e.when (decide (t + 1000 ≤ e.time.up)) fun e =>
      (e.tripOn (List.range 26) block).modDev fun v => { v with tripRepeat := none }).st
  | none => .next e.st

/-- The holding register that has waited longest, ties in ascending SOURCE order (R426). -/
def State.oldestHeld (s : State) : Option (Nat × Entry) :=
  (s.faults.holding.filterMap fun p => p.2.map fun m => (p.1, m)).foldl (init := none) fun best p =>
    match best with
    | none => some p
    | some b => if smGet 0 s.faults.heldSince p.1 < smGet 0 s.faults.heldSince b.1 then some p else some b

/-- Frees a holding register. -/
def Eff.freeHold (e : Eff s0) (source : Nat) : Eff s0 :=
  e.modFaults fun f => { f with
    holding := smSet none f.holding source none, heldSince := smSet 0 f.heldSince source 0 }

/-- QUEUE_ACCEPT (R426): the queue, where it has space, accepts the message that has waited longest. -/
def execQueueAccept (s : State) : Host.Outcome State Fault Refusal :=
  let e := Eff.start s
  match e.st.oldestHeld with
  | some (src, m) =>
    .next (e.when (decide (e.queue.length < 256)) fun e =>
      let e := (e.freeHold src).pushQueue m
      e.when (e.queue.length == 256) (·.modFaults fun f => { f with fullAt := e.time.up })).st
  | none => .next e.st

/-- HOLDING_DROP (R427): a register that has waited through 1,000 cycles of a full queue, 2 µs, is dropped and counted in LOST;
OVERFLOW is set. Before that nothing happens. -/
def execHoldingDrop (source : BitVec 12) (s : State) : Host.Outcome State Fault Refusal :=
  let e := Eff.start s
  match smGet none e.faults.holding source.toNat with
  | some m =>
    if e.queue.length = 256 ∧ max e.faults.fullAt (smGet 0 e.faults.heldSince source.toNat) + 2000 ≤ e.time.up then
      let e := (e.freeHold source.toNat).modFaults fun f => { f with
        lost := smMod 0 f.lost (m.kind / 32) fun n => (n + 1 + m.merges) % 2 ^ 32 }
      .next (e.setTrouble 2).st
    else .next e.st
  | none => .next e.st

/-- Makes the ring entry of a message: its SEQ, and the SEQ of the captures of the same report (R428, R442). -/
def Eff.ledger (e : Eff s0) (m : Entry) : Eff s0 :=
  let n := (e.faults.ledgerSeq + 1) % 2 ^ 32
  let m' := { m with seq := n }
  let lossy := match e.ring.getLast? with
    | some o => e.ring.length == 32766 && decide (e.faults.readUpTo < o.seq)
    | none => false
  let e := if lossy then e.event 21 else e
  let stamp (o : Option Entry) : Option Entry := o.map fun x => if x.rid = m.rid then { x with seq := n } else x
  (e.pushRing m').modFaults fun f => { f with
    ledgerSeq := n, first := stamp f.first, last := stamp f.last, firstErr := stamp f.firstErr }

/-- LEDGER_DRAIN (R426, R428): the oldest message of the queue becomes a ring entry, once start-up has restored the Ledger. -/
def execLedgerDrain (s : State) : Host.Outcome State Fault Refusal :=
  let e := Eff.start s
  match if e.dev.state == .boot && e.dev.bootStage < 5 then [] else e.queue with
  | m :: _ => .next (e.popQueue.ledger m).st
  | [] => .next e.st

/-! ### Actions of the fault family (R448) -/

/-- FIRST_ERR_REARM (R429). -/
def actFirstErrRearm (e : Eff s0) (_c : Ctx) (args : List Byte) : ActRes s0 :=
  if args ≠ [] then (e, some (ansErr stType)) else (e.modFaults fun f => { f with firstErr := none }, some ansOk)

/-- LEDGER_READ (R448): the entries from SEQ on, oldest first; slots 0 and 1 by 0xFFFF_FFF0 and 0xFFFF_FFF1. -/
def actLedgerRead (e : Eff s0) (_c : Ctx) (args : List Byte) : ActRes s0 :=
  if args.length ≠ 5 then (e, some (ansErr stType))
  else
    let sq := fieldLe args 0 4
    let n := octet args 4
    if n = 0 ∨ 40 < n then (e, some ansRange)
    else if sq = 0xFFFF_FFF0 then
      (e, some (match e.faults.first with | some m => ansOk m.octets | none => ansErr stNoObject))
    else if sq = 0xFFFF_FFF1 then
      (e, some (match e.faults.last with | some m => ansOk m.octets | none => ansErr stNoObject))
    else
      let l := (e.ring.reverse.filter (fun m => sq ≤ m.seq)).take n
      if l.isEmpty then (e, some (ansErr stNoObject))
      else
        let top := l.foldl (fun a m => max a m.seq) 0
        (e.modFaults fun f => { f with readUpTo := max f.readUpTo top }, some (ansOk (l.flatMap Entry.octets)))

/-- LEDGER_CLEAR (R444): the ring and FIRST are emptied, then LEDGER_CLEARED is recorded. -/
def actLedgerClear (e : Eff s0) (c : Ctx) (args : List Byte) : ActRes s0 :=
  if args ≠ [] then (e, some (ansErr stType))
  else
    let e := (e.setRing []).modFaults fun f => { f with first := none }
    (e.fault 0x082 kLedgerCleared c.sess, some ansOk)

/-- Whether an injection session is open: one past its end is none, whether or not INJECT_EXPIRY has come (R439). -/
def Eff.injectOpen (e : Eff s0) : Bool := e.faults.inject.any fun i => decide (e.time.up < i.ends)

/-- INJECT_OPEN (R439). -/
def actInjectOpen (e : Eff s0) (c : Ctx) (args : List Byte) : ActRes s0 :=
  if args.length ≠ 3 then (e, some (ansErr stType))
  else
    let d := fieldLe args 0 2
    let m := octet args 2
    if d = 0 ∨ 3600 < d ∨ 1 < m then (e, some ansRange)
    else if e.injectOpen then (e, some (ansErr stBusy))
    else ((e.when e.faults.inject.isSome (·.endInjection)).modFaults fun f => { f with inject := some ⟨c.sess, m, e.time.up + d * 1000000000⟩ }, some ansOk)

/-- Whether the calling session holds the open injection session. -/
def Eff.injecting (e : Eff s0) (c : Ctx) : Bool :=
  e.injectOpen && e.faults.inject.any (·.sess == c.sess)

/-- INJECT_CLOSE (R439). -/
def actInjectClose (e : Eff s0) (c : Ctx) (args : List Byte) : ActRes s0 :=
  if args ≠ [] then (e, some (ansErr stType))
  else if e.injecting c then (e.endInjection, some (ansResult 0)) else (e, some (ansResult 1))

/-- INJECT_EXPIRY (R439): the injection session ends at the end of its duration; before it nothing happens. -/
def execInjectExpiry (s : State) : Host.Outcome State Fault Refusal :=
  let e := Eff.start s
  match e.faults.inject with
  | some i => .next (if i.ends ≤ e.time.up then e.endInjection else e).st
  | none => .next e.st

/-- FORCE (R440): a message raised at a source's holding register as if the source had reported it. -/
def actForce (e : Eff s0) (c : Ctx) (args : List Byte) : ActRes s0 :=
  if args.length ≠ 7 then (e, some (ansErr stType))
  else
    let src := fieldLe args 0 2
    let k := octet args 2
    if !isSource src || (kind? k).isNone then (e, some ansRange)
    else if !e.injecting c then (e, some (ansResult 1))
    else (e.report { source := src, kind := k, addr := fieldLe args 3 4, forced := true }, some (ansResult 0))

/-- EV_SUBSCRIBE (R447). -/
def actEvSubscribe (e : Eff s0) (c : Ctx) (args : List Byte) : ActRes s0 :=
  if args.length ≠ 1 then (e, some (ansErr stType))
  else if 1 < octet args 0 then (e, some ansRange)
  else if c.sess = 0 then (e, some (ansErr stNoSession))
  else
    let reg := e.faults.subs.any (·.sess == c.sess)
    if octet args 0 = 1 then
      if reg then (e, some ansNoChange)
      else if 4 ≤ e.faults.subs.length then (e, some (ansErr stBusy))
      else (e.modFaults fun f => { f with subs := f.subs ++ [⟨c.sess, [], []⟩] }, some ansOk)
    else if reg then (e.modFaults fun f => { f with subs := f.subs.filter (·.sess != c.sess) }, some ansOk)
    else (e, some ansNoChange)

/-- EVENT_NOTIFICATION (R447): a registered session is told of an event routed to notifications, at most once per 10 ms
and event. SEQ of a notification is not stated: a free value. -/
def execEventNotification (slot : Fin 8) (ev : Fin 128) (s : State) : Host.Outcome State Fault Refusal :=
  let e := Eff.start s
  match smGet none e.sess.slots slot.val with
  | none => .next e.st
  | some x =>
    match e.faults.subs.find? (·.sess == x.id) with
    | none => .next e.st
    | some b =>
      let n := smGet 0 b.counts ev.val
      let at0 := smGet 0 b.lastAt ev.val
      if n = 0 ∨ !bitOf (e.cv oEvRoute ev.val) 2 ∨ (at0 ≠ 0 ∧ e.time.up < at0 + 10000000) then .next e.st
      else
        let msg := if ev.val < 8 then smGet 0 e.faults.evMsg ev.val else 0
        let p := le 2 ev.val ++ le 2 (n % 65536) ++ le 8 e.frame.k ++ le 8 msg
        let m := e.st.sealed 2 0x20 (e.freeWord.toNat % 65536) x.id p
        let e := e.tick.transmit x.src true m
        .next (e.modFaults fun f => { f with subs := f.subs.map fun b =>
          if b.sess = x.id then
            { b with counts := smSet 0 b.counts ev.val 0, lastAt := smSet 0 b.lastAt ev.val (max e.time.up 1) }
          else b }).st

end Sys2Proof.Machine
end

