-- ==== Sys2Proof/Machine/Gates.lean ====
section
/-! DEFINITION. The hub gate model (R389 to R410) and the auxiliary outputs (R411 to R421). -/

namespace Sys2Proof.Machine

variable {s0 : Root}

/-- A new latch of a leg is told to the standby within the frame (R403, R457 type 0x05). -/
def Eff.tellLatch (e : Eff s0) (u cause : Nat) (at16 : Int) : Eff s0 :=
  e.when (e.isActive && e.pair.standby) (·.sendControl 5 0 (le 1 u ++ le 1 cause ++ time96 at16))

/-- Whether two trip instants coincide (R399, R404): within 100 ns always, beyond 110 ns never; between the two the
manual leaves it open. Instants count 2⁻¹⁶ ns. -/
def Eff.coincide (e : Eff s0) (a b : Int) : Bool :=
  let d := if a ≤ b then b - a else a - b
  decide (d ≤ 100 * 65536) || (decide (d ≤ 110 * 65536) && e.freeBool)

/-- A gate trips (R398, R399): the leg latches with both gates off; where a leg tripped within the coincidence window the
stage escalates, the records take the earlier instant, and every hub gate is off. -/
def Eff.tripGate (e : Eff s0) (k : Nat) : Eff s0 :=
  let u := k / 2
  let now := e.now16
  let mates := (List.range 12).filter fun w =>
    w != u && (e.leg w).trip && (match (e.leg w).rawAt with | some t => e.coincide t now | none => false)
  let first := mates.foldl (fun m w => match (e.leg w).tripAt with | some t => min m t | none => m) now
  let near := (List.range 12).any fun w => w != u && (e.leg w).trip &&
    (match (e.leg w).rawAt with | some t => decide (100 * 65536 < now - t ∧ now - t ≤ 110 * 65536) | none => false)
  let e := e.when near (·.tick)
  let fresh := !(e.leg u).uv
  let e := e.modLeg u fun l => { l with
    trip := true, hTrip := l.hTrip || k % 2 == 0, lTrip := l.lTrip || k % 2 == 1
    tripAt := some first, rawAt := some now, trouble := l.trouble ||| 16 }
  let e := (e.modGch k (Gate.shut e.time.up)).modGch (partner k) (Gate.shut e.time.up)
  let e := (e.when fresh (·.modGate fun g => { g with trips := (g.trips + 1) % 2 ^ 32 })).tellLatch u 1 first
  let e := e.report { source := 0x070, kind := kGateTrip, addr := 0x8000 + k, time := some first }
  if mates.isEmpty then e
  else
    let e := e.each (u :: mates) fun e w => e.modLeg w fun l => { l with escalated := true, tripAt := some first }
    (e.latchStage 2 first).report { source := 0x070, kind := kGateEscalate, addr := 0xFFFF, time := some first }

/-- An under-voltage latches a leg (R400): both gates off, GATE_UVLO for the gate whose supply failed. A leg that a trip of the same
instant has latched records both causes (R393) and is counted once (R408). -/
def Eff.uvGate (e : Eff s0) (k : Nat) : Eff s0 :=
  let u := k / 2
  let fresh := !(e.leg u).trip && !(e.leg u).uv
  let e := e.modLeg u fun l => { l with
    uv := true, hUv := l.hUv || k % 2 == 0, lUv := l.lUv || k % 2 == 1, trouble := l.trouble ||| 32
    tripAt := match l.tripAt with | none => some e.now16 | some t => some t }
  let e := (e.modGch k (Gate.shut e.time.up)).modGch (partner k) (Gate.shut e.time.up)
  let e := (e.when fresh (·.modGate fun g => { g with trips := (g.trips + 1) % 2 ^ 32 })).tellLatch u 2 e.now16
  e.fault 0x070 kGateUvlo (0x8000 + k)

/-- Whether both supplies of a gate are good (R400). -/
def Gate.supOk (g : Gate) : Bool := g.supPos && g.supNeg

/-- The enable of leg u is asserted (R391, R393, R400): its DISABLED gates go to OFF and follow their commands through
WAIT, or the leg latches where a supply is not good. -/
def Eff.assertEnable (e : Eff s0) (u : Nat) : Eff s0 :=
  let h := 2 * u
  let e := (e.modGch h fun g => { g with st := .off }).modGch (h + 1) fun g => { g with st := .off }
  if e.latched u then e
  else if !(e.gch h).supOk then
    (e.uvGate h).when (!(e.gch (h + 1)).supOk) (·.modLeg u fun l => { l with lUv := true })
  else if !(e.gch (h + 1)).supOk then e.uvGate (h + 1)
  else
    let e := e.when ((e.gch h).cmd && !(e.gch (h + 1)).cmd) (·.gateTo h true)
    e.when ((e.gch (h + 1)).cmd && !(e.gch h).cmd) (·.gateTo (h + 1) true)

/-- The enable of leg u is deasserted: its gates are DISABLED, outputs off; a latched leg keeps its latch (R393). -/
def Eff.dropEnable (e : Eff s0) (u : Nat) : Eff s0 :=
  let off (g : Gate) : Gate := { g.shut e.time.up with st := .disabled }
  (e.modGch (2 * u) off).modGch (2 * u + 1) off

/-- A leg becomes monitored or stops being so with LEG_EN (R391). -/
def Eff.setMonitored (e : Eff s0) (u : Nat) (on : Bool) : Eff s0 :=
  if (e.leg u).mon == on then e
  else
    let e := e.modLeg u fun l => { l with mon := on }
    if on then e.when (!e.gate.enN) (·.assertEnable u) else e.dropEnable u

/-- GUARD_DEAD_TIME_END (R393, R395): a gate in WAIT whose partner's output has been off for the guard dead time turns on
and starts blanking. -/
def execGuardDeadTimeEnd (gate : Fin 24) (s : State) : Host.Outcome State Fault Refusal :=
  .next ((Eff.start s).leaveWait gate.val).st

/-- BLANKING_END (R397, R398, R404, R408): a gate whose sense input is still asserted trips; otherwise it is ON and a latched
EARLY is logged. Before the BLANK_HUB of its turn-on less its tolerance nothing happens. -/
def execBlankingEnd (gate : Fin 24) (s : State) : Host.Outcome State Fault Refusal :=
  let e := Eff.start s
  let k := gate.val
  let g := e.gch k
  if g.st != .blank || e.time.up + g.blank * 2 / 100 + 5 < g.onAt + g.blank then .next e.st
  else if g.sense then .next ((e.modGch k fun g => { g with early := false }).tripGate k).st
  else
    let e := e.modGch k fun g => { g with st := .on, early := false }
    .next (e.when g.early (·.fault 0x070 kGateEarly (0x8000 + k))).st

/-- Reports GATE_EARLY for the gates that were commanded off in BLANK with EARLY latched (R397). -/
def Eff.reportEarly (e : Eff s0) : Eff s0 :=
  e.each ((List.range 24).filter fun k => (e.gch k).earlyDue) fun e k =>
    (e.modGch k fun g => { g with earlyDue := false }).fault 0x070 kGateEarly (0x8000 + k)

/-- Whether an input change that lasts `ns` is seen (R396): below 10 ns never, above 20 ns always; between the two the
manual leaves it open. -/
def Eff.qualified (e : Eff s0) (ns : Nat) : Bool := decide (20 < ns) || (decide (10 ≤ ns) && e.freeBool)

/-- Whether gate k, which the stage latch of a TRIP_STAGE reaction turned off while it was ON, still trips because a leg
tripped within the coincidence window (R399, R425): the reaction to the first trip must not hide the second. -/
def Eff.stillTrips (e : Eff s0) (k : Nat) : Bool :=
  let g := e.gch k
  let l := e.leg (k / 2)
  e.gate.stage && g.cmd && g.st == .off && !l.trip && !l.uv &&
    (match g.offAt with
      | some t => decide (g.onAt + g.blank ≤ t ∧ e.time.up ≤ t + 110)
      | none => false) &&
    (List.range 12).any fun w => w != k / 2 && (e.leg w).trip &&
      (match (e.leg w).rawAt with | some t => e.coincide t e.now16 | none => false)

/-- Whether gate k, which a UVLO of this instant turned off while it was ON, trips at the same instant (R393): both causes count. -/
def Eff.tripsWithUv (e : Eff s0) (k : Nat) : Bool :=
  let g := e.gch k
  let l := e.leg (k / 2)
  l.uv && !l.trip && l.tripAt == some e.now16 && g.cmd && g.offAt == some e.time.up && decide (g.onAt + g.blank ≤ e.time.up)

/-- SENSE_QUALIFIED (R396 to R399): a sense input asserts or clears. In BLANK an assertion latches EARLY, in ON it trips;
a leg that is not monitored ignores it. -/
def execSenseQualified (gate : Fin 24) (asserted : Bool) (forNs : Nat) (s : State) :
    Host.Outcome State Fault Refusal :=
  let e := Eff.start s
  let k := gate.val
  let seen := e.qualified forNs
  let e := e.when (decide (10 ≤ forNs ∧ forNs ≤ 20)) (·.tick)
  if !seen then .next e.st
  else
    let e := e.modGch k fun g => { g with sense := asserted }
    if asserted && (e.leg (k / 2)).mon then
      if (e.gch k).st == .blank then
        .next (e.latchEarly k).st
      else if (e.gch k).st == .on || e.stillTrips k || e.tripsWithUv k then .next (e.tripGate k).st
      else .next e.st
    else .next e.st

/-- SUPPLY_FAIL (R396, R400): the supply status of a gate changes. A failure latches an enabled leg as UVLO, and is
reported without a latch while the enable is deasserted. -/
def execSupplyFail (gate : Fin 24) (positiveOk negativeOk : Bool) (forNs : Nat) (s : State) :
    Host.Outcome State Fault Refusal :=
  let e := Eff.start s
  let k := gate.val
  let u := k / 2
  let seen := e.qualified forNs
  let e := e.when (decide (10 ≤ forNs ∧ forNs ≤ 20)) (·.tick)
  if !seen then .next e.st
  else
    let e := e.modGch k fun g => { g with supPos := positiveOk, supNeg := negativeOk }
    if positiveOk && negativeOk then .next e.st
    else if e.enabled u then
      let same := (e.leg u).trip && (e.leg u).rawAt == some e.now16
      .next (e.when (!e.latched u || same) (·.uvGate k)).st
    else .next (e.when (e.leg u).mon (·.gateTrouble u 32)).st

/-- GATE_EN_N_RISE (R393, R402, R406): every gate of a leg that is not latched is DISABLED. In RUN or DERATED with a
monitored leg GATE_EN_OFF is raised. -/
def execGateEnNRise (s : State) : Host.Outcome State Fault Refusal :=
  let e := Eff.start s
  if e.gate.enN then .next e.st
  else
    let e := e.modGate fun g => { g with enN := true, enRise := e.time.up }
    let e := e.each (List.range 12) fun e u => e.when ((e.leg u).mon && !e.latched u) (·.dropEnable u)
    let mon := (List.range 12).any fun u => (e.leg u).mon
    let run := e.dev.state == .run || e.dev.state == .derated
    .next (e.when (mon && run) (·.fault 0x070 kGateEnOff 0xFFFF)).st

/-- GATE_EN_N_FALL (R391, R401): after at least 5.0 µs high every leg latch, UVLO latch and the stage latch clear, below
4.5 µs never, between the two as the manual leaves open; then the enables assert. A cleared stage latch restarts the hub
at the next frame start (R225). -/
def execGateEnNFall (s : State) : Host.Outcome State Fault Refusal :=
  let e := Eff.start s
  if !e.gate.enN then .next e.st
  else
    let high := e.time.up - e.gate.enRise
    let open1 := decide (4500 ≤ high ∧ high < 5000)
    let clears := decide (5000 ≤ high) || (open1 && e.freeBool)
    let e := e.when open1 (·.tick)
    let e := e.modGate fun g => { g with enN := false }
    let e := if clears then
        let was := e.gate.stage
        let e := e.modGate fun g => { g with stage := false, lastToggle := some e.now16 }
        let e := e.each (List.range 12) fun e u => e.modLeg u fun l => { Leg.reset with
          mon := l.mon, trouble := l.trouble, overlap := l.overlap }
        e.when was (·.modHub fun h => { h with startNext := true })
      else e
    .next (e.each (List.range 12) fun e u => e.when (e.leg u).mon (·.assertEnable u)).st

/-! ### Auxiliary outputs -/

/-- The result of a test (R417, R421): 1 PASS, 2 OPEN, 3 SHORT_VAUX, 4 SHORT_GND; voltages in mV. -/
def auxResult (out va vb vaux rmin : Nat) : Nat :=
  let high := out < 8
  if (if high then vaux ≤ vb + 1000 else vb ≤ 1000) then (if high then 3 else 4)
  else if 3000 ≤ va then 2
  else if va < rmin then (if high then 4 else 3)
  else 1

/-- Starts the test of the next output that is to be tested (R416). -/
def Eff.nextTest (e : Eff s0) : Eff s0 :=
  match e.dev.auxTodo with
  | [] => e
  | n :: _ => e.beginTest n

/-- A test of an output ends with its measured voltages (R417): result, AX_PROBE and the fault kind. -/
def Eff.auxDecide (e : Eff s0) (n va vb vaux : Nat) : Eff s0 :=
  let r := auxResult n va vb vaux (e.cv oAxRmin n)
  let e := e.setOut n fun a => { a with testing := false, result := r, va := va % 65536, vb := vb % 65536 }
  let e := e.modDev fun v => { v with auxTodo := v.auxTodo.filter (· != n) }
  let kind := if r = 2 then (if e.cv oAxLoad n = 0 then 0 else kAuxOpen)
    else if r = 3 then kAuxShortVaux else if r = 4 then kAuxShortGnd else 0
  let e := if kind = 0 then e else e.modDev fun v => { v with discFaults := kind :: v.discFaults }
  e.when (kind != 0) (·.fault 0x072 kind (0x9000 + n))

/-- AUX_TEST_ABORT (R418): an output ordered energised during its test: the test stops with result ABORTED, the output
energises, no fault is raised. -/
def execAuxTestAbort (out : Fin 16) (s : State) : Host.Outcome State Fault Refusal :=
  let e := Eff.start s
  if (e.out out.val).testing then
    let e := e.orderOut out.val true false 0
    .next ((e.modDev fun v => { v with auxTodo := v.auxTodo.filter (· != out.val) }).nextTest).st
  else .next e.st

/-- AUX_OVERCURRENT (R415, R419): a current above the trip threshold for 100 µs, outside AX_OC_BLANK, latches the output
off. Between the least and the largest threshold the manual leaves it open. Currents in mA. -/
def execAuxOvercurrent (out : Fin 16) (ma forUs : Nat) (s : State) : Host.Outcome State Fault Refusal :=
  let e := Eff.start s
  let n := out.val
  let lo := if n < 8 then 2500 else 1250
  let hi := if n < 8 then 3500 else 1750
  let trips := decide (hi < ma) || (decide (lo < ma) && e.freeBool)
  let e := e.when (decide (lo < ma ∧ ma ≤ hi)) (·.tick)
  let a := e.out n
  let inrush := a.blanking && decide (e.time.up < a.blankAt + e.cv oAxOcBlank n * 1000000)
  if a.energised && !inrush && 100 ≤ forUs && trips then
    .next ((e.setOut n fun a => { a with oc := true, energised := false }).fault 0x072 kAuxOvercurrent (0x9000 + n)).st
  else .next e.st

/-- AUX_OC_BLANK_END (R415): the inrush time of an output has passed. -/
def execAuxOcBlankEnd (out : Fin 16) (s : State) : Host.Outcome State Fault Refusal :=
  let e := Eff.start s
  let a := e.out out.val
  if a.blanking && a.blankAt + e.cv oAxOcBlank out.val * 1000000 ≤ e.time.up then
    .next (e.setOut out.val fun a => { a with blanking := false }).st
  else .next e.st

/-- AUX_OVERTEMP (R415): an output's own sensor reads too hot, which switches it off and is reported once, or has cooled,
which switches it on again. -/
def execAuxOvertemp (out : Fin 16) (hot : Bool) (s : State) : Host.Outcome State Fault Refusal :=
  let e := Eff.start s
  let n := out.val
  let was := (e.out n).ot
  let e := e.setOut n fun a => { a with ot := hot, energised := !hot && a.cmd && !a.oc && !e.vauxLow }
  .next (e.when (hot && !was) (·.fault 0x072 kAuxOvertemp (0x9000 + n))).st

/-- AUX_PROSPECT (R418): tests one output, or all 16 in turn; WRONG_STATE for one energised or already under test. -/
def actAuxProspect (e : Eff s0) (_c : Ctx) (args : List Byte) : ActRes s0 :=
  if args.length ≠ 1 then (e, some (ansErr stType))
  else
    let n := octet args 0
    if 16 ≤ n ∧ n ≠ 255 then (e, some ansRange)
    else
      let l := if n = 255 then List.range 16 else [n]
      let busy := l.any fun a => (e.out a).energised || (e.out a).testing || e.dev.auxTodo.contains a
      if busy then (e, some (ansResult 1))
      else
        let idle := e.dev.auxTodo.isEmpty
        let e := e.modDev fun v => { v with auxTodo := v.auxTodo ++ l }
        (e.when idle (·.nextTest), some (ansResult 0))

/-- AUX_CLEAR (R415, R420): clears the overcurrent latch of an output. -/
def actAuxClear (e : Eff s0) (_c : Ctx) (args : List Byte) : ActRes s0 :=
  if args.length ≠ 1 then (e, some (ansErr stType))
  else if 16 ≤ octet args 0 then (e, some ansRange)
  else (e.setOut (octet args 0) fun a => { a with oc := false, energised := a.cmd && !a.ot && !e.vauxLow }, some ansOk)

end Sys2Proof.Machine
end

