-- ==== Sys2Proof/Machine/Requests.lean ====
section
/-! DEFINITION. ACTION requests (R82, R607): the checks every action shares, in their order, and its answer. -/

namespace Sys2Proof.Machine

variable {s0 : Root}

/-- The payload of an ACTION request (R82): OBJ, a reserved octet, ARGLEN and the arguments. -/
def actionPayload (obj : Nat) (args : List Byte) : List Byte := le 3 obj ++ [0] ++ le 2 args.length ++ args

/-- What an action does once its rights are settled: from the caller, and the arguments. -/
abbrev Action := {s0 : Root} → Eff s0 → Ctx → List Byte → ActRes s0

/-- An action whose message has passed (R607): RIGHTS, NOT_ACTIVE where the action acts on the converter or the deterministic core
(R78), then the action itself, which makes its TYPE, RANGE and own checks. The truth value says that its answer is still to come. -/
def Eff.actOn (e : Eff s0) (q : Req) (level sess : Nat) (args : List Byte) (right : Nat) (needsActive : Bool)
    (run : Eff s0 → Ctx → List Byte → ActRes s0) : Eff s0 × Bool :=
  if level < right then (e.answer q 3 (ansErr stRights), false)
  else if needsActive && !e.isActive then (e.answer q 3 (ansErr stNotActive), false)
  else
    match run e ⟨level, sess, .req q⟩ args with
    | (e, some a) => (e.answer q 3 a, false)
    | (e, none) => (e, true)

/-- An ACTION request (R607): the checks of every request, then the action. -/
def Eff.invoke (e : Eff s0) (q : Req) (obj : Nat) (args : List Byte) (right : Nat) (needsActive : Bool)
    (run : Eff s0 → Ctx → List Byte → ActRes s0) : Eff s0 :=
  match e.vet q 3 (actionPayload obj args) with
  | .stop e => e
  | .go e level sess => (e.actOn q level sess args right needsActive run).1

/-- A journalled action that is acknowledged as a commit is (R79, R256): alone it acts at the next frame start; with a standby
the active device passes it on, to act on both one frame later, and answers when the standby has confirmed. `frame` says whether the answer carries RESULT and the frame. -/
def Eff.pairAct (e : Eff s0) (c : Ctx) (obj : Nat) (args : List Byte) (frame : Bool := true) : ActRes s0 :=
  let k := e.frame.k
  if e.pair.standby then
    let cs := e.pair.nextCseq
    let e := e.sendAction (k + 2) obj args
    (e.modPair fun p => { p with waitActs := p.waitActs ++ [⟨obj, args, cs, k + 2, frame, c.ret⟩] }, none)
  else
    (e.modPair fun p => { p with timed := p.timed ++ [(k + 1, obj, args)] }, some (if frame then ansResultFrame 0 (k + 1) else ansOk))

end Sys2Proof.Machine
end

