-- ==== Sys2Proof/Machine/Time.lean ====
section
/-! DEFINITION. Time (R486 to R519): the servo, IEEE 1588, UTC, the calendar clock and the cancelling of scheduled
actions. Instants and offsets of the servo and of PTP count 2⁻¹⁶ ns. -/

namespace Sys2Proof.Machine

variable {s0 : Root}

/-! ### The servo (R490 to R495) -/

/-- The source the servo follows by role (R490): 0 NONE, 1 PTP, 2 PEER. -/
def Eff.sourceOf (e : Eff s0) : Nat :=
  match e.pair.role with
  | .active => if e.cv oTimeSource = 1 then 1 else 0
  | .standby => 2
  | .joining => 2
  | _ => 0

/-- Takes the source of the present role (R490, R492, R500): NONE leads to FREE with the rate kept; a change between two
sources starts ACQUIRE anew. -/
def Eff.updateSource (e : Eff s0) : Eff s0 :=
  let src := e.sourceOf
  if src = e.time.source then e
  else e.modTime fun t => { t with
    source := src, samples := [], holdGood := 0
    servo := if src = 0 then .free else if t.servo == .free then .free else .acquire }

/-- INCREMENT kept within the nominal value × (1 ± RATE_LIMIT) (R486). -/
def Eff.limitRate (e : Eff s0) (n : Int) : Nat :=
  let nom : Int := 0x04_0000_0000
  let d := nom * e.cv oRateLimit / 1000000
  (max (nom - d) (min n (nom + d))).toNat

/-- One step of steering in LOCKED (R486, R492): the manual gives the loop by bandwidth and damping only, so the new
INCREMENT is a free value within RATE_LIMIT and RATE_SLEW. -/
def Eff.steer (e : Eff s0) : Eff s0 :=
  let dt : Int := e.time.up - e.time.lastSampleAt
  let slew : Int := 0x04_0000_0000 * e.cv oRateSlew * dt / 1000000000000000000
  let want : Int := (Config.freeLong e.free).toNat
  let old : Int := e.time.incr
  let n := e.limitRate (max (old - slew) (min want (old + slew)))
  e.tick.modTime fun t => { t with incr := n, incrs := (n :: t.incrs).take 64 }

/-- Enters HOLD with the mean INCREMENT of the last 64 samples (R492); TIME_HOLD is raised. -/
def Eff.enterHold (e : Eff s0) : Eff s0 :=
  let e := e.modTime fun t => { t with
    servo := .hold, holdGood := 0
    incr := if t.incrs.isEmpty then t.incr else t.incrs.foldl (· + ·) 0 / t.incrs.length }
  e.fault 0x051 kTimeHold

/-- A sample beyond STEP_THRESHOLD after the first lock never leads to a step (R494). -/
def Eff.discontinuity (e : Eff s0) : Eff s0 :=
  ((e.enterHold.setTrouble 1).modMeter fun m => { m with
    ports := m.ports.map fun p => (p.1, { p.2 with disc := p.2.disc || p.2.started }) }).fault 0x051 kTimeDiscontinuity

/-- The mean of eight samples, where all lie within ±LOCK_TOL of it (R492, R495). -/
def Eff.lockMean (e : Eff s0) : Option Int :=
  let l := e.time.samples
  let sum := l.foldl (· + ·) 0
  let tol : Int := e.cv oLockTol * 65536 * 8
  if l.length = 8 ∧ l.all (fun o => decide (8 * o - sum ≤ tol ∧ sum - 8 * o ≤ tol)) then some (sum / 8) else none

/-- STEP_THRESHOLD in 2⁻¹⁶ ns. -/
def Eff.stepThr (e : Eff s0) : Int := e.cv oStepThreshold * 65536

/-- Whether the first lock may step in the present state (R493). -/
def Eff.mayStep (e : Eff s0) : Bool :=
  e.dev.state == .ready || e.dev.state == .discover || e.dev.state == .safe || e.pair.role == .joining

/-- An offset sample of the steering source (R492 to R494). -/
def Eff.offsetSample (e : Eff s0) (o : Int) : Eff s0 :=
  let thr := e.stepThr
  let far := decide (thr < o ∨ o < -thr)
  let e := e.modTime fun t => { t with samples := (o :: t.samples).take 8, lastSample := o,
                                       servo := if t.servo == .free then .acquire else t.servo }
  let e := match e.time.servo with
    | .free => e
    | .acquire =>
      match e.lockMean with
      | none => e
      | some m =>
        let big := decide (thr < m ∨ m < -thr)
        let e := e.modTime fun t => { t with valid := true }
        let first := !e.time.everLocked && !e.time.stepUsed
        let e := e.modTime fun t => { t with everLocked := true }
        if !big then e.modTime fun t => { t with servo := .locked }
        else if first && e.mayStep then e.modTime fun t => { t with servo := .locked, stepAt := some (-m), samples := [] }
        else e.discontinuity
    | .locked => if far && e.time.stepAt.isNone then e.discontinuity else e.steer
    | .hold =>
      let n := if far then 0 else e.time.holdGood + 1
      if 8 ≤ n then e.modTime fun t => { t with servo := .locked, holdGood := 0 }
      else e.modTime fun t => { t with holdGood := n }
  e.modTime fun t => { t with lastSampleAt := t.up }

/-- TIME_HOLD (R492): in LOCKED, no sample for 4 expected intervals. Expected intervals are the
Sync interval of the selected port, or one frame for PEER. -/
def execTimeHold (s : State) : Host.Outcome State Fault Refusal :=
  let e := Eff.start s
  let p := smGet PtpPort.reset e.time.ports (if e.cv oPtpPort = 2 then e.time.selected else e.cv oPtpPort)
  let ns : Int := if e.time.source = 2 then e.tf
    else if 0 ≤ p.interval then 1000000000 * 2 ^ p.interval.toNat else 1000000000 / 2 ^ (-p.interval).toNat
  if e.time.servo == .locked && decide ((e.time.lastSampleAt : Int) + 4 * ns ≤ e.time.up) then .next e.enterHold.st
  else .next e.st

/-- STEP_AUTHORISE (R495): accepted on an ACTIVE device in READY, DISCOVER or SAFE whose last 8 samples agree; the clock
steps by minus their mean at the frame start at which the action acts, which a standby confirms as it does SOC_SET (R309). -/
def actStepAuthorise (e : Eff s0) (c : Ctx) (args : List Byte) : ActRes s0 :=
  if args ≠ [] then (e, some (ansErr stType))
  else if !(e.isActive && (e.dev.state == .ready || e.dev.state == .discover || e.dev.state == .safe)) then
    (e, some (ansResultFrame 1 0))
  else
    match e.lockMean with
    | none => (e, some (ansResultFrame 2 0))
    | some m => e.pairAct c oStepAuthorise (le 8 (rawBits 64 (-m)))

/-- Steps the local clock by an offset in 2⁻¹⁶ ns (R493, R495); NONDET is set (R58). -/
def Eff.stepClock (e : Eff s0) (d : Int) : Eff s0 :=
  e.nondet.modTime fun t => { t with
    clock := t.clock + d * 65536, stepAt := none, stepAuth := false, stepped := true, stepUsed := true, samples := []
    servo := .locked }

/-! ### IEEE 1588 (R496 to R500) -/

/-- Picoseconds in 2⁻¹⁶ ns. -/
def ps16 (v : Int) : Int := v * 65536 / 1000

/-- The latency or asymmetry constant of port m at the device's own position (R498). -/
def Eff.ptpConst (e : Eff s0) (obj m : Nat) : Int := ps16 (e.cvi obj (2 * m + e.pos))

/-- What PTP port m has seen. -/
@[simp] abbrev Eff.ptp (e : Eff s0) (m : Nat) : PtpPort := smGet PtpPort.reset e.st.time.ports m

/-- Changes what PTP port m has seen. -/
def Eff.modPtp (e : Eff s0) (m : Nat) (f : PtpPort → PtpPort) : Eff s0 :=
  e.modTime fun t => { t with ports := smMod PtpPort.reset t.ports m f }

/-- The port the one PTP port of the device is on (R497): PTP_PORT, or the one AUTO has selected. -/
def Eff.ptpSelected (e : Eff s0) : Nat := if e.cv oPtpPort = 2 then e.time.selected else e.cv oPtpPort

/-- Whether the device is a PTP master (R497, R500). -/
def Eff.ptpMaster (e : Eff s0) : Bool := e.time.master && e.isActive && e.cv oPtpSlaveOnly == 0

/-- Where a message of a kind goes (R496, R499): L2, or UDP/IPv4 by PTP_TRANSPORT; peer delay messages have addresses of their own. -/
def Eff.ptpLink (e : Eff s0) (kind : PtpKind) : PtpLink :=
  let peer := kind == .pdelayReq || kind == .pdelayResp
  let event := peer || kind == .sync || kind == .delayReq
  if e.cv oPtpProfile = 1 ∨ e.cv oPtpTransport = 0 then .l2 0x88F7 (if peer then 0x0180_C200_000E else 0x011B_1900_0000)
  else .udp (if peer then 0xE000_006B else 0xE000_0181) (if event then 319 else 320) (if event then some 0 else none)

/-- Sends a PTP message on a port (R499). -/
def Eff.sendPtp (e : Eff s0) (m : Nat) (kind : PtpKind) (seq : Nat) (stamp correction : Int) (clock : Option PtpClock := none) : Eff s0 :=
  e.emit (.ptp ⟨m, kind, e.cv oPtpDomain, seq, e.ptpLink kind, stamp, correction, clock⟩)

/-- The number of the next message of a kind that the device sends on its own account. -/
def PtpPort.nextSeq (p : PtpPort) (kind : PtpKind) : Nat := smGet 0 p.seqs kind.ctorIdx

/-- One more message of a kind has been sent. -/
def PtpPort.took (p : PtpPort) (kind : PtpKind) : PtpPort :=
  { p with seqs := smMod 0 p.seqs kind.ctorIdx fun n => (n + 1) % 65536 }

/-- A complete Sync yields offsetFromMaster (R498), reported in PTP_OFFSET; it is the offset sample where PTP steers. -/
def Eff.ptpOffset (e : Eff s0) (m : Nat) (t1 t2 corr : Int) : Eff s0 :=
  let o := t2 - t1 - (e.ptp m).pathDelay - corr - e.ptpConst oPtpAsym m
  let e := e.modTime fun t => { t with ptpOffset := o }
  e.when (e.time.source == 1) (·.offsetSample o)

/-- PTP_SYNC_RECEIVE (R496, R498): a Sync on the selected port, with an interval from 1/16 s to 2 s. A one-step Sync
yields its sample at once, a two-step one waits for its Follow_Up. A master takes none. -/
def execPtpSyncReceive (m : Fin 2) (seq : BitVec 16) (twoStep : Bool) (t1 ingress correction logInterval : Int)
    (s : State) : Host.Outcome State Fault Refusal :=
  let e := Eff.start s
  if m.val ≠ e.ptpSelected ∨ logInterval < -4 ∨ 1 < logInterval ∨ e.ptpMaster then .next e.st
  else
    let t2 := ingress - e.ptpConst oPtpIngressLat m.val
    let e := e.modPtp m.val fun p => { p with syncSeq := seq.toNat, syncT2 := if twoStep then some t2 else none,
                                              syncCorr := correction, t1 := t1, t2 := t2, interval := logInterval }
    .next (if twoStep then e else e.ptpOffset m.val t1 t2 correction).st

/-- PTP_FOLLOW_UP_RECEIVE (R496, R498): the Follow_Up of the two-step Sync that waits for it. -/
def execPtpFollowUpReceive (m : Fin 2) (seq : BitVec 16) (t1 correction : Int) (s : State) :
    Host.Outcome State Fault Refusal :=
  let e := Eff.start s
  let p := e.ptp m.val
  match p.syncT2 with
  | some t2 =>
    if p.syncSeq = seq.toNat ∧ m.val = e.ptpSelected ∧ !e.ptpMaster then
      let c := p.syncCorr + correction
      let e := e.modPtp m.val fun p => { p with syncT2 := none, t1 := t1, syncCorr := c }
      .next (e.ptpOffset m.val t1 t2 c).st
    else .next e.st
  | none => .next e.st

/-- PTP_DELAY_RESP_RECEIVE (R498): meanPathDelay of the end-to-end mechanism, from the Delay_Resp of the device's own Delay_Req.
delayAsymmetry enters the Sync and leaves with the Delay_Req (log 123). -/
def execPtpDelayRespReceive (m : Fin 2) (seq : BitVec 16) (t4 correction : Int) (s : State) :
    Host.Outcome State Fault Refusal :=
  let e := Eff.start s
  let p := e.ptp m.val
  match p.reqT3 with
  | some (n, t3) =>
    if n ≠ seq.toNat then .next e.st
    else
      let d := ((p.t2 - t3) + (t4 - p.t1) - (p.syncCorr + e.ptpConst oPtpAsym m.val) - correction) / 2
      let e := e.modPtp m.val fun p => { p with pathDelay := d, reqT3 := none }
      .next (e.modTime fun t => { t with pathDelay := d }).st
  | none => .next e.st

/-- PTP_PDELAY_REQ_RECEIVE (R499): a Pdelay_Resp in one-step form, with the turnaround time added to correctionField and
requestReceiptTimestamp 0. The turnaround is not stated: a free value. -/
def execPtpPdelayReqReceive (m : Fin 2) (seq : BitVec 16) (ingress correction : Int) (s : State) :
    Host.Outcome State Fault Refusal :=
  let e := Eff.start s
  let turn : Int := e.freeWord.toNat
  let t2 := ingress - e.ptpConst oPtpIngressLat m.val
  .next (e.tick.sendPtp m.val .pdelayResp seq.toNat 0 (correction + (t2 + turn - t2))).st

/-- PTP_PDELAY_RESP_RECEIVE (R498): the peer delay, from the response to the device's own request; `turnaround` is what the response's
correctionField carries. -/
def execPtpPdelayRespReceive (m : Fin 2) (seq : BitVec 16) (ingress turnaround : Int) (s : State) :
    Host.Outcome State Fault Refusal :=
  let e := Eff.start s
  match (e.ptp m.val).pdelT1 with
  | some (n, t1) =>
    if n ≠ seq.toNat then .next e.st
    else
      let d := (ingress - e.ptpConst oPtpIngressLat m.val - t1 - (turnaround + e.ptpConst oPtpAsym m.val)) / 2
      let e := e.modPtp m.val fun p => { p with pathDelay := d, pdelT1 := none }
      .next (e.modTime fun t => { t with pathDelay := d }).st
  | none => .next e.st

/-- Lexicographic order of two data sets, as clause 9.3 compares them: true where the first is better. -/
def betterSet : List Nat → List Nat → Bool
  | a :: r, b :: t => if a < b then true else if b < a then false else betterSet r t
  | _, _ => false

/-- The best foreign master of a port, of those that have announced themselves twice (R497). -/
def PtpPort.best (p : PtpPort) : Option Foreign :=
  (p.masters.filter fun f => 2 ≤ f.count).foldl (init := none) fun b f =>
    match b with
    | none => some f
    | some x => if betterSet f.set x.set then some f else some x

/-- The data set the device would announce (R497): clockClass 248, clockAccuracy 0xFE; its variance and clockIdentity are
not stated and stand as 0xFFFF and SERIAL. -/
def Eff.ownSet (e : Eff s0) : List Nat :=
  [e.cv oPtpPriority 0, 248, 0xFE, 0xFFFF, e.cv oPtpPriority 1, Config.serial.toNat]

/-- An Announce on a port joins what the port knows of its master (R497). -/
def PtpPort.announced (p : PtpPort) (f : Foreign) : PtpPort :=
  let n := (p.masters.find? (·.gm == f.gm)).elim 1 (·.count + 1)
  { p with masters := { f with count := n } :: p.masters.filter (·.gm != f.gm)
           announces := if 2 ≤ n then p.announces + 1 else p.announces }

/-- The UTC second that ends the running UTC day of local time. -/
def Eff.dayEnd (e : Eff s0) : Int :=
  let off : Int := if e.time.utcFromPtp then e.time.utc else signed 16 (e.cv oUtcOffset)
  ((e.time.clock / (1000000000 * nsq) - off) / 86400 + 1) * 86400

/-- The state that the best master clock algorithm gives the port in use (R489, R497, R500): slave of its best master, or, unless
PTP_SLAVE_ONLY or not ACTIVE, master; UTC offset and leap second come from the best master. -/
def Eff.selectMaster (e : Eff s0) : Eff s0 :=
  match (e.ptp e.ptpSelected).best with
  | none => e
  | some f =>
    let leap : Int := if f.leap61 then 1 else if f.leap59 then -1 else 0
    let e := e.modTime fun t => { t with
      master := e.cv oPtpSlaveOnly == 0 && e.isActive && betterSet e.ownSet f.set
      utc := if f.utcValid then f.utc else t.utc, utcFromPtp := f.utcValid }
    e.modTime fun t => { t with leap := leap, leapDay := if t.leap = leap then t.leapDay else e.dayEnd }

/-- PTP_ANNOUNCE_RECEIVE (R489, R497): an Announce of a foreign master; AUTO returns to E0 once that has carried 16 qualified
Announces. -/
def execPtpAnnounceReceive (m : Fin 2) (gm : BitVec 64) (priority1 clockClass accuracy variance priority2 utcOffset : Nat)
    (utcValid leap61 leap59 : Bool) (stepsRemoved : Nat) (s : State) : Host.Outcome State Fault Refusal :=
  let e := Eff.start s
  let set := [priority1, clockClass, accuracy, variance, priority2, gm.toNat, stepsRemoved]
  let e := e.modPtp m.val (·.announced ⟨gm.toNat, set, utcOffset, utcValid, leap61, leap59, 0⟩)
  let back := e.cv oPtpPort == 2 && m.val == 0 && e.time.selected == 1 && decide (16 ≤ (e.ptp 0).announces)
  let e := e.when back (·.modTime fun t => { t with selected := 0 })
  .next (e.when (m.val == e.ptpSelected) (·.selectMaster)).st

/-- The port in use has no master any more (R489, R492, R497): the device becomes one unless it is slave only, UTC comes from UTC_OFFSET
again, and a servo LOCKED to PTP has lost its source. -/
def Eff.withdrawPtp (e : Eff s0) : Eff s0 :=
  let e := e.modTime fun t => { t with utcFromPtp := false, leap := 0, master := e.cv oPtpSlaveOnly == 0 && e.isActive }
  e.when (e.time.servo == .locked && e.time.source == 1) (·.enterHold)

/-- ANNOUNCE_TIMEOUT (R497): announceReceiptTimeout passes without a qualified Announce on a port: AUTO moves from E0 to E1, and follows
the master there if it knows one. -/
def execAnnounceTimeout (m : Fin 2) (s : State) : Host.Outcome State Fault Refusal :=
  let e := Eff.start s
  let used := m.val == e.ptpSelected
  let e := e.modPtp m.val fun p => { p with masters := [], announces := 0 }
  if !used then .next e.st
  else
    let e := e.when (e.cv oPtpPort == 2 && m.val == 0) (·.modTime fun t => { t with selected := 1 })
    .next (if (e.ptp e.ptpSelected).best.isSome then e.selectMaster else e.withdrawPtp).st

/-- PTP_DELAY_REQ_RECEIVE (R496, R498): as a master with the end-to-end mechanism the device answers with Delay_Resp, whose
correctionField gives up the fraction of a nanosecond that its timestamp leaves out. -/
def execPtpDelayReqReceive (m : Fin 2) (seq : BitVec 16) (ingress correction : Int) (s : State) :
    Host.Outcome State Fault Refusal :=
  let e := Eff.start s
  let t := ingress - e.ptpConst oPtpIngressLat m.val
  .next (e.when (e.ptpMaster && m.val == e.ptpSelected && e.cv oPtpProfile == 0)
    (·.sendPtp m.val .delayResp seq.toNat (t - t % 65536) (correction - t % 65536))).st

/-- Sends a message of a kind on the port in use under its next sequence number. -/
def Eff.sendOwn (e : Eff s0) (kind : PtpKind) (stamp correction : Int) (clock : Option PtpClock := none) : Eff s0 :=
  let m := e.ptpSelected
  (e.sendPtp m kind ((e.ptp m).nextSeq kind) stamp correction clock).modPtp m (·.took kind)

/-- PTP_SYNC_SEND (R499): a master's Sync in one-step form; the fraction of a nanosecond goes to correctionField. -/
def execPtpSyncSend (egress : Int) (s : State) : Host.Outcome State Fault Refusal :=
  let e := Eff.start s
  let t := egress + e.ptpConst oPtpEgressLat e.ptpSelected
  .next (e.when e.ptpMaster (·.sendOwn .sync (t - t % 65536) (t % 65536))).st

/-- PTP_ANNOUNCE_SEND (R497): a master announces clockClass 248, clockAccuracy 0xFE and timeSource 0xA0. -/
def execPtpAnnounceSend (s : State) : Host.Outcome State Fault Refusal :=
  let e := Eff.start s
  .next (e.when e.ptpMaster
    (·.sendOwn .announce 0 0 (some ⟨e.cv oPtpPriority 0, 248, 0xFE, e.cv oPtpPriority 1, 0xA0⟩))).st

/-- PTP_DELAY_REQ_SEND (R498): a slave with the end-to-end mechanism sends Delay_Req and keeps its egress timestamp. -/
def execPtpDelayReqSend (egress : Int) (s : State) : Host.Outcome State Fault Refusal :=
  let e := Eff.start s
  let m := e.ptpSelected
  let n := (e.ptp m).nextSeq .delayReq
  let t := egress + e.ptpConst oPtpEgressLat m
  .next (e.when (e.cv oPtpProfile == 0 && !e.ptpMaster) fun e =>
    (e.sendOwn .delayReq 0 (-(e.ptpConst oPtpAsym m))).modPtp m fun p => { p with reqT3 := some (n, t) }).st

/-- PTP_PDELAY_REQ_SEND (R496, R498): with the peer-to-peer mechanism the device sends Pdelay_Req. -/
def execPtpPdelayReqSend (egress : Int) (s : State) : Host.Outcome State Fault Refusal :=
  let e := Eff.start s
  let m := e.ptpSelected
  let n := (e.ptp m).nextSeq .pdelayReq
  let t := egress + e.ptpConst oPtpEgressLat m
  .next (e.when (e.cv oPtpProfile == 1) fun e =>
    (e.sendOwn .pdelayReq 0 (-(e.ptpConst oPtpAsym m))).modPtp m fun p => { p with pdelT1 := some (n, t) }).st

/-! ### UTC and the calendar clock (R489, R491, R508 to R510) -/

/-- The UTC offset in force (R489). -/
def Eff.utcOffset (e : Eff s0) : Int := if e.time.utcFromPtp then e.time.utc else signed 16 (e.cv oUtcOffset)

/-- SEC of the local clock. -/
def Eff.sec (e : Eff s0) : Int := e.time.clock / (1000000000 * nsq)

/-- UTC seconds of local time (R489). -/
def Eff.utcSec (e : Eff s0) : Int := e.sec - e.utcOffset

/-- LEAP_SECOND (R489): at the end of the UTC day, which a leap second lengthens or shortens, a due offset change acts; local time does
not move. Before it nothing happens. -/
def execLeapSecond (s : State) : Host.Outcome State Fault Refusal :=
  let e := Eff.start s
  .next (e.when (e.time.leap != 0 && decide (e.time.leapDay + e.time.leap ≤ e.utcSec))
    (·.modTime fun t => { t with utc := (t.utc + t.leap).toNat, leap := 0 })).st

/-- The calendar clock in 1/32,768 s, run on by the uptime since it was set and CAL_TRIM (R508); it stands while the oscillator is
stopped. -/
def Eff.calNow (e : Eff s0) : Nat :=
  let ns : Int := if e.time.oscOk then e.time.up - e.time.calAt else 0
  (e.time.calBase + ns * 32768 * (10000000 + signed 16 (e.cv oCalTrim)) / (10000000 * 1000000000)).toNat

/-- Records a tamper event in the ring of 8, newest first (R510). -/
def Eff.tamperEvent (e : Eff s0) (cause : Nat) : Eff s0 :=
  e.modTime fun t => { t with tamper := ((cause, e.calNow) :: t.tamper).take 8 }

/-- Sets the calendar clock. -/
def Eff.setCal (e : Eff s0) (v : Nat) : Eff s0 :=
  e.modTime fun t => { t with calBase := v, calAt := t.up, calValid := true, calErr := 0 }

/-- Whether the servo is LOCKED to PTP. -/
def Eff.ptpLocked (e : Eff s0) : Bool := e.time.servo == .locked && e.time.source == 1

/-- UTC of local time in 1/32,768 s. -/
def Eff.utcCal (e : Eff s0) : Int := (e.time.clock - e.utcOffset * 1000000000 * nsq) * 32768 / (1000000000 * nsq)

/-- CALENDAR_COMPARE (R509): every 60 s with CAL_AUTO while LOCKED to PTP the calendar is set where it is more than 1 ms
off; once an hour CAL_TRIM moves by the drift measured in it, within ±50 ppm. -/
def execCalendarCompare (s : State) : Host.Outcome State Fault Refusal :=
  let e := Eff.start s
  if e.cv oCalAuto = 0 || !e.ptpLocked || e.time.up < e.time.lastCompare + 60000000000 then .next e.st
  else
    let want := e.utcCal
    let d := (e.calNow : Int) - want
    let hour := e.time.lastCompare / 3600000000000 < e.time.up / 3600000000000
    let drift := e.time.drift + (d - e.time.calErr)
    let e := e.modTime fun t => { t with calErr := d }
    let e := if decide (32 < d ∨ d < -32) then e.setCal want.toNat else e
    let e := if hour then
        let t := signed 16 (e.cv oCalTrim) - drift * 10000000 / (32768 * 3600)
        e.setCfg (key oCalTrim 0) (some (rawBits 16 (max (-500) (min 500 t))))
      else e
    .next (e.modTime fun t => { t with lastCompare := t.up, drift := if hour then 0 else drift }).st

/-- CAL_SET (R509): sets the calendar clock and CAL_VALID, recorded as a tamper event; WRONG_STATE while LOCKED to PTP
with CAL_AUTO. -/
def actCalSet (e : Eff s0) (_c : Ctx) (args : List Byte) : ActRes s0 :=
  if args.length ≠ 8 then (e, some (ansErr stType))
  else if e.ptpLocked && e.cv oCalAuto = 1 then (e, some (ansOk (le 1 1)))
  else
    let e := (e.tamperEvent 4).setCal (fieldLe args 0 8)
    (e.modTime fun t => { t with valid := true }, some (ansOk (le 1 0)))

/-- CAL_TAMPER_CLEAR (R510): empties the tamper ring; logged with the clearing session. -/
def actCalTamperClear (e : Eff s0) (c : Ctx) (args : List Byte) : ActRes s0 :=
  if args ≠ [] then (e, some (ansErr stType))
  else ((e.modTime fun t => { t with tamper := [] }).fault 0x082 kTroubleClear c.sess, some ansOk)

/-- TAMPER_N_FALL (R510, R519): a falling edge, recorded once the pin has been low for 1 ms; after a shorter pulse it is high again. -/
def execTamperNFall (lowUs : Nat) (s : State) : Host.Outcome State Fault Refusal :=
  let e := Eff.start s
  let held := decide (1000 ≤ lowUs)
  .next ((e.when held (·.tamperEvent 1)).modTime fun t => { t with tamperLow := held }).st

/-- The monitor window and the supply-reset threshold of rail r in mV; 0 where it has none (R577). -/
def railWindow (r : Nat) : Nat × Nat × Nat :=
  match r with
  | 0 => (720, 780, 675) | 1 => (768, 832, 720) | 2 => (864, 936, 810) | 3 => (1140, 1260, 1080) | 4 => (1710, 1890, 1620)
  | 5 => (3135, 3465, 2805) | 6 => (4750, 5250, 0) | 7 => (1710, 1890, 1620) | 8 => (8000, 34000, 0) | _ => (2000, 3600, 0)

/-- Whether rail r lies within its monitor window. -/
def inWindow (r mv : Nat) : Bool := (railWindow r).1 ≤ mv && mv ≤ (railWindow r).2.1

/-- The monitor reads a rail. -/
def Eff.readRail (e : Eff s0) (r mv : Nat) : Eff s0 :=
  e.modClk fun c => { c with
    railMv := smSet 0 c.railMv r mv
    notOk := if inWindow r mv then c.notOk.filter (· != r) else (r :: c.notOk).dedup }

/-- The BACKUP domain resets where VBAT and the main rails are lost together (R574): calendar clock, CAL_TRIM and tamper ring. VBAT is
lost at 0 V, the main rails with VDD_FD below its supply-reset threshold (log 124). -/
def Eff.backupCheck (e : Eff s0) : Eff s0 :=
  let lost := e.clk.notOk.contains 9 && smGet 0 e.clk.railMv 9 == 0 && e.clk.notOk.contains 7 && decide (smGet 0 e.clk.railMv 7 < 1620)
  e.when lost fun e => (e.setCfg (key oCalTrim 0) none).modTime fun t => { t with
    calBase := 0, calAt := t.up, calValid := false, calErr := 0, tamper := [] }

/-- VBAT reads `mv` (R508, R510, R578): below 2.2 V it is recorded, below 1.8 V CAL_VALID is cleared. -/
def Eff.vbatAt (e : Eff s0) (mv : Nat) : Eff s0 :=
  let e := e.readRail 9 mv
  let e := e.when (decide (mv < 2200) && !e.time.vbatLow) (·.tamperEvent 2)
  (e.modTime fun t => { t with vbatLow := decide (mv < 2200), calValid := t.calValid && decide (1800 ≤ mv) }).backupCheck

/-- VBAT_LOW (R508, R510): VBAT at a voltage in mV. -/
def execVbatLow (mv : Nat) (s : State) : Host.Outcome State Fault Refusal := .next ((Eff.start s).vbatAt mv).st

/-- OSCILLATOR_STOP (R508, R510): no edge for 1 ms clears CAL_VALID and is recorded once; an edge within it shows that the oscillator runs. -/
def execOscillatorStop (noEdgeUs : Nat) (s : State) : Host.Outcome State Fault Refusal :=
  let e := Eff.start s
  let runs := decide (noEdgeUs < 1000)
  let e := e.when (!runs && e.time.oscOk) (·.tamperEvent 3)
  .next (e.modTime fun t => { t with
    calBase := e.calNow, calAt := t.up, oscOk := runs, calValid := t.calValid && runs }).st

/-! ### Scheduled actions -/

/-- F_x of a target on the present frame grid (R488, R512): the first frame start at or after it. -/
def Eff.frameOf (e : Eff s0) (target : Int) : Int :=
  let d := target - e.frame.tk / 65536
  let t : Int := e.tf * 65536
  e.frame.k + (d + t - 1) / t

/-- TIMED_CANCEL (R514): removes a pending action; it needs the right that was used to schedule it. -/
def actTimedCancel (e : Eff s0) (c : Ctx) (args : List Byte) : ActRes s0 :=
  if args.length ≠ 1 then (e, some (ansErr stType))
  else if 32 ≤ octet args 0 then (e, some ansRange)
  else
    match smGet none e.time.timed (octet args 0) with
    | some x =>
      if x.isDone then (e, some (ansOk (le 1 1)))
      else if c.level < x.level then (e, some (ansErr stRights))
      else
        let e := e.modTime fun t => { t with timed := smSet none t.timed (octet args 0) none }
        (e.sendAction 0 oTimedCancel (le 8 x.fx ++ le 3 x.obj ++ x.args), some (ansOk (le 1 0)))
    | none => (e, some (ansOk (le 1 1)))

end Sys2Proof.Machine
end

