-- ==== Sys2Proof/Machine/ActionRows.lean ====
section
/-! DEFINITION. Action requests of the fault, auxiliary and time families: each is the checks of R607 around the action that
its family file defines, with the right and the role its object table gives. -/

namespace Sys2Proof.Machine

/-- FIRST_ERR_REARM as a request: ENGINEER, any role (R448). -/
def execFirstErrRearm (q : Req) (args : List Byte) (s : State) : Host.Outcome State Fault Refusal :=
  .next ((Eff.start s).invoke q oFirstErrRearm args 2 false actFirstErrRearm).st

/-- LEDGER_READ as a request: ENGINEER, any role (R448). -/
def execLedgerRead (q : Req) (args : List Byte) (s : State) : Host.Outcome State Fault Refusal :=
  .next ((Eff.start s).invoke q oLedgerRead args 2 false actLedgerRead).st

/-- LEDGER_CLEAR as a request: ENGINEER, any role (R444, R448). -/
def execLedgerClear (q : Req) (args : List Byte) (s : State) : Host.Outcome State Fault Refusal :=
  .next ((Eff.start s).invoke q oLedgerClear args 2 false actLedgerClear).st

/-- INJECT_OPEN as a request: ENGINEER, any role (R439, R448). -/
def execInjectOpen (q : Req) (args : List Byte) (s : State) : Host.Outcome State Fault Refusal :=
  .next ((Eff.start s).invoke q oInjectOpen args 2 false actInjectOpen).st

/-- INJECT_CLOSE as a request (R439, R448). -/
def execInjectClose (q : Req) (args : List Byte) (s : State) : Host.Outcome State Fault Refusal :=
  .next ((Eff.start s).invoke q oInjectClose args 2 false actInjectClose).st

/-- FORCE as a request (R440, R448). -/
def execForce (q : Req) (args : List Byte) (s : State) : Host.Outcome State Fault Refusal :=
  .next ((Eff.start s).invoke q oForce args 2 false actForce).st

/-- EV_SUBSCRIBE as a request: OBSERVER, any role (R447, R448). -/
def execEvSubscribe (q : Req) (args : List Byte) (s : State) : Host.Outcome State Fault Refusal :=
  .next ((Eff.start s).invoke q oEvSubscribe args 0 false actEvSubscribe).st

/-- AUX_PROSPECT as a request: OPERATOR, ACTIVE (R418, R420). -/
def execAuxProspect (q : Req) (args : List Byte) (s : State) : Host.Outcome State Fault Refusal :=
  .next ((Eff.start s).invoke q oAuxProspect args 1 true actAuxProspect).st

/-- AUX_CLEAR as a request: ENGINEER, any role (R415, R420). -/
def execAuxClear (q : Req) (args : List Byte) (s : State) : Host.Outcome State Fault Refusal :=
  .next ((Eff.start s).invoke q oAuxClear args 2 false actAuxClear).st

/-- STEP_AUTHORISE as a request: ENGINEER; the action itself answers WRONG_STATE off the ACTIVE device (R495). -/
def execStepAuthorise (q : Req) (args : List Byte) (s : State) : Host.Outcome State Fault Refusal :=
  .next ((Eff.start s).invoke q oStepAuthorise args 2 false actStepAuthorise).st

/-- CAL_SET as a request: ENGINEER, any role (R509). -/
def execCalSet (q : Req) (args : List Byte) (s : State) : Host.Outcome State Fault Refusal :=
  .next ((Eff.start s).invoke q oCalSet args 2 false actCalSet).st

/-- CAL_TAMPER_CLEAR as a request: ENGINEER, any role (R510). -/
def execCalTamperClear (q : Req) (args : List Byte) (s : State) : Host.Outcome State Fault Refusal :=
  .next ((Eff.start s).invoke q oCalTamperClear args 2 false actCalTamperClear).st

/-- TIMED_CANCEL as a request (R514): the right that scheduled the action, so the request itself needs none. -/
def execTimedCancel (q : Req) (args : List Byte) (s : State) : Host.Outcome State Fault Refusal :=
  .next ((Eff.start s).invoke q oTimedCancel args 0 false actTimedCancel).st

end Sys2Proof.Machine
end

