-- ==== Sys2Proof/Machine/Arith.lean ====
section
/-! DEFINITION. The integer arithmetic of the deterministic core (R62, R63, R276). -/

namespace Sys2Proof.Machine

variable {s0 : Root}

/-- rdiv of R276: division with round-half-up. -/
def rdiv (a b : Int) : Int := (2 * a + b) / (2 * b)

/-- Narrowing by `s` bits with round-half-up (R63). -/
def narrow (s : Nat) (x : Int) : Int := (x + 2 ^ (s - 1)) / 2 ^ s

/-- Clamps to an interval. -/
def clampTo (lo hi x : Int) : Int := max lo (min hi x)

/-- Saturates to Q1.31 (R63). -/
def satQ31 (x : Int) : Int := clampTo (-2147483648) 2147483647 x

/-- Whether a value lies outside Q1.31. -/
def offQ31 (x : Int) : Bool := decide (x < -2147483648 ∨ 2147483647 < x)

/-- The value of a Q2.30 or Q1.31 object element. -/
@[simp] abbrev Eff.cq (e : Eff s0) (obj : Nat) (elem : Nat := 0) : Int := signed 32 (e.st.cv obj elem)

/-- The absolute value as an Int. -/
def iabs (x : Int) : Int := if x < 0 then -x else x

/-- A committed value of domain d that a unit which has already switched takes from the pending set (R72). -/
def Eff.cvSw (e : Eff s0) (d : Nat) (switched : Bool) (obj elem : Nat) : Nat :=
  if switched then
    match (e.dom d).pend with
    | some p => (p.values.find? (·.1 == key obj elem)).elim (e.st.cv obj elem) (·.2)
    | none => e.st.cv obj elem
  else e.st.cv obj elem

end Sys2Proof.Machine
end

