-- ==== Sys2Proof/Machine/Archive.lean ====
section
/-! DEFINITION. The Archive (R537 to R547): watch units, their triggers and captures. -/

namespace Sys2Proof.Machine

variable {s0 : Root}

/-- Watch unit u. -/
@[simp] abbrev Eff.wu (e : Eff s0) (u : Nat) : WUnit := smGet WUnit.reset e.st.watch u

/-- Changes watch unit u. -/
def Eff.modWu (e : Eff s0) (u : Nat) (f : WUnit → WUnit) : Eff s0 := e.modWatch (smMod WUnit.reset · u f)

/-- Whether the Archive is lent to the journal (R554). -/
def Eff.lent (e : Eff s0) : Bool := e.pair.role == .joining || e.pair.resync

/-- MODE of unit u (R562). -/
def Eff.wuMode (e : Eff s0) (u : Nat) : Nat := e.cv oWuCfg u % 4

/-- S_u (R538). -/
def Eff.wuScan (e : Eff s0) (u : Nat) : Nat := field (e.cv oWuCfg u) 8 7 + 1

/-- Slots of unit u. -/
def Eff.wuSlots (e : Eff s0) (u : Nat) : Nat := field (e.cv oWuCfg u) 15 4 + 1

/-- The points of unit u's list, by entry (R537); an unbound entry is none. -/
def Eff.wuList (e : Eff s0) (u : Nat) : List (Nat × Nat) :=
  (List.range (e.cv oWuLen u)).filterMap fun i =>
    let p := e.cv oWlPt (e.cv oWuBase u + i)
    if p = 0x8000_0000 then none else some (i, p)

/-- The lines of bank b that the list touches, in list order (R538). -/
def Eff.wuLines (e : Eff s0) (u b : Nat) : List Nat :=
  ((e.wuList u).map fun p => p.2 / 8).foldl (init := []) fun l x =>
    if x % 8 = b ∧ !l.contains x then l ++ [x] else l

/-- Whether the running frame is the one in which the pass reads a line (R538). -/
def Eff.lineDue (e : Eff s0) (u line : Nat) : Bool :=
  let l := e.wuLines u (line % 8)
  let s := e.wuScan u
  let per := (l.length + s - 1) / s
  match l.findIdx? (· == line) with
  | some i => i / per == e.frame.k % s
  | none => false

/-- The pass of the running frame (R538). -/
def Eff.wuPass (e : Eff s0) (u : Nat) : Nat := e.frame.k / e.wuScan u

/-- Whether the running pass is an image pass (R540). -/
def Eff.imagePass (e : Eff s0) (u : Nat) : Bool :=
  (e.wuPass u - (e.wu u).armPass) % e.cv oImageScans u == 0

/-- The records that the unit's ring or slot holds (R539, R542, R547). -/
def Eff.wuRoom (e : Eff s0) (u : Nat) : Nat :=
  let octets := e.cv oWuRsize u * 65536
  if e.wuMode u = 1 then octets / 16 else (octets / e.wuSlots u - 64) / 16

/-- The 16 octets of a record (R541). -/
def ARec.octets (r : ARec) : List Byte :=
  le 4 (r.point % 2 ^ 21 + r.kind * 2 ^ 21 + r.rpos * 2 ^ 24) ++ le 4 (r.frame % 2 ^ 32) ++ le 8 r.word.toNat

/-! ### Arming and closing (R542, R544, R547) -/

/-- The slot that an arming unit takes (R542): the lowest free one; with OVERWRITE that of the oldest closed capture. -/
def Eff.takeSlot (e : Eff s0) (u : Nat) : Option Nat :=
  let w := e.wu u
  match (List.range (e.wuSlots u)).find? fun i => (smGet none w.closed i).isNone with
  | some i => some i
  | none =>
    if !bitOf (e.cv oWuCfg u) 2 then none
    else (w.closed.foldl (init := none) fun best p =>
      match p.2, best with
      | some c, none => some (p.1, c.seq)
      | some c, some b => if c.seq < b.2 then some (p.1, c.seq) else some b
      | none, b => b).map (·.1)

/-- Starts the unit's recording at pass `first`. -/
def Eff.wuBegin (e : Eff s0) (u : Nat) (st : WState) (slot first : Nat) : Eff s0 :=
  e.modWu u fun w => { w with
    state := st, slot := slot, closed := smSet none w.closed slot none, recs := [], dropped := none, last := [], passLines := []
    armPass := first, images := [], rise := false, fall := false, manual := false, truncated := false }

/-- Enters ARMING with its first pass, or FULL where no slot is free (R542). -/
def Eff.wuRearm (e : Eff s0) (u first : Nat) : Eff s0 :=
  match e.takeSlot u with
  | some i => e.wuBegin u .arming i first
  | none => e.modWu u fun w => { w with state := .full }

/-- The source count that a unit with TSRC 1 or 2 watches (R543). -/
def Eff.wuCount (e : Eff s0) (u : Nat) : Nat :=
  let sel := e.cv oWuTrigSel u
  if field (e.cv oWuCfg u) 6 2 = 1 then smGet 0 e.faults.evCount sel else (e.wu sel).fired

/-- Starts a unit that is OFF, by its MODE (R542): only what its source does from now on can trigger it. -/
def Eff.wuStartAt (e : Eff s0) (u first : Nat) : Eff s0 :=
  let count := e.wuCount u
  match e.wuMode u with
  | 1 => e.modWu u (fun w => { w with closed := [] }) |>.wuBegin u .run 0 first
  | 2 => (e.modWu u fun w => { w with mark := count }).wuRearm u first
  | _ => e

/-- Arms unit u (R542): its first pass is the next to begin. -/
def Eff.wuArmUnit (e : Eff s0) (u : Nat) : Eff s0 :=
  if (e.wu u).state != .off || e.lent then e else e.wuStartAt u (e.wuPass u + 1)

/-- Whether the running pass has read every line of the list. -/
def Eff.passWhole (e : Eff s0) (u : Nat) : Bool := (e.wuList u).all fun p => (e.wu u).passLines.contains (p.2 / 8)

/-- Whether the image pass that began at frame f is wholly in the slot (R544). -/
def Eff.imageWhole (e : Eff s0) (u f : Nat) : Bool :=
  (match (e.wu u).dropped with | none => true | some d => decide (d < f)) && (decide (f + e.wuScan u ≤ e.frame.k) || e.passWhole u)

/-- Closes the capture of unit u (R542, R544, R547): header, HOLDOFF and EV18. -/
def Eff.wuClose (e : Eff s0) (u : Nat) : Eff s0 :=
  let w := e.wu u
  let whole := w.images.filter fun f => e.imageWhole u f
  let pre := e.cv oWuPre u
  let start := match whole.find? fun f => f + pre ≤ w.trigFrame with
    | some f => f
    | none => whole.getLastD w.trigFrame
  let recs := (w.recs.filter fun r => start ≤ r.frame).reverse
  let short := w.trigFrame < start + pre
  let n := w.capseq + 1
  let flags := 1 + 2 * ofBool short + 4 * ofBool w.truncated
  let h := le 4 0x50524356 ++ le 1 u ++ le 1 w.slot ++ le 1 flags ++ le 1 w.tsrc ++ le 4 (n % 2 ^ 32) ++ le 4 recs.length ++
    le 8 w.trigFrame ++ le 8 start ++ le 4 (w.trigFrame - start) ++ le 4 (min (e.cv oWuPost u) (e.frame.k - w.trigFrame)) ++
    le 4 w.missed ++
    time96 w.trigTime ++ zeros 4
  let c : Capture := ⟨h ++ le 4 (crc32c h).toNat, n, recs⟩
  (e.modWu u fun w => { w with
    state := .holdoff, closed := smSet none w.closed w.slot (some c), capseq := n, recs := [], closeFrame := e.frame.k
    holdTrigs := 0 }).event 18

/-- Stops unit u (R542): a capture in POST closes with TRUNCATED, one in PRE or ARMING is discarded; a CONTINUOUS ring stays. -/
def Eff.wuStop (e : Eff s0) (u : Nat) : Eff s0 :=
  let e := if (e.wu u).state == .post then (e.modWu u fun w => { w with truncated := true }).wuClose u else e
  e.modWu u fun w => { w with state := .off, recs := if w.state == .run then w.recs else [] }

/-! ### Records (R540, R541, R544) -/

/-- Appends a record (R542, R544): in POST a record that would overwrite the newest image begun at or before the trigger closes
the capture with TRUNCATED instead. -/
def Eff.wuRecord (e : Eff s0) (u : Nat) (r : ARec) : Eff s0 :=
  let w := e.wu u
  let room := e.wuRoom u
  let add (e : Eff s0) : Eff s0 := e.modWu u fun w => { w with
    recs := (r :: w.recs).take room
    dropped := if room ≤ w.recs.length then (w.recs.getLast?.map (·.frame)) else w.dropped }
  if w.recs.length < room then add e
  else if w.state == .post then
    let guard := (w.images.find? fun f => f ≤ w.trigFrame).getD 0
    match w.recs.getLast? with
    | some o => if guard ≤ o.frame then (e.modWu u fun w => { w with truncated := true }).wuClose u else add e
    | none => e
  else add e

/-- Point triggers (R543): the edges armed after a read of `v`, and whether it fires; in the first pass of PRE the edge only takes
its armed state. -/
def Eff.wuEdges (e : Eff s0) (u : Nat) (v : Int) (first : Bool) : Bool × Bool × Bool :=
  let w := e.wu u
  let cfg := e.cv oWuCfg u
  let edge := field cfg 4 2
  let sg := bitOf cfg 3
  let num (x : Nat) : Int := if sg then signed 32 x else x
  let v := num (rawBits 32 v)
  let lv := num (e.cv oWuLevel u)
  let hy : Int := e.cv oWuHyst u
  let upArm := decide (v ≤ lv - hy)
  let dnArm := decide (lv + hy ≤ v)
  let useUp := edge != 1
  let useDn := edge != 0
  let fireUp := useUp && w.rise && decide (lv ≤ v) && !first
  let fireDn := useDn && w.fall && decide (v ≤ lv) && !first
  (useUp && (if fireUp then false else (w.rise && !first) || upArm), useDn && (if fireDn then false else (w.fall && !first) || dnArm),
    fireUp || fireDn)

/-- Handles a trigger that fires at this read (R542, R543, R545): KIND of the record it gives the read, if any. -/
def Eff.wuFire (e : Eff s0) (u src : Nat) : Eff s0 × Option Nat :=
  match (e.wu u).state with
  | .pre =>
    (e.modWu u fun w => { w with
      state := .post, trigFrame := e.frame.k, trigTime := e.now16, tsrc := src, fired := w.fired + 1 }, some 2)
  | .post => (e, some 3)
  | .off => (e, none)
  | .run => (e, none)
  | _ => (e.modWu u fun w => { w with missed := (w.missed + 1) % 2 ^ 32, holdTrigs := w.holdTrigs + 1 }, none)

/-- Tests the triggers of a TRIGGERED unit at the read of a line (R543): the record KIND and the entry it belongs to. -/
def Eff.wuTrigger (e : Eff s0) (u line : Nat) : Eff s0 × Option (Nat × Nat) :=
  let w := e.wu u
  let here := (e.wuList u).filter fun p => p.2 / 8 == line
  let src := field (e.cv oWuCfg u) 6 2
  let count := e.wuCount u
  let pt := e.cv oWuTrigPt u
  let reads := src = 0 && pt / 8 == line && !bitOf (e.pq pt) 2
  let r := e.wuEdges u (e.pv pt) (w.state == .pre && e.wuPass u == w.prePass)
  let e := e.modWu u fun w => { w with
    manual := false, mark := count, rise := if reads then r.1 else w.rise, fall := if reads then r.2.1 else w.fall }
  let fired : Option (Nat × Nat) :=
    if w.manual then here.head?.map fun p => (3, p.1)
    else if reads && r.2.2 then (here.find? (·.2 == pt)).map fun p => (0, p.1)
    else if (src = 1 || src = 2) && count != w.mark then here.head?.map fun p => (src, p.1)
    else none
  match fired with
  | none => (e, none)
  | some (s, i) =>
    let r := e.wuFire u s
    (r.1, r.2.map fun k => (k, i))

/-- Whether the 32-bit two's-complement difference of two VALUEs exceeds a deadband (R540). -/
def beyondDband (a b : Int) (db : Nat) : Bool := decide ((iabs (signed 32 (rawBits 32 (a - b)))).toNat > db)

/-- Whether a unit records in the running frame (R542): in POST up to WU_POST frames after the trigger frame. -/
def Eff.wuRecords (e : Eff s0) (u : Nat) : Bool :=
  match (e.wu u).state with
  | .run | .arming | .pre => true
  | .post => decide (e.frame.k ≤ (e.wu u).trigFrame + e.cv oWuPost u)
  | .off | .holdoff | .full => false

/-- The record of one entry at a read (R540). -/
def Eff.wuEntry (e : Eff s0) (u : Nat) (mark : Option (Nat × Nat)) (p : Nat × Nat) : Eff s0 :=
  let w := e.wu u
  if !e.wuRecords u then e
  else
    let word := e.pt p.2
    let changed := match smGet none w.last p.1 with
      | none => true
      | some o => ptQual o != ptQual word || ptFlags o != ptFlags word ||
          beyondDband (ptVal word) (ptVal o) (e.cv oWlDband (e.cv oWuBase u + p.1))
    let kind : Option Nat := match mark with
      | some (k, i) => if i = p.1 then some k else if e.imagePass u then some 1 else if changed then some 0 else none
      | none => if e.imagePass u then some 1 else if changed then some 0 else none
    match kind with
    | none => e
    | some k =>
      let rpos := min 255 ((e.time.clock - e.frame.tk) / (256 * nsq)).toNat
      let e := e.wuRecord u ⟨p.2, k, rpos, e.frame.k, word⟩
      e.modWu u fun w => { w with last := smSet none w.last p.1 (some word) }

/-- WATCH_READ (R538 to R543): unit u reads a line of its list in the frame that the pass gives the line, tests its trigger and
records the entries of the line. -/
def execWatchRead (unit : Fin 32) (line : Fin 262144) (s : State) : Host.Outcome State Fault Refusal :=
  let e := Eff.start s
  let u := unit.val
  let w := e.wu u
  if w.state == .off || e.lent || !e.lineDue u line.val || w.passLines.contains line.val || e.wuPass u < w.armPass then .next e.st
  else
    let e := e.modWu u fun w => { w with passLines := line.val :: w.passLines }
    let (e, mark) := if e.wuMode u = 2 then e.wuTrigger u line.val else (e, none)
    .next (e.each ((e.wuList u).filter fun p => p.2 / 8 == line.val) fun e p => (e.wuEntry u mark p).consume 8 p.2).st

/-- What a frame start does to the watch units (R538, R540, R542): a pass begins; the first complete image pass leads from ARMING
to PRE. An image pass that has not read its whole list is no image. -/
def Eff.watchFrame (e : Eff s0) : Eff s0 :=
  e.each ((List.range 32).filter fun u => (e.wu u).state != .off && e.frame.k % e.wuScan u == 0) fun e u =>
    let p := e.wuPass u
    let image := e.imagePass u && decide ((e.wu u).armPass ≤ p)
    let before := e.frame.k - e.wuScan u
    let images := if e.passWhole u then (e.wu u).images else (e.wu u).images.filter (· != before)
    let armed := (e.wu u).state == .arming && decide ((e.wu u).armPass < p) && !images.isEmpty
    e.modWu u fun w => { w with
      passLines := []
      images := if image then e.frame.k :: images else images
      state := if armed then .pre else w.state
      prePass := if armed then p else w.prePass }

/-- POST_END (R542): WU_POST frames after the trigger frame the capture closes. -/
def execPostEnd (unit : Fin 32) (s : State) : Host.Outcome State Fault Refusal :=
  let e := Eff.start s
  let w := e.wu unit.val
  .next (e.when (w.state == .post && decide (w.trigFrame + e.cv oWuPost unit.val ≤ e.frame.k)) (·.wuClose unit.val)).st

/-- HOLDOFF_END (R545): the frames have passed, the triggers have arrived, or neither criterion is enabled. -/
def execHoldoffEnd (unit : Fin 32) (s : State) : Host.Outcome State Fault Refusal :=
  let e := Eff.start s
  let u := unit.val
  let w := e.wu u
  let fr := e.cv oWuHoldFr u
  let tr := e.cv oWuHoldTrig u
  let due := (fr = 0 && tr = 0) || (fr != 0 && decide (w.closeFrame + fr ≤ e.frame.k)) || (tr != 0 && decide (tr ≤ w.holdTrigs))
  .next (e.when (w.state == .holdoff && due) fun e => e.wuRearm u (e.wuPass u + 1)).st

/-- The Archive is lent (R554): every unit stops and its records are lost. -/
def Eff.lendArchive (e : Eff s0) : Eff s0 :=
  e.each (List.range 32) fun e u => e.modWu u fun w => { WUnit.reset with missed := w.missed, capseq := w.capseq, fired := w.fired }

/-! ### Commits (R546) -/

/-- What an ACQ commit compares of unit u: its region with SLOTS and MODE, its list with SCAN and IMAGE_SCANS, and the source of its
triggers. -/
def Eff.wuShape (e : Eff s0) (u : Nat) : List (List Nat) := [
  [e.cv oWuRbase u, e.cv oWuRsize u, e.wuMode u, e.wuSlots u],
  [e.cv oWuBase u, e.cv oWuLen u, e.wuScan u, e.cv oImageScans u] ++
    (List.range (e.cv oWuLen u)).map fun i => e.cv oWlPt (e.cv oWuBase u + i),
  [field (e.cv oWuCfg u) 6 2, e.cv oWuTrigSel u]]

/-- The shapes of all units. -/
def Eff.wuShapes (e : Eff s0) : List (List (List Nat)) := (List.range 32).map e.wuShape

/-- After the activation of an ACQ commit in unit u (R546): closed captures stay where region, SLOTS and MODE do; a new source of
triggers counts from now on; a new list, region, SLOTS or MODE discards the capture that is not yet closed and restarts an armed
unit with its next pass, the one that begins at this frame start where one does. -/
def Eff.wuActivated (e : Eff s0) (u : Nat) (old : List (List Nat)) : Eff s0 :=
  let new := e.wuShape u
  let count := e.wuCount u
  let first := (e.frame.k + e.wuScan u - 1) / e.wuScan u
  let e := e.modWu u fun w => { w with
    closed := if new.getD 0 [] = old.getD 0 [] then w.closed else []
    mark := if new.getD 2 [] = old.getD 2 [] then w.mark else count }
  if new.take 2 = old.take 2 ∨ (e.wu u).state = .off then e
  else (e.modWu u fun w => { w with state := .off, recs := [] }).wuStartAt u first

/-! ### Actions -/

/-- The shared checks of an action on one unit. -/
def actUnit (e : Eff s0) (args : List Byte) (n : Nat) (f : Eff s0 → Nat → ActRes s0) : ActRes s0 :=
  if args.length ≠ n then (e, some (ansErr stType))
  else if 32 ≤ octet args 0 then (e, some ansRange)
  else f e (octet args 0)

/-- WU_ARM (R542). -/
def actWuArm (e : Eff s0) (_c : Ctx) (args : List Byte) : ActRes s0 := actUnit e args 1 fun e u => (e.wuArmUnit u, some ansOk)

/-- WU_DISARM (R542). -/
def actWuDisarm (e : Eff s0) (_c : Ctx) (args : List Byte) : ActRes s0 :=
  actUnit e args 1 fun e u => (if (e.wu u).state == .off then e else e.wuStop u, some ansOk)

/-- WU_TRIGGER (R543): fires a TRIGGERED unit at its next read. -/
def actWuTrigger (e : Eff s0) (_c : Ctx) (args : List Byte) : ActRes s0 :=
  actUnit e args 1 fun e u =>
    (e.when (e.wuMode u == 2 && (e.wu u).state != .off) (·.modWu u fun w => { w with manual := true }), some ansOk)

/-- WU_RELEASE (R542): frees a closed slot; a FULL unit takes it. -/
def actWuRelease (e : Eff s0) (_c : Ctx) (args : List Byte) : ActRes s0 :=
  actUnit e args 2 fun e u =>
    let i := octet args 1
    if 16 ≤ i then (e, some ansRange)
    else
      let e := e.modWu u fun w => { w with closed := smSet none w.closed i none }
      (e.when ((e.wu u).state == .full) fun e => e.wuRearm u (e.wuPass u + 1), some ansOk)

/-- ACQ_EXPORT (R557): sends a closed capture from an offset; WRONG_STATE for one that is not closed. -/
def actAcqExport (e : Eff s0) (_c : Ctx) (args : List Byte) : ActRes s0 :=
  if args.length ≠ 6 then (e, some (ansErr stType))
  else
    let u := octet args 0
    let i := octet args 1
    if 32 ≤ u ∨ 16 ≤ i then (e, some ansRange)
    else
      match smGet none (e.wu u).closed i with
      | none => (e, some (ansResult 1))
      | some c =>
        let job : SJob := ⟨1, u * 256 + i, c.header ++ c.recs.flatMap ARec.octets, fieldLe args 2 4, false⟩
        (e.modJrnl fun j => { j with jobs := j.jobs ++ [job] }, some (ansResult 0))

/-- WU_ARM as a request: OPERATOR (R542). -/
def execWuArm (q : Req) (args : List Byte) (s : State) : Host.Outcome State Fault Refusal :=
  .next ((Eff.start s).invoke q oWuArm args 1 false actWuArm).st

/-- WU_DISARM as a request: OPERATOR (R542). -/
def execWuDisarm (q : Req) (args : List Byte) (s : State) : Host.Outcome State Fault Refusal :=
  .next ((Eff.start s).invoke q oWuDisarm args 1 false actWuDisarm).st

/-- WU_TRIGGER as a request: the object table's right, ENGINEER (R543, R561). -/
def execWuTrigger (q : Req) (args : List Byte) (s : State) : Host.Outcome State Fault Refusal :=
  .next ((Eff.start s).invoke q oWuTrigger args 2 false actWuTrigger).st

/-- WU_RELEASE as a request: the object table's right, ENGINEER (R542, R561). -/
def execWuRelease (q : Req) (args : List Byte) (s : State) : Host.Outcome State Fault Refusal :=
  .next ((Eff.start s).invoke q oWuRelease args 2 false actWuRelease).st

/-- ACQ_EXPORT as a request: OPERATOR (R557). -/
def execAcqExport (q : Req) (args : List Byte) (s : State) : Host.Outcome State Fault Refusal :=
  .next ((Eff.start s).invoke q oAcqExport args 1 false actAcqExport).st

/-- WU_STATUS (R563). -/
def Eff.wuStatus (e : Eff s0) (u : Nat) : Nat :=
  let w := e.wu u
  let st := if e.lent then 7 else match w.state with
    | .off => 0 | .run => 1 | .arming => 2 | .pre => 3 | .post => 4 | .holdoff => 5 | .full => 6
  st + 8 * w.slot + w.closed.foldl (fun a p => a + 2 ^ (8 + p.1)) 0

end Sys2Proof.Machine
end

