-- ==== Sys2Proof/Machine/Commits.lean ====
section
/-! DEFINITION. The activation of commits (R69 to R75): what each domain's boundary does with the set that waits for it. -/

namespace Sys2Proof.Machine

variable {s0 : Root}

/-- Sets the committed value of an element; a value equal to the default is not listed. -/
def Eff.putCfg (e : Eff s0) (k v : Nat) : Eff s0 :=
  e.setCfg k (if v = objDefault e.pair.strapB (k / 65536) (k % 65536) then none else some v)

/-- Whether domain d has a set that waits for its boundary: acknowledged and not yet active (R74). -/
def Eff.committing (e : Eff s0) (d : Nat) : Bool :=
  match (e.dom d).pend with
  | some p => !p.waitPeer
  | none => false

/-- The octets of a set image (R79, R96), whose layout is the firmware's: OBJ in 3 octets, a reserved octet, ELEMENT, the
number of octets of the value and the value, for each element in ascending order. -/
def imageOctets (l : List (Nat × Nat)) : List Byte :=
  l.flatMap fun p =>
    let n := (Nat.log2 p.2) / 8 + 1
    le 3 (p.1 / 65536) ++ [0] ++ le 2 (p.1 % 65536) ++ le 2 n ++ le n p.2

/-- Reads a set image; `fuel` bounds its elements. -/
def readImage : Nat → List Byte → List (Nat × Nat)
  | 0, _ => []
  | fuel + 1, bs =>
    if bs.length < 9 then []
    else
      let n := fieldLe bs 6 2
      (key (fieldLe bs 0 3) (fieldLe bs 4 2), fieldLe bs 8 n) :: readImage fuel (bs.drop (8 + n))

/-- The elements of a set image. -/
def imageValues (bs : List Byte) : List (Nat × Nat) := readImage bs.length bs

/-- The set of domain d that waits becomes active as a whole (R72, R73): COMMIT_SEQ rises, the journal records it (R75) and EV13
occurs. -/
def Eff.activate (e : Eff s0) (d : Nat) : Eff s0 :=
  match (e.dom d).pend with
  | none => e
  | some p =>
    if p.waitPeer then e
    else
      let e := (e.each p.values fun e kv => e.putCfg kv.1 kv.2).modDom d fun x => { x with
        pend := none, seq := (x.seq + 1) % 2 ^ 32 }
      (e.jitem 8 d (le 8 p.actAt ++ imageOctets p.values)).event 13

end Sys2Proof.Machine
end

