-- ==== Sys2Proof/Machine/Conv.lean ====
section
/-! DEFINITION. The converters (R359 to R388): sequences and triggers, entry results, pairing, sigma-delta outputs. -/

namespace Sys2Proof.Machine

variable {s0 : Root}

/-- Fast converter f. -/
@[simp] abbrev Eff.fa (e : Eff s0) (f : Nat) : ConvF := smGet ConvF.reset e.st.conv.fs f

/-- Changes fast converter f. -/
def Eff.modFa (e : Eff s0) (f : Nat) (g : ConvF → ConvF) : Eff s0 := e.modConv fun c => { c with fs := smMod ConvF.reset c.fs f g }

/-- Sigma-delta channel s. -/
@[simp] abbrev Eff.sdch (e : Eff s0) (s : Nat) : SdCh := smGet SdCh.reset e.st.conv.sd s

/-- Changes sigma-delta channel s. -/
def Eff.modSd (e : Eff s0) (s : Nat) (g : SdCh → SdCh) : Eff s0 := e.modConv fun c => { c with sd := smMod SdCh.reset c.sd s g }

/-- Sets bits of CONV_TROUBLE (R388). -/
def Eff.convTrouble (e : Eff s0) (m bits : Nat) : Eff s0 :=
  e.modConv fun c => { c with trouble := smMod 0 c.trouble m (· ||| bits) }

/-- A CONV value as unit m (a fast converter, or 4 + s) has it in force (R382). -/
def Eff.ccv (e : Eff s0) (m obj elem : Nat) : Nat := e.cvSw 8 (e.conv.switched.contains m) obj elem

/-- SEQ_CFG of sequence q of converter f. -/
@[simp] abbrev Eff.seqCfg (e : Eff s0) (f q : Nat) : Nat := e.ccv f oSeqCfg (4 * f + q)

/-- SRC of a SEQ_CFG word (R385). -/
def seqSrc (w : Nat) : Nat := field w 0 3

/-- ENTRY i of converter f. -/
@[simp] abbrev Eff.convEntry (e : Eff s0) (f i : Nat) : Nat := e.ccv f oEntry (32 * f + i)

/-- The conversions of an ENTRY word (R386). -/
def entryCount (w : Nat) : Nat := field w 5 4 + 1

/-- The conversions of a whole sequence. -/
def Eff.seqConversions (e : Eff s0) (f q : Nat) : Nat :=
  let w := e.seqCfg f q
  (List.range (field w 13 6)).foldl (fun n i => n + entryCount (e.convEntry f (field w 8 5 + i))) 0

/-- Half a conversion period, 6.25 ns, in 2⁻³² ns (R373). -/
def halfEdge : Int := 26843545600

/-- The first conversion edge at or after an instant (R359); edges are multiples of 12.5 ns counted from a frame start. -/
def Eff.edgeAfter (e : Eff s0) (t : Int) : Int :=
  let d := t - e.frame.tk
  e.frame.tk + (d + 2 * halfEdge - 1) / (2 * halfEdge) * (2 * halfEdge)

/-- Starts a sequence with its first conversion at an edge. -/
def Eff.startSeq (e : Eff s0) (f q : Nat) (edge : Int) : Eff s0 :=
  e.modFa f fun x => { x with running := some q, lastSeq := q, entry := 0, conv := 0, start := edge }

/-- A trigger is dropped (R367). -/
def Eff.dropTrig (e : Eff s0) (f : Nat) : Eff s0 :=
  let e := e.modFa f fun x => { x with dropped := (x.dropped + 1) % 2 ^ 32 }
  ((e.convTrouble f 1).setTrouble 4).fault (0x060 + f) kConvOverrun f

/-- A trigger that arrives while a sequence runs (R367): queued, or dropped; of two on the same edge the higher sequence is. -/
def Eff.queueTrig (e : Eff s0) (f q : Nat) (edge : Int) : Eff s0 :=
  match (e.fa f).queued with
  | none => e.modFa f fun x => { x with queued := some (q, edge) }
  | some (r, at1) =>
    let e := if at1 = edge ∧ q < r then e.modFa f fun x => { x with queued := some (q, edge) } else e
    e.dropTrig f

/-- A trigger of sequence q of converter f at an instant (R365, R367): it starts, is queued, or is dropped. Of triggers on the same edge
the lowest sequence is served first, so a higher one that started on this very edge gives way. -/
def Eff.convTrig (e : Eff s0) (f q : Nat) (t : Int) : Eff s0 :=
  if seqSrc (e.seqCfg f q) = 0 then e
  else
    let edge := e.edgeAfter t
    let x := e.fa f
    match x.running with
    | none => e.startSeq f q edge
    | some r => if x.start = edge ∧ x.entry = 0 ∧ q < r then (e.startSeq f q edge).queueTrig f r edge else e.queueTrig f q edge

/-- The trigger instant of a sequence by its source (R365): FRAME at SAMPLE_OFFSET after the frame start, TICK TICK_LEAD before the
tick that comes next. -/
def Eff.trigInstant (e : Eff s0) (src : Nat) : Int :=
  if src = 1 then e.frame.tk + e.frame.so * nsq
  else e.hub.ts + ((e.hub.ticks : Int) * e.cv oFastTick - e.cv oTickLead) * (nsq / 8)

/-- CONVERSION_TRIGGER (R365): the frame trigger of a sequence, once a frame, or the trigger of the tick that comes next, once a tick. The
triggers of the other sources come with TRIGGER_COMPARE_MATCH and with the frame start of a CONV_TRIGGER. -/
def execConversionTrigger (conv seq : Fin 4) (s : State) : Host.Outcome State Fault Refusal :=
  let e := Eff.start s
  let f := conv.val
  let i := 4 * f + seq.val
  let src := seqSrc (e.seqCfg f seq.val)
  if src = 1 && e.frame.running && !e.conv.fired.contains i then
    .next ((e.modConv fun c => { c with fired := i :: c.fired }).convTrig f seq.val (e.trigInstant src)).st
  else if src = 2 && e.hub.running && (e.fa f).tickDone != some e.hub.ticks then
    .next ((e.modFa f fun x => { x with tickDone := some e.hub.ticks }).convTrig f seq.val (e.trigInstant src)).st
  else .next e.st

/-- CONV_TRIGGER (R365, R384): WRONG_STATE where the sequence is not SOFT; it fires at the next frame start, in any role. -/
def actConvTrigger (e : Eff s0) (_c : Ctx) (args : List Byte) : ActRes s0 :=
  if args.length ≠ 2 then (e, some (ansErr stType))
  else
    let f := octet args 0
    let q := octet args 1
    if 4 ≤ f ∨ 4 ≤ q then (e, some ansRange)
    else if seqSrc (e.seqCfg f q) ≠ 4 then (e, some (ansResultFrame 1 0))
    else
      let e := e.modConv fun c => { c with soft := if c.soft.contains (4 * f + q) then c.soft else c.soft ++ [4 * f + q] }
      (e.when e.isActive (·.sendAction (e.frame.k + 1) oConvTrigger args), some (ansResultFrame 0 (e.frame.k + 1)))

/-- CONV_TRIGGER as a request: ENGINEER, in any role. -/
def execConvTrigger (q : Req) (args : List Byte) (s : State) : Host.Outcome State Fault Refusal :=
  .next ((Eff.start s).invoke q oConvTrigger args 2 false actConvTrigger).st

/-- The soft triggers that wait fire at a frame start, in ascending order (R365, R367). -/
def Eff.softTriggers (e : Eff s0) : Eff s0 :=
  let l := (List.range 16).filter fun i => e.conv.soft.contains i
  let e := e.modConv fun c => { c with soft := [] }
  e.each l fun e i => e.convTrig (i / 4) (i % 4) e.frame.tk

/-! ### Results -/

/-- One conversion of an entry: its place in half edges after the sequence's first, DATA as Q1.31 and REASON. -/
structure Conversion where
  place : Nat
  data : Int
  reason : Nat

/-- The result of an entry (R364): twice the number of half edges summed, how many were summed, the value and REASON. -/
def entryResult (avg : Bool) (l : List Conversion) : Int × Nat × Int × Nat :=
  let good := l.filter (·.reason == 0)
  let last : Conversion := l.getLast?.getD ⟨0, 0, 0xA⟩
  if !avg then (last.place, 1, last.data, last.reason)
  else if good.isEmpty then (last.place, 1, last.data, last.reason)
  else (good.foldl (fun a c => a + (c.place : Int)) 0, good.length, rdiv (good.foldl (fun a c => a + c.data) 0) good.length, 0)

/-- A corrected value (R362) before saturation. -/
def correct (gain ofs r : Int) : Int := narrow 30 (gain * r) + ofs

/-- Writes a result to its point (R371): an invalid one keeps VALUE, sets INVALID and copies REASON. Where the core consumes
the active device's values (R383), a standby's own converters write no point. -/
def Eff.putResult (e : Eff s0) (pt : Nat) (v : Int) (toff : Int) (reason flags : Nat) : Eff s0 :=
  if e.pair.role == .standby || e.pair.role == .joining then e
  else match smGet none e.faults.forced pt with
  | some w => e.putPt pt (signed 32 w) toff qForced flags
  | none =>
  if reason = 0 then e.putPt pt (satQ31 v) toff (if offQ31 v then qSat else 0) flags
  else e.putPt pt (e.pv pt) toff qInvalid (reason + flags)

/-- REASON of a conversion (R369) by what acts on the converter as a whole: PLL_C (R359), then settling (R368), then what the field
die reports, then calibration (R361). -/
def Eff.convReason (e : Eff s0) (f settle : Nat) (gainSettle : Bool) (own : Nat) : Nat :=
  if !e.dev.pllLocked.contains 2 then 8
  else if 0 < settle then (if gainSettle then 2 else 1)
  else if own ≠ 0 then own
  else if !(e.fa f).calOk then 7 else 0

/-- DATA of a sample word (R370) as Q1.31. -/
def sampleValue (x : Sample) : Int := (x.word &&& 0xFFFF_FF00#32).toInt

/-- REASON of a sample word (R370); a word that is not valid and gives none is a die-to-die error. -/
def sampleWhy (x : Sample) : Nat :=
  let r := field x.word.toNat 3 4
  if r = 0 && !bitOf x.word.toNat 7 then 0xA else r

/-- The conversions of an entry as the device marks them; a sample word that has not arrived is a die-to-die error. -/
def Eff.marks (e : Eff s0) (f n settle : Nat) (gs : Bool) (first half : Nat) (l : List Sample) : List Conversion :=
  (List.range n).map fun i =>
    let s := (l.drop i).headD ⟨0⟩
    ⟨2 * (first + i) + half, sampleValue s, e.convReason f (settle - i) gs (sampleWhy s)⟩

/-- The conversions of converter f that still settle, and whether its gain does, at a conversion of a channel at a gain (R368). A channel
is numbered over all converters: a paired upper converter samples the lower one's. -/
def ConvF.settling (x : ConvF) (ch g : Nat) : Nat × Bool :=
  match x.prev with
  | some p => if p.2 != g then (3, true) else if p.1 != ch then (2, false) else (x.settle, x.settleGain)
  | none => (x.settle, x.settleGain)

/-- The conversions of the last millisecond of local time. -/
def Eff.clocksUsed (e : Eff s0) (f : Nat) : Nat :=
  let since := e.time.clock - 1000000 * nsq
  (e.fa f).uses.foldl (init := 0) fun a u => a + (u.2 - (max 0 ((since - u.1) / (2 * halfEdge) + 1)).toNat)

/-- CAL_STARVED (R361): fewer than 10 % of the 80,000 clocks of the last millisecond were free. -/
def Eff.calStarved (e : Eff s0) (f : Nat) : Bool := decide (72000 < e.clocksUsed f)

/-- Converter f has made n conversions of a channel at a gain, the first at an edge: counted (R361, R364), with what still settles. -/
def Eff.converted (e : Eff s0) (f ch g n : Nat) (edge : Int) (l : List Conversion) : Eff s0 :=
  let bad := (l.filter (·.reason != 0)).length
  let since := e.time.clock - 2000000 * nsq
  e.modFa f fun x => { x with
    prev := some (ch, g), settle := (x.settling ch g).1 - n, settleGain := (x.settling ch g).2
    uses := (edge, n) :: x.uses.filter fun u => decide (since < u.1), invalid := (x.invalid + bad) % 2 ^ 32 }

/-- A result with REASON 0x4 sets OVER_RANGE (R388). -/
def Eff.overRange (e : Eff s0) (f reason : Nat) : Eff s0 := e.when (reason == 4) (·.convTrouble f 2)

/-- The comparison of a pair in CHECK (R374): the REASON of both results and the producer flag, and CONV_CHECK. A pair with a result that
is invalid for another reason is not compared, and breaks neither count. -/
def Eff.checkPair (e : Eff s0) (p i : Nat) (a b : Int) (valid : Bool) : Eff s0 × Bool × Bool :=
  let x := smGet ChkRun.reset e.conv.chk (8 * p + i)
  let n := e.ccv (2 * p) oCheckCount p
  if !valid then (e, x.failed, false)
  else
    let diff := decide (signed 32 (e.ccv (2 * p) oCheckTol p) < iabs (satQ31 a - satQ31 b))
    let bad := if diff then x.bad + 1 else 0
    let good := if diff then 0 else x.good + 1
    let trips := !x.failed && n ≤ bad
    let failed := if x.failed then good < n else trips
    let y : ChkRun := ⟨min bad n, min good n, failed⟩
    let e := e.modConv fun c => { c with chk := smSet ChkRun.reset c.chk (8 * p + i) y }
    let e := e.when trips fun e => (e.convTrouble (2 * p) 4).fault (0x060 + 2 * p) kConvCheck (8 * p + i)
    (e, failed, diff)

/-- ENTRY_RESULT (R364): the last conversion of the next entry of the running sequence has completed. `lower` and `upper` are
the sample words of its conversions, the upper ones where the converter is paired (R373). -/
def execEntryResult (conv : Fin 4) (lower upper : List Sample) (s : State) : Host.Outcome State Fault Refusal :=
  let e := Eff.start s
  let f := conv.val
  let x := e.fa f
  match x.running with
  | none => .next e.st
  | some q =>
    let cfg := e.seqCfg f q
    if field cfg 13 6 ≤ x.entry then .next e.st
    else
      let w := e.convEntry f (field cfg 8 5 + x.entry)
      let ch := field w 0 3
      let g := field w 3 2
      let n := entryCount w
      let mode := if f % 2 = 0 then e.ccv f oPairMode (f / 2) else 0
      let c8 := 8 * f + ch
      let sl := x.settling c8 g
      let su := (e.fa (f + 1)).settling c8 g
      let lo := e.marks f n sl.1 sl.2 x.conv 0 lower
      let hi := e.marks (f + 1) n su.1 su.2 x.conv (if mode = 2 then 0 else 1) upper
      let edge := x.start + 2 * halfEdge * x.conv
      let e := (e.modFa f fun x => { x with entry := x.entry + 1, conv := x.conv + n }).converted f c8 g n edge lo
      let e := e.when (mode != 0) (·.converted (f + 1) c8 g n edge hi)
      let avg := bitOf w 9
      let all := if mode = 1 then (lo.zip hi).flatMap fun p => [p.1, p.2] else lo
      let k := 4 * (8 * f + ch) + g
      let gain := signed 32 (e.ccv f oChGain k)
      let ofs := signed 32 (e.ccv f oChOfs k)
      let toff (r : Int × Nat × Int × Nat) : Int := (r.2.1 * (x.start - e.frame.tk) + r.1 * halfEdge) / (4 * nsq * r.2.1)
      let r := entryResult avg all
      let v := correct gain ofs r.2.2.1
      let e := e.modConv fun c => { c with
        written := if seqSrc cfg = 1 then (0x1000 + 8 * f + ch) :: c.written else c.written }
      if mode = 2 then
        let ku := 4 * (8 * (f + 1) + ch) + g
        let ru := entryResult avg hi
        let vu := correct (signed 32 (e.ccv f oChGain ku)) (signed 32 (e.ccv f oChOfs ku)) ru.2.2.1
        let (e, failed, diff) := e.checkPair (f / 2) ch v vu (r.2.2.2 == 0 && ru.2.2.2 == 0)
        let why (n : Nat) : Nat := if n ≠ 0 then n else if failed then 5 else 0
        let fl := if diff then 16 else 0
        let e := (e.overRange f r.2.2.2).overRange (f + 1) ru.2.2.2
        let e := e.putResult (0x1000 + 8 * f + ch) v (toff r) (why r.2.2.2) fl
        .next (e.putResult (0x1040 + 8 * (f / 2) + ch) vu (toff ru) (why ru.2.2.2) 0).st
      else .next ((e.overRange f r.2.2.2).putResult (0x1000 + 8 * f + ch) v (toff r) r.2.2.2 0).st

/-- The units that an element of domain CONV concerns (R382): fast converter f, or 4 + s for a sigma-delta channel. -/
def Eff.convUnits (e : Eff s0) (k : Nat) : List Nat :=
  let o := k / 65536
  let i := k % 65536
  if o = oSeqCfg then [i / 4]
  else if o = oEntry ∨ o = oChGain ∨ o = oChOfs then [i / 32]
  else if o = oPairMode ∨ o = oCheckTol ∨ o = oCheckCount then [2 * i, 2 * i + 1]
  else if o = oSliceCal then [i]
  else if o = oSliceOfs ∨ o = oSliceGain ∨ o = oSliceSkew then [i / 8]
  else if o = oSdFilt ∨ o = oSdxGain ∨ o = oSdxOfs then [4 + i]
  else if o = oXbClk ∨ o = oXbDelay then [20 + i]
  else if o = oClkoutCfg then ((List.range 8).filter fun x => field (e.cv oXbClk x) 2 2 == i).map (20 + ·)
  else []

/-- Unit m takes the waiting CONV set over (R382). -/
def Eff.convTake (e : Eff s0) (m : Nat) : Eff s0 :=
  e.when (e.committing 8 && !e.conv.switched.contains m) (·.modConv fun c => { c with switched := m :: c.switched })

/-- A CONV commit is over once the last unit concerned has switched (R72, R382); a changed CLKOUT pin interrupts its clocks. -/
def Eff.convEnd (e : Eff s0) : Eff s0 :=
  match (e.dom 8).pend with
  | some p =>
    let units := p.values.flatMap fun kv => e.convUnits kv.1
    e.when (!p.waitPeer && units.all e.conv.switched.contains) fun e =>
      ((e.activate 8).modConv fun c => { c with switched := [] }).clkoutFollow
  | none => e

/-- SEQUENCE_END (R367, R382): the running sequence has ended; a pending CONV set takes the converter over, and a queued
trigger starts at the edge after. -/
def execSequenceEnd (conv : Fin 4) (s : State) : Host.Outcome State Fault Refusal :=
  let e := Eff.start s
  let f := conv.val
  match (e.fa f).running with
  | none => .next e.st
  | some q =>
    let after := (e.fa f).start + 2 * halfEdge * e.seqConversions f q
    let e := e.modFa f fun x => { x with running := none }
    let e := e.convTake f
    match (e.fa f).queued with
    | none => .next e.convEnd.st
    | some (n, edge) =>
      let e := e.modFa f fun x => { x with queued := none }
      .next (if seqSrc (e.seqCfg f n) = 0 then e else e.startSeq f n (max edge after)).convEnd.st

/-- CAL_CONVERGED (R361): the first background estimate of a converter has converged; PLL_C must be locked. -/
def execCalConverged (conv : Fin 4) (s : State) : Host.Outcome State Fault Refusal :=
  let e := Eff.start s
  .next (e.when (e.dev.pllLocked.contains 2) (·.modFa conv.val fun x => { x with calOk := true })).st

/-! ### Sigma-delta channels (R376 to R380) -/

/-- The filter of channel s in force. -/
def Eff.sdFilt (e : Eff s0) (s : Nat) : Nat × Nat × Nat := sdFilter (e.ccv (4 + s) oSdFilt s)

/-- Four times the factor by which a channel's times scale with its modulator clock (R377): 5, 10, 16 or 20 MHz. -/
def Eff.sdScale (e : Eff s0) (s : Nat) : Nat :=
  if s < 16 then 4
  else match field (e.ccv (4 + s) oXbClk (s - 16)) 0 2 with
    | 0 => 16 | 1 => 8 | 2 => 5 | _ => 4

/-- CLKOUT_CFG of the pin that clocks channel s as the channel has it in force; 0 for the channels with their own modulator. -/
def Eff.sdClkout (e : Eff s0) (s : Nat) : Nat :=
  if s < 16 then 0 else e.ccv (4 + s) oClkoutCfg (field (e.ccv (4 + s) oXbClk (s - 16)) 2 2)

/-- SD_OUTPUT (R378): a filter output of channel s completes. -/
def execSdOutput (ch : Fin 24) (sample : Sample) (s : State) : Host.Outcome State Fault Refusal :=
  let e := Eff.start s
  let c := ch.val
  let pt := 0x1020 + c
  let x := e.sdch c
  let (per, delay, count) := e.sdFilt c
  let k := e.sdScale c
  let period : Int := per * k * (nsq / 4)
  let done := e.frame0 + (e.time.clock - e.frame0) / period * period
  let at1 := done - (delay : Int) * k * nsq / 4000
  let toff := (at1 - e.frame.tk) / (4 * nsq)
  let left := x.settle.getD count
  let why := if !e.dev.pllLocked.contains 2 then 8
    else if x.stuck || x.clkMissing || 0 < x.gap then 6
    else if 0 < left then 3
    else sampleWhy sample
  let v := correct (signed 32 (e.ccv (4 + c) oSdxGain c)) (signed 32 (e.ccv (4 + c) oSdxOfs c)) (sampleValue sample)
  let e := e.modSd c fun x => { x with
    settle := some (if x.stuck || x.clkMissing then left else left - 1), gap := x.gap - 1
    doneAt := done, before := (e.pt pt).toNat }
  let e := e.overRange 4 why
  let e := e.putResult pt v toff why 0
  let clk := e.sdClkout c
  let e := e.convTake (4 + c)
  let now := e.sdFilt c
  .next (e.when (now != (per, delay, count) || e.sdClkout c != clk) (·.modSd c fun x => { x with settle := some now.2.2 })).convEnd.st

/-- SD_STUCK (R379): a bitstream without a transition for 128 modulator clocks, or a missing XB clock. -/
def execSdStuck (ch : Fin 24) (clocks : Nat) (clockMissing : Bool) (s : State) : Host.Outcome State Fault Refusal :=
  let e := Eff.start s
  let c := ch.val
  let x := e.sdch c
  if clockMissing && 16 ≤ c then
    if x.clkMissing then .next e.st
    else .next (((e.modSd c fun x => { x with clkMissing := true }).convTrouble 4 16).fault 0x064 kXbClock c).st
  else if 128 ≤ clocks && !x.stuck then
    .next (((e.modSd c fun x => { x with stuck := true }).convTrouble 4 8).fault 0x064 kSdStuck c).st
  else .next e.st

/-- BITSTREAM_RESUME (R379): transitions for 128 clocks restart the filter. -/
def execBitstreamResume (ch : Fin 24) (clocks : Nat) (s : State) : Host.Outcome State Fault Refusal :=
  let e := Eff.start s
  let c := ch.val
  let x := e.sdch c
  .next (e.when ((x.stuck || x.clkMissing) && 128 ≤ clocks) (·.modSd c fun x => { x with
    stuck := false, clkMissing := false, settle := some (e.sdFilt c).2.2 })).st

/-- The word of a point as the deadline snapshot takes it (R380): a sigma-delta output must have completed 100 ns before. -/
def Eff.snapWord (e : Eff s0) (pt : Nat) (limit : Int) : PointWord :=
  if 0x1020 ≤ pt && pt < 0x1038 then
    let x := e.sdch (pt - 0x1020)
    if x.doneAt ≤ limit || x.before = 0 then e.pt pt else BitVec.ofNat 64 x.before
  else e.pt pt

/-- FRAME points not written in this frame are missing at the deadline (R372). -/
def Eff.convMissing (e : Eff s0) : Eff s0 :=
  e.each (List.range 4) fun e f => e.each (List.range 4) fun e q =>
    let w := e.seqCfg f q
    if seqSrc w ≠ 1 then e
    else
      let chs := ((List.range (field w 13 6)).map fun i => field (e.convEntry f (field w 8 5 + i)) 0 3).dedup
      e.each chs fun e ch =>
        let pt := 0x1000 + 8 * f + ch
        if e.conv.written.contains pt then e
        else
          let e := (e.missPt pt).modConv fun c => { c with written := pt :: c.written }
          let ck := 0x1040 + 8 * (f / 2) + ch
          e.when (f % 2 == 0 && e.ccv f oPairMode (f / 2) == 2) (·.missPt ck)

/-- CONV_STATUS (R387). -/
def Eff.convStatus (e : Eff s0) (f : Nat) : Nat :=
  let x := e.fa f
  ofBool x.running.isSome + 2 * ofBool x.queued.isSome + 4 * x.lastSeq + 16 * ofBool x.calOk + 32 * ofBool (e.calStarved f) +
    64 * ofBool (e.dev.pllLocked.contains 2)

end Sys2Proof.Machine
end

