-- ==== Sys2Proof/Machine/Hub.lean ====
section
/-! DEFINITION. The hub counters, compares, masks and halt (R225 to R244). -/

namespace Sys2Proof.Machine

variable {s0 : Root}

/-- One edge quantum q_E of 125 ps in 2⁻³² ns. -/
def qE : Int := nsq / 8

/-- Hub leg u. -/
@[simp] abbrev Eff.hleg (e : Eff s0) (u : Nat) : HubLeg := smGet HubLeg.reset e.st.hub.legs u

/-- Changes hub leg u. -/
def Eff.modHleg (e : Eff s0) (u : Nat) (f : HubLeg → HubLeg) : Eff s0 :=
  e.modHub fun h => { h with legs := smMod HubLeg.reset h.legs u f }

/-- A HUB value as leg u has it in force (R232). -/
def Eff.hcv (e : Eff s0) (u obj elem : Nat) : Nat := e.cvSw 3 (e.hub.switched.contains u) obj elem

/-- The group of leg u. -/
def Eff.groupOf (e : Eff s0) (u : Nat) : Nat := e.hcv u oHubGroup u

/-- The legs of group g. -/
def Eff.groupLegs (e : Eff s0) (g : Nat) : List Nat := (List.range 12).filter fun u => e.groupOf u == g

/-- The leg with which the objects of group g take effect (R232). -/
def Eff.groupLead (e : Eff s0) (g : Nat) : Nat := (e.groupLegs g).headD 0

/-- The leg with which an element of a HUB object takes effect (R232). -/
def Eff.legOf (e : Eff s0) (k : Nat) : Nat :=
  let o := k / 65536
  let i := k % 65536
  if o = oLegEn || o = oLegMode || o = oPer || o = oPhase || o = oDt || o = oHubGroup then i
  else if o = oCmp || o = oTc || o = oSrc then i / 2
  else if o = oHaltMode || o = oMaskSrc then e.groupLead i
  else if o = oMaskPat || o = oMaskEvt then e.groupLead (i / 8)
  else if o = oMaskLut then e.groupLead (i / 16)
  else 0

/-- The legs that a pending HUB commit concerns. -/
def Eff.hubConcerned (e : Eff s0) : List Nat :=
  match (e.dom 3).pend with
  | some p => (p.values.map fun kv => e.legOf kv.1).dedup
  | none => []

/-- The pattern of group g in force (R237). -/
def Eff.maskActive (e : Eff s0) (g : Nat) : Nat :=
  let u := e.groupLead g
  match e.hcv u oMaskSrc g with
  | 1 => e.hcv u oMaskLut (16 * g + e.hub.comm)
  | 2 => smGet 0 e.hub.mask g
  | _ => 0

/-- The mask entry of leg u: 0 PASS, 1 OFF, 2 HIGH, 3 LOW. -/
def Eff.maskOf (e : Eff s0) (u : Nat) : Nat :=
  let g := e.groupOf u
  field (e.hcv (e.groupLead g) oMaskPat (8 * g + e.maskActive g)) (2 * u) 2

/-- A compare word as a position in q_E (R228, R229), and whether it was clipped. -/
def compareOf (absolute : Bool) (per w : Nat) : Nat × Bool :=
  if w = 0 then (0, false)
  else if w = 0xFFFF_FFFF then (per, false)
  else if absolute then (if per ≤ w then (per - 1, true) else (w, false))
  else (min ((w * per + 2 ^ 31) / 2 ^ 32) (per - 1), false)

/-- The position of the local clock in the running period of leg u, in q_E. -/
def Eff.hubPos (e : Eff s0) (u : Nat) : Nat := ((e.time.clock - (e.hleg u).startAt) / qE).toNat

/-- The gates that the compares of a leg ask for at a position (R227): the high and the low gate. -/
def compareGates (mode per c0 c1 pos : Nat) : Bool × Bool :=
  let updown := bitOf mode 0
  let start := (per + 1 - c0) / 2
  let high := if updown then decide (start ≤ pos ∧ pos < start + c0) else decide (pos < c0)
  if bitOf mode 1 then
    (high, if updown then decide (pos < c1 / 2 ∨ (per - (c1 + 1) / 2 ≤ pos ∧ pos < per))
      else decide (per - c1 ≤ pos ∧ pos < per))
  else (high, !high)

/-- The levels that R236 gives leg u at a position, for its high and low gate; none where the outputs stay as they are. A leg that is
disabled or has not begun holds both gates off whatever its mask says (R225, log 109). -/
def Eff.hubGates (e : Eff s0) (u pos : Nat) : Option (Bool × Bool) :=
  let l := e.hleg u
  let g := e.groupOf u
  let lv := e.hcv 0 oSafeLevels 0
  let safe := (bitOf lv (2 * u), bitOf lv (2 * u + 1))
  if e.gate.stage then some (false, false)
  else if e.dev.state == .safe || l.safeHeld then some safe
  else if e.hub.halted.contains g then
    if e.hcv (e.groupLead g) oHaltMode g = 1 then none else some safe
  else
    if !e.hub.running || !l.begun || e.hcv u oLegEn u = 0 then some (false, false)
    else match e.maskOf u with
    | 1 => some (false, false)
    | 2 => some (true, false)
    | 3 => some (false, true)
    | _ =>
      if l.refused then some (false, false)
      else some (compareGates (e.hcv u oLegMode u) (e.hcv u oPer u) l.c0 l.c1 pos)

/-- The dead time of leg u in q_E (R230, R239): none in INDEPENDENT mode but on the way to SAFE_LEVELS. -/
def Eff.deadTime (e : Eff s0) (u : Nat) : Nat :=
  let safe := e.dev.state == .safe || (e.hleg u).safeHeld || e.hub.halted.contains (e.groupOf u)
  if bitOf (e.hcv u oLegMode u) 1 && !safe then 0 else e.hcv u oDt u

/-- Commands the gates of leg u to what R236 gives at a position. Nothing where the outputs are high-impedance. -/
def Eff.driveLeg (e : Eff s0) (u pos : Nat) : Eff s0 :=
  if e.gate.hiZ then e
  else
    match e.hubGates u pos with
    | none => e
    | some (h, l) => e.driveGates u h l (e.deadTime u)

/-- Every leg driven from where it stands: a period that has run out stays at its last position until the next one starts. -/
def Eff.driveLegs (e : Eff s0) : Eff s0 :=
  e.each (List.range 12) fun e u => e.driveLeg u (min (e.hubPos u) (e.hcv u oPer u - 1))

/-- Drives the legs of group g from where they are. -/
def Eff.driveGroup (e : Eff s0) (g : Nat) : Eff s0 :=
  e.each (e.groupLegs g) fun e u => e.driveLeg u (min (e.hubPos u) (e.hcv u oPer u - 1))

/-- Mask events of one HUB-island cycle (R237, R238), at an instant: in each group whose source is EVENTS the highest pattern that one
of the codes is bound to is selected, unless a bound event of the same cycle has selected a higher one. -/
def Eff.maskEvents (e : Eff s0) (codes : List Nat) (t : Int) : Eff s0 :=
  e.each (List.range 4) fun e g =>
    let u := e.groupLead g
    if e.hcv u oMaskSrc g ≠ 2 then e
    else
      match ((List.range 8).reverse).find? fun i => codes.contains (e.hcv u oMaskEvt (8 * g + i)) with
      | some i =>
        let same := smGet (-1) e.hub.maskAt g == t / nsq
        let i := if same then max i (smGet 0 e.hub.mask g) else i
        (e.modHub fun h => { h with mask := smSet 0 h.mask g i, maskAt := smSet (-1) h.maskAt g (t / nsq) }).driveGroup g
      | none => e

/-- Every leg is monitored as LEG_EN of the committed set says (R391). -/
def Eff.monitorLegs (e : Eff s0) : Eff s0 := e.each (List.range 12) fun e u => e.setMonitored u (e.cv oLegEn u != 0)

/-- Starts the HUB island at a frame start (R225, R237): t_s, period numbers from 0, pattern 0 where events select; until its first period
start a leg holds both gates off. -/
def Eff.startHub (e : Eff s0) : Eff s0 :=
  let e := e.modHub fun h => { h with
    running := true, ts := e.frame.tk, legs := h.legs.map fun p =>
      (p.1, { HubLeg.reset with
        trouble := p.2.trouble, word0 := p.2.word0, word1 := p.2.word1, wantH := p.2.wantH, wantL := p.2.wantL, wantAt := p.2.wantAt })
    mask := [], maskAt := [], startNext := false, stopReq := false, ticks := 0, switched := [] }
  e.monitorLegs.driveLegs

/-- Stops the HUB island at once, as a role change or a reset does; the gates stay as they are. -/
def Eff.stopHub (e : Eff s0) : Eff s0 :=
  e.modHub fun h => { h with running := false, startNext := false, stopReq := false, switched := [] }

/-- A HUB commit is over once the last leg concerned has switched (R232). -/
def Eff.hubCommitEnd (e : Eff s0) : Eff s0 :=
  e.when (e.committing 3 && e.hubConcerned.all fun u => e.hub.switched.contains u) fun e =>
    (e.activate 3).modHub fun h => { h with switched := [] }

/-- How long before an instant at the balls the HUB island must hold what acts at it: it acts 25 ns earlier (R226), and the guard is 3
of its 1 ns cycles (R232, R233). -/
def hubGuard : Int := 28 * nsq

/-- Leg u takes its part of a pending HUB commit over at the period that starts at `at1` (R232): the set must have reached the
island before the guard. -/
def Eff.hubSwitch (e : Eff s0) (u : Nat) (at1 : Int) : Eff s0 :=
  match (e.dom 3).pend with
  | some p =>
    if !p.waitPeer && !e.hub.switched.contains u && decide (p.ackAt + hubGuard ≤ at1) then
      e.modHub fun h => { h with switched := u :: h.switched }
    else e
  | none => e

/-- The word of compare i of leg u at a reload whose instant is `at1`: a bound compare takes the latest lane value that reached the
island before the guard, or keeps its word with LANE_LATE; FAST_OVERRUN is raised and counted once for the tick (R227, R233, R269). -/
def Eff.reloadWord (e : Eff s0) (u i : Nat) (at1 : Int) : Eff s0 :=
  let l := e.hleg u
  let lane := if i = 0 then l.lane0 else l.lane1
  let rest := lane.filter fun v => decide (at1 < v.1 + hubGuard)
  let put (w : Nat) (rest : List (Int × Nat)) (e : Eff s0) : Eff s0 := e.modHleg u fun l =>
    if i = 0 then { l with word0 := w, lane0 := rest } else { l with word1 := w, lane1 := rest }
  if e.hcv u oSrc (2 * u + i) = 0x8000_0000 then put (e.hcv u oCmp (2 * u + i)) [] e
  else
    match lane.find? fun v => decide (v.1 + hubGuard ≤ at1) with
    | some v => put v.2 rest e
    | none =>
      let fresh := e.hub.lateAt != some at1
      let e := (e.modHleg u fun l => { l with trouble := l.trouble ||| 8 }).modHub fun h =>
        { h with late := h.late ||| 2 ^ (2 * u + i), lateAt := some at1 }
      e.when fresh fun e => (e.modLoop fun p => { p with fastLate := (p.fastLate + 1) % 2 ^ 32 }).fault 0x011 kFastOverrun

/-- A reload of leg u at an instant (R227 to R231): words, compares with CLIP, and the refusal of overlapping INDEPENDENT intervals; the
reload enters HUB_CRC (R467). -/
def Eff.reload (e : Eff s0) (u : Nat) (at1 : Int) : Eff s0 :=
  let mode := e.hcv u oLegMode u
  let two := bitOf mode 1
  let e := e.reloadWord u 0 at1
  let e := e.when two (·.reloadWord u 1 at1)
  let per := e.hcv u oPer u
  let (c0, k0) := compareOf (bitOf mode 2) per (e.hleg u).word0
  let (c1, k1) := if two then compareOf (bitOf mode 2) per (e.hleg u).word1 else (0, false)
  let clip := k0 || k1
  let bad := two && c0 != 0 && c1 != 0 && decide (per < c0 + c1 + 2 * e.hcv u oDt u)
  let e := e.modHleg u fun l => { l with
    c0 := c0, c1 := c1, refused := bad
    trouble := l.trouble ||| ((if clip then 1 else 0) + (if bad then 4 else 0)) }
  let e := e.when clip (·.setTrouble 3)
  let e := e.when bad (·.fault 0x014 kSchedRefused u)
  e.modHub fun h => { h with reloads := h.reloads ++ le 1 u ++ le 8 (e.hleg u).period ++ le 4 c0 ++ le 4 c1 }

/-- HUB_PERIOD_START (R225, R231 to R234): the period number, the leg's part of a pending commit, the reload, and the levels at
the period's start; what a group or the whole hub takes over with the leg acts on every leg at once (R232). A disabled leg reloads
nothing (log 110). A leg that a stop has been ordered for goes to SAFE_LEVELS instead (R129). -/
def execHubPeriodStart (leg : Fin 12) (s : State) : Host.Outcome State Fault Refusal :=
  let e := Eff.start s
  let u := leg.val
  if !e.hub.running || (e.hleg u).safeHeld then .next e.st
  else if e.hub.stopReq then
    let e := if e.gate.hiZ then e.modHleg u fun l => { l with safeHeld := true } else e.safeLevels [u]
    let all := (List.range 12).all fun v => e.hcv v oLegEn v = 0 || (e.hleg v).safeHeld
    .next ((e.when all (·.stopHub)).reportEarly).st
  else
    let l := e.hleg u
    let per := e.hcv u oPer u
    let at1 : Int := if l.begun then l.startAt + per * qE else e.hub.ts + e.hcv u oPhase u * qE
    let e := e.modHleg u fun l => { l with begun := true, startAt := at1, period := if l.begun then l.period + 1 else 0 }
    let e := e.hubSwitch u at1
    let per' := e.hcv u oPer u
    let given : List Nat := match (e.dom 3).pend with
      | some p => p.values.map (·.1)
      | none => []
    let mode := e.hcv u oLegMode u
    let kept (i : Nat) : Bool := !(given.contains (key oCmp (2 * u + i))) || e.hcv u oSrc (2 * u + i) != 0x8000_0000
    let split := e.hcv u oLegEn u != 0 && per' != per && bitOf mode 2 && (kept 0 || (bitOf mode 1 && kept 1))
    let e := e.when split fun e =>
      ((e.modHleg u fun l => { l with trouble := l.trouble ||| 2 }).modHub fun h =>
        { h with splits := (h.splits + 1) % 2 ^ 32 }).fault 0x014 kPairSplit u
    let e := e.setMonitored u (e.hcv u oLegEn u != 0)
    let e := if e.hcv u oLegEn u = 0 then e else e.reload u at1
    let took := e.hub.switched.contains u && !s.hub.switched.contains u
    .next (((e.driveLeg u 0).when took (·.driveLegs)).hubCommitEnd.reportEarly).st

/-- HUB_MID_RELOAD (R233): with RELOAD_PEAK set, lane compares also reload at mid-period. -/
def execHubMidReload (leg : Fin 12) (s : State) : Host.Outcome State Fault Refusal :=
  let e := Eff.start s
  let u := leg.val
  let mode := e.hcv u oLegMode u
  if !e.hub.running || !(e.hleg u).begun || e.hcv u oLegEn u = 0 || !bitOf mode 3 || (e.hleg u).safeHeld then .next e.st
  else
    let half := e.hcv u oPer u / 2
    .next ((e.reload u ((e.hleg u).startAt + half * qE)).driveLeg u half).reportEarly.st

/-- TRIGGER_COMPARE_MATCH (R225, R235): a trigger compare of a leg, disabled or not, matches: it starts the sequences bound to it and is
a mask event. A disabled compare, and one at or above PER, does not fire. -/
def execTriggerCompareMatch (tc : Fin 24) (s : State) : Host.Outcome State Fault Refusal :=
  let e := Eff.start s
  let u := tc.val / 2
  let w := e.hcv u oTc tc.val
  let per := e.hcv u oPer u
  let pos := if bitOf (e.hcv u oLegMode u) 2 then w else (w * per + 2 ^ 31) / 2 ^ 32
  if !e.hub.running || !(e.hleg u).begun || w = 0xFFFF_FFFF || per ≤ pos then .next e.st
  else
    let t := (e.hleg u).startAt + pos * qE
    let e := e.each (List.range 16) fun e i =>
      let cfg := e.seqCfg (i / 4) (i % 4)
      e.when (seqSrc cfg == 3 && field cfg 3 5 == tc.val) (·.convTrig (i / 4) (i % 4) t)
    .next (e.maskEvents [tc.val] t).reportEarly.st

/-- COMM_EDGE (R237): a COMM pin has had a new level, which is seen once stable for 10 ns. -/
def execCommEdge (pin : Fin 4) (level : Bool) (stableNs : Nat) (s : State) : Host.Outcome State Fault Refusal :=
  let e := Eff.start s
  let p := pin.val
  if stableNs < 10 || bitOf e.hub.comm p == level then .next e.st
  else
    let e := e.modHub fun h => { h with comm := if level then h.comm + 2 ^ p else h.comm - 2 ^ p }
    let e := e.each (List.range 4) fun e g => e.when (e.hcv (e.groupLead g) oMaskSrc g == 1) (·.driveGroup g)
    .next (e.maskEvents [(if level then 0x30 else 0x34) + p] e.time.clock).reportEarly.st

/-- Whether the compares decide leg u's levels (R225, R236): none of the orders above them, and the leg modulates. -/
def Eff.byCompare (e : Eff s0) (u : Nat) : Bool :=
  let l := e.hleg u
  !e.gate.hiZ && !e.gate.stage && e.dev.state != .safe && !l.safeHeld && !e.hub.halted.contains (e.groupOf u) && e.hub.running &&
    l.begun && e.hcv u oLegEn u != 0 && e.maskOf u == 0 && !l.refused

/-- GATE_COMMAND (R390, R393, R394, R395): an on or off command of the stream of a leg that the compares decide (R236) reaches its gate,
as the hub gives it or as a fault in the command path makes it. Off acts at once and logs a latched EARLY (R397). On goes through
WAIT and sets DT_GUARD where the guard dead time is not over. Both gates commanded on turns both off for as long as that lasts and
for DT after it: SHOOT_GUARD. -/
def execGateCommand (gate : Fin 24) (on : Bool) (s : State) : Host.Outcome State Fault Refusal :=
  let e := Eff.start s
  let k := gate.val
  let u := k / 2
  let p := partner k
  let armed := e.enabled u && !e.latched u
  if !e.byCompare u then .next e.st
  else if on then
    if armed && (e.gch p).cmd then
      let fresh := !(e.leg u).overlap
      let e := (e.modGch k fun g => { g.shut e.time.up with cmd := true }).modGch p (Gate.shut e.time.up)
      let e := e.modLeg u fun l => { l with overlap := true }
      if fresh then
        let e := (e.gateTrouble u 4).modGate fun g => { g with shoots := (g.shoots + 1) % 2 ^ 32 }
        .next (e.fault 0x070 kShootGuard (0x8000 + k)).st
      else .next e.st
    else
      .next (e.gateTo k true).st
  else
    let e := e.gateTo k false
    let e := if (e.leg u).overlap then
        let e := e.modLeg u fun l => { l with overlap := false, overlapEnd := some e.time.up }
        e.when (e.gch p).cmd (·.gateTo p true)
      else e
    .next e.reportEarly.st

/-- Puts every hub group into its HALT_MODE (R239). -/
def Eff.haltHub (e : Eff s0) : Eff s0 :=
  (e.modHub fun h => { h with halted := List.range 4 }).driveLegs

/-- HUB_HALT_DETECT (R239): the field die sees no hub update for 64 ns, whatever the hub does. -/
def execHubHaltDetect (noUpdateNs : Nat) (s : State) : Host.Outcome State Fault Refusal :=
  let e := Eff.start s
  .next (e.when (decide (64 ≤ noUpdateNs)) fun e => e.haltHub.reportEarly).st

end Sys2Proof.Machine
end

