-- ==== Sys2Proof/Machine/Loop.lean ====
section
/-! DEFINITION. The loop engine (R245 to R274): slots, sections, lanes, fast ticks and taps. -/

namespace Sys2Proof.Machine

variable {s0 : Root}

/-! ### Arithmetic (R62, R247, R248) -/

/-- Saturates to a signed width; true where it acted. -/
def satTo (w : Nat) (x : Int) : Int × Bool :=
  let y := clampTo (-(2 ^ (w - 1))) (2 ^ (w - 1) - 1) x
  (y, y != x)

/-- narrow30: the exact sum saturated to 80 bits, narrowed by 30 bits and saturated to Q8.40; true where one acted. -/
def narrow30 (a : Int) : Int × Bool :=
  let (x, p) := satTo 80 a
  let (y, q) := satTo 48 (narrow 30 x)
  (y, p || q)

/-- What one section computes from its input and states (R248): y, the new s1 and s2, and whether a narrowing saturated. -/
structure SecOut where
  sec : Nat
  y : Int
  n1 : Int
  n2 : Int
  sat : Bool

/-- One section of the transposed direct form II (R248). -/
def runSection (b0 b1 b2 a1 a2 : Int) (bexp sec : Nat) (u s1 s2 : Int) : SecOut :=
  let y := narrow30 (b0 * u * 2 ^ bexp + s1 * 2 ^ 30)
  let n1 := narrow30 (b1 * u * 2 ^ bexp - a1 * y.1 + s2 * 2 ^ 30)
  let n2 := narrow30 (b2 * u * 2 ^ bexp - a2 * y.1)
  ⟨sec, y.1, n1.1, n2.1, y.2 || n1.2 || n2.2⟩

/-! ### Slots -/

/-- The SLOT_CFG word of slot i (R272). -/
@[simp] abbrev Eff.slotCfg (e : Eff s0) (i : Nat) : Nat := e.cv oSlotCfg i

/-- The enabled slots of the active set in ascending order; SLOT_CFG is 0, disabled, by default. -/
def Eff.enabledSlots (e : Eff s0) : List Nat :=
  e.cfg.filterMap fun p =>
    match p.2 with
    | some v => if p.1 / 65536 = oSlotCfg && bitOf v 0 then some (p.1 % 65536) else none
    | none => none

/-- The lane of a SLOT_CFG word. -/
def slotLane (w : Nat) : Nat := field w 1 4

/-- Whether a slot is due in frame F (R261). -/
def slotDue (w f : Nat) : Bool := f % 2 ^ field w 5 3 == field w 8 7

/-- The sections of the branches of slot i, by branch (R245). -/
def Eff.slotSecs (e : Eff s0) (i : Nat) : List (List Nat) :=
  let w := e.slotCfg i
  let bl := e.cv oBrLen i
  ((List.range (field w 19 2 + 1)).foldl (init := (([] : List (List Nat)), e.cv oSecBase i)) fun a b =>
    let n := field bl (4 * b) 4
    (a.1 ++ [(List.range n).map (a.2 + ·)], a.2 + n)).1

/-- Section q computed for an input. -/
def Eff.section (e : Eff s0) (q : Nat) (u : Int) : SecOut :=
  let c (m : Nat) : Int := e.cq oSecCoef (5 * q + m)
  runSection (c 0) (c 1) (c 2) (c 3) (c 4) (e.cv oSecCtl q % 8) q u (smGet 0 e.loop.s1 q) (smGet 0 e.loop.s2 q)

/-- A branch: its sections in series, newest first, and its output. -/
def Eff.branch (e : Eff s0) (l : List Nat) (x : Int) : List SecOut × Int :=
  l.foldl (init := ([], x)) fun a q =>
    let o := e.section q a.2
    (o :: a.1, o.y)

/-- Sets both states of a section. -/
def Eff.setSec (e : Eff s0) (q : Nat) (a b : Int) : Eff s0 :=
  e.modLoop fun p => { p with s1 := smSet 0 p.s1 q a, s2 := smSet 0 p.s2 q b }

/-- Sets all section states of slot i to 0. -/
def Eff.clearSlot (e : Eff s0) (i : Nat) : Eff s0 := e.each (e.slotSecs i).flatten fun e q => e.setSec q 0 0

/-- The clamp limits of a slot from OUT_MAX, OUT_MIN and L where LIM_PT is bound (R250). -/
def clampLimits (mx mn : Int) (lim : Option Int) : Int × Int :=
  match lim with
  | none => (if mx < mn then (mx, mx) else (mn, mx))
  | some l =>
    let a := min 2147483647 (iabs l)
    let hi := min mx a
    let lo := max mn (-a)
    (min lo hi, hi)

/-- Writes the taps of a slot that has computed (R270). -/
def Eff.writeTaps (e : Eff s0) (i : Nat) (toff x sum : Int) (brs : List Int) (outs : List SecOut) : Eff s0 :=
  e.each (List.range 16) fun e t =>
    let w := e.cv oTapSel t
    if !bitOf w 22 || field w 0 9 != i then e
    else
      let q := e.cv oSecBase i + field w 13 6
      let node := field w 9 4
      let v : Int :=
        if node = 0 then x
        else if node ≤ 4 then brs.getD (node - 1) 0
        else if node = 5 then sum
        else if node = 6 then (match outs.find? (·.sec == q) with | some o => o.y | none => 0)
        else if node = 7 then smGet 0 e.loop.s1 q
        else smGet 0 e.loop.s2 q
      let r := narrow (9 + field w 19 3) v
      e.putPt (0x2480 + t) (satQ31 r) toff (if offQ31 r then qSat else 0)

/-- Runs slot i (R247 to R250, R260): `read` gives its input points. The first row of R255 that applies decides: RUN_PT at 0 (R254),
then QHOLD (R253), else the clamp of R251 with the states that R252 holds. -/
def Eff.runSlot (e : Eff s0) (i : Nat) (toff : Int) (read : Nat → PointWord) : Eff s0 :=
  let w := e.slotCfg i
  let out := 0x2000 + i
  let nin := field w 16 3
  let ins := (List.range nin).map fun m => read (e.cv oInPt (4 * i + m))
  let run := e.cv oRunPt i
  let lim := e.cv oLimPt i
  if run ≠ 0x8000_0000 && ptVal (read run) = 0 then
    (e.clearSlot i).putPt out (e.cq oInit i) toff 0 128
  else if bitOf w 21 && ins.any fun p => bitOf (ptQual p) 0 || bitOf (ptQual p) 2 then
    e.putPt out (e.pv out) toff qDegraded 128
  else
    let bad := (ins ++ (if lim = 0x8000_0000 then [] else [read lim])).any fun p => degrades (ptQual p)
    let mix := (ins.zip (List.range nin)).foldl (fun a p => a + e.cq oInW (4 * i + p.2) * (ptVal p.1 * 512)) 0
    let (x, satX) := narrow30 mix
    let brs := (e.slotSecs i).map fun l => e.branch l x
    let outs := brs.flatMap (·.1)
    let (sum, satS) := satTo 80 (brs.foldl (fun a b => a + b.2) 0)
    let (lo, hi) := clampLimits (e.cq oOutMax i) (e.cq oOutMin i)
      (if lim = 0x8000_0000 then none else some (ptVal (read lim)))
    let dir : Int := if hi * 512 < sum then 1 else if sum < lo * 512 then -1 else 0
    let y := if dir = 1 then hi * 512 else if dir = -1 then lo * 512 else sum
    let v := (y + 256) / 512
    let hold := decide ((dir = 1 ∧ 0 < x) ∨ (dir = -1 ∧ x < 0))
    let e := e.each outs fun e o =>
      if hold && bitOf (e.cv oSecCtl o.sec) 3 then e else e.setSec o.sec o.n1 o.n2
    let sat := satX || satS || dir != 0 || outs.any (·.sat)
    let q := (if sat then qSat else 0) + (if bad then qDegraded else 0)
    let fl := (if dir = 1 then 16 else 0) + (if dir = -1 then 32 else 0) + (if e.cq oThresh i < v then 64 else 0)
    let rises := bitOf fl 6 && !bitOf (ptFlags (e.pt out)) 6
    let e := e.putPt out v toff q fl
    let e := e.when rises fun e => e.each (List.range 64) fun e j => e.when (e.cv oEvSlot j == i) (·.event (64 + j))
    e.writeTaps i toff x sum (brs.map (·.2)) outs

/-! ### Frame lanes (R258, R261, R267) -/

/-- What a frame slot on a lane reads (R258): outputs of lower-numbered slots of its own lane that are due, from this frame;
everything else as it stood at the deadline, after the first pass. -/
def Eff.frameRead (e : Eff s0) (dl : SMap PointWord) (lane i n : Nat) : PointWord :=
  if 0x2000 ≤ n && n < 0x2200 && n - 0x2000 < i && slotLane (e.slotCfg (n - 0x2000)) == lane then e.pt n
  else smGet pointReset dl n

/-- The frame lanes run their due slots (R261); the slots of `skip` did not finish, those of `loop.halted`
have stopped: they keep states and outputs (R44, R267). -/
def Eff.frameLanes (e : Eff s0) (skip : List Nat) : Eff s0 :=
  let dl := e.pts
  let toff : Int := (e.frame.dl / 4 : Nat)
  let k := e.frame.k
  let l := e.enabledSlots.filter fun i =>
    let w := e.slotCfg i
    slotLane w < 8 && slotDue w k && !skip.contains i && !e.loop.halted.contains i
  e.each (List.range 8) fun e lane => e.each (l.filter fun i => slotLane (e.slotCfg i) == lane) fun e i =>
    e.runSlot i toff (e.frameRead dl lane i)

/-! ### Fast lanes (R259, R262, R263) -/

/-- What a fast slot reads (R259, R380): converter points as of the sample instant `at1`, lower-numbered slots of its lane from this
tick, its own output and those of the other fast lane from the previous tick, all else as handed over at the last frame start. -/
def Eff.fastRead (e : Eff s0) (before : SMap PointWord) (at1 : Int) (lane i n : Nat) : PointWord :=
  if 0x1000 ≤ n && n < 0x1060 then e.snapWord n at1
  else if 0x2000 ≤ n && n < 0x2200 then
    let w := e.slotCfg (n - 0x2000)
    if slotLane w == lane && n - 0x2000 < i && bitOf w 0 then e.pt n
    else if bitOf w 0 && (n - 0x2000 == i || (8 ≤ slotLane w && slotLane w != lane)) then smGet pointReset before n
    else smGet pointReset e.loop.handed n
  else smGet pointReset e.loop.handed n

/-- The mask events of a fast slot's new output (R263). -/
def flagEvents (lane : Nat) (old new : PointWord) : List Nat :=
  ((List.range 4).filter fun b => bitOf new.toNat (60 + b) && !bitOf old.toNat (60 + b)).map (0x20 + 4 * (lane - 8) + ·)

/-- A fast lane has written an output: it enters HUB_CRC (R467) and reaches the shadows of the compares it is bound to (R233). -/
def Eff.fastOut (e : Eff s0) (i : Nat) : Eff s0 :=
  let n := 0x2000 + i
  let w := e.pt n
  let e := e.modHub fun h => { h with reloads := h.reloads ++ le 4 n ++ le 8 w.toNat }
  let v := (e.time.clock, w.toNat % 2 ^ 32)
  e.each (List.range 24) fun e c =>
    e.when (e.hcv (c / 2) oSrc c == n) (·.modHleg (c / 2) fun l =>
      if c % 2 = 0 then { l with lane0 := v :: l.lane0 } else { l with lane1 := v :: l.lane1 })

/-- The points that slot i reads. -/
def Eff.slotRefs (e : Eff s0) (i : Nat) : List Nat :=
  ((List.range (field (e.slotCfg i) 16 3)).map fun m => e.cv oInPt (4 * i + m)) ++ [e.cv oRunPt i, e.cv oLimPt i]

/-- The converter points among some, in ascending order (R371). -/
def convOnly (l : List Nat) : List Nat := (List.range 0x50).filterMap fun i => if l.contains (0x1000 + i) then some (0x1000 + i) else none

/-- The converter points that the core consumes at a deadline, and at a fast tick (R383, R551). -/
def Eff.convFrame (e : Eff s0) : List Nat :=
  convOnly (((e.enabledSlots.filter fun i => slotLane (e.slotCfg i) < 8).flatMap fun i => e.slotRefs i) ++
    [e.cv oBrkFb, e.cv oGridVPt 0, e.cv oGridVPt 1, e.cv oConvVPt 0, e.cv oConvVPt 1, e.cv oVrefPt 0, e.cv oVrefPt 1,
      e.cv oVrefPt 2, e.cv oPDemPt, e.cv oQRefPt, e.cv oDispReqPt] ++ (List.range 16).map fun a => e.cv oAxSrc a)

def Eff.convTick (e : Eff s0) : List Nat :=
  convOnly ((e.enabledSlots.filter fun i => 8 ≤ slotLane (e.slotCfg i)).flatMap fun i => e.slotRefs i)

/-- Converter values consumed at tick `tick` (0xFFFF: the deadline): they enter the journal (R548) and, with a standby, go to it
in a CONV frame (R455). -/
def Eff.convForward (e : Eff s0) (tick late : Nat) (pts : List Nat) : Eff s0 :=
  let vals := pts.flatMap fun n => le 4 n ++ le 8 (e.pt n).toNat
  let e := if tick = 0xFFFF then e.when (!pts.isEmpty) (·.jitem 3 0 vals) else e.jitem 4 (tick % 256) (le 4 late ++ vals)
  e.when (e.isActive && e.pair.standby && !pts.isEmpty)
    (·.sendPeer 0 (wynFrame 0x29 0 (le 8 e.frame.k ++ le 2 tick ++ le 2 pts.length ++ le 4 late ++ vals)))

/-- FAST_TICK (R54, R259, R262, R263): both fast lanes have run all their slots for the next tick, whose samples lie TICK_LEAD before
it; their outputs reach the HUB island as the command comes. Ticks are counted from t_s; a halted or unclocked FAST island runs
none, and a slot that an SRAM error has stopped does not run (R44). -/
def execFastTick (s : State) : Host.Outcome State Fault Refusal :=
  let e := Eff.start s
  if !e.hub.running || e.clk.halted.contains 1 || e.clk.stopped.contains 1 then .next e.st
  else
    let tick := e.hub.ts + e.hub.ticks * e.hcv 0 oFastTick 0 * qE
    let toff := (tick - e.frame.tk) / (4 * nsq)
    let index := ((tick - e.frame.tk) / (e.hcv 0 oFastTick 0 * qE)).toNat
    let at1 := tick - e.hcv 0 oTickLead 0 * qE
    let e := e.convForward index e.hub.late e.convTick
    let l := e.enabledSlots.filter fun i => 8 ≤ slotLane (e.slotCfg i) && slotLane (e.slotCfg i) ≤ 9
    let e := e.modHub fun h => { h with ticks := h.ticks + 1, late := 0 }
    let e := e.modLoop fun p => { p with tickAt := tick, tickOld := l.foldl (fun m i => smSet pointReset m i (e.pt (0x2000 + i))) [] }
    let before := e.pts
    let run := l.filter fun i => !e.loop.halted.contains i
    let e := e.each [8, 9] fun e lane => e.each (run.filter fun i => slotLane (e.slotCfg i) == lane) fun e i =>
      (e.runSlot i toff (e.fastRead before at1 lane i)).fastOut i
    let codes := run.flatMap fun i => flagEvents (slotLane (e.slotCfg i)) (smGet pointReset before (0x2000 + i)) (e.pt (0x2000 + i))
    .next (e.maskEvents codes e.time.clock).st

/-! ### Activation, overrun and SLOT_RESET -/

/-- A LOOP set has become active (R246, R271, R272): sections that no enabled slot uses keep no state, RESET_ON_COMMIT slots
start from 0, and the setpoint points take their values. -/
def Eff.loopActivated (e : Eff s0) : Eff s0 :=
  let slots := e.enabledSlots
  let used := slots.flatMap fun i => (e.slotSecs i).flatten
  let e := e.modLoop fun p => { p with
    s1 := p.s1.filter fun x => used.contains x.1, s2 := p.s2.filter fun x => used.contains x.1 }
  let e := e.each slots fun e i => e.when (bitOf (e.slotCfg i) 22) (·.clearSlot i)
  e.each (List.range 64) fun e n => e.putPt (0x2400 + n) (e.cq oSetpt n) 0 0

/-- The frame lanes overran (R267, R268): counted, OVERRUN raised, and beyond OVR_TOLERANCE consecutive frames the cascade-wide
trip. -/
def Eff.overrun (e : Eff s0) : Eff s0 :=
  let e := e.modLoop fun p => { p with overruns := (p.overruns + 1) % 2 ^ 32, ovrRun := p.ovrRun + 1 }
  let e := e.fault 0x010 kOverrun
  e.when (decide (e.cv oOvrTolerance < e.loop.ovrRun)) (·.fault 0x010 kOverrunTrip)

/-- SLOT_RESET (R256): accepted for an enabled slot; it acts at a frame start. -/
def actSlotReset (e : Eff s0) (c : Ctx) (args : List Byte) : ActRes s0 :=
  if args.length ≠ 2 then (e, some (ansErr stType))
  else
    let i := fieldLe args 0 2
    if 512 ≤ i then (e, some ansRange)
    else if !bitOf (e.slotCfg i) 0 then (e, some (ansResultFrame 1 0))
    else e.pairAct c oSlotReset args

/-- SLOT_RESET as a request: ENGINEER, ACTIVE (R78, R256). -/
def execSlotReset (q : Req) (args : List Byte) (s : State) : Host.Outcome State Fault Refusal :=
  .next ((Eff.start s).invoke q oSlotReset args 2 true actSlotReset).st

/-! ### Costs (R264 to R266) -/

/-- C_slot. -/
def Eff.slotCost (e : Eff s0) (i : Nat) : Nat :=
  let w := e.slotCfg i
  8 + field w 16 3 + 6 * ((e.slotSecs i).flatten.length) + 2 * (field w 19 2 + 1)

/-- L_max of a frame lane, or the load of a fast lane, 8 and 9. -/
def Eff.laneLoad (e : Eff s0) (f : Nat) : Nat :=
  let l := e.enabledSlots.filter fun i => slotLane (e.slotCfg i) == f
  let sum (l : List Nat) : Nat := l.foldl (fun a i => a + e.slotCost i) 0
  if 8 ≤ f then 12 + sum l
  else (List.range 128).foldl (fun m r => max m (16 + sum (l.filter fun i => slotDue (e.slotCfg i) r))) 16

/-- W, the worst-case core time in ns (R266). -/
def Eff.coreTime (e : Eff s0) : Nat :=
  let lmax := (List.range 8).foldl (fun m f => max m (e.laneLoad f)) 16
  500 + ((456 + lmax) * 5 + 5) / 6

end Sys2Proof.Machine
end

