-- ==== Sys2Proof/Machine/Lanes.lean ====
section
/-! DEFINITION. Chain, peer and Ethernet lanes (R142 to R170): loss detectors, the lane states and their commands. Block
lock and LANE_DOWN, which also carry start-up step 7 on, stand with the device states. -/

namespace Sys2Proof.Machine

variable {s0 : Root}

/-- LANE_STATE codes (R167). -/
def LaneState.code : LaneState → Nat
  | .off => 0 | .wake => 1 | .acquire => 2 | .hunt => 3 | .locked => 4

/-- A committed value as it will stand at the next frame start, where an acknowledged set waits for it (R72). -/
def Eff.cvNext (e : Eff s0) (obj l : Nat) : Nat :=
  match (e.dom (objDomain obj)).pend with
  | some p =>
    if !p.waitPeer && decide (p.actAt ≤ e.frame.k + 1) then
      match p.values.find? (·.1 == key obj l) with
      | some v => v.2
      | none => e.cv obj l
    else e.cv obj l
  | none => e.cv obj l

/-- The conditions under which a lane is enabled (R158), from LANE_MODE, its stop and CHAIN_LEN. -/
def laneOn (l mode : Nat) (stopped : Bool) (len : Nat) : Bool :=
  (mode == 0 || (26 ≤ l && mode == 2)) && !stopped && (24 ≤ l || 0 < len)

/-- Whether lane l is to be enabled (R158). -/
def Eff.laneWanted (e : Eff s0) (l : Nat) : Bool := laneOn l (e.cv oLaneMode l) (e.lane l).stopped (e.cv oChainLen l)

/-- Whether a disable of lane l takes effect in this very cycle (R155): the next frame start has come, and with it the lane goes to OFF. -/
def Eff.laneDropped (e : Eff s0) (l : Nat) : Bool :=
  e.frame.running && decide (e.frame.tk + e.tf * nsq ≤ e.time.clock) &&
    !laneOn l (e.cvNext oLaneMode l) (((e.lane l).stopReq).getD (e.lane l).stopped) (e.cvNext oChainLen l)

/-- A LANE_STOP or LANE_START that waits, and a change of the enable conditions, act at a frame start (R154, R158, R159).
A lane that enters OFF resets with its LANE domain (R574); its counters, sticky bits, stop and receive path stay. -/
def Eff.laneFrame (e : Eff s0) (l : Nat) : Eff s0 :=
  let e := match (e.lane l).stopReq with
    | some b =>
      let runs := !b && !(e.st.devState == .ready || e.st.devState == .safe)
      (e.when runs (·.leaveIdle fun k => k / 65536 / 65536 == 0x20 && k % 65536 == l)).modLane l fun x =>
        { x with stopped := b, stopReq := none }
    | none => e
  let want := e.laneWanted l
  let st := (e.lane l).state
  if want && st == .off then
    e.modLane l fun x => { x with state := .wake, enabled := true, downSince := e.time.up, downRaised := false }
  else if !want && st != .off then
    e.modLane l fun x => { Lane.reset with
      stopped := x.stopped, trouble := x.trouble, errBlocks := x.errBlocks, lockLosses := x.lockLosses
      frameErr := x.frameErr, rxBase := x.rxBase }
  else e

/-- What a frame start does to the lanes (R154, R158). -/
def Eff.lanesFrame (e : Eff s0) : Eff s0 := e.each (List.range 28) fun e l => e.laneFrame l

/-- Starts a cold acquire (R154): peaking from RX_CTLE, all DFE taps 0. -/
def Eff.coldAcquire (e : Eff s0) (l : Nat) : Eff s0 :=
  e.modLane l fun x => { x with
    state := .acquire, warm := false, adaptDone := false, eq := e.cv oRxCtle l % 16, acquireAt := e.time.up }

/-- A lane leaves LOCKED other than by disable (R154, R167): counted, and LANE_LOST raised with the lane as address. A disable that takes
effect in the same cycle wins: neither (R155). -/
def Eff.laneLost (e : Eff s0) (l : Nat) : Eff s0 :=
  let out := e.laneDropped l
  let e := e.modLane l fun x => { x with
    lockLosses := if out then x.lockLosses else min (x.lockLosses + 1) 65535
    window := 0, windowBad := 0, rxLat := 0, downSince := e.time.up, downRaised := false }
  if out then e else e.fault (0x020 + l) kLaneLost l

/-- Block lock has been lost (R153): LOCK_LOST and LANE_LOST; the lane is in HUNT. -/
def Eff.lockLost (e : Eff s0) (l : Nat) : Eff s0 :=
  (e.modLane l fun x => { x with
    state := .hunt, good := 0, trouble := x.trouble ||| 4
    lockLostAt := if bitOf x.trouble 2 then none else some e.time.up }).laneLost l

/-- LOS or LOL on a lane in HUNT or LOCKED leads to a warm acquire (R154). Where block lock was lost in the same cycle, LOS and LOL come
first (R155): the exit was not by R153, and its LANE_LOST stands for both. -/
def Eff.warmAcquire (e : Eff s0) (l : Nat) : Eff s0 :=
  let st := (e.lane l).state
  if st == .hunt || st == .locked then
    let both := (e.lane l).lockLostAt == some e.time.up
    let e := e.modLane l fun x => { x with
      state := .acquire, warm := true, acquireAt := e.time.up, window := 0, windowBad := 0, rxLat := 0, lockLostAt := none
      trouble := if both then x.trouble - 4 else x.trouble }
    e.when (st == .locked) (·.laneLost l)
  else e

/-- LANE_WAKE_DONE (R154): the loops of a lane in WAKE have settled; it enters ACQUIRE with a cold acquire. -/
def execLaneWakeDone (lane : Fin 28) (s : State) : Host.Outcome State Fault Refusal :=
  let e := Eff.start s
  .next (if (e.lane lane.val).state == .wake then e.coldAcquire lane.val else e).st

/-- A signed tap of RX_EQ (R170) at the end of its range. -/
def tapAtEnd (eq lo w : Nat) : Bool :=
  let t := field eq lo 8
  t == 2 ^ (w - 1) - 1 || t == 256 - 2 ^ (w - 1)

/-- ADAPT_LIMIT (R169): the peaking or a DFE tap at the end of its range. -/
def adaptLimit (eq : Nat) : Bool :=
  field eq 0 4 == 0 || field eq 0 4 == 15 || tapAtEnd eq 8 7 || tapAtEnd eq 16 6 || tapAtEnd eq 24 6 ||
    tapAtEnd eq 32 6 || tapAtEnd eq 40 6

/-- ADAPTATION_END (R148, R154): initial adaptation of a cold acquire ends when no tap has changed by more than one step
over 1 ms (`quiet`), or after 90 ms. `eq` is the equaliser it has reached, in the form of R170. On a lane past ACQUIRE with RX_ADAPT
CONTINUOUS the adaptation goes on, and the event tells the equaliser it has reached (log 113). -/
def execAdaptationEnd (lane : Fin 28) (quiet : Bool) (eq : BitVec 64) (s : State) : Host.Outcome State Fault Refusal :=
  let e := Eff.start s
  let l := lane.val
  let x := e.lane l
  let first := x.state == .acquire && !x.warm && !x.los && !x.lol && !x.adaptDone && e.cv oRxAdapt l != 2 &&
    (quiet || x.acquireAt + 90000000 ≤ e.time.up)
  let onward := (x.state == .hunt || x.state == .locked) && x.adaptDone && e.cv oRxAdapt l == 0
  if first || onward then
    let v := eq.toNat % 16 + field eq.toNat 8 40 * 256
    .next (e.modLane l fun x => { x with
      adaptDone := true, eq := v, trouble := x.trouble ||| (if adaptLimit v then 16 else 0) }).st
  else .next e.st

/-- LANE_ACQUIRE_DONE (R154): with LOS and LOL clear and initial adaptation done the lane enters HUNT. A warm acquire skips
the adaptation, and RX_ADAPT = MANUAL runs none (R148). -/
def execLaneAcquireDone (lane : Fin 28) (s : State) : Host.Outcome State Fault Refusal :=
  let e := Eff.start s
  let l := lane.val
  let x := e.lane l
  if x.state == .acquire && !x.los && !x.lol && (x.warm || x.adaptDone || e.cv oRxAdapt l == 2) then
    .next (e.modLane l fun x => { x with state := .hunt, warm := false, good := 0, lockLostAt := none }).st
  else .next e.st

/-! ### Frames received (R171 to R174) -/

/-- FRAME_ERR of a lane (R213). -/
def Eff.frameErr (e : Eff s0) (l : Nat) : Eff s0 := e.modLane l fun x => { x with frameErr := (x.frameErr + 1) % 2 ^ 32 }

/-- A frame whose octet count agrees with LEN, and LEN with its lane (R173, R174; log 112). -/
def wynLen (l : Nat) (bs : List Byte) : Bool :=
  8 ≤ bs.length && octet bs 1 % 16 == 1 && fieldLe bs 2 2 == bs.length && bs.length ≤ (if l < 24 then 600 else 1536)

/-- FCRC passes. -/
def fcrcOk (bs : List Byte) : Bool :=
  fieldLe bs (bs.length - 4) 4 == (crc32c (bs.take (bs.length - 4))).toNat

/-- The blocks that reach a LOCKED lane, with `f` for each frame that ends in them. -/
def Eff.heard (e : Eff s0) (l : Nat) (bl : List Block) (f : List Byte → Eff s0 → Eff s0) : Eff s0 :=
  let x := e.lane l
  let r := x.takes (26 ≤ l) (e.time.clock / (1000000000 * nsq)).toNat bl
  let e := if r.1 = x then e else e.modLane l fun _ => r.1
  e.each r.2 fun e h => match h with
    | .frame bs => f bs e
    | .discarded => e.frameErr l
    | .lost => e.lockLost l

/-- A frame that stands on its FCRC alone: one that R173 discards is counted, and `f` acts on an intact one of the kind; frames of another
kind are ignored (R176). -/
def Eff.intact (e : Eff s0) (l kind : Nat) (bs : List Byte) (f : List Byte → Eff s0 → Eff s0) : Eff s0 :=
  if wynLen l bs && fcrcOk bs then (if octet bs 0 == kind then f bs e else e) else e.frameErr l

/-- Blocks that carry a frame of a kind. -/
def Eff.received (e : Eff s0) (l kind : Nat) (bl : List Block) (f : List Byte → Eff s0 → Eff s0) : Eff s0 :=
  e.heard l bl fun bs e => e.intact l kind bs f

/-- LOCK_LOSS (R153): blocks at a LOCKED lane; the one whose header is the 24th invalid among the last 256 loses lock. On an Ethernet lane
the loss follows the rules of its own standard (R164), so the event itself is the loss. A frame that ends in the blocks is taken by none
of the receiving commands. -/
def execLockLoss (lane : Fin 28) (blocks : List Block) (s : State) : Host.Outcome State Fault Refusal :=
  let e := Eff.start s
  let l := lane.val
  let e := e.heard l blocks fun bs e => e.intact l 0 bs fun _ e => e
  .next (e.when (26 ≤ l && (e.lane l).state == .locked) (·.lockLost l)).st

/-- LOS_ASSERT (R150): the amplitude has stayed below 60 mV for 100 ns. LOL is asserted with LOS (R151). The comparator works in OFF too
(R157); the sticky bit is an enabled lane's (R169). -/
def execLosAssert (lane : Fin 28) (ampMv belowNs : Nat) (s : State) : Host.Outcome State Fault Refusal :=
  let e := Eff.start s
  let l := lane.val
  if !(ampMv < 60 && 100 ≤ belowNs) then .next e.st
  else
    let off := (e.lane l).state == .off
    let e := e.modLane l fun x => { x with los := true, lol := true, trouble := x.trouble ||| (if off then 0 else 1) }
    .next (e.warmAcquire l).st

/-- LOS_CLEAR (R150): the amplitude has stayed above 120 mV for 1 µs. -/
def execLosClear (lane : Fin 28) (ampMv aboveNs : Nat) (s : State) : Host.Outcome State Fault Refusal :=
  let e := Eff.start s
  if !(120 < ampMv && 1000 ≤ aboveNs) then .next e.st
  else .next (e.modLane lane.val fun x => { x with los := false }).st

/-- LOL_ASSERT (R151): the recovered clock has been more than 1,000 ppm off, or its phase detector out of lock, for 1 µs.
LOL_SEEN marks one asserted while LOS was clear (R169). A lane in OFF recovers no clock (R157): its LOL stands. -/
def execLolAssert (lane : Fin 28) (ppm forNs : Nat) (outOfLock : Bool) (s : State) :
    Host.Outcome State Fault Refusal :=
  let e := Eff.start s
  let l := lane.val
  if (e.lane l).state == .off || !((1000 < ppm || outOfLock) && 1000 ≤ forNs) then .next e.st
  else
    let e := e.modLane l fun x => { x with lol := true, trouble := x.trouble ||| (if x.los then 0 else 2) }
    .next (e.warmAcquire l).st

/-- LOL_CLEAR (R151): the recovered clock has stayed within 300 ppm, in lock, for 10 µs; LOL stays while LOS is asserted. -/
def execLolClear (lane : Fin 28) (ppm forNs : Nat) (s : State) : Host.Outcome State Fault Refusal :=
  let e := Eff.start s
  let l := lane.val
  if (e.lane l).state == .off || (e.lane l).los || !(ppm ≤ 300 && 10000 ≤ forNs) then .next e.st
  else .next (e.modLane l fun x => { x with lol := false }).st

/-- WARM_ACQUIRE_TIMEOUT (R154): a warm acquire not left within 10 ms becomes a cold one. -/
def execWarmAcquireTimeout (lane : Fin 28) (s : State) : Host.Outcome State Fault Refusal :=
  let e := Eff.start s
  let x := e.lane lane.val
  if x.state == .acquire && x.warm && x.acquireAt + 10000000 ≤ e.time.up then .next (e.coldAcquire lane.val).st
  else .next e.st

/-- Whether a cell of chain n needs the lane (R159): in JOINING, IDLE or ACTIVE without a valid record delivered to the
other device in each of the last 8 frames. -/
def Eff.chainNeedsLane (e : Eff s0) (n : Nat) : Bool :=
  (List.range 8).any fun p =>
    let c := 8 * n + p
    let st := (e.cell c).state
    (st == .joining || st == .idle || st == .active) && smGet 0 e.chain.peerHas c < 8

/-- LANE_STOP (R159): refused with WRONG_STATE on a lane that is stopped already, and with REDUNDANCY where the other
device does not reach the chain's cells, or the other peer lane is not LOCKED. -/
def actLaneStop (e : Eff s0) (_c : Ctx) (args : List Byte) : ActRes s0 :=
  if args.length ≠ 1 then (e, some (ansErr stType))
  else
    let l := octet args 0
    if 28 ≤ l then (e, some ansRange)
    else
      let stopped := ((e.lane l).stopReq).getD (e.lane l).stopped
      let r := if stopped then 1
        else if l < 24 && e.chainNeedsLane l then 2
        else if 24 ≤ l && l < 26 && !e.locked (49 - l) then 2 else 0
      let e := e.when (r == 0) fun e => e.modLane l fun x => { x with stopReq := some true }
      (e, some (ansResultFrame r (e.frame.k + 1)))

/-- LANE_START (R159): refused with WRONG_STATE on a lane that is not stopped, or whose LANE_MODE is 1. -/
def actLaneStart (e : Eff s0) (_c : Ctx) (args : List Byte) : ActRes s0 :=
  if args.length ≠ 1 then (e, some (ansErr stType))
  else
    let l := octet args 0
    if 28 ≤ l then (e, some ansRange)
    else
      let stopped := ((e.lane l).stopReq).getD (e.lane l).stopped
      let r := if !stopped || e.cv oLaneMode l == 1 then 1 else 0
      let e := e.when (r == 0) fun e => e.modLane l fun x => { x with stopReq := some false }
      (e, some (ansResultFrame r (e.frame.k + 1)))

/-- LANE_STOP as a request: ENGINEER, in every role (R159). -/
def execLaneStop (q : Req) (args : List Byte) (s : State) : Host.Outcome State Fault Refusal :=
  .next ((Eff.start s).invoke q oLaneStop args 2 false actLaneStop).st

/-- LANE_START as a request: ENGINEER, in every role (R159). -/
def execLaneStart (q : Req) (args : List Byte) (s : State) : Host.Outcome State Fault Refusal :=
  .next ((Eff.start s).invoke q oLaneStart args 2 false actLaneStart).st

/-- LANE_STATUS (R168). A disabled lane shows the reset values, LOS and LOL set, whatever its comparator says (log 114). -/
def Lane.status (x : Lane) : Nat :=
  let off := x.state == .off
  ofBool (x.los || off) + 2 * ofBool (x.lol || off) + 4 * ofBool (x.state == .locked) + 8 * ofBool x.adaptDone +
    16 * ofBool off + 32 * ofBool x.stopped + 2 ^ 8 * (x.windowBad % 256) + 2 ^ 16 * (x.slip % 128)

/-- RX_EQ of lane l (R170): a lane in OFF shows the peaking that it will start from. -/
def Eff.rxEq (e : Eff s0) (l : Nat) : Nat := if (e.lane l).state == .off then e.cv oRxCtle l % 16 else (e.lane l).eq

end Sys2Proof.Machine
end

