-- ==== Sys2Proof/Machine/Chain.lean ====
section
/-! DEFINITION. Chains: Wynlink frames received from terminals (R171 to R206), the commands and responses of terminals,
hop delays (R503), discovery (R113 to R116, R136) and the events of the cell machine that are not requests. -/

namespace Sys2Proof.Machine

variable {s0 : Root}

/-! ### Terminals and their commands (R31, R194, R195) -/

/-- The position that the terminal at hop h of chain n has (R27, R31). -/
def Eff.hopPos (e : Eff s0) (n h : Nat) : Option Nat :=
  if e.pair.strapB then (if h < e.cv oChainLen n then some (e.cv oChainLen n - 1 - h) else none)
  else if h < 8 then some h else none

/-- The hop count of position p of chain n from this device's end. -/
def Eff.posHop (e : Eff s0) (n p : Nat) : Nat := if e.pair.strapB then e.cv oChainLen n - 1 - p else p

/-- The hops of chain n whose terminals have answered this device. -/
def Eff.hopsOf (e : Eff s0) (n : Nat) : List Nat :=
  e.chain.terms.filterMap fun t => if t.1 = n then some t.2.1 else none

/-- The farthest hop that the device reaches on chain n. -/
def Eff.farHop (e : Eff s0) (n : Nat) : Option Nat :=
  match e.hopsOf n with
  | [] => none
  | h :: r => some (r.foldl max h)

/-- Sends a COMMAND (R194) and keeps it for its response. -/
def Eff.sendCommand (e : Eff s0) (n cmd target : Nat) (args : List Byte) : Eff s0 :=
  let t := e.chain.nextTag
  let body := [BitVec.ofNat 8 cmd, 0, BitVec.ofNat 8 target, BitVec.ofNat 8 t] ++ le 2 e.pair.epoch ++ le 2 args.length ++
    args
  let e := e.sendChain n (wynFrame 0x03 0 body)
  e.modChain fun c => { c with
    nextTag := (t + 1) % 256
    cmds := ⟨n, target, t, cmd⟩ :: c.cmds.filter (fun x => !(x.chain == n && x.tag == t)) }

/-- ASSIGN to the terminal of a cell (R195). -/
def Eff.assign (e : Eff s0) (c : Nat) : Eff s0 := e.sendCommand (c / 8) 2 (e.posHop (c / 8) (c % 8)) (le 1 c)

/-! ### Hop delays (R503, R504, R166) -/

/-- Hop h of chain n. -/
@[simp] abbrev Eff.hop (e : Eff s0) (n h : Nat) : Hop := smGet Hop.reset e.st.time.hops (8 * n + h)

/-- The constants of R503 for hop h of chain n, in ps. -/
def Eff.hopAsym (e : Eff s0) (n h : Nat) : Int :=
  (List.range (h + 1)).foldl (init := signed 16 (e.cv oChAsym (2 * n + e.pos))) fun a i =>
    match e.hopPos n i with
    | some p => a + signed 16 (e.cv oHopAsym (2 * (8 * n + p) + e.pos))
    | none => a

/-- The mean of a list, rounded half-up. -/
def meanUp (l : List Int) : Int :=
  if l.isEmpty then 0 else (2 * l.foldl (· + ·) 0 + l.length) / (2 * l.length)

/-- The path P_n of R166 in 1/256 ns: D of the farthest terminal that the device reaches on chain n, or where cells of it are relayed
(R203), the longer of that and the path through the standby, whose part beyond the peer lane no message tells: a free value. -/
def Eff.chainPath (e : Eff s0) (n : Nat) : Option Nat :=
  let own := (e.farHop n).bind fun h => let p := (e.hop n h).value; if p = 0xFFFF_FFFF then none else some p
  if smGet 0 e.chain.relaying n = 0 then own else some (max (own.getD 0) e.freeWord.toNat)

/-- CHAIN_SLOW (R166): raised where the path to the farthest terminal exceeds what DEADLINE, SAMPLE_OFFSET and TX_MARGIN
leave. -/
def Eff.chainSlow (e : Eff s0) (n : Nat) : Eff s0 :=
  let a : Int := min ((e.cv oDeadline : Int) - e.cv oSampleOffset - 1305) ((e.cv oTxMargin : Int) - 905)
  let free := smGet 0 e.chain.relaying n != 0
  match e.chainPath n with
  | none => e
  | some p => (e.when free (·.tick)).when (decide (a * 256 < (p : Int))) (·.fault 0x040 kChainSlow n)

/-- A round trip of ECHO (R503), in 2⁻¹⁶ ns, with the terminal's TURN in 1/256 ns. A value more than 5 ns from the mean is
rejected; the mean of the last 16 replaces the value in use where it differs by more than 50 ps (12.8 units). -/
def Eff.echo (e : Eff s0) (n h : Nat) (rt : Int) (turn : Nat) : Eff s0 :=
  let x := e.hop n h
  let m := meanUp x.rts
  if !x.rts.isEmpty && decide (5 * 65536 < rt - m ∨ 5 * 65536 < m - rt) then
    e.modTime fun t => { t with echoRejects := (t.echoRejects + 1) % 2 ^ 32 }
  else
    let d := (125 * (rt - 256 * turn) + 16384 * e.hopAsym n h + 32000) / 64000
    let ds := (d :: x.samples).take 16
    let avg := meanUp ds
    let far := x.value = 0xFFFF_FFFF || decide (64 < 5 * (avg - x.value) ∨ 64 < 5 * ((x.value : Int) - avg))
    let use := decide (16 ≤ x.measured + 1) && far
    let y : Hop := { samples := ds, rts := (rt :: x.rts).take 16, measured := min (x.measured + 1) 16
                     value := if use then rawBits 32 avg else x.value }
    let e := e.modTime fun t => { t with hops := smSet Hop.reset t.hops (8 * n + h) y }
    e.when use (·.chainSlow n)

/-- One ECHO on chain n, to its hops in turn. -/
def Eff.sendEcho (e : Eff s0) (n : Nat) : Eff s0 :=
  match e.farHop n with
  | none => e
  | some far =>
    let h := smGet 0 e.time.echoNext n % (far + 1)
    let e := e.modTime fun t => { t with echoNext := smSet 0 t.echoNext n (h + 1) }
    e.when ((e.hopsOf n).contains h) (·.sendCommand n 3 h [])

/-- The ECHOs of a frame (R503): every frame in DISCOVER, once per ECHO_PERIOD from then on. -/
def Eff.echoFrame (e : Eff s0) : Eff s0 :=
  let every := e.st.devState == .discover
  e.when (every || e.frame.k % e.cv oEchoPeriod == 0) (·.each (List.range 24) fun e n =>
    e.when (e.locked n && 0 < e.cv oChainLen n) (·.sendEcho n))

/-! ### Cell transitions (R133, R136) -/

/-- CELL_STATE codes (R140). -/
def CellState.code : CellState → Nat
  | .absent => 0 | .joining => 1 | .idle => 2 | .active => 3 | .bypassed => 4 | .retired => 5

/-- A cell transition that takes effect at the next frame boundary (R133). -/
def Eff.moveCell (e : Eff s0) (c : Nat) (st : CellState) (cause : Nat) : Eff s0 :=
  e.modChain fun x => { x with moves := x.moves ++ [(c, st, cause)] }

/-- The state a cell will have once the transitions decided so far take effect. -/
def Eff.cellNext (e : Eff s0) (c : Nat) : CellState :=
  match e.chain.moves.reverse.find? (·.1 == c) with
  | some m => m.2.1
  | none => (e.cell c).state

/-- A cell departs at the deadline of this frame for a fault, a loss or a failed join (R135). -/
def Eff.depart (e : Eff s0) (c cause : Nat) : Eff s0 :=
  e.modChain fun x => { x with departs := x.departs ++ [(c, cause)] }

/-- The effect of a transition at its boundary: entry to JOINING starts the join check (R137) and forgets the gate faults of
earlier records (R407); entry to ACTIVE is the order of R138, which waits for a record that reports the bypass switch open; any other
entry ends it. -/
def Eff.enterCell (e : Eff s0) (c : Nat) (st : CellState) (cause : Nat) : Eff s0 :=
  let old := (e.cell c).state
  let e := e.modCell c fun x =>
    match st with
    | .joining => { x with state := .joining, cause := cause, joinCount := 0, joinAt := e.time.up, gfault := 0, orderAt := none,
                             miss := 0, want := false, changed := false }
    | .active => { x with state := .active, cause := cause, want := false
                          orderAt := if old == .active then x.orderAt else some e.time.up
                          bypClosed := x.bypClosed || old != .active }
    | s => { x with state := s, cause := cause, orderAt := none, want := false }
  e.when (st != old) (·.event 9)

/-- An identity found at cell c (R114, R136): TERM_ID, TERM_IFVER, and TERMINAL_CHANGED where it differs from the last one
found there. -/
def Eff.foundTerm (e : Eff s0) (c id ifver : Nat) : Eff s0 :=
  let x := e.cell c
  let changed := x.lastTerm != 0 && x.lastTerm != id
  let e := e.modCell c fun x => { x with termId := id, lastTerm := id, ifver := ifver }
  let e := e.modChain fun h => { h with
    asked := h.asked.filter (· != c), answered := if h.answered.contains c then h.answered else c :: h.answered }
  if !changed then e
  else match x.state with
    | .absent => e.modCell c fun x => { x with changed := true }
    | .retired => e.modCell c fun x => { x with changed := true }
    | .joining => e.depart c 7
    | .idle => e.depart c 7
    | .active => e.depart c 7
    | .bypassed => e.modCell c fun x => { x with cause := 7 }

/-- A terminal's answer to DISCOVER at hop h of chain n: recorded, and the terminal of an installed cell is given its cell
with ASSIGN (R114, R195). In a repeated discovery an ABSENT cell goes on to JOINING (R116, R133). -/
def Eff.discovered (e : Eff s0) (n h id ifver : Nat) : Eff s0 :=
  let again := (e.hopsOf n).contains h
  let e := e.modChain fun c => { c with
    terms := (n, h, id) :: c.terms.filter (fun t => !(t.1 == n && t.2.1 == h))
    found := if again then c.found else smMod 0 c.found n (· + 1) }
  match e.hopPos n h with
  | none => e
  | some p =>
    if e.cv oChainLen n ≤ p then e
    else
      let e := e.foundTerm (8 * n + p) id ifver
      let again := (e.dev.state == .run || e.dev.state == .derated) && (e.cell (8 * n + p)).state == .absent
      let e := e.when again (·.modChain fun h => { h with joins := h.joins ++ [8 * n + p] })
      e.when (e.installed (8 * n + p)) (·.assign (8 * n + p))

/-- RESPONSE_RECEIVE (R196): a terminal's answer to an outstanding DISCOVER, ASSIGN or ECHO; `roundTrip` is RT of R503 in
2⁻¹⁶ ns. An answer that matches no command, or whose STATUS is not OK, changes nothing else. -/
def execResponseReceive (chain : Fin 24) (blocks : List Block) (roundTrip : Nat) (s : State) :
    Host.Outcome State Fault Refusal :=
  let n := chain.val
  .next ((Eff.start s).received n 0x12 blocks fun octets e =>
    let cmd := octet octets 4
    let h := octet octets 5
    let tag := octet octets 6
    match e.chain.cmds.find? fun x => x.chain == n && x.tag == tag && x.cmd == cmd && (x.hop == h || x.hop == 255) with
    | none => e
    | some x =>
      let e := e.when (x.hop != 255) (·.modChain fun c => { c with cmds := c.cmds.filter (· != x) })
      if octet octets 7 != 0 then e
      else if cmd == 1 && fieldLe octets 8 2 == 12 then e.discovered n h (fieldLe octets 10 8) (fieldLe octets 18 2)
      else if cmd == 3 && fieldLe octets 8 2 == 4 && h < 8 then e.echo n h roundTrip (fieldLe octets 10 4)
      else e).st

/-! ### Measurement records (R188 to R193, R204 to R206, R407) -/

/-- The measurement record of a MEASURE frame. -/
def measRec (bs : List Byte) : List Byte := (bs.drop 4).take 96

/-- RCRC of the record passes (R189). -/
def rcrcOk (bs : List Byte) : Bool := fieldLe (measRec bs) 92 4 == (crc32c ((measRec bs).take 92)).toNat

/-- The battery segment with its SCRC. -/
def battSeg (bs : List Byte) : List Byte := (bs.drop 100).take (8 + octet bs 100)

/-- SCRC of the battery segment passes (R188). -/
def scrcOk (bs : List Byte) : Bool :=
  let n := octet bs 100
  n ≤ 48 && bs.length == 112 + n && fieldLe bs (104 + n) 4 == (crc32c ((bs.drop 100).take (4 + n))).toNat

/-- The bits of a 16-bit word, in ascending order. -/
def bits16 (w : Nat) : List Nat := (List.range 16).filter (bitOf w)

/-- The remote gate faults of a present record (R407), in ascending kind order (R424). -/
def Eff.remoteFaults (e : Eff s0) (c : Nat) (r : List Byte) : Eff s0 :=
  let x := e.cell c
  let g := fieldLe r 84 2
  let u := fieldLe r 86 2
  let fresh := (bits16 g).filter fun b => !bitOf x.gfault b
  let uv (b : Nat) : Bool := bitOf u b || bitOf x.uvlo b
  let tt := signed 16 (fieldLe r 90 2)
  let at16 : Option Int := if tt = -32768 then none else some (e.frame.tk / 65536 + 4 * 65536 * tt)
  let legs := (fresh.map (· / 2)).dedup
  let early := (bits16 (fieldLe r 88 2)).filter fun b => !fresh.contains b
  let e := e.modCell c fun x => { x with gfault := g, uvlo := u, early := fieldLe r 88 2 }
  if !(x.state == .joining || x.state == .idle || x.state == .active) then e
  else
    let rep (k : Nat) (tm : Option Int) (e : Eff s0) (a : Nat) : Eff s0 :=
      e.report { source := 0x071, kind := k, addr := a, time := tm }
    let e := ((fresh.filter (fun b => !uv b)).map (16 * c + ·)).foldl (rep kGateTrip at16) e
    let e := ((fresh.filter uv).map (16 * c + ·)).foldl (rep kGateUvlo at16) e
    let e := if 2 ≤ legs.length then rep kGateEscalate at16 e (0x4000 + c) else e
    (early.map (16 * c + ·)).foldl (rep kGateEarly none) e

/-- Compares the copies of a cell's record and segment with the standby's (R205): where two intact copies differ the datum
is DISAGREE and COPY_MISMATCH is recorded, once a frame. -/
def Eff.compareCopies (e : Eff s0) (c : Nat) : Eff s0 :=
  let x := e.cell c
  match x.dig with
  | none => e
  | some (rc, sc) =>
    let md := match x.meas, rc with
      | some m, some r => fieldLe m.octets 92 4 != r
      | _, _ => false
    let bd := match x.batt with
      | some b => sc != 0 && fieldLe b (b.length - 4) 4 != sc
      | none => false
    let fresh := (md || bd) && !(x.measDis || x.battDis)
    let e := e.modCell c fun x => { x with
      measDis := x.measDis || md, battDis := x.battDis || bd
      mismatches := if fresh then (x.mismatches + 1) % 2 ^ 32 else x.mismatches }
    e.when fresh (·.fault 0x040 kCopyMismatch c)

/-- The margin of a MEASURE frame that ends now on chain n (R213), in ns: its own frame's deadline less this instant, in the running frame
or, for a frame that comes after its t_{k+1}, in the one before. -/
def Eff.noteSlack (e : Eff s0) (n : Nat) (bs : List Byte) : Eff s0 :=
  let f := e.frame
  let prev := f.k != 0 && fieldLe bs 8 4 == (f.k - 1) % 2 ^ 32
  let due : Int := if prev then f.tkPrev + f.dlPrev * nsq else f.tk + f.dl * nsq
  let margin : Int := (due - e.time.clock) / nsq
  e.modChain fun h => { h with slackNow := smMod none h.slackNow n fun o => some (o.elim margin (min margin)) }

/-- The octets of a MEASURE frame (R188, R204), direct or relayed: held for the snapshot of the running frame where they came in time. The
record and the segment each stand on their own CRC. -/
def Eff.measure (e : Eff s0) (bs : List Byte) (relayed : Bool) : Eff s0 :=
  let r := measRec bs
  let c := octet r 0
  let onTime := !e.frame.snapped && fieldLe r 4 4 == e.frame.k % 2 ^ 32 && c < 192
  let e := e.when (rcrcOk bs && c < 192) fun e =>
    (e.when (fieldLe r 8 2 != 0xFFFF) (·.newerEpoch (fieldLe r 8 2))).modCell c fun x => { x with
      accEpoch := fieldLe r 8 2, hops := fieldLe r 10 2 }
  if !onTime then e
  else
    let e := e.when (rcrcOk bs && (e.cell c).meas.isNone) fun e =>
      (e.modCell c fun x => { x with meas := some ⟨r, relayed⟩, direct := x.direct || !relayed }).remoteFaults c r
    let e := e.when (rcrcOk bs && !relayed) fun e => e.modCell c fun x => { x with direct := true }
    let e := e.when (scrcOk bs && (e.cell c).batt.isNone) fun e => e.modCell c fun x => { x with batt := some (battSeg bs) }
    let scrc := if scrcOk bs then fieldLe bs (104 + octet bs 100) 4 else 0
    let e := e.when (!relayed && (e.cell c).copy.isNone) fun e => e.modCell c fun x => { x with copy := some (fieldLe r 92 4, scrc) }
    e.compareCopies c

/-- Whether octets are a whole MEASURE frame (R188). -/
def measFrame (bs : List Byte) : Bool := octet bs 0 == 0x11 && 112 ≤ bs.length && bs.length ≤ 160

/-- DIGEST_RECEIVE (R205): the standby's CRC values of one chain are compared with the active device's copies; one that
comes after the deadline is counted in DIGEST_LATE, by the entries that hold a copy (log 116). -/
def execDigestReceive (peerLane : Fin 2) (blocks : List Block) (s : State) : Host.Outcome State Fault Refusal :=
  .next ((Eff.start s).received (24 + peerLane.val) 0x23 blocks fun octets e =>
    let n := octet octets 4
    let valid (p : Nat) : Bool := bitOf (octet octets 5) p
    let rcrc (p : Nat) : Option Nat := if valid p then some (fieldLe octets (12 + 8 * p) 4) else none
    let scrc (p : Nat) : Nat := fieldLe octets (16 + 8 * p) 4
    let entries := (List.range 8).filter fun p => valid p || scrc p != 0
    if !e.isActive || octets.length != 80 || 24 ≤ n then e
    else
      let e := e.modChain fun h => { h with peerNow := h.peerNow ++ ((List.range 8).filter valid).map (8 * n + ·) }
      if e.frame.snapped || fieldLe octets 8 4 != e.frame.k % 2 ^ 32 then
        e.modChain fun h => { h with digestLate := (h.digestLate + entries.length) % 2 ^ 32 }
      else e.each entries fun e p =>
        (e.modCell (8 * n + p) fun x => { x with dig := some (rcrc p, scrc p) }).compareCopies (8 * n + p)).st

/-! ### Discovery -/

/-- The chains that have terminals. -/
def Eff.usedChains (e : Eff s0) : List Nat := (List.range 24).filter fun n => 0 < e.cv oChainLen n

/-- Start-up step 8 (R114): DISCOVER to every terminal of each trained chain. -/
def Eff.startDiscovery (e : Eff s0) : Eff s0 :=
  let e := e.modChain fun h => { h with found := [], terms := [], answered := [], asked := [] }
  let e := e.modDev fun v => { v with discStep := 8, discAt := e.time.up, discFaults := [], bootStage := 7 }
  e.each e.usedChains fun e n => e.when (e.locked n) (·.sendCommand n 1 255 [])

/-- Whether step 7 is over for lane l (R113): LOCKED, or down for 100 ms, or not enabled. -/
def Eff.laneTrained (e : Eff s0) (l : Nat) : Bool :=
  e.locked l || (e.lane l).downRaised || !(e.laneWanted l)

/-- Step 7 leads to step 8 once every chain lane with terminals and both peer lanes are trained. -/
def Eff.trainingStep (e : Eff s0) : Eff s0 :=
  e.when (e.dev.state == .discover && e.dev.discStep == 7 && (e.usedChains ++ [24, 25]).all e.laneTrained)
    (·.startDiscovery)

/-- Entry to DISCOVER (R113): start-up step 7. -/
def Eff.enterDiscover (e : Eff s0) : Eff s0 := (e.modDev fun v => { v with discStep := 7, discFaults := [] }).trainingStep

/-- Starts step 9 (R117, R412): the 16 auxiliary outputs in turn, each de-energised for its test. -/
def Eff.startProspecting (e : Eff s0) : Eff s0 :=
  let e := e.modDev fun v => { v with discStep := 9, auxTodo := List.range 16, bootStage := 8 }
  e.beginTest 0

/-- The result of discovery at cell c (R115, R131, R133): one that has answered may go to JOINING at the next deadline. -/
def Eff.discoverCell (e : Eff s0) (c : Nat) : Eff s0 :=
  if e.chain.answered.contains c then e.modChain fun h => { h with joins := h.joins ++ [c] }
  else e.modCell c fun x => { x with termId := 0 }

/-- The position of the terminal that the peer reaches at hop h of chain n (R27). -/
def Eff.peerPos (e : Eff s0) (n h : Nat) : Nat := if e.pair.strapB then h else e.cv oChainLen n - 1 - h

/-- What the peer has read on its chains is recorded where this device has had no answer (R114, R115); identity 0 stands for a terminal
that has not answered the peer. -/
def Eff.peerFound (e : Eff s0) (n : Nat) (ids : List (BitVec 64)) (vers : List (BitVec 16)) : Eff s0 :=
  e.each ids.zipIdx fun e t =>
    let c := 8 * n + e.peerPos n t.2
    if t.1 = 0 || e.cv oChainLen n ≤ t.2 || e.chain.answered.contains c then e
    else e.foundTerm c t.1.toNat (vers.getD t.2 0).toNat

/-- The identities that this device has read on chain n, by hop (R28, R114). -/
def Eff.ownTerms (e : Eff s0) (n : Nat) : List Nat :=
  (List.range (smGet 0 e.chain.found n)).map fun h => (e.chain.terms.find? fun t => t.1 == n && t.2.1 == h).elim 0 (·.2.2)

/-- CHAIN_MISWIRED (R28, R115): both devices reach chain n without a break, and device B's sequence is not the exact reverse of
device A's. -/
def Eff.miswired (e : Eff s0) (n : Nat) (ids : List (BitVec 64)) : Bool :=
  let own := e.ownTerms n
  let peer := ids.map (·.toNat)
  let len := e.cv oChainLen n
  decide (0 < len ∧ len ≤ own.length ∧ len ≤ peer.length) && own.all (· != 0) && peer.all (· != 0) && own != peer.reverse

/-- A fault of discovery on a chain, which keeps the device in DISCOVER (R28, R115, R118). -/
def Eff.chainFault (e : Eff s0) (kind n : Nat) : Eff s0 :=
  (e.modDev fun v => { v with discFaults := kind :: v.discFaults }).fault 0x040 kind n

/-- DISCOVERY_END (R115): every installed cell has answered on at least one end, or 100 ms have passed. `peerIds` and `peerVers` are
the identities and the interface versions that the other device of a pair has read on its chains, by hop from its end: the manual names
no message that carries them. -/
def execDiscoveryEnd (peerIds : List (Fin 24 × List (BitVec 64))) (peerVers : List (Fin 24 × List (BitVec 16))) (s : State) :
    Host.Outcome State Fault Refusal :=
  let e := Eff.start s
  if e.dev.state != .discover || e.dev.discStep != 8 then .next e.st
  else
    let heard := e.each peerIds fun e t => e.peerFound t.1.val t.2 ((peerVers.lookup t.1).getD [])
    let all := allCells.all fun c => !e.installed c || heard.chain.answered.contains c
    if !(all || e.dev.discAt + 100000000 ≤ e.time.up) then .next e.st
    else
      let e := heard.each (List.range 24) fun e n =>
        e.when (e.cv oChainLen n < smGet 0 e.chain.found n && 0 < e.cv oChainLen n) (·.chainFault kChainCount n)
      let e := e.each peerIds fun e t => e.when (e.miswired t.1.val t.2) (·.chainFault kChainMiswired t.1.val)
      let e := e.each allCells fun e c => e.discoverCell c
      let e := e.each e.usedChains fun e n => e.chainSlow n
      .next e.startProspecting.st

/-- DISCOVER_RETRY (R118): 1 s after a failed exit check steps 8 and 9 are repeated. -/
def execDiscoverRetry (s : State) : Host.Outcome State Fault Refusal :=
  let e := Eff.start s
  .next (e.when (e.dev.state == .discover && e.dev.discStep == 10 && decide (e.dev.discAt + 1000000000 ≤ e.time.up))
    (·.startDiscovery)).st

/-- REPEATED_DISCOVERY (R116): in RUN and DERATED, every 1,000 frames, DISCOVER to the positions whose cells are ABSENT,
BYPASSED or RETIRED. A position asked last time that has not answered has no terminal. -/
def execRepeatedDiscovery (s : State) : Host.Outcome State Fault Refusal :=
  let e := Eff.start s
  if !(e.dev.state == .run || e.dev.state == .derated) || e.frame.k % 1000 != 0 then .next e.st
  else
    let e := e.each e.chain.asked fun e c => e.modCell c fun x => { x with termId := 0 }
    let want := allCells.filter fun c =>
      let st := (e.cell c).state
      c % 8 < e.cv oChainLen (c / 8) && (st == .absent || st == .bypassed || st == .retired) && e.locked (c / 8)
    let e := e.modChain fun h => { h with asked := want, answered := [] }
    .next (e.each want fun e c => e.sendCommand (c / 8) 1 (e.posHop (c / 8) (c % 8)) []).st

/-! ### Losses and timeouts -/

/-- CELL_LOST (R30): no valid record of a cell for 4 consecutive frames. It raises CELL_LOST and leaves as BYPASSED. -/
def execCellLost (cell : Fin 192) (s : State) : Host.Outcome State Fault Refusal :=
  let e := Eff.start s
  let c := cell.val
  let st := (e.cell c).state
  if 4 ≤ (e.cell c).miss && (st == .joining || st == .idle || st == .active) &&
      !(e.chain.departs.any (·.1 == c)) then
    .next ((e.fault 0x040 kCellLost c).depart c 3).st
  else .next e.st

/-- CELL_SUSPECT (R206): 8 consecutive frames with a datum of the cell in DISAGREE. Its cause is 5 (R140). -/
def execCellSuspect (cell : Fin 192) (s : State) : Host.Outcome State Fault Refusal :=
  let e := Eff.start s
  let c := cell.val
  if 8 ≤ (e.cell c).disagreeRun then
    let e := e.fault 0x040 kCellSuspect c
    .next (e.modChain fun h => { h with departs := h.departs.map fun d => if d = (c, 4) then (c, 5) else d }).st
  else .next e.st

/-- Whether the device runs join checks (R137). -/
def Eff.joinsRun (e : Eff s0) : Bool :=
  e.dev.state == .charge || e.dev.state == .sync || e.dev.state == .run || e.dev.state == .derated

/-- JOIN_TIMEOUT (R133, R137): a join check that has run for more than 10 s fails. -/
def execJoinTimeout (cell : Fin 192) (s : State) : Host.Outcome State Fault Refusal :=
  let e := Eff.start s
  let x := e.cell cell.val
  .next (e.when (x.state == .joining && e.joinsRun && decide (x.joinAt + 10000000000 < e.time.up))
    (·.depart cell.val 9)).st

/-- BYPASS_OPEN_TIMEOUT (R138): a bypass switch not reported open within 100 ms of the order. -/
def execBypassOpenTimeout (cell : Fin 192) (s : State) : Host.Outcome State Fault Refusal :=
  let e := Eff.start s
  match (e.cell cell.val).orderAt with
  | some t => .next (e.when (decide (t + 100000000 ≤ e.time.up)) (·.depart cell.val 9)).st
  | none => .next e.st

end Sys2Proof.Machine
end

