-- ==== Sys2Proof/Machine/Sched.lean ====
section
/-! DEFINITION. The schedule generator (R214 to R224) and the frames that carry its records (R180 to R186, R202). -/

namespace Sys2Proof.Machine

variable {s0 : Root}

/-! ### The peer status word (R198) -/

/-- ROLE codes (R198, R449). -/
def Role.code : Role → Nat
  | .active => 0 | .standby => 1 | .joining => 2 | _ => 3

/-- The peer status word of the device (R198): FAULT is set while a condition whose class is FAILOVER or HALT_SAFE persists. -/
def Eff.peerStatus (e : Eff s0) : Nat :=
  e.pair.role.code + 16 * e.st.devState.code + 256 * ofBool (e.condAtLeast 6) + 512 * ofBool e.dev.pwrFail +
    1024 * ofBool (bitOf e.trouble 0) + 2048 * ofBool e.pair.strapB

/-! ### Bridge H (R216, R217) -/

/-- The carrier level of a leg at carrier position y (R216). -/
def carrLevel (tc2 pu y : Int) : Bool :=
  let z := y % (2 * tc2)
  decide (z < pu ∨ 2 * tc2 - pu ≤ z)

/-- The offsets in (0, tf) at which the level of a leg changes, in time order (R216). -/
def carrCrossings (tc2 tf pu x : Int) : List Int :=
  if pu ≤ 0 || tc2 ≤ pu then []
  else
    let off (p : Int) : Int := (p - x) % (2 * tc2)
    let a := off pu
    let b := off (2 * tc2 - pu)
    (if a ≤ b then [a, b] else [b, a]).filter fun t => decide (0 < t ∧ t < tf)

/-- The word of an H leg for a frame (R183, R216, R217): LEVEL0, the transitions placed, the level at the frame's end, how
long before it the last one lies, and how many were moved or deferred. -/
structure HWord where
  level0 : Bool
  trans : List Int
  lvl : Bool
  ago : Option Int
  moved : Nat

/-- Places the transitions of a leg in time order, each at least H_PULSE_MIN after the one before it (R217). `since` is the
position of the previous transition, relative to the frame start. -/
def placeH (tf pmin : Int) (want : List Int) (prev : Bool) (since : Option Int) : HWord :=
  let r := want.foldl (init := (⟨prev, [], prev, since, 0⟩ : HWord)) fun w t =>
    let u := match w.ago with
      | some l => max t (l + pmin)
      | none => t
    let moved := u != t
    if tf ≤ u || (2 ≤ w.trans.length && u != 0) then
      { w with moved := w.moved + 1 }
    else if u = 0 then { w with level0 := !w.level0, lvl := !w.lvl, ago := some 0 }
    else { w with trans := w.trans ++ [u], lvl := !w.lvl, ago := some u, moved := w.moved + ofBool moved }
  { r with ago := r.ago.map fun l => tf - l }

/-- One H leg of a cell in MODE FULL that runs from the carrier. -/
def hLeg (tc2 tf pmin x r : Int) (prev : Bool) (ago : Option Int) : HWord :=
  let pu := ((r + 2 ^ 31) * tc2 + 2 ^ 31) / 2 ^ 32
  let l0 := carrLevel tc2 pu x
  let want := (if l0 != prev then [0] else []) ++ carrCrossings tc2 tf pu x
  placeH tf pmin want prev (ago.map fun a => -a)

/-- The H-leg word of R183. -/
def HWord.bits (w : HWord) : Nat :=
  let n := w.trans.length
  (if n = 0 then 1 else 3) + 4 * ofBool w.level0 + 8 * n + 256 * (w.trans.getD 0 0).toNat +
    2 ^ 28 * (w.trans.getD 1 0).toNat

/-! ### Bridges P, S and B (R218) -/

/-- The two TAB-leg words of a bridge whose leg 1 has phase a (R218). -/
def tabWords (hp a : Int) : Nat × Nat :=
  let l0 := decide (a < hp)
  let dist := if l0 then hp - a else 2 * hp - a
  let t1 := ((dist + 2048) / 4096).toNat
  (2 + 4 * ofBool l0 + 256 * t1, 2 + 4 * ofBool (!l0) + 256 * t1)

/-- HP of R218. -/
def Eff.tabHp (e : Eff s0) : Int :=
  let f : Int := e.cv oTabFsw
  (4096 * 4000000000 + f / 2) / f

/-! ### One record -/

/-- The MODE of cell c in the coming record, none where it gets none (R185, R214). -/
def Eff.recMode (e : Eff s0) (c : Nat) : Option Nat :=
  match e.cellNext c with
  | .absent => none
  | .active => some 2
  | .idle => some 1
  | _ => some 0

/-- A limited shift (R219): the value, and whether the limit or the saturation acted. -/
def limitShift (mx x : Int) : Int × Bool :=
  let y := clampTo (-mx) mx (satQ31 x)
  (y, y != x)

/-- Builds the record of cell c for frame j = k + 1, DT and EXC_CLIPPED with it (R220, R221), and writes the points of R215. `alloc` says whether the cell's port has a
non-zero allocation (R219), `pack` whether its pack is usable: without one bridge B is stopped, its legs OFF (R23, R293). -/
def Eff.buildRecord (e : Eff s0) (alloc pack : Nat → Bool) (c mode : Nat) : Eff s0 :=
  let j : Int := e.frame.k + 1
  let tf : Int := e.tf * 8
  let b := 0x010000 + 256 * c
  let g := smGet GenCell.reset e.sched.cells c
  let tc2 : Int := e.cv oHCarrFrames * tf / 2
  let v := (e.pv (b + 33) % 2 ^ 32 * (2 * tc2) + 2 ^ 31) / 2 ^ 32
  let x := (j * tf - v) % (2 * tc2)
  let pmin : Int := e.cv oHPulseMin
  let r := e.pv (b + 32)
  let stay : HWord := ⟨false, [], false, g.ago1.map (· + tf), 0⟩
  let first := g.mode != 2
  let w1 := if first then stay else hLeg tc2 tf pmin x r g.lvl1 g.ago1
  let w2 := if first then { stay with ago := g.ago2.map (· + tf) } else hLeg tc2 tf pmin x (satQ31 (-r)) g.lvl2 g.ago2
  let moved := if mode = 2 then w1.moved + w2.moved else 0
  let e := e.modSched fun s => { s with
    moves := (s.moves + moved) % 2 ^ 32
    cells := smSet GenCell.reset s.cells c
      (if mode = 2 then ⟨2, w1.lvl, w2.lvl, w1.ago, w2.ago⟩ else { GenCell.reset with mode := mode }) }
  let mx := e.cq oPhiMax
  let exc := if alloc c && mode != 0 then e.pv (b + 36) else 0
  let (ps, ls) := limitShift mx (e.pv (b + 34))
  let (pb, lb) := limitShift mx (e.pv (b + 35) + exc)
  let dg (l : List Nat) : Nat := if l.any fun n => degrades (e.pq n) then qDegraded else 0
  let en := !(e.cell c).enOff.contains (e.frame.k + 1)
  let e := e.putPt (b + 37) ps 0 ((if ls then qSat else 0) + dg [b + 34])
  let e := e.putPt (b + 38) pb 0 ((if lb then qSat else 0) + dg (if alloc c && mode != 0 then [b + 35, b + 36] else [b + 35])) (if lb && e.pv (b + 36) != 0 then 16 else 0)
  let e := e.putPt (b + 39) ((mode + 4 * ofBool en + 8 * ofBool (moved != 0) : Nat) : Int) 0 0
  let e := e.modCell c fun y => { y with
    en := en, enOff := y.enOff.filter fun f => decide (e.frame.k + 1 < f) }
  let hp := e.tabHp
  let kk : Int := e.cv oTabInterleave
  let o := ((c : Int) % kk * 2 * hp + kk / 2) / kk
  let ph (d : Int) : Int := (j * tf * 4096 - o - d) % (2 * hp)
  let sh (p : Int) : Int := (p * hp + 2 ^ 30) / 2 ^ 31
  let tab (d : Int) : List Byte :=
    if mode = 0 then zeros 8
    else
      let t := tabWords hp (ph d)
      le 4 t.1 ++ le 4 t.2
  let dt := e.cv oDtH + 2 ^ 12 * e.cv oDtTab 0 + 2 ^ 24 * e.cv oDtTab 1 + 2 ^ 36 * e.cv oDtTab 2
  let m := le 1 c ++ le 1 (mode + 4 * ofBool en) ++ le 2 (e.cv oSampleOffset) ++ le 4 hp.toNat ++ le 6 dt ++ zeros 2 ++
    (if mode = 2 then le 8 w1.bits ++ le 8 w2.bits else zeros 16) ++ tab 0 ++ tab (sh ps) ++
    (if pack c then tab (sh pb) else zeros 8) ++ zeros 4
  e.modSched fun s => { s with recs := s.recs ++ [(c, m ++ le 4 (crc32c m).toNat)] }

/-- Whether the frame sends no schedule for cell c, so that its terminal coasts (R44): the slot that its H or B reference comes from
has stopped on an uncorrectable SRAM error (log 111). -/
def Eff.coasts (e : Eff s0) (c : Nat) : Bool :=
  [e.cv oVrefPt (e.phase c), 0x2000 + e.cv oBtrimSlot c].any fun n => e.loop.halted.any fun i => 0x2000 + i == n

/-- Builds the records for frame k + 1, in ascending cell number (R214). -/
def Eff.buildRecords (e : Eff s0) (alloc pack : Nat → Bool) : Eff s0 :=
  (e.modSched fun s => { s with recs := [], prev := s.cells, prevMoves := s.moves }).each allCells fun e c =>
    match e.recMode c with
    | some m => if e.coasts c then e else e.buildRecord alloc pack c m
    | none => e

/-! ### SCHEDULE frames (R180, R181, R202) -/

/-- The header of a SCHEDULE frame with its HCRC; `flags` are FLAGS bits 4 to 7. -/
def Eff.schedHeader (e : Eff s0) (flags nrec : Nat) : List Byte :=
  let m := [0x01#8, BitVec.ofNat 8 (1 + flags)] ++ le 2 (28 + 64 * nrec) ++ le 4 ((e.frame.k + 1) % 2 ^ 32) ++
    le 2 e.pair.epoch ++ le 1 nrec ++ zeros 1 ++ le 4 Config.serial.toNat ++ le 2 e.peerStatus ++ le 2 e.frame.k
  m ++ le 4 (crc32c m).toNat

/-- FLAGS bit 5, DEVB. -/
def Eff.devb (e : Eff s0) : Nat := 32 * ofBool e.pair.strapB

/-- The records of chain n by decreasing hop count from this device's end (R181). -/
def Eff.chainRecs (e : Eff s0) (n : Nat) : List (Nat × List Byte) :=
  let l := e.sched.recs.filter fun r => r.1 / 8 == n
  if e.pair.strapB then l else l.reverse

/-- A frame for a lane that leaves with the schedules of the running frame. -/
def Eff.hold (e : Eff s0) (l : Nat) (octets : List Byte) : Eff s0 := e.modChain fun h => { h with held := h.held ++ [(l, octets)] }

/-- The frames held leave. -/
def Eff.releaseHeld (e : Eff s0) : Eff s0 :=
  (e.each e.chain.held fun e x => if x.1 < 24 then e.sendChain x.1 x.2 else e.sendPeer (x.1 - 24) x.2).modChain fun h => { h with held := [] }

/-- B of R52, below 0 where the frame leaves none. -/
def Eff.coreBudget (e : Eff s0) : Int := min 1600 ((e.tf : Int) - e.cv oDeadline - e.cv oTxMargin)

/-- The instant at which the schedules of the running frame leave (R53): t_k + DEADLINE + B. -/
def Eff.schedAt (e : Eff s0) : Int := e.frame.tk + ((e.frame.dl : Int) + e.coreBudget) * nsq

/-- The SCHEDULE frame of every chain, to leave at the end of the budget; `empty` sends keep-alives with NREC = 0 (R267). -/
def Eff.sendSchedules (e : Eff s0) (empty : Bool) : Eff s0 :=
  e.each e.usedChains fun e n =>
    let l := if empty then [] else e.chainRecs n
    let m := e.schedHeader e.devb l.length ++ l.flatMap (·.2)
    e.hold n (m ++ le 4 (crc32c m).toNat)

/-- RELAY_DN for every chain with cells that were not received directly in this frame, or whose lane is not LOCKED
(R201, R202); the records run by decreasing hop count from the standby's end. -/
def Eff.sendRelays (e : Eff s0) : Eff s0 :=
  if !e.pair.standby then e
  else e.each e.usedChains fun e n =>
    let l := (e.chainRecs n).reverse.filter fun r => !(e.cell r.1).direct || !e.locked n
    e.when (!l.isEmpty) (·.hold (24 + n % 2) (wynFrame 0x24 0 ([BitVec.ofNat 8 n] ++ zeros 3 ++ e.schedHeader e.devb l.length ++
      l.flatMap (·.2))))

/-- SCHED_CRC (R467): the records for frame k + 1 in ascending cell number. -/
def Eff.schedCrc (e : Eff s0) : Nat := (crc32c (e.sched.recs.flatMap (·.2))).toNat

/-! ### CELL_EN_TOGGLE (R223) -/

/-- CELL_EN_TOGGLE: for a cell in IDLE, ACTIVE or BYPASSED, EN = 0 in the record of frame j = k + 2 and EN = 1 after it. -/
def actCellEnToggle (e : Eff s0) (_c : Ctx) (args : List Byte) : ActRes s0 :=
  if args.length ≠ 1 then (e, some (ansErr stType))
  else
    let c := octet args 0
    if 192 ≤ c then (e, some ansRange)
    else
      let st := (e.cell c).state
      if st == .idle || st == .active || st == .bypassed then
        (e.modCell c fun x => { x with enOff := ((e.frame.k + 2) :: x.enOff).dedup }, some (ansResultFrame 0 (e.frame.k + 2)))
      else (e, some (ansResultFrame 1 0))

/-- CELL_EN_TOGGLE as a request: ENGINEER, ACTIVE (R78, R223). -/
def execCellEnToggle (q : Req) (args : List Byte) (s : State) : Host.Outcome State Fault Refusal :=
  .next ((Eff.start s).invoke q oCellEnToggle args 2 true actCellEnToggle).st

end Sys2Proof.Machine
end

