-- ==== Sys2Proof/Machine/Cascade.lean ====
section
/-! DEFINITION. The cascade functions (R275 to R300, R610). Quantities carry 40 fraction bits (R276). -/

namespace Sys2Proof.Machine

variable {s0 : Root}

/-! ### Arithmetic (R276) -/

/-- A product narrowed to 40 fraction bits. -/
def mulq (a b : Int) : Int := narrow 40 (a * b)

/-- A quotient with 40 fraction bits; the divisor's sign is moved to the numerator. The quotient by 0 is not stated (log 52). -/
def divq (a b : Int) : Int :=
  if b < 0 then rdiv (-(a * 2 ^ 40)) (-b) else if b = 0 then Config.quotZero (a * 2 ^ 40) else rdiv (a * 2 ^ 40) b

/-- rdiv, with a free value for a divisor of 0 (R57, log 52). -/
def rdivq (a b : Int) : Int := if b = 0 then Config.quotZero a else rdiv a b

/-- A number in its stated unit, with 40 fraction bits. -/
def unit40 (n : Int) : Int := n * 2 ^ 40

/-- A product with a time in ns. -/
def mulNs (x t : Int) : Int := rdiv (x * t) 1000000000

/-- An angle w × t in turns × 2³². -/
def angleOf (w t : Int) : Int := rdiv (w * t * 2 ^ 32) (twoPi * 1000000000)

/-- The phase angle p × 2³² / 3. -/
def third (p : Nat) : Int := rdiv (p * 2 ^ 32) 3

/-- Square root of a quantity with 40 fraction bits. -/
def sqrtq (a : Int) : Int := (Nat.sqrt ((a * 2 ^ 40).toNat) : Int)

/-- cos and sin as they enter, with 40 fraction bits. -/
def cosq (a : Int) : Int := cosU a * 512
def sinq (a : Int) : Int := sinU a * 512

/-- A point of full scale `fs` as it enters. -/
def Eff.ptq (e : Eff s0) (n : Nat) (fs : Int) : Int := e.pv n * fs * 512

/-- Writes a value to a point of full scale `fs`, saturated to Q1.31 with SAT. -/
def Eff.putQ (e : Eff s0) (n : Nat) (fs v toff : Int) (q : Nat := 0) : Eff s0 :=
  let r := rdiv (v * 2 ^ 31) (fs * 2 ^ 40)
  e.putPt n (satQ31 r) toff (q ||| if offQ31 r then qSat else 0)

/-- DEGRADED where a consumed point degrades (R49). -/
def Eff.bad (e : Eff s0) (l : List Nat) : Nat := if l.any fun n => degrades (e.pq n) then qDegraded else 0

/-! ### What the chapter reads -/

/-- The frames of one grid cycle: ⌈1 / (GRID_FNOM × T_F)⌉. -/
def Eff.cycleFrames (e : Eff s0) : Nat :=
  let d := e.cv oGridFnom * e.tf
  (1000000000 + d - 1) / d

/-- The point bound in BRK_FB reports the breaker closed (R119). -/
def Eff.brkClosed (e : Eff s0) : Bool :=
  let n := e.cv oBrkFb
  n != 0x8000_0000 && decide (2 ^ 30 < e.pv n)

/-- First point of the block of cell c, and of port n. -/
def cellPt (c : Nat) : Nat := 0x010000 + 256 * c
def portPt (n : Nat) : Nat := 0x020000 + 256 * n

/-- A port whose pack is usable: it exists and its pack is available with the contactor closed (R22, R23). -/
def Eff.packOk (e : Eff s0) (c : Nat) : Bool := e.installed c && e.cv oPackVnom c != 0 && (e.cell c).packAvail

/-- The allocation of port c in W (R293, R304). -/
def Eff.allocW (e : Eff s0) (c : Nat) : Int := if e.packOk c then e.ptq (portPt c) 1000000 else 0

/-- The device is in RUN, DERATED or STOPPING. -/
def Eff.running (e : Eff s0) : Bool := e.dev.state == .run || e.dev.state == .derated || e.dev.state == .stopping

/-- The counted set of phase p in ascending order (R277). -/
def Eff.countedSet (e : Eff s0) (p : Nat) : List Nat :=
  allCells.filter fun c => e.phase c == p && e.cellNext c == .active && !(e.cell c).bypClosed

/-- VDC_NOM in V. -/
def Eff.vdcNom (e : Eff s0) : Int := unit40 (e.cv oVdcNom)

/-- VDC and IGRID of cell c from the snapshot. -/
def Eff.vdc (e : Eff s0) (c : Nat) : Int := e.ptq (cellPt c) 2000
def Eff.igrid (e : Eff s0) (c : Nat) : Int := e.ptq (cellPt c + 1) 2000

/-- The nominal peak phase voltage VDN (R279). -/
def Eff.vdn (e : Eff s0) : Int :=
  let v := mulq sqrt2 (unit40 (e.cv oVllNom))
  if e.cv oConnection = 1 then v else divq v sqrt3

/-- TOFF of the points at the sample instant, and of all others (R610). -/
def Eff.toffS (e : Eff s0) : Int := (e.frame.so / 4 : Nat)
def Eff.toffD (e : Eff s0) : Int := (e.frame.dl / 4 : Nat)

/-- Line voltages v0 and v1 from a pair of bindings (R279): 0 where unbound. -/
def Eff.lineVolts (e : Eff s0) (obj : Nat) : Int × Int :=
  let v (m : Nat) : Int := if e.cv obj m = 0x8000_0000 then 0 else e.ptq (e.cv obj m) (e.cv oGridVfs)
  (v 0, if e.cv oConnection = 1 then 0 else v 1)

/-- The points bound in a pair of bindings. -/
def Eff.lineRefs (e : Eff s0) (obj : Nat) : List Nat :=
  (if e.cv oConnection = 1 then [e.cv obj 0] else [e.cv obj 0, e.cv obj 1]).filter (· != 0x8000_0000)

/-- The phase voltages from line voltages (R279, R286). -/
def Eff.phaseVolts (e : Eff s0) (v : Int × Int) (p : Nat) : Int :=
  if e.cv oConnection = 1 then v.1
  else if p = 0 then rdiv (2 * v.1 + v.2) 3
  else if p = 1 then rdiv (v.2 - v.1) 3
  else rdiv (-v.1 - 2 * v.2) 3

/-! ### Grid angle tracking (R279 to R281) -/

/-- The tracker of one frame; its points and VGRID_PH. -/
def Eff.trackGrid (e : Eff s0) : Eff s0 :=
  let c := e.casc
  let single := e.cv oConnection == 1
  let tf : Int := e.tf
  let fn : Int := e.cv oGridFnom
  let (v0, v1) := e.lineVolts oGridVPt
  let d := (rdiv 1000000000 (4 * fn * tf)).toNat
  let hist := if c.v0D = d then c.v0Hist else []
  let short := single && hist.length < d
  let va := if single then v0 else rdiv (2 * v0 + v1) 3
  let vb := if single then (if short then 0 else hist.getD (d - 1) 0) else divq v1 sqrt3
  let co := cosq c.th
  let si := sinq c.th
  let vd := mulq va co + mulq vb si
  let vq := mulq (-va) si + mulq vb co
  let vdn := e.vdn
  let low := mulq fifth vdn
  let er := divq vq (max vd low)
  let wn := twoPi * fn
  let lo := twoPi * 45
  let hi := twoPi * 65
  let wi := if low ≤ vd then clampTo (lo - wn) (hi - wn) (c.wi + mulNs (e.cv oPllKi * er) tf) else c.wi
  let w := clampTo lo hi (wn + wi + e.cv oPllKp * er)
  let n := e.cycleFrames
  let tol (k : Nat) : Int := sinq (rdiv (k * e.cv oPllLockTol * 2 ^ 32) 36000)
  let inside := decide (lo < w ∧ w < hi)
  let lockRun := if iabs er ≤ tol 1 && inside then c.lockRun + 1 else 0
  let unlockRun := if tol 2 < iabs er then c.unlockRun + 1 else 0
  let drop := decide ((n + 1) / 2 ≤ unlockRun) || !inside || decide (vd < low)
  let lock := if c.lock then !drop else decide (n ≤ lockRun) && !drop
  let lost := c.lock && !lock && (e.dev.state == .run || e.dev.state == .derated)
  let e := e.modCasc fun c => { c with
    th := (c.th + angleOf w tf) % 2 ^ 32, wi := wi, w := w, vd := vd, lock := lock, lockRun := min lockRun n
    unlockRun := min unlockRun n, v0D := d, v0Hist := if single then (v0 :: hist).take d else [] }
  let q := if short then qDegraded else e.bad (e.lineRefs oGridVPt)
  let vfs : Int := e.cv oGridVfs
  let s := e.toffS
  let e := e.putPt 0x3000 c.th s q
  let e := e.putQ 0x3001 100 (divq w twoPi) s q
  let e := e.putQ 0x3002 vfs vd s q
  let e := e.putQ 0x3003 vfs vq s q
  let e := e.putPt 0x3004 (if lock then 0x7FFF_FFFF else 0) s q
  let ahead := rdiv (w * (3 * tf - 2 * (e.frame.so : Int)) * 2 ^ 32) (2 * twoPi * 1000000000)
  let e := e.each e.usedPhases fun e p => e.putQ (0x300C + p) vfs (mulq vd (cosq (c.th + ahead - third p))) e.toffD q
  e.when lost (·.fault 0x012 kGridUnlock)

/-! ### Power and current references (R282 to R284) -/

/-- PWR_SCALE of the frame (R282): in STOPPING it falls from its value on entry at 1.0 per STOP_RAMP. -/
def Eff.pwrScale (e : Eff s0) : Int :=
  match e.dev.state with
  | .run => 2 ^ 40
  | .derated => e.cq oDerateLimit * 512
  | .stopping =>
    let n := e.frame.k - e.casc.stopK
    max 0 (e.casc.stopFrom - rdiv (n * (e.tf : Int) * 2 ^ 40) (e.cv oStopRamp * 1000000))
  | _ => 0

/-- PWR_SCALE, GRID_RUN, P_GRID, Q_GRID and IREF. -/
def Eff.gridRefs (e : Eff s0) : Eff s0 :=
  let scale := e.pwrScale
  let e := e.modCasc fun c => { c with pwr := scale }
  let tD := e.toffD
  let e := e.putQ 0x3020 1 scale tD
  let run := e.running && e.brkClosed
  let brk := e.cv oBrkFb
  let e := e.putPt 0x3005 (if run then 0x7FFF_FFFF else 0) tD (if brk = 0x8000_0000 then 0 else e.bad [brk])
  let lim := mulq (e.cq oPGridMax * 512) scale
  let sw : Int := e.cv oSRated * 1000
  let dem := e.cv oPDemPt
  let pdem := if dem = 0x8000_0000 then 0 else e.ptq dem 1
  let batt := allCells.foldl (fun a c => a + e.allocW c) 0
  let p := clampTo (-lim) lim (pdem - divq batt (unit40 sw))
  let qr := e.cv oQRefPt
  let q := clampTo (-lim) lim (if qr = 0x8000_0000 then e.cq oQRef * 512 else e.ptq qr 1)
  let qp := e.bad ((if dem = 0x8000_0000 then [] else [dem]) ++ (allCells.filter e.packOk).map portPt)
  let qq := if qr = 0x8000_0000 then 0 else e.bad [qr]
  let e := (e.putQ 0x3006 1 p tD qp).putQ 0x3007 1 q tD qq
  let ifs : Int := e.cv oGridIfs
  let th := e.pv 0x3000
  let vd := max e.casc.vd (mulq fifth e.vdn)
  let k : Int := if e.cv oConnection = 1 then 1 else 3
  let id0 := divq (2 * (p * sw)) (k * vd)
  let iq0 := divq (2 * (q * sw)) (k * vd)
  let im := e.cq oIMax * ifs * 512
  let over1 := decide (mulq im im < mulq id0 id0 + mulq iq0 iq0)
  let rest (x : Int) : Int := sqrtq (mulq im im - mulq x x)
  let sgn (x m : Int) : Int := if x < 0 then -(min (iabs x) m) else min (iabs x) m
  let (id, iq) :=
    if !over1 then (id0, iq0)
    else if e.cv oIPriority = 0 then (let a := clampTo (-im) im id0; (a, sgn iq0 (rest a)))
    else (let b := clampTo (-im) im iq0; (sgn id0 (rest b), b))
  let qb := if qp + qq + e.bad [0x3002] = 0 then 0 else qDegraded
  e.each e.usedPhases fun e n =>
    let a := th - third n
    let v := mulq id (cosq a) - mulq iq (sinq a)
    let r := rdiv (v * 2 ^ 31) (ifs * 2 ^ 40)
    e.putPt (0x3008 + n) (satQ31 r) e.toffS (qb + if over1 || offQ31 r then qSat else 0)

/-! ### Counted sets and carriers, with their rotation by frame number (R277, R278, R289, R290) -/

/-- Ranks, N_p, run points and carrier positions; a counted cell whose bypass switch a record reports closed raises
CELL_BYPASS_CLOSED (R278). -/
def Eff.countCells (e : Eff s0) : Eff s0 :=
  let tD := e.toffD
  let lost := e.casc.counted.filter fun c => e.cellNext c == .active && (e.cell c).bypClosed
  let e := e.each lost fun e c => e.fault 0x012 kCellBypassClosed c
  let j := e.frame.k + 1
  let rot := e.cv oRotFrames
  let q := if rot = 0 then 0 else j / rot
  let sets := e.usedPhases.map fun p => (p, e.countedSet p)
  let e := e.modCasc fun c => { c with counted := (sets.flatMap (·.2)) }
  let all := sets.flatMap (·.2)
  let e := e.each sets fun e ps =>
    let n := ps.2.length
    let e := e.putPt (0x3010 + ps.1) n tD 0
    let s : Int := if e.cv oCarrStagger = 1 && n != 0 then rdiv (ps.1 * 2 ^ 32) (6 * n) else 0
    e.each (ps.2.zip (List.range n)) fun e cr =>
      let ph := (rdiv (((cr.2 + q) % (2 * n)) * 2 ^ 32) (2 * n) + s) % 2 ^ 32
      let e := e.putPt (cellPt cr.1 + 33) ph tD 0
      let e := e.putPt (cellPt cr.1 + 47) cr.2 tD 0
      e.putPt (cellPt cr.1 + 40) 0x7FFF_FFFF tD 0
  e.each (allCells.filter fun c => e.installed c && !all.contains c) fun e c =>
    let e := e.when (e.cellNext c == .active) (·.putPt (cellPt c + 33) 0 tD 0)
    (e.putPt (cellPt c + 47) 0xFFFF_FFFF tD 0).putPt (cellPt c + 40) 0 tD 0

/-! ### Link regulation (R293 to R295, first pass) -/

/-- The cell's converter runs: IDLE or ACTIVE at t_{k+1}. -/
def Eff.cellRuns (e : Eff s0) (c : Nat) : Bool := e.cellNext c == .idle || e.cellNext c == .active

/-- Which bridge regulates the link of cell c (R293): 1 bridge B, 2 bridge S, 0 none in this phase. -/
def Eff.linkBridge (e : Eff s0) (c : Nat) : Nat :=
  let pk := e.packOk c
  if e.running then 2
  else if e.dev.state == .sync then (if pk then 1 else 2)
  else if e.dev.state == .charge then
    (if pk then 1 else if e.dev.chargePhase == 3 then 2 else 0)
  else 0

/-- A reference that ramps to its target at PRECHARGE_RATE from where the quantity stood (R293, R120). -/
def Eff.rampRef (e : Eff s0) (ref : Option Int) (now target : Int) (held : Bool) : Int :=
  match ref with
  | none => if 98 * target ≤ 100 * now then target else now
  | some r => if held then r else min target (r + mulNs (unit40 (e.cv oPrechargeRate)) e.tf)

/-- The link regulator, PGRID_C and the reference of cell c. From SYNC on the reference is VDC_NOM (R293), but for the link of an IDLE
cell, which is charged at PRECHARGE_RATE until it comes within its band (R122, R138). -/
def Eff.linkCell (e : Eff s0) (c : Nat) : Eff s0 :=
  let tD := e.toffD
  let b := cellPt c
  let v := e.vdc c
  let nom := e.vdcNom
  let br := e.linkBridge c
  let push := smGet 0 e.casc.push c
  let ref : Option Int :=
    if br = 0 then none
    else if e.dev.state != .charge && e.cellNext c == .active then some nom
    else some (e.rampRef (smGet none e.casc.vref c) v nom (e.dev.state == .charge && br == 1 && push != 0))
  let e := e.modCasc fun x => { x with vref := smSet none x.vref c ref }
  let er := ref.getD v - v
  let q := e.pq b
  let fresh := !bitOf q 0 && !bitOf q 2
  let blocked := decide ((0 < er ∧ 0 < push) ∨ (er < 0 ∧ push < 0))
  let im := e.cq oLinkImax * 1000000 * 512
  let old := smGet 0 e.casc.link c
  let int := if br != 0 && fresh && !blocked then clampTo (-im) im (old + mulNs (e.cv oLinkKi * er) e.tf) else old
  let e := e.modCasc fun x => { x with link := smSet 0 x.link c int }
  let dg := e.bad [b]
  let e := e.putQ (b + 45) 1000000 int tD dg
  let e := e.putQ (b + 46) 2000 (ref.getD v) tD dg
  let pg := if e.casc.counted.contains c && e.cv oGridFf = 1 then mulq (mulq (e.ptq (b + 32) 1) v) (e.igrid c) else 0
  let e := e.putQ (b + 42) 1000000 pg tD (e.bad [b, b + 1, b + 32])
  e.putPt (b + 41) (if e.packOk c && e.cellRuns c then 0x7FFF_FFFF else 0) tD 0

/-- The points of an installed cell whose converter does not run (R295, R298): no power, no regulator, no reference (log 108). -/
def Eff.linkOff (e : Eff s0) (c : Nat) : Eff s0 :=
  let e := e.modCasc fun x => { x with vref := smSet none x.vref c none }
  e.each [41, 42, 43, 44, 45, 46] fun e i => e.putPt (cellPt c + i) 0 e.toffD 0

/-- The cells with a usable pack whose converters run. -/
def Eff.packCells (e : Eff s0) : List Nat := allCells.filter fun c => e.cellRuns c && e.packOk c

/-- The mean of the present VLV values of some cells, none where no value is present. -/
def Eff.lvBus (e : Eff s0) (l : List Nat) : Option Int :=
  let g := l.filter fun c => !bitOf (e.pq (cellPt c + 5)) 0 && !bitOf (e.pq (cellPt c + 5)) 2
  if g.isEmpty then none else some (rdiv (g.foldl (fun a c => a + e.ptq (cellPt c + 5) 2000) 0) g.length)

/-- The LV bus reference and the integral of the LV share (R293). -/
def Eff.lvRegulate (e : Eff s0) : Eff s0 :=
  let on := e.dev.state == .sync || (e.dev.state == .charge && 2 ≤ e.dev.chargePhase)
  match on, e.lvBus e.packCells with
  | true, some bus =>
    let nom := unit40 (e.cv oVlvNom)
    let ref := if e.dev.state == .sync then nom else e.rampRef e.casc.lvRef bus nom false
    e.modCasc fun x => { x with lvRef := some ref, lvInt := x.lvInt + mulNs (e.cv oLinkKi * (ref - bus)) e.tf }
  | true, none => e
  | false, _ => e.modCasc fun x => { x with lvRef := none, lvInt := 0 }

/-- The power each pack cell takes to the LV bus (R293). -/
def Eff.lvShare (e : Eff s0) : Int :=
  let l := e.packCells
  match e.casc.lvRef, e.lvBus l with
  | some ref, some bus => rdiv (e.cv oLinkKp * (ref - bus) + e.casc.lvInt) l.length
  | _, _ => 0

/-! ### Sync comparison (R286) -/

/-- The demodulated terms of one frame, for each used phase: grid re, im, converter re, im, and 1 where a point consumed degrades. -/
def Eff.demodTerms (e : Eff s0) : List Int :=
  let th := e.pv 0x3000
  let g := e.lineVolts oGridVPt
  let bound := !(e.lineRefs oConvVPt).isEmpty
  let cv := e.lineVolts oConvVPt
  let mid := th + rdiv (e.casc.w * ((e.tf : Int) - 2 * (e.frame.so : Int)) * 2 ^ 32) (2 * twoPi * 1000000000)
  e.usedPhases.flatMap fun p =>
    let a := th - third p
    let vg := e.phaseVolts g p
    let l := e.countedSet p
    let (vc, b) := if bound then (e.phaseVolts cv p, a)
      else (l.foldl (fun s c => s + mulq (e.ptq (cellPt c + 32) 1) (e.vdc c)) 0, mid - third p)
    let used := e.lineRefs oGridVPt ++ if bound then e.lineRefs oConvVPt else l.flatMap fun c => [cellPt c, cellPt c + 32]
    [mulq vg (cosq a), mulq vg (sinq a), mulq vc (cosq b), mulq vc (sinq b), ((e.bad used / qDegraded : Nat) : Int)]

/-- The angle in [0, 2³¹] of a vector with im ≥ 0, in turns × 2³², by bisection over cos and sin. -/
def argUpper : Nat → Int → Int → Int → Int
  | 0, a, _, _ => a
  | b + 1, a, re, im =>
    let t := a + 2 ^ b
    argUpper b (if 0 ≤ cosU t * im - sinU t * re then t else a) re im

/-- The signed angle of a vector, as a fraction of a half-turn in Q1.31. -/
def argSigned (re im : Int) : Int :=
  if im = 0 && 0 ≤ re then 0
  else if 0 ≤ im then argUpper 31 0 re im
  else -(argUpper 31 0 re (-im))

/-- SYNC_DV and SYNC_DA of the used phases over the last grid cycle. -/
def Eff.syncCompare (e : Eff s0) : Eff s0 :=
  let n := e.cycleFrames
  let row := e.demodTerms
  let e := e.modCasc fun c => { c with demod := (row :: c.demod).take n }
  let sum := e.casc.demod.foldl (fun a r => (a.zip (r ++ List.replicate 15 0)).map fun p => p.1 + p.2)
    (List.replicate row.length 0)
  let tD := e.toffD
  e.each (e.usedPhases.zip (List.range 3)) fun e pi =>
    let s (i : Nat) : Int := sum.getD (5 * pi.2 + i) 0
    let q := if s 4 = 0 then 0 else qDegraded
    let g := sqrtq (mulq (s 0) (s 0) + mulq (s 1) (s 1))
    let c := sqrtq (mulq (s 2) (s 2) + mulq (s 3) (s 3))
    let e := if g = 0 then e.putPt (0x3018 + pi.1) 0x7FFF_FFFF tD (qSat + q)
      else e.putQ (0x3018 + pi.1) 1 (divq (c - g) g) tD q
    e.putPt (0x301C + pi.1) (satQ31 (argSigned (s 2 * s 0 + s 3 * s 1) (s 2 * s 1 - s 3 * s 0))) tD q

/-- The string current means of the frame (R129 step 2), kept over one grid cycle. -/
def Eff.stringMeans (e : Eff s0) : Eff s0 :=
  let row := e.usedPhases.map fun p =>
    let l := e.countedSet p
    if l.isEmpty then 0 else rdiv (l.foldl (fun a c => a + e.igrid c) 0) l.length
  e.modCasc fun c => { c with means := (row :: c.means).take e.cycleFrames }

/-- The first pass (R275). -/
def Eff.firstPass (e : Eff s0) : Eff s0 :=
  let e := e.stringMeans
  let e := (e.countCells.trackGrid).gridRefs
  let e := e.syncCompare
  let e := e.each (allCells.filter fun c => e.installed c) fun e c =>
    if e.cellRuns c then e.linkCell c else e.linkOff c
  e.lvRegulate

/-! ### The second pass (R285, R287, R288, R292, R293, R296) -/

/-- The phase voltage reference in V, none where no string is modulated (R285). -/
def Eff.vrefOf (e : Eff s0) (p : Nat) : Option Int :=
  if e.dev.state == .sync then some (e.ptq (0x300C + p) (e.cv oGridVfs))
  else if e.running then
    (if e.cv oVrefPt p = 0x8000_0000 then some 0 else some (e.ptq (e.cv oVrefPt p) (e.cv oGridVfs)))
  else none

/-- Modulation of the cells of phase p, and UTIL. -/
def Eff.modulate (e : Eff s0) (p : Nat) : Eff s0 :=
  let tD := e.toffD
  let l := e.countedSet p
  match e.vrefOf p with
  | none => (e.each l fun e c => e.putPt (cellPt c + 32) 0 tD 0).putPt (0x3014 + p) 0 tD 0
  | some vr =>
    let n : Int := l.length
    let nom := e.vdcNom
    let ref := if e.dev.state == .sync then 0x300C + p else e.cv oVrefPt p
    let dbar := if l.isEmpty then 0 else rdiv (l.foldl (fun a c => a + (nom - e.vdc c)) 0) n
    let q := e.bad ((if ref = 0x8000_0000 then [] else [ref]) ++ l.map cellPt)
    let kh := e.cq oBalKh * 2 ^ 10
    let ifs := unit40 (e.cv oGridIfs)
    let e := e.each l fun e c =>
      let v := e.vdc c
      let u := rdiv vr n + divq (mulq (mulq kh (nom - v - dbar)) (e.igrid c)) ifs
      e.putQ (cellPt c + 32) 1 (divq u (max v (rdiv nom 4))) tD (if q = 0 then e.bad [cellPt c + 1] else q)
    let sum := l.foldl (fun a c => a + e.vdc c) 0
    if l.isEmpty then e.putPt (0x3014 + p) 0 tD q
    else e.putQ (0x3014 + p) 1 (divq (iabs vr) sum) tD q

/-- f of R292, and g of R296. -/
def tabF (x : Int) : Int := mulq x (2 ^ 40 - iabs x)
def tabG (x : Int) : Int := max (2 ^ 40 - 2 * iabs x) (2 ^ 34)

/-- The shifts of a solve, with whether PHI_MAX has limited each, and whether it limited each in the last step. -/
structure TabRun where
  ds : Int
  db : Int
  satS : Bool
  satB : Bool
  lastS : Bool
  lastB : Bool

/-- One Newton step of R296 over both bridges. -/
def tabStep (a b c ps pb mx : Int) (x : TabRun) : TabRun :=
  let d := x.ds - x.db
  let f1 := mulq a (tabF x.ds) + mulq c (tabF d) - ps
  let f2 := mulq c (tabF d) - mulq b (tabF x.db) - pb
  let j11 := mulq a (tabG x.ds) + mulq c (tabG d)
  let j12 := -(mulq c (tabG d))
  let j21 := mulq c (tabG d)
  let j22 := -(mulq c (tabG d)) - mulq b (tabG x.db)
  let det := mulq j11 j22 - mulq j12 j21
  let s := x.ds - divq (mulq j22 f1 - mulq j12 f2) det
  let t := x.db - divq (mulq j11 f2 - mulq j21 f1) det
  let s' := clampTo (-mx) mx s
  let t' := clampTo (-mx) mx t
  ⟨s', t', x.satS || s' != s, x.satB || t' != t, s' != s, t' != t⟩

/-- One Newton step without bridge B (R293). -/
def tabStepS (a ps mx : Int) (x : TabRun) : TabRun :=
  let s := x.ds - divq (mulq a (tabF x.ds) - ps) (mulq a (tabG x.ds))
  let s' := clampTo (-mx) mx s
  { x with ds := s', satS := x.satS || s' != s, lastS := s' != s }

/-- G_k of R276. -/
def Eff.tabCond (e : Eff s0) (k : Nat) : Int := rdiv (1000000000 * 2 ^ 40) (2 * e.cv oTabFsw * e.cv oTabL k)

/-- The power targets of cell c after limits, p_S and p_B, and the direction in which the regulated bridge is at its limit
(R293, R294). -/
def Eff.targets (e : Eff s0) (c : Nat) : Int × Int × Int :=
  let b := cellPt c
  let er := (smGet none e.casc.vref c).getD (e.vdc c) - e.vdc c
  let r := e.cv oLinkKp * er + smGet 0 e.casc.link c
  let pg := if e.brkClosed then e.ptq (b + 42) 1000000 else 0
  let inner := e.dev.state == .charge || e.dev.state == .sync
  let lim := mulq (e.cq oPsMax * 1000000 * 512) (if inner then 2 ^ 40 else e.casc.pwr)
  let pk := e.packOk c
  match e.linkBridge c with
  | 1 =>
    let ps := clampTo (-lim) lim (if e.dev.state == .charge && e.dev.chargePhase == 1 then 0 else e.lvShare)
    let want := ps - pg + r
    let pm := mulq (mulq (e.cq oPrechargeIlim * 512) (unit40 (e.cv oPortIrated c))) (e.ptq (b + 6) 1000)
    let pb := if e.dev.state == .charge then clampTo (-(max 0 pm)) (max 0 pm) want else want
    (ps, pb, if pb < want then 1 else if want < pb then -1 else 0)
  | 2 =>
    let slot := e.cv oBtrimSlot c
    let trim := if slot = 0xFFFF then 0 else e.ptq (0x2000 + slot) 1000000
    let pb := if pk && e.running then e.allocW c + trim else 0
    let want := pg + pb - r
    let ps := clampTo (-lim) lim want
    (ps, pb, if ps < want then -1 else if want < ps then 1 else 0)
  | _ => (0, 0, 0)

/-- The points that the targets and the shifts of cell c consume (R49). -/
def Eff.solveRefs (e : Eff s0) (c : Nat) : List Nat :=
  let b := cellPt c
  let slot := e.cv oBtrimSlot c
  [b, b + 5, b + 42] ++ (if e.packOk c then [b + 6] else []) ++
    (match e.linkBridge c with
    | 1 => e.packCells.map fun x => cellPt x + 5
    | 2 => if e.packOk c && e.running then portPt c :: (if slot = 0xFFFF then [] else [0x2000 + slot]) else []
    | _ => [])

/-- Final targets and the shift solve of cell c (R296). A target that PHI_MAX puts out of reach holds the link integral in its
direction (R294, R296), as a limited target does. -/
def Eff.solveCell (e : Eff s0) (c : Nat) : Eff s0 :=
  let tD := e.toffD
  let b := cellPt c
  let (ps, pb, push) := e.targets c
  let dg := e.bad (e.solveRefs c)
  let e := e.putQ (b + 43) 1000000 ps tD dg
  let e := e.putQ (b + 44) 1000000 pb tD dg
  let mx := e.cq oPhiMax * 512
  let slew := e.cq oPhiSlew * 512
  let s0' := e.ptq (b + 34) 1
  let b0 := e.ptq (b + 35) 1
  let vp := e.vdc c
  let vs := rdiv (e.ptq (b + 5) 2000 * e.cv oTabN 0) 1000
  let vb := rdiv (e.ptq (b + 6) 1000 * e.cv oTabN 1) 1000
  let a := mulq (mulq (e.tabCond 0) vp) vs
  let step := if e.packOk c then tabStep a (mulq (mulq (e.tabCond 1) vp) vb) (mulq (mulq (e.tabCond 2) vb) vs) ps pb mx
    else tabStepS a ps mx
  let r := step (step ⟨s0', if e.packOk c then b0 else 0, false, false, false, false⟩)
  let reach : Int := match e.linkBridge c with
    | 1 => if r.lastB then pb.sign else 0
    | 2 => if r.lastS then -ps.sign else 0
    | _ => 0
  let e := e.modCasc fun x => { x with push := smSet 0 x.push c (if push = 0 then reach else push) }
  let put (n : Nat) (x0 x : Int) (sat : Bool) (e : Eff s0) : Eff s0 :=
    let y := clampTo (x0 - slew) (x0 + slew) x
    e.putQ n 1 y tD (dg + if sat || y != x then qSat else 0)
  let e := put (b + 34) s0' r.ds r.satS e
  if e.packOk c then put (b + 35) b0 r.db r.satB e else e.putPt (b + 35) 0 tD dg

/-- The second pass (R275): modulation, targets and shifts. -/
def Eff.secondPass (e : Eff s0) : Eff s0 :=
  let e := e.each e.usedPhases fun e p => e.modulate p
  let e := e.each (allCells.filter fun c => e.cellNext c == .active && !e.casc.counted.contains c) fun e c =>
    e.putPt (cellPt c + 32) 0 e.toffD 0
  e.each (allCells.filter fun c => e.cellRuns c) fun e c => e.solveCell c

end Sys2Proof.Machine
end

