-- ==== Sys2Proof/Machine/Ecdsa.lean ====
section
/-! DEFINITION. The meter's signature (R329): ECDSA on the curve P-256 over a SHA-256 digest, its nonce derived as RFC 6979 specifies,
under the key of the unit. -/

namespace Sys2Proof.Machine

/-! ### The curve -/

/-- The prime of the field of P-256. -/
def p256P : Nat := 0xffffffff00000001000000000000000000000000ffffffffffffffffffffffff

/-- The order of the base point. -/
def p256N : Nat := 0xffffffff00000000ffffffffffffffffbce6faada7179e84f3b9cac2fc632551

/-- The base point. -/
def p256G : Nat × Nat :=
  (0x6b17d1f2e12c4247f8bce6e563a440f277037d812deb33a0f4a13945d898c296, 0x4fe342e2fe1a7f9b8ee7eb4a7c0f9e162bce33576b315ececbb6406837bf51f5)

/-- b to the power x modulo m, for x below 2^256, by squaring from the top bit down. -/
def expMod (m b x : Nat) : Nat :=
  (List.range 256).foldl (fun r i => if x.testBit (255 - i) then r * r % m * b % m else r * r % m) 1

/-- The inverse modulo a prime. -/
def invMod (m x : Nat) : Nat := expMod m (x % m) (m - 2)

/-- The sum of two points of the curve; none is the point at infinity. -/
def ecAdd : Option (Nat × Nat) → Option (Nat × Nat) → Option (Nat × Nat)
  | none, q => q
  | p, none => p
  | some (x1, y1), some (x2, y2) =>
    if x1 = x2 ∧ (y1 + y2) % p256P = 0 then none
    else
      let slope :=
        if x1 = x2 then 3 * (x1 * x1 + (p256P - 1)) % p256P * invMod p256P (2 * y1) % p256P
        else (y2 + p256P - y1) % p256P * invMod p256P (x2 + p256P - x1) % p256P
      let x3 := (slope * slope + 2 * p256P - x1 - x2) % p256P
      some (x3, (slope * (x1 + p256P - x3) + p256P - y1) % p256P)

/-- A multiple of a point, for k below 2^256. -/
def ecMul (k : Nat) (q : Option (Nat × Nat)) : Option (Nat × Nat) :=
  (List.range 256).foldl (fun r i => let d := ecAdd r r; if k.testBit (255 - i) then ecAdd d q else d) none

/-! ### The signature -/

/-- The value of big-endian octets. -/
def unbe (bs : List Byte) : Nat := unle bs.reverse

/-- The signature (r, s) of digest h under key d with nonce k; none where r or s would be 0. -/
def ecSign (d h k : Nat) : Option (Nat × Nat) :=
  match ecMul k (some p256G) with
  | none => none
  | some (x, _) =>
    let r := x % p256N
    let s := invMod p256N k * (h + r * d) % p256N
    if r = 0 ∨ s = 0 then none else some (r, s)

/-- The nonces of RFC 6979 from its state (K, V) on, until one signs; `fuel` bounds the tries. -/
def signFrom (d h : Nat) : Nat → List Byte → List Byte → List Byte
  | 0, _, _ => zeros 64
  | fuel + 1, key, v =>
    let v := hmac key v
    let k := unbe v
    match if k = 0 ∨ p256N ≤ k then none else ecSign d h k with
    | some (r, s) => be 32 r ++ be 32 s
    | none =>
      let key := hmac key (v ++ [0])
      signFrom d h fuel key (hmac key v)

/-- The deterministic signature of a digest of 32 octets under key d: SIG_R and SIG_S, big-endian (R328, R329). -/
def ecdsa (d : Nat) (digest : List Byte) : List Byte :=
  let h := unbe digest
  let seed := be 32 d ++ be 32 (h % p256N)
  let v0 := List.replicate 32 (1 : Byte)
  let k1 := hmac (zeros 32) (v0 ++ [0] ++ seed)
  let v1 := hmac k1 v0
  let k2 := hmac k1 (v1 ++ [1] ++ seed)
  signFrom d h 64 k2 (hmac k2 v1)

/-- The octets of the public half of key d: X then Y, big-endian (R66, R329). -/
def ecPublic (d : Nat) : List Byte :=
  match ecMul d (some p256G) with
  | some (x, y) => be 32 x ++ be 32 y
  | none => zeros 64

/-! ### The unit's key -/

/-- The private key of the unit, in 1 to the order less 1. -/
def meterSecret : Nat := Config.meterKey.toNat % (p256N - 1) + 1

/-- METER_PUBKEY (R66). -/
def meterPubkey : List Byte := ecPublic meterSecret

/-- The signature of a digest by the unit. -/
def meterSignature (digest : List Byte) : List Byte := ecdsa meterSecret digest

end Sys2Proof.Machine
end

