-- ==== Sys2Proof/Machine/Records.lean ====
section
/-! DEFINITION. Commit records of flash (R95 to R98): their layout, their validity, the newest record of a domain, and the start of
a store. -/

namespace Sys2Proof.Machine

variable {s0 : Root}

/-- The MAGIC of a commit record (R96). -/
abbrev recordMagic : Nat := 0x5243_4756

/-- The image format version: DICTVER major (R66, R96). -/
def imageFormat : Nat := field Config.dictver.toNat 16 16 % 256

/-- Whether the firmware reads an image format: its own, and whichever others the build reads (R97). -/
def readsFormat (f : Nat) : Bool := f == imageFormat || Config.otherFormat f

/-- The 64 octets of a commit record (R96). -/
def commitRecord (seq dom : Nat) (image : List Byte) : List Byte :=
  let head := le 4 recordMagic ++ le 4 seq ++ le 1 dom ++ le 1 imageFormat ++ zeros 2 ++ le 4 image.length ++
    le 4 (crc32c image).toNat ++ le 8 Config.serial.toNat ++ zeros 32
  head ++ le 4 (crc32c head).toNat

/-- Whether a record of a slot of domain `dom` is valid (R97). SERIAL is not looked at. -/
def recordValid (dom : Nat) (record image : List Byte) : Bool :=
  fieldLe record 0 4 == recordMagic && fieldLe record 60 4 == (crc32c (record.take 60)).toNat && octet record 8 == dom &&
    readsFormat (octet record 9) && fieldLe record 16 4 == (crc32c image).toNat

/-- The SEQ of a record (R96). -/
def recordNo (record : List Byte) : Nat := fieldLe record 4 4

/-- The octets of the Ledger's image: slot 0 FIRST, slot 1 LAST, then the ring (R442). -/
def ledgerOctets (first last : Option Entry) (l : List Entry) : List Byte :=
  first.elim (zeros 32) Entry.octets ++ last.elim (zeros 32) Entry.octets ++ l.reverse.flatMap Entry.octets

/-- The SEQ of the record that a slot holds, where it is valid: of configuration domain d, the Ledger (0x20) or the meter (0x21) in
bank b; 0 where it holds no valid record. -/
def Eff.recordSeq (e : Eff s0) (d b : Nat) : Nat :=
  let seq (record image : List Byte) : Nat := if recordValid d record image then recordNo record else 0
  if d = 0x20 then (smGet none e.st.persist.ledger b).elim 0 fun i => seq i.record (ledgerOctets i.first i.last i.entries)
  else if d = 0x21 then (smGet none e.st.meter.slots b).elim 0 fun i => seq i.record (Config.meterOctets i.ports)
  else (smGet none e.st.persist.slots (2 * d + b)).elim 0 fun i => seq i.record (imageOctets i.values)

/-- The SEQ of the newest valid record of a domain in either bank (R96). -/
def Eff.newestSeq (e : Eff s0) (d : Nat) : Nat := max (e.recordSeq d 0) (e.recordSeq d 1)

/-- The bank of the newest valid record. -/
def Eff.newestBank (e : Eff s0) (d : Nat) : Nat := if e.recordSeq d 0 < e.recordSeq d 1 then 1 else 0

/-- The committed values of domain d that differ from the defaults: its active set (R95). -/
def Eff.activeSet (e : Eff s0) (d : Nat) : List (Nat × Nat) :=
  e.cfg.filterMap fun p =>
    match p.2 with
    | some v => if objDomain (p.1 / 65536) = d then some (p.1, v) else none
    | none => none

/-- Erases the slot of a domain in a bank (R95). -/
def Eff.eraseSlot (e : Eff s0) (d b : Nat) : Eff s0 :=
  if d = 0x20 then e.modPersist fun p => { p with ledger := smSet none p.ledger b none }
  else if d = 0x21 then e.modMeter fun m => { m with slots := smSet none m.slots b none }
  else e.modPersist fun p => { p with slots := smSet none p.slots (2 * d + b) none }

/-- Starts the store of the first domain of a list (R95): its image is taken, and the slot in the bank that does not hold its newest
valid record is erased. -/
def Eff.startStore (e : Eff s0) (todo : List Nat) : Eff s0 :=
  match todo with
  | [] => e.modPersist fun p => { p with job := none, status := 0 }
  | d :: _ =>
    let bank := if e.newestSeq d = 0 then 0 else 1 - e.newestBank d
    let e := e.when (d == 0x21) (·.modMeter fun m => { m with storing := m.ports })
    let job : StoreJob :=
      if d = 0x20 then ⟨todo, bank, [], e.faults.first, e.faults.last, e.ring⟩
      else ⟨todo, bank, if d = 0x21 then [] else e.activeSet d, none, none, []⟩
    (e.eraseSlot d bank).modPersist fun p => { p with job := some job }

/-- The store of a domain that the device starts by itself (R333, R443): after the running one, if any; not with too little flash
(R94), and not once PWR_FAIL_N has asserted. -/
def Eff.storeSoon (e : Eff s0) (d : Nat) : Eff s0 :=
  if e.persist.small || e.dev.pwrFail || e.clk.holdup then e
  else
    match e.persist.job with
    | none => e.startStore [d]
    | some j => e.modPersist fun p => { p with job := some { j with todo := if j.todo.tail.contains d then j.todo else j.todo ++ [d] } }

end Sys2Proof.Machine
end

