-- ==== Sys2Proof/Machine/Meter.lean ====
section
/-! DEFINITION. The meter and its records (R307, R308, R318, R321 to R335). -/

namespace Sys2Proof.Machine

variable {s0 : Root}

/-- The meter of port n. -/
@[simp] abbrev Eff.mport (e : Eff s0) (n : Nat) : MPort := smGet MPort.reset e.st.meter.ports n

/-- Changes the meter of port n. -/
def Eff.modPort (e : Eff s0) (n : Nat) (f : MPort → MPort) : Eff s0 :=
  e.modMeter fun m => { m with ports := smMod MPort.reset m.ports n f }

/-- Whether port n exists (R22). -/
def Eff.portExists (e : Eff s0) (n : Nat) : Bool := e.installed n && e.cv oPackVnom n != 0

/-- The ports that exist. -/
def Eff.portList (e : Eff s0) : List Nat := allCells.filter fun n => e.portExists n

/-- Whether a contract is in force for port n (R305). -/
def Eff.contracted (e : Eff s0) (n : Nat) : Bool := e.cv oContractPack n != 0

/-- The throughput of the budget day in mWh (R318). -/
def MPort.throughput (m : MPort) : Nat := (m.imp - m.dayImp) + (m.exp - m.dayExp)

/-- REMAIN in mWh (R318). -/
def Eff.remain (e : Eff s0) (n : Nat) : Int := (e.cv oBudgetWh n * 1000 : Nat) - ((e.mport n).throughput : Int)

/-- CAL_CRC of port n (R323). -/
def Eff.calCrc (e : Eff s0) (n : Nat) : Nat := (crc32c (le 4 (e.cv oCalGain n) ++ le 4 (e.cv oCalOfs n))).toNat

/-- CONTRACT_CRC of port n (R328). -/
def Eff.conCrc (e : Eff s0) (n : Nat) : Nat :=
  (crc32c (le 4 (e.cv oLessorId n) ++ le 8 (e.cv oContractPack n) ++ le 4 (e.cv oBudgetWh n) ++ le 2 (e.cv oCRate n) ++
    le 2 (e.cv oCapAh n) ++ le 2 (e.cv oSocMin n) ++ le 2 (e.cv oSocMax n) ++ le 2 (e.cv oTMin n) ++ le 2 (e.cv oTMax n) ++
    le 1 (e.cv oEmergOk n) ++ le 2 (e.cv oEmergSocMin n) ++ le 2 (e.cv oVcellFull n) ++ le 2 (e.cv oVcellEmpty n))).toNat

/-! ### Intervals and records -/

/-- Starts an interval of port n at the running frame start. GAP stays on the first one after a restore (R333). -/
def Eff.openInterval (e : Eff s0) (n : Nat) (disc : Bool) : Eff s0 :=
  let lessor := if e.contracted n then e.cv oLessorId n else 0
  let pack := (e.cell n).packId
  let cal := e.calCrc n
  let con := e.conCrc n
  let emg := e.meter.emerg && e.meter.emergPorts.contains n
  e.modPort n fun m => { m with
    started := true, startT := e.frame.tk / 65536, startK := e.frame.k, imp0 := m.imp, exp0 := m.exp, emerg := 0, est := 0
    ptp := true, disc := disc, switched := false, gap := m.gap && !m.started, emergency := emg, lessor := lessor
    pack := pack, calCrc := cal, conCrc := con }

/-- The identities of the interval that runs: contract, pack and calibration as they now stand (R327). -/
def Eff.identify (e : Eff s0) (n : Nat) : Eff s0 :=
  let lessor := if e.contracted n then e.cv oLessorId n else 0
  let pack := (e.cell n).packId
  let cal := e.calCrc n
  let con := e.conCrc n
  e.modPort n fun m => { m with lessor := lessor, pack := pack, calCrc := cal, conCrc := con }

/-- The flags of a record (R328) but for CHAIN_BREAK. -/
def Eff.recFlags (e : Eff s0) (m : MPort) : Nat :=
  let disc := m.disc || bitOf e.trouble 1
  ofBool (m.est ≤ e.cv oEstTol && !m.gap && !disc) + 2 * ofBool (m.ptp && e.ptpLocked) + 4 * ofBool disc + 8 * ofBool m.switched +
    32 * ofBool m.gap + 64 * ofBool m.emergency

/-- The place of a cause in the table of R327. -/
def closeRank (cause : Nat) : Nat := [3, 1, 5, 2, 4, 0].idxOf cause

/-- Closes the interval of port n at the running frame start (R326, R327) and opens the next one; the close waits for its
signature (R329). Of several causes in one frame the highest in the table stands in the one record, and the interval that has just
begun takes the identities of the last one over. -/
def Eff.closePort (e : Eff s0) (n cause : Nat) : Eff s0 :=
  let m := e.mport n
  if !m.started then e
  else if m.startK = e.frame.k then
    (e.modMeter fun x => { x with closes := x.closes.map fun c =>
      if c.port = n && (c.seq + 1) % 2 ^ 32 = m.seq && closeRank cause < closeRank c.cause then { c with cause := cause } else c }).identify n
  else
    let body := le 4 m.lessor ++ le 8 m.pack ++ time96 m.startT ++ time96 (e.frame.tk / 65536) ++ le 8 m.startK ++
      le 4 (e.frame.k - m.startK) ++ le 8 m.imp ++ le 8 m.exp ++ le 4 (m.imp - m.imp0) ++ le 4 (m.exp - m.exp0) ++
      le 4 m.emerg ++ le 4 m.est ++ le 4 m.calCrc ++ le 4 m.conCrc ++ zeros 4
    let c : MClose := ⟨n, m.seq, cause, e.recFlags m, body⟩
    let e := e.modMeter fun x => { x with closes := x.closes ++ [c] }
    ((e.modPort n fun m => { m with seq := (m.seq + 1) % 2 ^ 32 }).openInterval n false).event 16

/-- Closes every port. -/
def Eff.closeAll (e : Eff s0) (cause : Nat) : Eff s0 :=
  e.each (allCells.filter fun n => (e.mport n).started) fun e n => e.closePort n cause

/-- Adds a record to the 96 latest of its port (R332): one overwritten before it was acknowledged is lost. -/
def Eff.addRecord (e : Eff s0) (n seq : Nat) (octets : List Byte) : Eff s0 :=
  let m := e.mport n
  let lossy := match m.recs.getLast? with
    | some r => m.recs.length == 96 && !r.2.2
    | none => false
  let e := e.modPort n fun m => { m with recs := ((seq, octets, false) :: m.recs).take 96 }
  e.when lossy fun e => (e.modMeter fun x => { x with lost := (x.lost + 1) % 2 ^ 32 }).fault 0x013 kMeterLoss n

/-- Whether a close of port n may still take another cause of its frame (R327): until the deadline of the frame in which it fell. -/
def Eff.closeOpen (e : Eff s0) (n : Nat) : Bool :=
  (e.mport n).started && (e.mport n).startK == e.frame.k && !e.frame.snapped && e.frame.running

/-- METER_SIGN (R328, R329, R331, R557): an ACTIVE device signs the oldest close of a port that waits, chains it to the record
before it, keeps it and sends it to the standby, and to the record stream with STREAM_METER set. -/
def execMeterSign (port : Fin 192) (s : State) : Host.Outcome State Fault Refusal :=
  let e := Eff.start s
  match e.meter.closes.find? (·.port == port.val) with
  | none => .next e.st
  | some c =>
    if !e.isActive || e.closeOpen c.port then .next e.st
    else
      let prev := (e.mport c.port).recs.find? fun r => decide ((r.1 + 1) % 2 ^ 32 = c.seq)
      let broken := c.seq != 0 && prev.isNone
      let m := [0x47#8, 0x4D#8, 0x52#8, 0x31#8, 1#8] ++ le 1 c.port ++ le 1 c.cause ++
        le 1 (c.flags + 16 * ofBool broken) ++ le 8 Config.serial.toNat ++ le 4 c.seq ++ c.body ++
        (match prev with
         | some r => sha256 r.2.1
         | none => zeros 32)
      let sig := meterSignature (sha256 m)
      let e := e.modMeter fun x => { x with closes := x.closes.filter (· != c) }
      let e := e.addRecord c.port c.seq (m ++ sig)
      let e := e.when (e.cv oStreamMeter == 1) (·.modJrnl fun j => { j with jobs := j.jobs ++ [⟨3, c.port, m ++ sig, 0, false⟩] })
      .next (e.when e.pair.standby (·.sendControl 6 0 (m ++ sig))).st

/-! ### Energy and state of charge, every frame -/

/-- The meter of one port in one frame (R322 to R324). -/
def Eff.meterPort (e : Eff s0) (n : Nat) : Eff s0 :=
  let b := cellPt n
  let run := e.pv (b + 41) != 0
  let q := e.pq (b + 10)
  let est := bitOf q 0 || bitOf q 2
  let (x1, wide) := satTo 80 (e.cq oCalGain n * e.pv (b + 10))
  let p0 := narrow 30 x1 + e.cq oCalOfs n
  let p := satQ31 p0
  let en : Int := if run then p * e.tf else 0
  let u : Nat := 3600 * 2 ^ 31
  let emg := e.meter.emerg && e.meter.emergPorts.contains n
  let e := e.modPort n fun m =>
    let ax := m.aExp + en.toNat
    let ai := m.aImp + (-en).toNat
    { m with
      exp := (m.exp + ax / u) % 2 ^ 64, aExp := ax % u, imp := (m.imp + ai / u) % 2 ^ 64, aImp := ai % u
      emerg := if emg then m.emerg + ax / u + ai / u else m.emerg
      emergency := m.emergency || emg, est := if est then m.est + 1 else m.est }
  let pb := portPt n
  e.putPt (pb + 20) (if run then p else 0) e.toffD (e.bad [b + 10] ||| if run && (wide || offQ31 p0) then qSat else 0)

/-- The state of charge of one port in one frame (R308). -/
def Eff.socPort (e : Eff s0) (n : Nat) : Eff s0 :=
  if !e.contracted n then e
  else
    let b := cellPt n
    let q := e.pq (b + 9)
    let fresh := !bitOf q 0 && !bitOf q 2
    let i := e.ptq (b + 9) 1000
    let cap : Int := e.cv oCapAh n
    let run := e.pv (b + 41) != 0
    let vmax := portPt n + 10
    let vmin := portPt n + 11
    let full := decide ((e.cv oVcellFull n : Int) * 32768 ≤ e.pv vmax ∧ i < 0)
    let empty := decide (e.pv vmin ≤ (e.cv oVcellEmpty n : Int) * 32768 ∧ 0 < i)
    let d := if fresh && run then rdivq (mulNs i e.tf) (cap * 360) else 0
    e.modPort n fun m =>
      let s := clampTo 0 (2 ^ 40) (m.soc - d)
      let s := if full then 2 ^ 40 else s
      let s := if empty then 0 else s
      { m with soc := s, anchored := m.anchored || full || empty }

/-- Writes the meter points of port n (R334). -/
def Eff.meterPoints (e : Eff s0) (n : Nat) : Eff s0 :=
  let b := portPt n
  let tD := e.toffD
  let m := e.mport n
  let r := rdiv (m.soc * 2 ^ 31) (2 ^ 40)
  let used := if e.contracted n then e.bad [cellPt n + 9, b + 10, b + 11] else 0
  let e := e.putPt (b + 4) (satQ31 r) tD ((if m.anchored then used else qDegraded) + if offQ31 r then qSat else 0)
  let rem := e.remain n / 1000
  let e := if e.cv oBudgetWh n = 0 then e.putPt (b + 5) 0x7FFF_FFFF tD 0
    else e.putPt (b + 5) (satQ31 rem) tD (if offQ31 rem then qSat else 0)
  let e := e.putPt (b + 6) ((m.throughput / 1000 % 2 ^ 32 : Nat) : Int) tD 0
  let e := (e.putPt (b + 16) (m.imp % 2 ^ 32) tD 0).putPt (b + 17) (m.imp / 2 ^ 32) tD 0
  (e.putPt (b + 18) (m.exp % 2 ^ 32) tD 0).putPt (b + 19) (m.exp / 2 ^ 32) tD 0

/-- The meter of every port in one frame. -/
def Eff.meterFrame (e : Eff s0) : Eff s0 :=
  e.each e.portList fun e n => ((e.meterPort n).socPort n).meterPoints n

/-! ### Closes at frame starts -/

/-- UTC of an instant of local time, in whole seconds. -/
def Eff.utcAt (e : Eff s0) (t : Int) : Int := t / (1000000000 * nsq) - e.utcOffset

/-- Whether a boundary of UTC, every `period` s from `offset` s, lies in (t_{k−1}, t_k]. -/
def Eff.crossed (e : Eff s0) (period offset : Int) : Bool :=
  decide ((e.utcAt e.frame.tkPrev - offset) / period < (e.utcAt e.frame.tk - offset) / period)

/-- The meter's part of a frame start (R318, R326): intervals of new ports open, those of ports that are gone close
(PORT_REMOVED), interval boundaries close every port, and the budget day starts; both are journalled as actions (log 77). -/
def Eff.meterStart (e : Eff s0) : Eff s0 :=
  let gone := allCells.filter fun n => (e.mport n).started && !e.portExists n
  let e := e.each gone fun e n => (e.closePort n 5).modPort n fun m => { m with started := false }
  let due := e.crossed (e.cv oMeterInterval * 60) 0
  let e := e.when due fun e =>
    let e := (e.jitem 7 0 (actionPayload oMeterClose [0xFF#8, 0#8])).closeAll 0
    let c := e.meter.count + 1
    if e.cv oMeterStoreN ≤ c then (e.modMeter fun m => { m with count := 0 }).storeSoon 0x21
    else e.modMeter fun m => { m with count := c }
  let e := e.each (e.portList.filter fun n => !(e.mport n).started) fun e n => e.openInterval n false
  let e := e.when (e.crossed 86400 (e.cv oBudgetDayStart * 60)) fun e =>
    (e.jitem 7 0 (actionPayload oBudgetDayStart [])).each allCells fun e n =>
      e.modPort n fun m => { m with dayImp := m.imp, dayExp := m.exp, exhausted := false }
  let ptp := e.ptpLocked
  let disc := bitOf e.trouble 1
  e.each e.portList fun e n => e.modPort n fun m => { m with ptp := m.ptp && ptp, disc := m.disc || disc }

/-- A DISP set has become active (R307): ports whose contract or calibration changed close, and a new lessor or pack starts the
throughput and the state of charge anew. -/
def Eff.dispActivated (e : Eff s0) (old : List (Nat × Nat × Nat)) : Eff s0 :=
  e.each allCells fun e n =>
    let m := e.mport n
    let was : Nat × Nat := match old.find? (·.1 == n) with
      | some o => o.2
      | none => (0, 0)
    let changed := m.conCrc != e.conCrc n || m.calCrc != e.calCrc n
    let anew := was != (e.cv oLessorId n, e.cv oContractPack n)
    let e := e.when (m.started && changed) (·.closePort n 2)
    e.when anew (·.modPort n fun m => { m with
      dayImp := m.imp, dayExp := m.exp, soc := 0x80_0000_0000, anchored := false })

/-- Lessor and pack of the ports' contracts, as they stand before an activation. -/
def Eff.contracts (e : Eff s0) : List (Nat × Nat × Nat) := allCells.map fun n => (n, e.cv oLessorId n, e.cv oContractPack n)

/-! ### Actions -/

/-- SOC_SET (R309). -/
def actSocSet (e : Eff s0) (c : Ctx) (args : List Byte) : ActRes s0 :=
  if args.length ≠ 3 then (e, some (ansErr stType))
  else if 192 ≤ octet args 0 ∨ 10000 < fieldLe args 1 2 then (e, some ansRange)
  else if !e.contracted (octet args 0) then (e, some (ansResultFrame 1 0))
  else e.pairAct c oSocSet args

/-- What SOC_SET does at its frame start. -/
def Eff.applySoc (e : Eff s0) (args : List Byte) : Eff s0 :=
  e.modPort (octet args 0) fun m => { m with soc := rdiv (fieldLe args 1 2 * 2 ^ 40) 10000, anchored := true }

/-- DISP_EMERG (R320): it acts at the first dispatch cycle after its acknowledgement. -/
def actDispEmerg (e : Eff s0) (c : Ctx) (args : List Byte) : ActRes s0 :=
  if args.length ≠ 1 then (e, some (ansErr stType))
  else if 1 < octet args 0 then (e, some ansRange)
  else e.pairAct c oDispEmerg args false

/-- METER_CLOSE (R327): closes a port, or all, at the next frame start; the standby closes the same intervals. -/
def actMeterClose (e : Eff s0) (_c : Ctx) (args : List Byte) : ActRes s0 :=
  if args.length ≠ 1 then (e, some (ansErr stType))
  else if 192 ≤ octet args 0 ∧ octet args 0 ≠ 255 then (e, some ansRange)
  else
    let k := e.frame.k + 1
    let e := e.when e.isActive (·.sendAction k oMeterClose args)
    (e.modPair fun p => { p with timed := p.timed ++ [(k, oMeterClose, args)] }, some ansOk)

/-- METER_READ (R332). -/
def actMeterRead (e : Eff s0) (_c : Ctx) (args : List Byte) : ActRes s0 :=
  if args.length ≠ 5 then (e, some (ansErr stType))
  else if 192 ≤ octet args 0 then (e, some ansRange)
  else
    match (e.mport (octet args 0)).recs.find? (·.1 == fieldLe args 1 4) with
    | some r => (e, some (ansOk r.2.1))
    | none => (e, some (ansErr stNoObject))

/-- METER_ACK (R332): acknowledges every record of a port up to a sequence number. -/
def actMeterAck (e : Eff s0) (c : Ctx) (args : List Byte) : ActRes s0 :=
  if args.length ≠ 5 then (e, some (ansErr stType))
  else if 192 ≤ octet args 0 then (e, some ansRange)
  else e.pairAct c oMeterAck args false

/-- What METER_ACK does at its frame start. -/
def Eff.applyMeterAck (e : Eff s0) (args : List Byte) : Eff s0 :=
  e.modPort (octet args 0) fun m => { m with
    recs := m.recs.map fun r => if r.1 ≤ fieldLe args 1 4 then (r.1, r.2.1, true) else r }

/-- SOC_SET as a request: ENGINEER, ACTIVE. -/
def execSocSet (q : Req) (args : List Byte) (s : State) : Host.Outcome State Fault Refusal :=
  .next ((Eff.start s).invoke q oSocSet args 2 true actSocSet).st

/-- DISP_EMERG as a request: OPERATOR, ACTIVE. -/
def execDispEmerg (q : Req) (args : List Byte) (s : State) : Host.Outcome State Fault Refusal :=
  .next ((Eff.start s).invoke q oDispEmerg args 1 true actDispEmerg).st

/-- METER_CLOSE as a request: OPERATOR. -/
def execMeterClose (q : Req) (args : List Byte) (s : State) : Host.Outcome State Fault Refusal :=
  .next ((Eff.start s).invoke q oMeterClose args 1 false actMeterClose).st

/-- METER_READ as a request: OPERATOR. -/
def execMeterRead (q : Req) (args : List Byte) (s : State) : Host.Outcome State Fault Refusal :=
  .next ((Eff.start s).invoke q oMeterRead args 1 false actMeterRead).st

/-- METER_ACK as a request: OPERATOR, ACTIVE. -/
def execMeterAck (q : Req) (args : List Byte) (s : State) : Host.Outcome State Fault Refusal :=
  .next ((Eff.start s).invoke q oMeterAck args 1 true actMeterAck).st

end Sys2Proof.Machine
end

