-- ==== Sys2Proof/Machine/Dispatcher.lean ====
section
/-! DEFINITION. The dispatcher (R301 to R320): summaries, gates, weights, limits and the allocation. -/

namespace Sys2Proof.Machine

variable {s0 : Root}

/-- The greatest or least VALUE of the points of a range without INVALID, with the quality a value from them carries. -/
def Eff.extreme (e : Eff s0) (first n : Nat) (most : Bool) : Option (Int × Nat) :=
  (List.range n).foldl (init := none) fun a i =>
    let p := first + i
    if bitOf (e.pq p) 2 then a
    else
      let v := e.pv p
      let q := if degrades (e.pq p) then qDegraded else 0
      match a with
      | none => some (v, q)
      | some (w, r) => some (if most then max v w else min v w, if r = 0 then q else r)

/-- A summary point: INVALID with its value held where it has no valid member (R310). -/
def Eff.putSummary (e : Eff s0) (n : Nat) (x : Option (Int × Nat)) : Eff s0 :=
  match x with
  | some (v, q) => e.putPt n v 0 q
  | none => e.putPt n (e.pv n) 0 qInvalid

/-- The four summaries of port n (R310). -/
def Eff.summaries (e : Eff s0) (n : Nat) : Eff s0 :=
  let t := 0x030000 + 64 * n
  let v := 0x040000 + 256 * n
  let b := portPt n
  let e := (e.putSummary (b + 8) (e.extreme t 64 true)).putSummary (b + 9) (e.extreme t 64 false)
  (e.putSummary (b + 10) (e.extreme v 256 true)).putSummary (b + 11) (e.extreme v 256 false)

/-- Emergency support starts and ends with a dispatch cycle (R302, R320); it applies to the ports that stand in the list until the next
one. -/
def Eff.emergStart (e : Eff s0) : Eff s0 :=
  if e.frame.k % e.nd != 0 then e
  else
    let e := match e.meter.emergNext with
      | some b => e.modMeter fun m => { m with emerg := b, emergNext := none }
      | none => e
    e.modMeter fun m => { m with emergPorts := e.portList.filter fun n => e.meter.emerg && e.cv oEmergOk n == 1 }

/-- The data of port n are usable (R311). -/
def Eff.portData (e : Eff s0) (n : Nat) : Bool :=
  let b := portPt n
  ([8, 9, 10, 11].all fun i => !bitOf (e.pq (b + i)) 2) &&
    (match smGet none e.meter.battSeen n with
     | some k => decide ((e.frame.k - k) * e.tf ≤ 100000000)
     | none => false)

/-- Whether emergency support applies to port n (R320). -/
def Eff.emergPort (e : Eff s0) (n : Nat) : Bool := e.meter.emerg && e.cv oEmergOk n == 1

/-- S_lo of port n in 0.01 % (R312). -/
def Eff.socLow (e : Eff s0) (n : Nat) : Nat := if e.emergPort n then e.cv oEmergSocMin n else e.cv oSocMin n

/-- DISP_STATE of port n for a direction of the request (R314). -/
def Eff.dispState (e : Eff s0) (n : Nat) (discharge : Bool) : Nat :=
  let st := (e.cell n).state
  let b := portPt n
  let soc := (e.mport n).soc * 10000
  let temp := decide (signed 16 (e.cv oTMax n) * 10 * 2 ^ 31 < e.pv (b + 8) * 32768 ∨
    e.pv (b + 9) * 32768 < signed 16 (e.cv oTMin n) * 10 * 2 ^ 31)
  ofBool (!(st == .idle || st == .active) || e.cv oPackVnom n == 0) +
  2 * ofBool (!(e.cell n).packAvail) +
  4 * ofBool (!e.contracted n || (e.cell n).packId != e.cv oContractPack n) +
  8 * ofBool (discharge && decide (soc ≤ e.socLow n * 2 ^ 40)) +
  16 * ofBool (!discharge && decide ((e.cv oSocMax n : Int) * 2 ^ 40 ≤ soc)) +
  32 * ofBool temp +
  64 * ofBool (e.cv oBudgetWh n != 0 && decide (e.remain n ≤ 0) && !e.emergPort n) +
  128 * ofBool (!e.portData n) +
  256 * ofBool (!e.running) +
  512 * ofBool (e.emergPort n)

/-- A factor of R312 as a Q1.31 fraction in [0, 1]. -/
def factor (a b : Int) : Int := if b ≤ 0 then (if 0 ≤ a then 2147483647 else 0) else clampTo 0 2147483647 (rdiv (a * 2 ^ 31) b)

/-- The weight of port n (R312). -/
def Eff.weight (e : Eff s0) (n : Nat) (discharge : Bool) : Int :=
  let m := e.mport n
  let lo : Int := e.socLow n
  let hi : Int := e.cv oSocMax n
  let num := if discharge then m.soc * 10000 - lo * 2 ^ 40 else hi * 2 ^ 40 - m.soc * 10000
  let b := portPt n
  let fs := factor num ((hi - lo) * 2 ^ 40)
  let fh := if bitOf (e.pq (b + 12)) 2 then 2147483647 else clampTo 0 2147483647 (e.pv (b + 12))
  let mg : Int := e.cv oTempMargin * 10 * 2 ^ 31
  let f1 := factor (signed 16 (e.cv oTMax n) * 10 * 2 ^ 31 - e.pv (b + 8) * 32768) mg
  let f2 := factor (e.pv (b + 9) * 32768 - signed 16 (e.cv oTMin n) * 10 * 2 ^ 31) mg
  let fb := if e.cv oBudgetWh n = 0 || e.emergPort n then 2147483647
    else factor (e.remain n * 2 ^ 31) (e.cq oBudgetKnee * e.cv oBudgetWh n * 1000)
  let w := narrow 31 (narrow 31 (narrow 31 (fs * fh) * min f1 f2) * fb)
  max w 67108864

/-- The limit h of port n, a raw integer of 1,000 kW (R313). -/
def Eff.portLimit (e : Eff s0) (n : Nat) : Int :=
  let i := min (unit40 (e.cv oPortIrated n)) (rdiv (unit40 (e.cv oCRate n * e.cv oCapAh n)) 1000)
  let v := mulq (mulq i (e.ptq (cellPt n + 8) 1000)) (e.ptq 0x3020 1)
  rdiv (v * 2 ^ 31) (1000000 * 2 ^ 40)

/-- What one port receives at a water level (R315). -/
def share (lam : Int) (wh : Int × Int) : Int := min (narrow 31 (wh.1 * lam)) wh.2

/-- The bisection of R315: `fuel` halvings between lo and hi. -/
def waterLevel (d : Int) (l : List (Int × Int)) : Nat → Int → Int → Int
  | 0, lo, _ => lo
  | fuel + 1, lo, hi =>
    let mid := (lo + hi) / 2
    if l.foldl (fun a p => a + share mid p) 0 ≤ d then waterLevel d l fuel mid hi else waterLevel d l fuel lo mid

/-- One port in a dispatch cycle: DISP_STATE, w and h (0 where gated), with the qualities of what each was formed from. -/
structure DispRow where
  port : Nat
  state : Nat
  w : Int
  h : Int
  qState : Nat
  qW : Nat
  qH : Nat
  qA : Nat

/-- The row of port n for a direction of the request, whose quality is `qr` (R303, R312 to R314). DEGRADED follows what was consumed
(R49): a gate that no point decides leaves nothing consumed (log 78). -/
def Eff.dispRow (e : Eff s0) (dis : Bool) (qr n : Nat) : DispRow :=
  let st := e.dispState n dis
  let b := portPt n
  let own := qr ||| e.bad [b + 4, b + 8, b + 9]
  if st % 512 = 0 then
    let qw := own ||| (if bitOf (e.pq (b + 12)) 2 then 0 else e.bad [b + 12])
    let qh := e.bad [cellPt n + 8, 0x3020]
    ⟨n, st, e.weight n dis, e.portLimit n, own, qw, qh, qw ||| qh⟩
  else
    let q := if [0, 1, 2, 8].any (bitOf st) then 0 else own
    ⟨n, st, 0, 0, own, q, q, q⟩

/-- The dispatch cycle (R301, R302 steps 4 to 6, R315 to R319) from the deadline snapshot `snap` (R56), over all ports. -/
def Eff.dispatch (e snap : Eff s0) : Eff s0 :=
  let tD := e.toffD
  let src := snap.cv oDispReqPt
  let req := if src = 0x8000_0000 then snap.cq oDispReq else snap.pv src
  let qr := if src = 0x8000_0000 then 0 else snap.bad [src]
  let dis := decide (0 ≤ req)
  let sr : Int := snap.cv oSRated
  let d := rdiv (iabs req * sr) 1000
  let rows := allCells.map fun n => snap.dispRow dis qr n
  let free := rows.filter fun r => r.state % 512 == 0
  let wh := free.map fun r => (r.w, r.h)
  let sumH := wh.foldl (fun a p => a + p.2) 0
  let all := decide (sumH ≤ d)
  let lam := if all then 2 ^ 35 else waterLevel d wh 24 0 (2 ^ 35)
  let alloc (p : Int × Int) : Int := if all then p.2 else share lam p
  let qAll := free.foldl (fun a r => a ||| r.qA) qr
  let sat (x : Int) : Nat := if offQ31 x then qSat else 0
  let e := e.each rows fun e r =>
    let b := portPt r.port
    let gated := r.state % 512 != 0
    let p := if gated then 0 else alloc (r.w, r.h)
    let p := if dis then p else -p
    let e := e.putPt b (satQ31 p) tD ((if gated then r.qA else qAll) + sat p)
    let e := e.putPt (b + 1) r.w tD r.qW
    let e := e.putPt (b + 2) (satQ31 r.h) tD (r.qH + sat r.h)
    let e := e.putPt (b + 3) r.state tD r.qState
    let spent := snap.cv oBudgetWh r.port != 0 && decide (snap.remain r.port ≤ 0) && !(snap.mport r.port).exhausted
    e.when spent fun e => (e.modPort r.port fun m => { m with exhausted := true }).fault 0x013 kBudgetExhausted r.port
  let sum := wh.foldl (fun a p => a + alloc p) 0
  let frac (x : Int) (e : Eff s0) (n : Nat) : Eff s0 :=
    let r := rdiv (x * 1000) sr
    e.putPt n (satQ31 r) tD (qAll + sat r)
  let short := decide (sumH < d)
  let e := e.putPt 0x3040 (rdiv (lam * 1000000) (2 ^ 31)) tD qAll
  let e := frac (if short then d - sumH else 0) e 0x3041
  let e := frac (if dis then sum else -sum) e 0x3042
  let e := e.putPt 0x3043 req tD qr
  e.when short (·.fault 0x013 kDispShort)

/-- The dispatcher's part of a frame: a dispatch frame is one whose number is a multiple of N_D (R301). -/
def Eff.dispatchFrame (e snap : Eff s0) : Eff s0 := e.when (e.frame.k % e.nd == 0) (·.dispatch snap)

/-- Whether the port of a cell has a non-zero allocation (R219). -/
def Eff.allocated (e : Eff s0) (n : Nat) : Bool := e.pv (portPt n) != 0

end Sys2Proof.Machine
end

