-- ==== Sys2Proof/Machine/Assay.lean ====
section
/-! DEFINITION. The assay engine (R336 to R358): bins and windows, the excitation, correlation, and the results of a window. -/

namespace Sys2Proof.Machine

variable {s0 : Root}

/-- The assay of port n. -/
@[simp] abbrev Eff.asp (e : Eff s0) (n : Nat) : AssayPort := smGet AssayPort.reset e.st.assay.ports n

/-- Changes the assay of port n. -/
def Eff.modAsp (e : Eff s0) (n : Nat) (f : AssayPort → AssayPort) : Eff s0 :=
  e.modAssay fun a => { a with ports := smMod AssayPort.reset a.ports n f }

/-- The accumulators of battery cell m of port n. -/
@[simp] abbrev Eff.bat (e : Eff s0) (n m : Nat) : BatCell := smGet BatCell.reset e.st.assay.cells (256 * n + m)

/-! ### Bins and windows (R336 to R341) -/

/-- Port n is assayed (R336). -/
def Eff.assayed (e : Eff s0) (n : Nat) : Bool :=
  e.installed n && e.cv oPackVnom n != 0 && e.cv oStreamRateAssay n != 0

/-- F_b, in turns per ns × 2⁴⁸ (R337). -/
def Eff.binCode (e : Eff s0) (b : Nat) : Int := rdiv (e.cv oAssayFreq b * 2 ^ 48) 1000000000000

/-- θ_b at an instant in ns from the start of frame 0 (R337). -/
def Eff.theta (e : Eff s0) (b : Nat) (t : Int) : Int := e.binCode b * t % 2 ^ 48 / 65536

/-- W, the frames of a window (R339). -/
def Eff.assayW (e : Eff s0) : Nat := (e.cv oAssayWindow * 1000000000 + e.tf - 1) / e.tf

/-- The place of frame F in the window layout of port n: 0 at the frame starts where its windows end (R339). -/
def Eff.windowPos (e : Eff s0) (n F : Nat) : Nat := (F + n * (e.assayW / 192)) % e.assayW

/-- Whether bin b is excited on port n (R341). -/
def Eff.excited (e : Eff s0) (n b : Nat) : Bool :=
  e.cv oAssayFreq b != 0 && e.cv oBinWeight b != 0 && decide (e.cv oAssayFreq b * 4 ≤ e.cv oStreamRateAssay n * 1000)

/-- K_n. -/
def Eff.bins (e : Eff s0) (n : Nat) : List Nat := (List.range 8).filter fun b => e.excited n b

/-- EXC_LEVEL with 40 fraction bits. -/
def Eff.excLevel (e : Eff s0) : Int := e.cq oExcLevel * 512

/-- PORT_IRATED in A with 40 fraction bits. -/
def Eff.irated (e : Eff s0) (n : Nat) : Int := unit40 (e.cv oPortIrated n)

/-- I_b,n in A (R341). -/
def Eff.excAmp (e : Eff s0) (n b : Nat) : Int :=
  let q := (e.bins n).foldl (fun a c => a + (e.cv oBinWeight c : Int) ^ 2) 0
  divq (mulq (mulq (mulq (e.irated n) e.excLevel) sqrt2) (unit40 (e.cv oBinWeight b))) (sqrtq (unit40 q))

/-- PH_b,n (R341). -/
def excPhase (n b : Nat) : Int := (-(rdiv (2 ^ 31 * b * (b + 1)) 8) + (n : Int) * (b + 1) * 0x9E3779B9) % 2 ^ 32

/-- The first instant after which a sample is no longer counted as lying in a frame that is kept in `excl`: 40 ms of frames. -/
def Eff.exclKeep (e : Eff s0) : Nat := 40000000 / e.tf + 2

/-- Clears the accumulators of port n. -/
def Eff.clearAccums (e : Eff s0) (n : Nat) : Eff s0 :=
  (e.modAssay fun a => { a with cells := a.cells.filter fun p => p.1 / 256 != n }).modAsp n fun p => { p with
    pi := [], si := 0, i0 := none, clipped := 0, tsum := 0, tn := 0, tBad := false }

/-- A window of port n starts at frame F (R339, R340, R342): G is 0 until the next dispatch frame. -/
def Eff.startWindow (e : Eff s0) (n F : Nat) : Eff s0 :=
  let pos := e.windowPos n F
  (e.clearAccums n).modAsp n fun p => { p with
    on := true, since := F, full := pos == 0, start := (F : Int) - pos, g := 0, gBad := false }

/-- A restart discards the running window of port n (R340). -/
def Eff.restartWindow (e : Eff s0) (n : Nat) (trim : Bool) : Eff s0 :=
  let e := e.when trim fun e => e.modAsp n fun p => { p with trim := 0x100_0000_0000 }
  e.when (e.assayed n) (·.startWindow n e.frame.k)

/-! ### The excitation (R341 to R344) -/

/-- EXC_B of port n for frame k + 1, or 0 for a port that is not assayed (R336, R343). -/
def Eff.excitePort (e : Eff s0) (n : Nat) : Eff s0 :=
  let b := cellPt n
  if !e.assayed n then
    (e.putPt (b + 36) 0 e.toffD 0).modAsp n fun _ => AssayPort.reset
  else
    let p := e.asp n
    let tf : Int := e.tf
    let t := ((e.frame.k : Int) + 1) * tf + tf / 2
    let i := (e.bins n).foldl (fun a c => a + mulq (e.excAmp n c) (sinq (e.theta c t + excPhase n c))) 0
    let v := rdiv (-(mulq (mulq i p.g) p.trim) * 2 ^ 31) (2 ^ 40)
    e.putPt (b + 36) (satQ31 v) e.toffD ((if offQ31 v then qSat else 0) + (if p.gBad then qDegraded else 0))

/-- G of port n from the deadline snapshot, its shifts as they stood there (R342). -/
def Eff.gainPort (e snap : Eff s0) (n : Nat) : Eff s0 :=
  let b := cellPt n
  let vp := snap.vdc n
  let vs := rdiv (snap.ptq (b + 5) 2000 * snap.cv oTabN 0) 1000
  let vb := rdiv (snap.ptq (b + 6) 1000 * snap.cv oTabN 1) 1000
  let bb := mulq (mulq (snap.tabCond 1) vp) vb
  let cc := mulq (mulq (snap.tabCond 2) vb) vs
  let ds := snap.ptq (b + 34) 1
  let db := snap.ptq (b + 35) 1
  let g := divq (snap.ptq (b + 6) 1000) (mulq cc (tabG (ds - db)) + mulq bb (tabG db))
  let bad := snap.bad [b, b + 5, b + 6, b + 34, b + 35] != 0
  e.modAsp n fun p => { p with g := g, gBad := bad }

/-- Whether the record built for frame k + 1 carries no usable excitation for port n (R344): none was built (log 80), it was clipped or
not added, bridge B was stopped, or the G of its EXC_B was 0. -/
def Eff.noExcite (e : Eff s0) (n : Nat) : Bool :=
  let b := cellPt n
  ptFlags (e.pt (b + 38)) / 16 % 2 == 1 || !e.allocated n || !e.packOk n || (e.recMode n).getD 0 == 0 || (e.asp n).g == 0

/-! ### Correlation (R346 to R348) -/

/-- The Hann weight of an instant in the window that starts at frame A (R346). -/
def Eff.hann (e : Eff s0) (A t : Int) : Int :=
  let tf : Int := e.tf
  (2 ^ 31 - cosU (rdiv ((t - A * tf) * 2 ^ 32) (e.assayW * tf)) + 2 ^ 15) / 65536

/-- A reference narrowed to 16 bits (R346). -/
def ref16 (x : Int) : Int := clampTo (-32767) 32767 ((x + 2 ^ 15) / 65536)

/-- Adds a weighted sample to accumulators (R347). -/
def Eff.accumulate (e : Eff s0) (acc : List Int) (w d t : Int) : List Int :=
  (List.range 8).flatMap fun b =>
    let th := e.theta b t
    [acc.getD (2 * b) 0 + w * d * ref16 (cosU th), acc.getD (2 * b + 1) 0 - w * d * ref16 (sinU th)]

/-- Where a sample of port n at instant t falls: outside the window, in an excluded frame, or in the correlation. -/
def Eff.sampleAt (e : Eff s0) (n : Nat) (t : Int) : Nat :=
  let p := e.asp n
  let tf : Int := e.tf
  if !p.on || decide (t < p.since * tf ∨ (p.start + e.assayW) * tf ≤ t) then 0
  else if p.excl.contains (t / tf).toNat then 1 else 2

/-- A dropped sample (R348). -/
def Eff.lateSample (e : Eff s0) : Eff s0 := e.modAssay fun a => { a with late := (a.late + 1) % 2 ^ 32 }

/-- The sample u of battery cell m of port n (R346, R347). -/
def Eff.voltSample (e : Eff s0) (n m : Nat) (u t : Int) : Eff s0 :=
  match e.sampleAt n t with
  | 0 => e.lateSample
  | 1 => e
  | _ =>
    let x := e.bat n m
    let u0 := x.u0.getD u
    let w := e.hann (e.asp n).start t
    let y : BatCell := ⟨e.accumulate x.pv w (u - u0) t, x.sv + w, some u0⟩
    e.modAssay fun a => { a with cells := smSet BatCell.reset a.cells (256 * n + m) y }

/-- The port current of frame k (R346, R347). -/
def Eff.currentSample (e : Eff s0) (n : Nat) (v t : Int) : Eff s0 :=
  match e.sampleAt n t with
  | 0 => e.lateSample
  | 1 => e
  | _ =>
    let p := e.asp n
    let i := (v + 2 ^ 15) / 65536
    let i0 := p.i0.getD i
    let w := e.hann p.start t
    e.modAsp n fun p => { p with pi := e.accumulate p.pi w (i - i0) t, si := p.si + w, i0 := some i0 }

/-- The groups of a battery segment from its octet 4 on: GKIND, FIRST, TS and the values (R192). -/
def battGroups : Nat → List Byte → List (Nat × Nat × Int × List Nat)
  | 0, _ => []
  | fuel + 1, bs =>
    let c := octet bs 0 / 4
    if bs.length < 4 || c == 0 || bs.length < 4 + 2 * c then []
    else (octet bs 0 % 4, octet bs 1, signed 16 (fieldLe bs 2 2), (List.range c).map fun i => fieldLe bs (4 + 2 * i) 2) ::
      battGroups fuel (bs.drop (4 + 2 * c))

/-- The groups of a whole segment, as held with its SCRC. -/
def segGroups (seg : List Byte) : List (Nat × Nat × Int × List Nat) := battGroups 12 ((seg.drop 4).take (octet seg 0))

/-- The samples of port n in the snapshot of frame k: a battery segment and a measurement record, where present. -/
def Eff.correlate (e : Eff s0) (n : Nat) (batt : Option (List Byte)) (meas : Option MeasRec) : Eff s0 :=
  let t0 : Int := e.frame.k * e.tf
  let e := match batt with
    | none => e
    | some seg => e.each ((segGroups seg).filter (·.1 == 0)) fun e g =>
        let t := t0 + 1000 * (g.2.2.1 - e.cv oBmsDelay n)
        e.each (g.2.2.2.zipIdx) fun e v => e.when (g.2.1 + v.2 < 256) (·.voltSample n (g.2.1 + v.2) v.1 t)
  match meas with
  | none => e
  | some m =>
    if field (fieldLe m.octets 12 8) 36 4 != 0 then e
    else e.currentSample n (signed 32 (fieldLe m.octets 56 4)) (t0 + e.frame.so - e.tf / 2)

/-! ### Results (R345, R350 to R357) -/

/-- SC_b in Q2.30 (R350). -/
def Eff.sincOf (e : Eff s0) (b : Nat) : Int :=
  let ft : Int := e.cv oAssayFreq b * e.tf
  narrow 10 (divq (sinq (rdiv (ft * 2 ^ 32) 2000000000000)) (rdiv (twoPi * ft) 2000000000000))

/-- The weight sum of a window with every current sample, × 10⁹ × 2³¹ (R351). -/
def Eff.fullSi (e : Eff s0) : Int := e.cq oCoverMin * 32768 * e.assayW

/-- Coverage of the current (R351). -/
def Eff.coverI (e : Eff s0) (p : AssayPort) : Bool := decide (e.fullSi ≤ p.si * 2 ^ 31)

/-- The weight sum of a window with every voltage sample, × 10⁹. -/
def Eff.fullSv (e : Eff s0) (n : Nat) : Int := 32768 * e.cv oStreamRateAssay n * e.assayW * e.tf

/-- |I_b| of port n in A with 40 fraction bits, from current accumulators; SI is not 0 (R350). -/
def currentMag (p : AssayPort) (b : Nat) : Int :=
  let re := rdiv (2 * p.pi.getD (2 * b) 0 * 1000 * 2 ^ 10) p.si
  let im := rdiv (2 * p.pi.getD (2 * b + 1) 0 * 1000 * 2 ^ 10) p.si
  sqrtq (mulq re re + mulq im im)

/-- REASON of bin b of a battery cell, 0 where the bin is valid (R351, R355). -/
def Eff.binReason (e : Eff s0) (n : Nat) (p : AssayPort) (x : BatCell) (b : Nat) : Nat :=
  if e.cv oAssayFreq b = 0 then 8
  else if !e.excited n b then 1
  else if decide (x.sv * 1000000000 * 2 ^ 31 < e.cq oCoverMin * e.fullSv n) || !e.coverI p then 2
  else if currentMag p b < mulq (e.cq oIFloor * 512) (e.irated n) then 3
  else 0

/-- Z_b of a battery cell as the VALUEs of its two points before saturation (R350); SV, SI and I_b are not 0. -/
def Eff.binZ (e : Eff s0) (n : Nat) (p : AssayPort) (x : BatCell) (b : Nat) : Int × Int :=
  let ir := p.pi.getD (2 * b) 0
  let ii := p.pi.getD (2 * b + 1) 0
  let vr := x.pv.getD (2 * b) 0
  let vi := x.pv.getD (2 * b + 1) 0
  let k := -(e.cv oAssayPar n : Int) * e.sincOf b * p.si
  let den := 10 * x.sv * (ir * ir + ii * ii)
  (rdiv (k * (vr * ir + vi * ii)) den, rdiv (k * (vi * ir - vr * ii)) den)

/-- The fit of one battery cell (R352): R0, R1, C1 in 0.01 F, RESID, all but C1 with 40 fraction bits. -/
structure Fit where
  r0 : Int
  r1 : Int
  c1 : Int
  resid : Int

/-- The determinant of three rows. -/
def det3 (a b c d e f g h i : Int) : Int := a * (e * i - f * h) - b * (d * i - f * g) + c * (d * h - e * g)

/-- The fit over valid bins (ω, X, Y), or its REASON (R352, R355). -/
def fitCell (l : List (Int × Int × Int)) (residMax : Int) : Sum Nat Fit :=
  if l.length < 3 then .inl 4
  else
    let rows : List (Int × Int × Int × Int) := l.flatMap fun z =>
      [(2 ^ 40, 0, mulq z.1 z.2.2, z.2.1), (0, z.1, -(mulq z.1 z.2.1), z.2.2)]
    let sum (f : Int × Int × Int × Int → Int) : Int := rows.foldl (fun a r => a + f r) 0
    let n11 := sum fun r => r.1 * r.1
    let n12 := sum fun r => r.1 * r.2.1
    let n13 := sum fun r => r.1 * r.2.2.1
    let n22 := sum fun r => r.2.1 * r.2.1
    let n23 := sum fun r => r.2.1 * r.2.2.1
    let n33 := sum fun r => r.2.2.1 * r.2.2.1
    let y1 := sum fun r => r.1 * r.2.2.2
    let y2 := sum fun r => r.2.1 * r.2.2.2
    let y3 := sum fun r => r.2.2.1 * r.2.2.2
    let d := det3 n11 n12 n13 n12 n22 n23 n13 n23 n33
    let a := divq (det3 y1 n12 n13 y2 n22 n23 y3 n23 n33) d
    let b := divq (det3 n11 y1 n13 n12 y2 n23 n13 y3 n33) d
    let tau := divq (det3 n11 n12 y1 n12 n22 y2 n13 n23 y3) d
    if tau ≤ 0 then .inl 5
    else
      let r0 := divq b tau
      let r1 := a - r0
      if r0 ≤ 0 ∨ r1 ≤ 0 then .inl 5
      else
        let err := l.foldl (init := (0 : Int)) fun s z =>
          let wt := mulq z.1 tau
          let q := 2 ^ 40 + mulq wt wt
          let dr := r0 + divq r1 q - z.2.1
          let di := -(divq (mulq r1 wt) q) - z.2.2
          s + mulq dr dr + mulq di di
        let mag := l.foldl (fun s z => s + mulq z.2.1 z.2.1 + mulq z.2.2 z.2.2) (0 : Int)
        let resid := sqrtq (divq err mag)
        if residMax < resid then .inl 6
        else .inr ⟨r0, r1, rdiv (tau * 100000000) r1, resid⟩

/-- A valid write saturated to Q1.31. -/
def AWrite.q31 (pt : Nat) (v : Int) : AWrite := ⟨pt, some (satQ31 v), if offQ31 v then qSat else 0, 0⟩

/-- An INVALID write with its REASON; VALUE is held (R46). -/
def AWrite.bad (pt reason : Nat) : AWrite := ⟨pt, none, qInvalid, reason⟩

/-- The results of battery cell m of port n (R350 to R355), and R0 + R1 where its fit is valid. -/
def Eff.cellResults (e : Eff s0) (n m : Nat) (p : AssayPort) : List AWrite × Option Int :=
  let base := 0x080000 + 32 * (256 * n + m)
  let x := e.bat n m
  let bins := (List.range 8).map fun b =>
    let r := e.binReason n p x b
    (b, r, if r = 0 then e.binZ n p x b else (0, 0))
  let zs := bins.flatMap fun z =>
    if z.2.1 = 0 then [AWrite.q31 (base + 2 * z.1) z.2.2.1, AWrite.q31 (base + 2 * z.1 + 1) z.2.2.2]
    else [AWrite.bad (base + 2 * z.1) z.2.1, AWrite.bad (base + 2 * z.1 + 1) z.2.1]
  let good := (bins.filter (·.2.1 == 0)).map fun z =>
    (rdiv (twoPi * e.cv oAssayFreq z.1) 1000, z.2.2.1 * 2 ^ 25, z.2.2.2 * 2 ^ 25)
  let fit := fitCell good (e.cq oResidMax * 512)
  let word := bins.foldl (fun a z => a + (if z.2.1 = 0 then 2 ^ z.1 else 0)) 0
  let cover : List AWrite :=
    if x.u0.isNone then []
    else [AWrite.q31 (base + 21) (rdiv (x.sv * 1000000000 * 2 ^ 31) (e.fullSv n))]
  match fit with
  | .inl r =>
    (zs ++ [AWrite.bad (base + 16) r, AWrite.bad (base + 17) r, AWrite.bad (base + 18) r, AWrite.bad (base + 19) r,
      ⟨base + 20, some (word + r * 4096 : Nat), 0, 0⟩] ++ cover, none)
  | .inr f =>
    let c1 := if 0xFFFF_FFFF < f.c1 then (⟨base + 18, some 0xFFFF_FFFF, qSat, 0⟩ : AWrite) else ⟨base + 18, some f.c1, 0, 0⟩
    (zs ++ [AWrite.q31 (base + 16) (narrow 25 f.r0), AWrite.q31 (base + 17) (narrow 25 f.r1), c1,
      AWrite.q31 (base + 19) (narrow 9 f.resid), ⟨base + 20, some (word + 256 : Nat), 0, 0⟩] ++ cover, some (f.r0 + f.r1))

/-- HEALTH (R353). -/
def Eff.healthOf (e : Eff s0) (n : Nat) (p : AssayPort) (fits : List Int) (cells : Nat) : AWrite :=
  let pt := portPt n + 12
  let rn := unit40 (e.cv oRNew n)
  if rn = 0 then AWrite.bad pt 9
  else if 2 * fits.length < cells ∨ fits = [] then AWrite.bad pt 4
  else
    let rbar := rdiv (fits.foldl (· + ·) 0) fits.length
    let tm := rdivq (p.tsum * 512 * 32768) (200 * p.tn)
    let den := 2 ^ 40 + rdiv (signed 16 (e.cv oRtc) * (tm - unit40 25)) 100000
    let h := clampTo 0 (2 ^ 40) (divq (2 * rn - divq rbar den) rn)
    let w := AWrite.q31 pt (rdiv (h * 2 ^ 31) (2 ^ 40))
    if p.tBad then { w with qual := w.qual + qDegraded } else w

/-- An accumulator of the close buffer (R349). -/
def accOctets (n : Nat) (x : Int) : List Byte := le n (rawBits (8 * n) x)

/-- The close buffer of port n: voltage accumulators by cell and bin, weight sums, current accumulators and their weight sum. -/
def Eff.closeBuffer (e : Eff s0) (n : Nat) (p : AssayPort) : List Byte :=
  ((List.range 256).flatMap fun m => (List.range 16).flatMap fun i => accOctets 10 ((e.bat n m).pv.getD i 0)) ++
    ((List.range 256).flatMap fun m => accOctets 6 (e.bat n m).sv) ++
    ((List.range 16).flatMap fun i => accOctets 10 (p.pi.getD i 0)) ++ accOctets 6 p.si

/-- The window of port n that ends at frame C closes (R339, R345, R350): its results, of the set in force while it ran, wait for frame
C + L, with the port's points (R356) and ASSAY_STATE (R357). A quotient with divisor 0 is a free value of its dividend (log 52). -/
def Eff.closeWindow (e : Eff s0) (n C : Nat) : Eff s0 :=
  let p := e.asp n
  let ks := e.bins n
  let cells := (List.range 256).filter fun m => (e.bat n m).u0.isSome
  let res := (List.range 256).map fun m => e.cellResults n m p
  let fits := res.filterMap (·.2)
  let rms := if p.si = 0 then Config.quotZero 0
    else divq (sqrtq (ks.foldl (fun a b => a + rdiv (mulq (currentMag p b) (currentMag p b)) 2) 0)) (e.irated n)
  let lv := e.excLevel
  let ratio := clampTo (rdiv (4 * 2 ^ 40) 5) (rdiv (5 * 2 ^ 40) 4) (divq lv rms)
  let trim := min (clampTo (2 ^ 39) (2 ^ 41) (mulq p.trim ratio)) (divq (rdiv (2 ^ 41) 100) lv)
  let new := if e.coverI p then trim else p.trim
  let base := 0x3200 + 4 * n
  let fq := if cells.isEmpty then (Config.quotZero 0).toNat % 256 else fits.length * 255 / cells.length
  let state : Nat := ks.foldl (fun a b => a + 2 ^ b) 0 + 256 + 512 + fq * 65536 + min p.clipped 255 * 2 ^ 24
  let port : List AWrite := [⟨base, some (C % 2 ^ 32 : Nat), 0, 0⟩, AWrite.q31 (base + 1) (rdiv (rms * 2 ^ 31) (2 ^ 40)),
    ⟨base + 2, some (narrow 10 new), 0, 0⟩, ⟨base + 3, some (state : Int), 0, 0⟩]
  let close : AClose :=
    { ends := C, writes := res.flatMap (·.1) ++ [e.healthOf n p fits cells.length] ++ port
      trim := if e.coverI p then some trim else none, buffer := e.closeBuffer n p }
  (e.modAsp n fun q => { q with due := some close }).jitem 9 n (le 8 C ++ close.buffer)

/-- L of R339. -/
def Eff.assayL (e : Eff s0) : Nat := (20000000 + e.tf - 1) / e.tf

/-- Performs one write of a publication. -/
def Eff.awrite (e : Eff s0) (w : AWrite) : Eff s0 := e.putPt w.pt (w.value.getD (e.pv w.pt)) 0 w.qual w.flags

/-- The publications of frame k (R339, R345, R445). -/
def Eff.publish (e : Eff s0) (n : Nat) : Eff s0 :=
  match (e.asp n).due with
  | none => e
  | some c =>
    if c.ends + e.assayL ≤ e.frame.k then
      let e := (e.each c.writes Eff.awrite).modAsp n fun p => { p with due := none, trim := c.trim.getD p.trim }
      (e.modAssay fun a => { a with published := (a.published + 1) % 2 ^ 32 }).event 17
    else e

/-! ### The engine's part of a frame -/

/-- At a frame start, before its commits act: the windows that end at it close under the set that they ran under (R339, R340). -/
def Eff.assayCloses (e : Eff s0) : Eff s0 :=
  let F := e.frame.k
  e.each (allCells.filter fun n => e.assayed n) fun e n =>
    let p := e.asp n
    e.when (p.on && p.full && p.since != F && e.windowPos n F == 0) (·.closeWindow n F)

/-- At a frame start, after its commits: the windows that begin at it, and the exclusion of this frame (R339, R344). -/
def Eff.assayStart (e : Eff s0) : Eff s0 :=
  let F := e.frame.k
  e.each (allCells.filter fun n => e.assayed n) fun e n =>
    let p := e.asp n
    let e := e.when (!p.on || (p.since != F && e.windowPos n F == 0)) (·.startWindow n F)
    e.modAsp n (fun q => { q with
      excl := if p.exclNext then (F :: q.excl).take e.exclKeep else q.excl
      clipped := q.clipped + ofBool p.exclNext }) |>.modAssay fun a => { a with
        excluded := (a.excluded + ofBool p.exclNext) % 2 ^ 32 }

/-- After the frame lanes: the samples of the snapshot, and the excitation of the coming frame (R336, R343, R346). -/
def Eff.assayFrame (e : Eff s0) (batt : Nat → Option (List Byte)) (meas : Nat → Option MeasRec) : Eff s0 :=
  e.each allCells fun e n =>
    let e := e.excitePort n
    e.when (e.assayed n) (·.correlate n (batt n) (meas n))

/-- After the schedules: which ports are excluded in frame k + 1 (R344). -/
def Eff.assayExclude (e : Eff s0) (unbuilt : Bool) : Eff s0 :=
  e.each (allCells.filter fun n => e.assayed n) fun e n =>
    e.modAsp n fun p => { p with exclNext := unbuilt || e.noExcite n }

/-- The temperature of port n that R353 averages, in a dispatch frame with valid summaries. -/
def Eff.tempPort (e snap : Eff s0) (n : Nat) : Eff s0 :=
  let b := portPt n
  let ok := !bitOf (snap.pq (b + 8)) 2 && !bitOf (snap.pq (b + 9)) 2
  e.when ok (·.modAsp n fun p => { p with
    tsum := p.tsum + snap.pv (b + 8) + snap.pv (b + 9), tn := p.tn + 1, tBad := p.tBad || snap.bad [b + 8, b + 9] != 0 })

/-- The frame's end for the engine: in a dispatch frame G and the temperature from the snapshot `snap` (R342, R353), then the results of
new packs' ports, INVALID with REASON 0x7 (R340), and the publications of frame k. -/
def Eff.assayEnd (e snap : Eff s0) : Eff s0 :=
  let e := e.when (e.frame.k % e.nd == 0) (·.each (allCells.filter fun n => e.assayed n) fun e n =>
    (e.gainPort snap n).tempPort snap n)
  let e := e.each e.assay.wiped fun e n =>
    let pts := (List.range 256).flatMap fun m => (List.range 22).map fun i => 0x080000 + 32 * (256 * n + m) + i
    e.each (pts ++ [portPt n + 12]) fun e pt => e.awrite (AWrite.bad pt 7)
  e.each allCells fun e n => e.publish n

/-- The pack of port n changes (R340): its window restarts, and the results it has, or is to have, become INVALID in this frame. -/
def Eff.assayPack (e : Eff s0) (n : Nat) : Eff s0 :=
  let e := e.when (e.assayed n) (·.restartWindow n true)
  e.when (e.assayed n || e.pt (portPt n + 12) != pointReset) (·.modAssay fun a => { a with wiped := a.wiped ++ [n] })

/-- The objects whose change restarts every port, and those that restart their own (R340). -/
def Eff.assaySet (e : Eff s0) : List Nat × List (Nat × Nat) :=
  ((List.range 8).map (e.cv oAssayFreq) ++ (List.range 8).map (e.cv oBinWeight) ++
    [e.cv oExcLevel, e.cv oAssayWindow, e.cv oMinCycles],
   allCells.map fun n => (n, e.cv oStreamRateAssay n + 2 ^ 16 * e.cv oBmsDelay n + 2 ^ 32 * e.cv oAssayPar n + 2 ^ 40 * e.cv oRNew n))

/-- After the activation of an ASSAY commit: `old` is the set before it (R340). -/
def Eff.assayActivated (e : Eff s0) (old : List Nat × List (Nat × Nat)) : Eff s0 :=
  let new := e.assaySet
  if new.1 != old.1 then e.each allCells fun e n => e.restartWindow n true
  else e.each (allCells.filter fun n => new.2[n]? != old.2[n]?) fun e n => e.restartWindow n false

end Sys2Proof.Machine
end

