-- ==== Sys2Proof/Machine/Banks.lean ====
section
/-! DEFINITION. The point store, line by line over its banks (R520), and its arbitration (R521 to R536). -/

namespace Sys2Proof.Machine

variable {s0 : Root}

/-- Bank b. -/
@[simp] abbrev Eff.bank (e : Eff s0) (b : Nat) : Bank := smGet Bank.reset e.st.banks b

/-- Changes bank b. -/
def Eff.modBank (e : Eff s0) (b : Nat) (f : Bank → Bank) : Eff s0 := e.modBanks (smMod Bank.reset · b f)

/-- A STORE value as bank b has it in force (R527). -/
def Eff.bcv (e : Eff s0) (b obj elem : Nat) : Nat := e.cvSw 13 (e.bank b).switched obj elem

/-- The requesters with a transfer posted on bank b that has not been granted, with the cycle their wait began. -/
def Eff.waiting (e : Eff s0) (b : Nat) : List (Nat × Nat) :=
  (e.bank b).bursts.filterMap fun p => p.2.bind fun x => if x.todo.isEmpty then none else some (p.1, x.since)

/-- The requester that has waited longest; ties go to the lowest ID (R524 row 3, R525). -/
def longest (l : List (Nat × Nat)) : Option Nat :=
  (l.foldl (init := none) fun best p =>
    match best with
    | none => some p
    | some q => if p.2 < q.2 then some p else some q).map (·.1)

/-- The requester of highest RANK, then the one that has waited longest, then the lowest ID (R524 row 4). -/
def Eff.topRank (e : Eff s0) (b : Nat) (l : List (Nat × Nat)) : Option Nat :=
  let top := l.foldl (fun m p => max m (e.bcv b oRank p.1)) 0
  longest (l.filter fun p => e.bcv b oRank p.1 == top)

/-- Which requester bank b grants in this cycle, and whether the cycle is a background one (R524, R525). -/
def Eff.grantee (e : Eff s0) (b : Nat) : Option (Nat × Bool) :=
  let l := e.waiting b
  let w := e.bcv b oSlotTable (128 * b + (e.bank b).slot)
  if bitOf w 4 && l.any (·.1 == w % 16) then some (w % 16, false)
  else if e.bcv b oStarveN b - 1 ≤ (e.bank b).count then (longest l).map (·, true)
  else (e.topRank b l).map (·, true)

/-- The island of a requester (R523); LG0 to LG3 serve the islands of several lanes. -/
def requesterIsland (r : Nat) : Option Nat :=
  if r = 4 ∨ r = 6 then some 0 else if r = 5 then some 1 else if r = 7 then some 4
  else if r = 8 ∨ r = 9 ∨ r = 10 ∨ r = 15 then some 5 else if 11 ≤ r ∧ r ≤ 14 then some 6 else none

/-- Whether requester r can deliver or accept data: not while the clock of its island is stopped (R40, R531). -/
def State.requesterOn (s : State) (r : Nat) : Bool := (requesterIsland r).all s.islandOn

/-- The transfer of requester r itself (R521): a write changes the points of the mask; a read delivers the line. -/
def Eff.transfer (e : Eff s0) (r : Nat) (write : Bool) (x : Xfer) : Eff s0 :=
  e.each (List.range 8) fun e i =>
    if write then
      match x.words[i]? with
      | some w => e.when (bitOf x.mask.toNat i) (·.setPoint (8 * x.line + i) w)
      | none => e
    else e.consume r (8 * x.line + i)

/-- The grant of one transfer of a requester's burst: its progress rises and its wait starts anew (R524, R526). -/
def Eff.grant (e : Eff s0) (b r : Nat) (background completes : Bool) : Eff s0 :=
  match smGet none (e.bank b).bursts r with
  | none => e
  | some u =>
    match u.todo with
    | [] => e
    | x :: rest =>
      let due := e.bcv b oStarveN b - 1 ≤ (e.bank b).count
      let completes := completes && e.st.requesterOn r
      let e := e.modBank b fun k => { k with
        bursts := smSet none k.bursts r (if rest.isEmpty then none else
          some { u with todo := rest, progress := u.progress + 1, since := k.cycle })
        grants := smMod 0 k.grants r (fun n => (n + 1) % 2 ^ 32)
        count := if background then (if due then 0 else k.count + 1) else k.count
        reserve := if background && due then (k.reserve + 1) % 2 ^ 32 else k.reserve
        held := if completes then none else some (r, u.write, x), heldFor := 0 }
      e.when completes (·.transfer r u.write x)

/-- The slot counter moves on; at its wrap a bank that is not held takes a committed STORE set over, and the set is active
once every bank has (R527, R528). -/
def Eff.nextSlot (e : Eff s0) (b : Nat) : Eff s0 :=
  let e := e.modBank b fun k => { k with slot := (k.slot + 1) % 128, cycle := k.cycle + 1 }
  if (e.bank b).slot = 0 && (e.bank b).held.isNone && e.committing 13 && !(e.bank b).switched then
    let e := e.modBank b fun k => { k with switched := true, copy := 1 - k.copy }
    e.when ((List.range 8).all fun i => (e.bank i).switched) fun e =>
      (e.activate 13).each (List.range 8) fun e i => e.modBank i fun k => { k with switched := false }
  else e

/-- TRANSFER_POST (R526): a requester posts a burst of 1 to 16 lines to the bank that holds them. It has at most one burst
per bank, to the end of its last transfer; another, or one of another form, is not posted. -/
def execTransferPost (requester : Fin 16) (bank : Fin 8) (write : Bool) (lines : List (Nat × Byte × List PointWord))
    (s : State) : Host.Outcome State Fault Refusal :=
  let e := Eff.start s
  let b := bank.val
  let good := !lines.isEmpty && lines.length ≤ 16 && lines.all fun l =>
    l.1 < 262144 && l.1 % 8 == b && (!write || l.2.2.length == 8)
  let busy := (smGet none (e.bank b).bursts requester.val).isSome || (e.bank b).held.any (·.1 == requester.val)
  .next (e.when (good && !busy) (·.modBank b fun k => { k with
    bursts := smSet none k.bursts requester.val
      (some ⟨write, lines.map fun l => ⟨l.1, l.2.1, l.2.2⟩, 0, k.cycle⟩) })).st

/-- STORE_CYCLE (R524, R527, R530): one STORE cycle of a bank. A transfer granted earlier that is still held keeps the bank;
otherwise a requester is granted. `completes` says whether the requester delivers or accepts the data in this cycle; in a stopped island
it cannot (R531). The STORE island has no cycle while its own clock is stopped. -/
def execStoreCycle (bank : Fin 8) (completes : Bool) (s : State) : Host.Outcome State Fault Refusal :=
  let e := Eff.start s
  let b := bank.val
  if !e.st.islandOn 3 then .next e.st else
  let e := match (e.bank b).held with
    | some (r, wr, x) =>
      if completes && e.st.requesterOn r then (e.modBank b fun k => { k with held := none, heldFor := 0 }).transfer r wr x
      else e.modBank b fun k => { k with heldFor := k.heldFor + 1 }
    | none =>
      match e.grantee b with
      | some (r, bg) => e.grant b r bg completes
      | none => e
  .next (e.nextSlot b).st

/-- BANK_WATCHDOG (R530): a transfer held for 4,096 cycles is aborted with the rest of its burst. -/
def execBankWatchdog (bank : Fin 8) (s : State) : Host.Outcome State Fault Refusal :=
  let e := Eff.start s
  let b := bank.val
  match (e.bank b).held with
  | none => .next e.st
  | some (r, wr, x) =>
    if (e.bank b).heldFor < 4096 then .next e.st
    else
      let e := e.modBank b fun k => { k with
        held := none, heldFor := 0, bursts := smSet none k.bursts r none, wdog := min (k.wdog + 1) 65535 }
      .next (e.report { source := 1 + b, kind := kBankWatchdog, addr := x.line * 64
                        access := some (r, if wr then 1 else 0) }).st

/-- The slots of bank b that requester r owns in the table in force (R532). -/
def Eff.ownedSlots (e : Eff s0) (b r : Nat) : List Nat :=
  (List.range 128).filter fun i => e.bcv b oSlotTable (128 * b + i) == 16 + r

/-- MAX_GAP of requester r in bank b (R532): the longest run of cycles between two of its slots, around the wrap, plus 1. -/
def Eff.maxGap (e : Eff s0) (b r : Nat) : Nat :=
  let l := e.ownedSlots b r
  match l with
  | [] => 0
  | h :: t => ((t ++ [h + 128]).zip l).foldl (fun m p => max m (p.1 - p.2)) 0

/-- BANK_STATUS (R536). -/
def Eff.bankStatus (e : Eff s0) (b : Nat) : Nat :=
  let k := e.bank b
  let held := k.held.isSome && 64 < k.heldFor
  k.copy + 2 * ofBool (e.committing 13 && !k.switched) + 4 * ofBool held +
    (if held then (match k.held with | some h => 8 * h.1 | none => 0) else 0) + 256 * (k.count % 128)

end Sys2Proof.Machine
end

