-- ==== Sys2Proof/Machine/Cells.lean ====
section
/-! DEFINITION. The cell state machine (R17 to R24, R132 to R140): its requests and the transitions of a deadline. -/

namespace Sys2Proof.Machine

variable {s0 : Root}

/-! ### Counts (R17 to R20) -/

/-- The least n with n² × a at least b, for a above 0. -/
def ceilRoot (a b : Nat) : Nat :=
  let n := Nat.sqrt (b / a)
  if b ≤ n * n * a then n else if b ≤ (n + 1) * (n + 1) * a then n + 1 else n + 2

/-- NMIN of a used phase (R17): ⌈1.15 × √2 × VLL_NOM / (√3 × VDC_NOM)⌉, without √3 for SINGLE; 0 for an unused phase. -/
def nminOf (single : Bool) (vll vdc : Nat) : Nat := ceilRoot ((if single then 1000 else 3000) * (vdc * vdc)) (2645 * (vll * vll))

/-- NMIN of phase p for the committed set. -/
def Eff.nmin (e : Eff s0) (p : Nat) : Nat :=
  if e.usedPhases.contains p then nminOf (e.cv oConnection == 1) (e.cv oVllNom) (e.cv oVdcNom) else 0

/-- The cells of phase p that count as ACTIVE once the transitions decided so far take effect: those whose records since the order to
become ACTIVE report the bypass switch open (R138, R277). -/
def Eff.activeCount (e : Eff s0) (p : Nat) : Nat := (e.countedSet p).length

/-- The cells of phase p that counted at the last deadline and are still ACTIVE. -/
def Eff.activeBefore (e : Eff s0) (p : Nat) : Nat :=
  (e.casc.counted.filter fun c => e.phase c == p && (e.cell c).state == .active).length

/-- Whether VDC of cell c lies within ±2 % of VDC_NOM. -/
def Eff.linkInTol (e : Eff s0) (c : Nat) : Bool := decide (50 * iabs (e.vdc c - e.vdcNom) ≤ e.vdcNom)

/-! ### Requests (R134, R140) -/

/-- REQ: queued for the deadline of the running frame (R135); the checks of R607 come before. -/
def actCellReq (e : Eff s0) (c : Ctx) (args : List Byte) : ActRes s0 :=
  if args.length ≠ 2 then (e, some (ansErr stType))
  else
    let n := octet args 0
    let code := octet args 1
    if 192 ≤ n ∨ code = 0 ∨ 5 < code then (e, some ansRange)
    else (e.modChain fun h => { h with reqs := h.reqs ++ [⟨c.ret, n, code⟩] }, none)

/-- The right that a request needs (R140): ENGINEER for RETIRE and for REJOIN from RETIRED. -/
def Eff.cellRight (e : Eff s0) (args : List Byte) : Nat :=
  let code := octet args 1
  if code = 5 ∨ (code = 4 ∧ (e.cell (octet args 0)).state == .retired) then 2 else 1

/-- A CELL_REQ request. -/
def Eff.cellReq (e : Eff s0) (q : Req) (cell : Byte) (code : Nat) : Eff s0 :=
  let args := [cell, BitVec.ofNat 8 code]
  e.invoke q oCellReq args (e.cellRight args) true actCellReq

/-- REQ_IDLE (R21, R140). -/
def execReqIdle (q : Req) (cell : Byte) (s : State) : Host.Outcome State Fault Refusal := .next ((Eff.start s).cellReq q cell 1).st

/-- REQ_ACTIVE (R138, R140). -/
def execReqActive (q : Req) (cell : Byte) (s : State) : Host.Outcome State Fault Refusal := .next ((Eff.start s).cellReq q cell 2).st

/-- REQ_BYPASS (R134, R140). -/
def execReqBypass (q : Req) (cell : Byte) (s : State) : Host.Outcome State Fault Refusal := .next ((Eff.start s).cellReq q cell 3).st

/-- REQ_REJOIN (R140). -/
def execReqRejoin (q : Req) (cell : Byte) (s : State) : Host.Outcome State Fault Refusal := .next ((Eff.start s).cellReq q cell 4).st

/-- REQ_RETIRE (R134, R140). -/
def execReqRetire (q : Req) (cell : Byte) (s : State) : Host.Outcome State Fault Refusal := .next ((Eff.start s).cellReq q cell 5).st

/-- The RESULT of a request (R21, R133, R134, R138, R140), against the counts that the departures and the earlier requests of the
frame leave: 0 accepted, 1 WRONG_STATE, 2 REDUNDANCY, 3 NOT_INSTALLED, 4 NOT_RUNNING. A request for a cell that a fault removes in this
frame (`gone`) is answered WRONG_STATE (R135). An ABSENT cell with a terminal identity can be rejoined (R136, R140; log 105). -/
def Eff.reqResult (e : Eff s0) (gone : List Nat) (c code : Nat) : Nat :=
  let st := e.cellNext c
  let thin := decide (e.activeCount (e.phase c) < e.nmin (e.phase c) + 2)
  let up := e.dev.state == .sync || e.dev.state == .run || e.dev.state == .derated
  if !e.installed c then 3
  else if gone.contains c then 1
  else if code = 1 then (if st != .active then 1 else if thin then 2 else 0)
  else if code = 2 then (if !up then 4 else if st != .idle then 1 else 0)
  else if code = 3 then (if st == .idle then 0 else if st != .active then 1 else if thin then 2 else 0)
  else if code = 4 then (if (st == .bypassed || st == .retired || st == .absent) && (e.cell c).termId != 0 then 0 else 1)
  else (if st == .absent then 1 else if st == .active && thin then 2 else 0)

/-- The effect of an accepted request, at the next frame boundary. -/
def Eff.applyReq (e : Eff s0) (c code : Nat) : Eff s0 :=
  if code = 1 then e.moveCell c .idle 1
  else if code = 2 then e.modCell c fun x => { x with want := true, cause := 1 }
  else if code = 3 then e.moveCell c .bypassed 1
  else if code = 4 then (e.assign c).moveCell c .joining 1
  else e.moveCell c .retired 1

/-- The requests of the frame in order (R135): each is answered, and an accepted one is passed to the standby (R457). -/
def Eff.cellRequests (e : Eff s0) (gone : List Nat) : Eff s0 :=
  let l := e.chain.reqs
  let e := e.modChain fun h => { h with reqs := [] }
  e.each l fun e r =>
    let res := e.reqResult gone r.cell r.code
    let e := e.when (res == 0) fun e =>
      let args := le 1 r.cell ++ le 1 r.code
      ((e.applyReq r.cell r.code).jitem 7 0 (actionPayload oCellReq args)).sendAction (e.frame.k + 1) oCellReq args
    e.finish r.req (ansResultFrame res (e.frame.k + 1))

/-! ### The deadline (R133, R135, R137, R138) -/

/-- The cells that the departures of the frame remove (R135). -/
def Eff.departing (e : Eff s0) : List Nat :=
  (e.chain.departs.map (·.1)).filter fun c =>
    let st := e.cellNext c
    st == .joining || st == .idle || st == .active

/-- The departures of the frame, all together (R20, R135). One that a reaction orders is journalled as an action of the boundary
(R434, log 35). -/
def Eff.cellDepartures (e : Eff s0) : Eff s0 :=
  let l := e.chain.departs
  let e := e.modChain fun h => { h with departs := [] }
  e.each l fun e d =>
    let st := e.cellNext d.1
    e.when (st == .joining || st == .idle || st == .active) fun e =>
      (e.when (d.2 == 4) (·.jitem 7 0 (actionPayload oCellReq (le 1 d.1 ++ le 1 3)))).moveCell d.1 .bypassed d.2

/-- The join check of a cell in JOINING (R137, R507): JOIN_FRAMES consecutive records, each with ALIGNED, none DISAGREE; the
interface version of R196; no UVLO. -/
def Eff.joinCell (e : Eff s0) (c : Nat) : Eff s0 :=
  let x := e.cell c
  if x.state != .joining || e.cellNext c != .joining then e
  else
    let good := e.frame.vector.contains c && x.aligned
    let n := if good then min (x.joinCount + 1) 65535 else 0
    let e := e.modCell c fun x => { x with joinCount := n }
    e.when (decide (e.cv oJoinFrames ≤ n) && x.ifver / 256 == 1 && x.uvlo == 0) (·.moveCell c .idle x.cause)

/-- Whether discovery moves cell c to JOINING (R115, R131, R133, R136): ABSENT with an unchanged terminal, or BYPASSED with cause TRIP or
STOPPED. -/
def Eff.canJoin (e : Eff s0) (c : Nat) : Bool :=
  let x := e.cell c
  match e.cellNext c with
  | .absent => e.installed c && !x.changed
  | .bypassed => x.state == .bypassed && (x.cause == 8 || x.cause == 10)
  | _ => false

/-- The arrivals (R133, R137, R138): cells that discovery has found, join checks, and the order of a cell in IDLE to become ACTIVE. In
SYNC only entry and requests order a cell. -/
def Eff.cellArrivals (e : Eff s0) : Eff s0 :=
  let found := e.chain.joins
  let e := (e.modChain fun h => { h with joins := [] }).each found fun e c => e.when (e.canJoin c) (·.moveCell c .joining 2)
  let e := e.when e.joinsRun fun e => e.each allCells fun e c => e.joinCell c
  let up := e.dev.state == .sync || e.dev.state == .run || e.dev.state == .derated
  let auto := e.cv oAutoActive == 1 && e.dev.state != .sync
  e.when up fun e => e.each allCells fun e c =>
    let x := e.cell c
    e.when (x.state == .idle && e.cellNext c == .idle && (auto || x.want) && e.linkInTol c) (·.moveCell c .active x.cause)

/-- NMIN and redundancy after the departures and requests of a frame (R19, R20), against the counts of the frame before. -/
def Eff.judgeCounts (e : Eff s0) : Eff s0 :=
  let e := e.each e.usedPhases fun e p =>
    let was := e.activeBefore p
    let n := e.activeCount p
    let m := e.nmin p
    let e := e.when (decide (m ≤ was ∧ n < m)) (·.fault 0x012 kNminLost p)
    e.when (decide (m < was ∧ n = m)) (·.fault 0x012 kRedundancyLow p)
  let up := e.dev.state == .run || e.dev.state == .derated
  let at' := e.cv oRedundancyDerate == 1 && up && e.usedPhases.any fun p => e.activeCount p == e.nmin p
  if at' then (if bitOf e.dev.derate 2 then e else e.derateSet 2) else (if bitOf e.dev.derate 2 then e.derateUnset 2 else e)

/-- The cell transitions of a deadline (R133, R135): departures, then requests, then arrivals. -/
def Eff.cellDeadline (e : Eff s0) : Eff s0 :=
  let gone := e.departing
  (((e.cellDepartures).cellRequests gone).judgeCounts).cellArrivals

/-- A cell that enters IDLE or ACTIVE at the coming boundary starts with its link integral and its shifts at 0 (R294, R296). -/
def Eff.freshCells (e : Eff s0) : Eff s0 :=
  e.each e.chain.moves fun e m =>
    e.when ((m.2.1 == .idle || m.2.1 == .active) && (e.cell m.1).state != m.2.1) fun e =>
      let b := cellPt m.1
      let e := e.modCasc fun x => { x with link := smSet 0 x.link m.1 0, push := smSet 0 x.push m.1 0 }
      (e.putPt (b + 34) 0 e.toffD 0).putPt (b + 35) 0 e.toffD 0

/-- The transitions decided at the deadline take effect at a frame boundary (R133). -/
def Eff.cellBoundary (e : Eff s0) : Eff s0 :=
  let l := e.chain.moves
  let e := e.modChain fun h => { h with moves := [] }
  e.each l fun e m => e.enterCell m.1 m.2.1 m.2.2

end Sys2Proof.Machine
end

