-- ==== Sys2Proof/Machine/Journal.lean ====
section
/-! DEFINITION. The input journal (R548 to R555), the record stream (R556, R557) and Reading Room (R558 to R560). -/

namespace Sys2Proof.Machine

variable {s0 : Root}

/-! ### Entries (R549, R550) -/

/-- Numbers as the set bits of `n` octets. -/
def bitOctets (n : Nat) (l : List Nat) : List Byte := le n (l.foldl (fun a b => a ||| 2 ^ b) 0)

/-- The numbers of the set bits of octets. -/
def octetBits (bs : List Byte) : List Nat :=
  let v := unle bs
  (List.range (8 * bs.length)).filter (bitOf v)

/-- The coded body of an item against an earlier body of the same length: the bitmap and the XOR of each octet that differs. -/
def dzBody (old new : List Byte) : List Byte :=
  let x := List.zipWith (· ^^^ ·) old new
  bitOctets ((new.length + 7) / 8) ((List.range x.length).filter fun i => x.getD i 0 != 0) ++ x.filter (· != 0)

/-- The octets of an item; `prior` are the items of the entry before, where coding against it is allowed. -/
def JItem.octets (prior : List JItem) (x : JItem) : List Byte :=
  let raw := le 1 x.itype ++ le 1 x.id ++ le 2 x.body.length ++ x.body
  if 4 < x.itype then raw
  else
    match prior.find? fun p => p.itype == x.itype && p.id == x.id && p.body.length == x.body.length with
    | none => raw
    | some p =>
      let z := dzBody p.body x.body
      if z.length < x.body.length then le 1 (x.itype + 16) ++ le 1 x.id ++ le 2 z.length ++ z else raw

/-- The newest entries of a list that fit in some octets. -/
def fitEntries : Nat → List (Nat × List Byte) → List (Nat × List Byte)
  | _, [] => []
  | room, x :: r => if x.2.length ≤ room then x :: fitEntries (room - x.2.length) r else []

/-- The octets of the entry ring (R551). -/
def ringOctets : Nat := 18 * 1048576

/-- The octets of the Archive (R537), which a joining or resynchronising device lends to its journal (R554). -/
def archiveOctets : Nat := 512 * 65536

/-- The octets that a hold takes from the ring (R555). -/
def Eff.heldOctets (e : Eff s0) : Nat :=
  match e.jrnl.hold with
  | some h => h.octets
  | none => 0

/-- The octets of the entries of the latest frames that the journal has room for (R551, R554). -/
def Eff.entryRoom (e : Eff s0) : Nat := ringOctets + (if e.lent then archiveOctets else 0) - e.heldOctets

/-- The device's digests of frame k (R467); zeros for a frame without a computation. -/
def Eff.digestsOf (e : Eff s0) (k : Nat) : Digests :=
  match e.pair.digests.find? (·.1 == k) with
  | some d => d.2
  | none => ⟨0, 0, 0⟩

/-- Completes the entry of the running frame (R548, R549), as the next frame starts. -/
def Eff.journalClose (e : Eff s0) : Eff s0 :=
  let k := e.frame.k
  let j := e.jrnl
  let prior := if j.ckptTaken || j.priorFrame + 1 != k then [] else j.prior
  let items := j.items.flatMap (JItem.octets prior)
  let d := e.digestsOf k
  let flags := ofBool j.ckptTaken + 2 * ofBool e.frame.peerVec + 4 * ofBool e.pair.incomplete + 8 * ofBool j.nondet
  let m := [1#8] ++ le 1 flags ++ le 2 j.items.length ++ le 4 (96 + items.length) ++ le 8 k ++
    bitOctets 64 (if e.frame.snapK = k then e.frame.vector else []) ++ le 4 d.sched ++ le 4 d.point ++ le 4 d.hub ++ items
  let m := m ++ le 4 (crc32c m).toNat
  let held := j.hold.map (·.take k m)
  let e := e.modJrnl fun j => { j with hold := held }
  let room := e.entryRoom
  e.modJrnl fun j => { j with
    entries := fitEntries room ((k, m) :: j.entries), prior := j.items, priorFrame := k
    items := [], ckptTaken := false, nondet := false }

/-! ### Checkpoints (R552) -/

/-- What a checkpoint taken now holds. -/
def Eff.capture (e : Eff s0) : Ckpt :=
  { frame := e.frame.k, done := false, clean := !e.jrnl.sinceCkpt && e.clk.halted.isEmpty, cfg := e.st.cfg
    timed := e.time.timed, forced := e.faults.forced, pts := e.st.pts, loop := e.loop, sched := e.sched, casc := e.casc
    meter := e.meter, assay := e.assay, hub := e.hub, cells := e.st.cells, dev := e.dev.state }

/-- A checkpoint at a frame start whose number is a multiple of CKPT_FRAMES: into the slot that does not hold the newest complete
checkpoint. -/
def Eff.takeCkpt (e : Eff s0) : Eff s0 :=
  if e.frame.k % e.cv oCkptFrames != 0 then e
  else
    let c := e.capture
    let newer (a b : Option Ckpt) : Bool := match a, b with
      | some x, some y => x.done && (!y.done || decide (y.frame ≤ x.frame))
      | some x, none => x.done
      | none, _ => false
    e.modJrnl fun j =>
      let j := { j with ckptTaken := true, sinceCkpt := false }
      if newer j.slotA j.slotB then { j with slotB := some c } else { j with slotA := some c }

/-- CHECKPOINT_COMPLETE (R552): every line of the checkpoint being taken has been copied: CKPT_LAST; NONDET clears where the
conditions of R58 held. -/
def execCheckpointComplete (s : State) : Host.Outcome State Fault Refusal :=
  let e := Eff.start s
  let open' (c : Option Ckpt) : Option Ckpt := c.filter fun c => !c.done
  let finish (c : Ckpt) : Act s := (e.modJrnl fun j => { j with ckptLast := c.frame }).when c.clean (·.clearTrouble 0)
  match open' e.jrnl.slotA, open' e.jrnl.slotB with
  | some c, _ => .next ((finish c).modJrnl fun j => { j with slotA := some { c with done := true } }).st
  | none, some c => .next ((finish c).modJrnl fun j => { j with slotB := some { c with done := true } }).st
  | none, none => .next e.st

/-- The newest complete checkpoint at or before a frame. -/
def Eff.ckptBefore (e : Eff s0) (k : Nat) : Option Ckpt :=
  ([e.jrnl.slotA, e.jrnl.slotB].filterMap id).foldl (init := none) fun best c =>
    if !c.done || k < c.frame then best
    else match best with
      | some b => if b.frame < c.frame then some c else best
      | none => some c

/-! ### Holds (R555) -/

/-- JRNL_HOLD: starts a hold; one more cause while a hold exists is counted. -/
def actJrnlHold (e : Eff s0) (_c : Ctx) (args : List Byte) : ActRes s0 :=
  if args ≠ [] then (e, some (ansErr stType)) else (e.startHold, some ansOk)

/-- JRNL_RELEASE: the hold's space returns to the ring. -/
def actJrnlRelease (e : Eff s0) (_c : Ctx) (args : List Byte) : ActRes s0 :=
  if args ≠ [] then (e, some (ansErr stType))
  else if e.jrnl.hold.isNone then (e, some ansNoChange)
  else (e.modJrnl fun j => { j with hold := none }, some ansOk)

/-- HOLD_INFO (R561). -/
def Hold.info (h : Hold) : List Byte :=
  le 4 h.num ++ le 8 h.first ++ le 8 h.fh ++ le 8 h.last ++ le 4 h.octets ++ le 1 (ofBool h.complete + 2 * ofBool h.cut)

/-- The journal image of a hold (R557). -/
def Hold.image (fw : Nat) (h : Hold) : List Byte :=
  let ck := match h.ckpt with
    | some c => Config.ckptOctets c
    | none => []
  let ents := h.entries.reverse.flatMap (·.2)
  let hd := le 4 0x4D494A56 ++ le 4 fw ++ le 8 Config.serial.toNat ++
    le 8 (match h.ckpt with
      | some c => c.frame
      | none => h.first) ++ le 8 h.last ++ le 4 ck.length ++ le 4 ents.length
  let hd := padTo 60 hd
  hd ++ le 4 (crc32c hd).toNat ++ ck ++ ents

/-- JRNL_EXPORT (R557): the held span goes to the record stream from an offset; WRONG_STATE where no hold is complete. -/
def actJrnlExport (e : Eff s0) (_c : Ctx) (args : List Byte) : ActRes s0 :=
  if args.length ≠ 4 then (e, some (ansErr stType))
  else
    match e.jrnl.hold with
    | some h =>
      if h.complete then
        (e.modJrnl fun j => { j with jobs := j.jobs ++ [⟨2, h.num, h.image e.dev.fwVer, fieldLe args 0 4, false⟩] }, some (ansResult 0))
      else (e, some (ansResult 1))
    | none => (e, some (ansResult 1))

/-- JRNL_HOLD as a request: ENGINEER (R555). -/
def execJrnlHold (q : Req) (args : List Byte) (s : State) : Host.Outcome State Fault Refusal :=
  .next ((Eff.start s).invoke q oJrnlHold args 2 false actJrnlHold).st

/-- JRNL_RELEASE as a request: ENGINEER (R555). -/
def execJrnlRelease (q : Req) (args : List Byte) (s : State) : Host.Outcome State Fault Refusal :=
  .next ((Eff.start s).invoke q oJrnlRelease args 2 false actJrnlRelease).st

/-- JRNL_EXPORT as a request: OPERATOR (R557). -/
def execJrnlExport (q : Req) (args : List Byte) (s : State) : Host.Outcome State Fault Refusal :=
  .next ((Eff.start s).invoke q oJrnlExport args 1 false actJrnlExport).st

/-! ### The record stream (R556, R557) -/

/-- Whether an object has a datagram to send (R556): of one that still grows only what certainly is not its last. -/
def SJob.ready (x : SJob) : Bool := decide ((if x.growing then x.offset + 1436 else x.offset) < x.octets.length)

/-- STREAM_DATAGRAM: the next datagram of the object in turn, meter records first, at no more than STREAM_RATE, to STREAM_IP and
STREAM_UDP; nothing with STREAM_IP 0. An object with nothing left from its offset on sends nothing. -/
def execStreamDatagram (s : State) : Host.Outcome State Fault Refusal :=
  let e := Eff.start s
  let jobs := e.jrnl.jobs.filter fun x => x.growing || x.ready
  let job := (jobs.find? fun x => x.kind == 3).or (jobs.find? (·.ready))
  match job with
  | none => .next (e.modJrnl fun j => { j with jobs := jobs }).st
  | some x =>
    if e.cv oStreamIp = 0 ∨ e.time.up < e.jrnl.nextAt then .next e.st
    else
      let p := (x.octets.drop x.offset).take 1436
      let last := !x.growing && decide (x.octets.length ≤ x.offset + p.length)
      let i := jobs.idxOf x
      let rest := jobs.take i ++ (if last then [] else [{ x with offset := x.offset + p.length }]) ++ jobs.drop (i + 1)
      let m := le 4 0x31535256 ++ le 1 x.kind ++ le 1 (ofBool last) ++ zeros 2 ++ le 8 Config.serial.toNat ++ le 4 e.jrnl.seq ++
        le 4 x.id ++ le 4 x.offset ++ le 2 p.length ++ zeros 2 ++ p
      let m := m ++ le 4 (crc32c m).toNat
      let dst : Src := .udp (if e.cv oStreamE = 0 then 0 else 1) (BitVec.ofNat 32 (e.cv oStreamIp)) (BitVec.ofNat 16 (e.cv oStreamUdp))
      let ns := (m.length * 8000 + e.cv oStreamRateNet - 1) / e.cv oStreamRateNet
      .next ((e.emit (.stream dst m)).modJrnl fun j => { j with
        jobs := rest, seq := (j.seq + 1) % 2 ^ 32, nextAt := e.time.up + ns }).st

/-! ### Reading Room (R558 to R560) -/

/-- The entries of a stretch of octets, each by its own LEN (R549): its frame, and whether its CRC fits. -/
def splitEntries : Nat → List Byte → List (Nat × Bool)
  | 0, _ => []
  | fuel + 1, b =>
    let n := fieldLe b 4 4
    if n < 96 ∨ b.length < n then []
    else (fieldLe b 8 8, fieldLe b (n - 4) 4 == (crc32c (b.take (n - 4))).toNat) :: splitEntries fuel (b.drop n)

/-- The entries of an imported journal image (R557). -/
def importEntries (b : List Byte) : List (Nat × Bool) :=
  let ents := (b.drop (64 + fieldLe b 32 4)).take (fieldLe b 36 4)
  splitEntries (ents.length / 96) ents

/-- Whether a source has an entry for every frame from `first` to `last`. -/
def holdsAll (frames : List Nat) (first last : Nat) : Bool :=
  (List.range (last + 1 - first)).all fun i => frames.contains (first + i)

/-- The source of a replay: whether it holds an entry for every frame from its checkpoint's to the last named, and its firmware
version is the running one. An import is read by its image header. -/
def Eff.sourceFits (e : Eff s0) (imported : Bool) (first last : Nat) : Bool :=
  if imported then
    let b := e.jrnl.image
    64 ≤ b.length && fieldLe b 0 4 == 0x4D494A56 && fieldLe b 4 4 == e.dev.fwVer && fieldLe b 16 8 ≤ first &&
      holdsAll ((importEntries b).map (·.1)) first last
  else
    match e.jrnl.hold with
    | some h => h.ckpt.isSome && holdsAll (h.entries.map (·.1)) first last
    | none => false

/-- The checkpoint frame of the source, from which a replay starts. -/
def Eff.sourceCkpt (e : Eff s0) (imported : Bool) : Nat :=
  if imported then fieldLe e.jrnl.image 16 8
  else match e.jrnl.hold with
    | some h => (match h.ckpt with
      | some c => c.frame
      | none => h.first)
    | none => 0

/-- Whether the image header of an import or one of its entries fails its CRC (R549, R557, R561 RR_STATUS). -/
def badImport (b : List Byte) : Bool := fieldLe b 60 4 != (crc32c (b.take 60)).toNat || (importEntries b).any (!·.2)

/-- RR_START (R558, R560): WRONG_STATE where the source does not fit, a replay runs, or watch unit RR_UNIT is not OFF; a mask bit of
a domain that the caller does not stage names nothing of its own. -/
def actRrStart (e : Eff s0) (c : Ctx) (args : List Byte) : ActRes s0 :=
  if args.length ≠ 20 then (e, some (ansErr stType))
  else
    let mode := octet args 0
    let src := octet args 1
    let first := fieldLe args 4 8
    let last := fieldLe args 12 8
    if 1 < mode ∨ 1 < src ∨ 2 ^ 15 ≤ fieldLe args 2 2 ∨ last < first then (e, some ansRange)
    else
      let imp := src == 1
      let bad := imp && badImport e.jrnl.image
      let busy := e.jrnl.run.isSome || decide (31 < e.cv oRrUnit) || (e.wu (e.cv oRrUnit)).state != .off
      if busy then (e, some (ansResult 1))
      else if bad then (e.modJrnl fun j => { j with status := 4 }, some (ansResult 1))
      else if !e.sourceFits imp first last then (e, some (ansResult 1))
      else
        let mask := (List.range 15).foldl (init := 0) fun a d =>
          if bitOf (fieldLe args 2 2) d && (e.dom d).owner == c.sess && c.sess != 0 then a + 2 ^ d else a
        let r : RRun := ⟨mode == 1, imp, mask, first, last, e.sourceCkpt imp, e.jrnl.runs + 1⟩
        (e.modJrnl fun j => { j with
          run := some r, runs := j.runs + 1, status := 1, firstDiff := none, diffs := 0, words := [] }, some (ansResult 0))

/-- The object of the replay that ends grows no more (R556). -/
def endObject (jobs : List SJob) : List SJob := jobs.map fun x => if x.kind = 4 then { x with growing := false } else x

/-- Records of a replay run join its object on the stream (R556, R560). -/
def growObject (jobs : List SJob) (num : Nat) (m : List Byte) : List SJob :=
  if jobs.any fun x => x.kind == 4 && x.id == num then
    jobs.map fun x => if x.kind = 4 ∧ x.id = num then { x with octets := x.octets ++ m } else x
  else jobs ++ [⟨4, num, m, 0, true⟩]

/-- RR_STOP: the replay ends. -/
def actRrStop (e : Eff s0) (_c : Ctx) (args : List Byte) : ActRes s0 :=
  if args ≠ [] then (e, some (ansErr stType))
  else if e.jrnl.run.isNone then (e, some ansNoChange)
  else (e.modJrnl fun j => { j with run := none, status := 0, jobs := endObject j.jobs }, some ansOk)

/-- RR_IMPORT (R559): a part of a journal image, accepted in READY and SAFE; it overwrites the source. -/
def actRrImport (e : Eff s0) (_c : Ctx) (args : List Byte) : ActRes s0 :=
  let off := fieldLe args 0 4
  let n := fieldLe args 4 2
  if args.length < 6 ∨ args.length ≠ 6 + n ∨ 1024 < n then (e, some (ansErr stType))
  else if 2 * 1048576 + ringOctets < off + n then (e, some ansRange)
  else if !(e.st.devState == .ready || e.st.devState == .safe) then (e, some (ansResult 1))
  else (e.modJrnl fun j => { j with image := padTo off j.image ++ args.drop 6 ++ j.image.drop (off + n) }, some (ansResult 0))

/-- RR_START as a request: ENGINEER (R558). -/
def execRrStart (q : Req) (args : List Byte) (s : State) : Host.Outcome State Fault Refusal :=
  .next ((Eff.start s).invoke q oRrStart args 2 false actRrStart).st

/-- RR_STOP as a request: ENGINEER (R66). -/
def execRrStop (q : Req) (args : List Byte) (s : State) : Host.Outcome State Fault Refusal :=
  .next ((Eff.start s).invoke q oRrStop args 2 false actRrStop).st

/-- RR_IMPORT as a request: ENGINEER (R558). -/
def execRrImport (q : Req) (args : List Byte) (s : State) : Host.Outcome State Fault Refusal :=
  .next ((Eff.start s).invoke q oRrImport args 2 false actRrImport).st

/-- Whether a self-replay or a resynchronisation preempts Reading Room (R559). -/
def Eff.rrPaused (e : Eff s0) : Bool := e.pair.replay || e.pair.resync || e.pair.joinStep == 5

/-- The points of RR_WATCH, in element order. -/
def Eff.rrPoints (e : Eff s0) : List Nat :=
  (((List.range 256).map (e.cv oRrWatch)).filter (· != 0x8000_0000)).eraseDups

/-- RR_STATUS (R559, R561). -/
def Eff.rrStatus (e : Eff s0) : Nat := if e.jrnl.run.isSome && e.rrPaused then 2 else e.jrnl.status

/-- REPLAY_FRAME (R558 to R560): one frame of the replay ends. `digestsEqual` is whether its three digests equal the recorded ones,
`changes` the words that the replayed frame leaves in the points of RR_WATCH: what a replay computes, the manual states only as
the core's own computation from the recorded inputs, which stand outside this model of the live device. A record goes to RR_UNIT
for each watched point whose word changed, and with RR_STREAM set to the stream. -/
def execReplayFrame (digestsEqual : Bool) (changes : List (Fin 2097152 × PointWord)) (s : State) :
    Host.Outcome State Fault Refusal :=
  let e := Eff.start s
  match e.jrnl.run with
  | none => .next e.st
  | some r =>
    if e.rrPaused then .next e.st
    else
      let e := e.when (!digestsEqual) (·.modJrnl fun j => { j with
        firstDiff := match j.firstDiff with
          | some k => some k
          | none => some r.next
        diffs := (j.diffs + 1) % 2 ^ 32 })
      let recs := e.rrPoints.filterMap fun p =>
        match changes.find? (·.1.val == p) with
        | some c => if smGet none e.jrnl.words p = some c.2 then none else some (⟨p, 4, 0, r.next, c.2⟩ : ARec)
        | none => none
      let recs := if r.first ≤ r.next then recs else []
      let u := e.cv oRrUnit
      let e := e.each recs fun e x =>
        (e.modJrnl fun j => { j with words := smSet none j.words x.point (some x.word) }).modWu u fun w => { w with
          recs := (x :: w.recs).take (e.cv oWuRsize u * 4096) }
      let e := e.when (e.cv oRrStream == 1 && !recs.isEmpty) (·.modJrnl fun j => { j with
        jobs := growObject j.jobs r.num (recs.flatMap ARec.octets) })
      let ends := r.last ≤ r.next
      .next (e.modJrnl fun j => { j with
        run := if ends then none else some { r with next := r.next + 1 }, status := if ends then 3 else 1
        jobs := if ends then endObject j.jobs else j.jobs }).st

/-! ### E_MAX and the spans (R551, R554) -/

/-- The fast ticks of a frame. -/
def Eff.ticksPerFrame (e : Eff s0) : Nat := (e.tf * 8 + e.cv oFastTick - 1) / (max 1 (e.cv oFastTick))

/-- E_max (R551). -/
def Eff.eMax (e : Eff s0) : Nat :=
  104 + 152 * (allCells.filter e.installed).length + 4 + 12 * e.convFrame.length +
    e.ticksPerFrame * (8 + 12 * e.convTick.length)

end Sys2Proof.Machine
end

