-- ==== Sys2Proof/Machine/Checks.lean ====
section
/-! DEFINITION. The checks of a commit (R73, R76): every relation that the committed sets of the domains must hold, each with
the domains whose commit can break it, the reason of its refusal and the elements implicated. -/

namespace Sys2Proof.Machine

variable {s0 : Root}

/-! ### Failures -/

abbrev rsRange : Nat := 1
abbrev rsInconsistent : Nat := 2
abbrev rsBudget : Nat := 3
abbrev rsTopology : Nat := 4
abbrev rsCapacity : Nat := 5
abbrev rsReference : Nat := 6
abbrev rsNotStopped : Nat := 7

abbrev dDevice : Nat := 0
abbrev dLink : Nat := 1
abbrev dSched : Nat := 2
abbrev dHub : Nat := 3
abbrev dLoop : Nat := 4
abbrev dCasc : Nat := 5
abbrev dDisp : Nat := 6
abbrev dAssay : Nat := 7
abbrev dConv : Nat := 8
abbrev dGate : Nat := 9
abbrev dFault : Nat := 10
abbrev dTime : Nat := 11
abbrev dAcq : Nat := 12
abbrev dStore : Nat := 13
abbrev dPair : Nat := 14

/-- A relation that does not hold: the domains whose commit it refuses, the reason (R76), and the elements implicated by
index, a staged one of which is named before the others. -/
structure Failure where
  doms : List Nat
  reason : Nat
  elems : List Nat
  deriving DecidableEq, Repr

/-- One relation. -/
def failIf (broken : Bool) (doms : List Nat) (reason : Nat) (elems : List Nat) : List Failure :=
  if broken then [⟨doms, reason, elems⟩] else []

/-- The set that a commit would leave (R73): the active values, the sets acknowledged and not yet active, and `values` above
them. Nothing waits in it. -/
def State.withSet (s : State) (values : List (Nat × Nat)) : State :=
  let waiting := s.doms.flatMap fun d => match d.2.pend with
    | some p => p.values
    | none => []
  let put (m : SMap (Option Nat)) (kv : Nat × Nat) : SMap (Option Nat) :=
    smSet none m kv.1 (if kv.2 = objDefault s.pair.strapB (kv.1 / 65536) (kv.1 % 65536) then none else some kv.2)
  { s with cfg := (waiting ++ values).foldl put s.cfg, doms := [], conv := { s.conv with switched := [] } }

/-! ### Points that something produces (R257, R609) -/

/-- A POINTREF, none where it is UNBOUND (R67). -/
def pointOf (w : Nat) : Option Nat := if bitOf w 31 then none else some (w % 2 ^ 21)

/-- The sequences of converter f that are enabled. -/
def Eff.seqsOn (e : Eff s0) (f : Nat) : List Nat := (List.range 4).filter fun q => seqSrc (e.seqCfg f q) != 0

/-- The channels that sequence q of converter f converts. -/
def Eff.seqChannels (e : Eff s0) (f q : Nat) : List Nat :=
  let w := e.seqCfg f q
  (List.range (field w 13 6)).map fun i => field (e.convEntry f (field w 8 5 + i)) 0 3

/-- Whether a sequence of converter f converts channel i. -/
def Eff.converts (e : Eff s0) (f i : Nat) : Bool := (e.seqsOn f).any fun q => (e.seqChannels f q).contains i

/-- Offsets of a cell block that hold Q1.31 (R190, R215, R298). -/
def cellQ31 (off : Nat) : Bool := off < 16 || off == 32 || (34 ≤ off && off ≤ 38) || (40 ≤ off && off ≤ 46)

/-- Offsets of a port block that hold Q1.31 (R334). -/
def portQ31 (off : Nat) : Bool := [0, 1, 2, 4, 8, 9, 10, 11, 12, 20].contains off

/-- Offsets of a battery cell's results that hold Q1.31 (R354). -/
def resultQ31 (off : Nat) : Bool := off < 18 || off == 19 || off == 21

/-- Device-wide points of the cascade functions that hold Q1.31 (R299). -/
def cascQ31 (n : Nat) : Bool :=
  (0x3001 ≤ n && n ≤ 0x3007) || (0x3008 ≤ n && n ≤ 0x300A) || (0x300C ≤ n && n ≤ 0x300E) || (0x3014 ≤ n && n ≤ 0x3016) ||
    (0x3018 ≤ n && n ≤ 0x301A) || (0x301C ≤ n && n ≤ 0x301E) || n == 0x3020

/-- Whether a point holds Q1.31 and a block of the committed sets produces it (R257, R609). -/
def Eff.produced (e : Eff s0) (n : Nat) : Bool :=
  if n < 0x1000 then false
  else if n < 0x1020 then
    let f := (n - 0x1000) / 8
    e.converts f (n % 8) && (f % 2 == 0 || e.cv oPairMode (f / 2) == 0)
  else if n < 0x1038 then true
  else if 0x1040 ≤ n && n < 0x1050 then
    let p := (n - 0x1040) / 8
    e.cv oPairMode p == 2 && e.converts (2 * p) (n % 8)
  else if 0x2000 ≤ n && n < 0x2200 then bitOf (e.slotCfg (n - 0x2000)) 0
  else if 0x2400 ≤ n && n < 0x2440 then true
  else if 0x2480 ≤ n && n < 0x2490 then
    bitOf (e.cv oTapSel (n - 0x2480)) 22 && bitOf (e.slotCfg (field (e.cv oTapSel (n - 0x2480)) 0 9)) 0
  else if 0x3000 ≤ n && n < 0x3021 then cascQ31 n
  else if 0x3040 ≤ n && n < 0x3044 then n != 0x3040
  else if 0x3200 ≤ n && n < 0x3500 then n % 4 == 1 && e.assayed ((n - 0x3200) / 4)
  else if 0x10000 ≤ n && n < 0x1C000 then cellQ31 (n % 256) && e.installed ((n - 0x10000) / 256)
  else if 0x20000 ≤ n && n < 0x2C000 then portQ31 (n % 256) && e.portExists ((n - 0x20000) / 256)
  else if 0x30000 ≤ n && n < 0x33000 then e.portExists ((n - 0x30000) / 64)
  else if 0x40000 ≤ n && n < 0x4C000 then e.portExists ((n - 0x40000) / 256)
  else if 0x80000 ≤ n && n < 0x200000 then resultQ31 (n % 32) && e.assayed ((n - 0x80000) / 8192)
  else false

/-- The domains whose sets make a point a produced one. -/
def producers (n : Nat) : List Nat :=
  if n < 0x2000 then [dConv]
  else if n < 0x3000 then [dLoop]
  else if 0x10000 ≤ n && n < 0x1C000 then [dCasc]
  else if 0x3200 ≤ n && n < 0x3500 then [dCasc, dDisp, dAssay]
  else if 0x80000 ≤ n then [dCasc, dDisp, dAssay]
  else if 0x20000 ≤ n then [dCasc, dDisp]
  else []

/-- A binding (R257, R73): bound where it must be, and bound to a Q1.31 point that something produces. -/
def Eff.bindFails (e : Eff s0) (d obj elem : Nat) (must : Bool := false) : List Failure :=
  match pointOf (e.cv obj elem) with
  | none => failIf must [d] rsReference [key obj elem]
  | some n => failIf (!e.produced n) (d :: producers n) rsReference [key obj elem]

/-- Slot i is an enabled frame slot. -/
def Eff.frameSlot (e : Eff s0) (i : Nat) : Bool := i < 512 && bitOf (e.slotCfg i) 0 && slotLane (e.slotCfg i) < 8

/-- The enabled slot that a POINTREF names. -/
def slotOfRef (w : Nat) : Option Nat := (pointOf w).bind fun n => if 0x2000 ≤ n ∧ n < 0x2200 then some (n - 0x2000) else none

/-! ### Topology and the cascade (R18, R300) -/

/-- The installed cells. -/
def Eff.cellsIn (e : Eff s0) : List Nat := allCells.filter fun c => e.installed c

/-- R18 for the combined sets; in the states in which cells are ACTIVE also against the ACTIVE count. -/
def Eff.topologyFails (e : Eff s0) : List Failure :=
  let single := e.cv oConnection == 1
  let inst := e.cellsIn
  let among (p : Nat) : List Nat := inst.filter fun c => e.phase c == p
  let sizes := [key oVllNom 0, key oVdcNom 0, key oConnection 0] ++ allCells.map (key oCellPhase ·)
  let st := e.dev.state
  let live := st == .sync || st == .run || st == .derated || st == .stopping
  (inst.flatMap fun c =>
    failIf (single && e.phase c != 0) [dCasc] rsTopology [key oCellPhase c, key oConnection 0] ++
    failIf (e.cv oChainLen (c / 8) ≤ c % 8) [dCasc, dLink] rsTopology [key oCellPhase c, key oChainLen (c / 8)]) ++
  ([0, 1, 2].flatMap fun p => failIf (64 < (among p).length) [dCasc] rsTopology ((among p).map (key oCellPhase ·))) ++
  (if inst.isEmpty then [] else e.usedPhases.flatMap fun p =>
    failIf ((among p).length < e.nmin p || (live && ((among p).filter fun c => (e.cell c).state == .active).length < e.nmin p)) [dCasc] rsTopology sizes)

/-- R300 and the other bindings of CASC (R119). -/
def Eff.cascFails (e : Eff s0) : List Failure :=
  let single := e.cv oConnection == 1
  let some1 := !e.cellsIn.isEmpty
  ((if single then [0] else [0, 1]).flatMap fun m => e.bindFails dCasc oGridVPt m some1) ++
  ((if single then [0] else [0, 1]).flatMap fun m => e.bindFails dCasc oConvVPt m) ++
  (e.usedPhases.flatMap fun p => failIf (some1 && (pointOf (e.cv oVrefPt p)).isNone) [dCasc] rsReference [key oVrefPt p]) ++
  ([0, 1, 2].flatMap fun p =>
    failIf ((pointOf (e.cv oVrefPt p)).isSome && !((slotOfRef (e.cv oVrefPt p)).any e.frameSlot)) [dCasc, dLoop] rsReference
      [key oVrefPt p]) ++
  (allCells.flatMap fun c =>
    let b := e.cv oBtrimSlot c
    failIf (b != 0xFFFF && !e.frameSlot b) [dCasc, dLoop] rsReference [key oBtrimSlot c]) ++
  e.bindFails dCasc oPDemPt 0 ++ e.bindFails dCasc oQRefPt 0 ++ e.bindFails dCasc oBrkFb 0 ++
  failIf (e.cq oPhiMax < e.cq oPhiSlew) [dCasc, dSched] rsInconsistent [key oPhiSlew 0, key oPhiMax 0]

/-! ### Frame timing (R52, R222) -/

/-- The staged objects that a core budget can turn on. -/
def budgetElems : List Nat :=
  [key oDeadline 0, key oFramePeriod 0, key oTxMargin 0] ++ (List.range 512).map (key oSlotCfg ·) ++
    (List.range 512).map (key oBrLen ·)

/-- R52 and R222. -/
def Eff.schedFails (e : Eff s0) : List Failure :=
  failIf (e.cv oDeadline ≤ e.cv oSampleOffset) [dSched] rsBudget [key oDeadline 0, key oSampleOffset 0] ++
  failIf (e.tf < e.cv oDeadline + 1920) [dSched] rsBudget [key oDeadline 0, key oFramePeriod 0] ++
  failIf (decide (e.coreBudget < e.coreTime)) [dSched, dLoop, dCasc] rsBudget budgetElems ++
  failIf (e.cv oHPulseMin < e.cv oDtH) [dSched] rsInconsistent [key oHPulseMin 0, key oDtH 0] ++
  failIf (2 ^ 31 < e.cv oHCarrFrames * (8 * e.tf) / 2) [dSched] rsRange [key oHCarrFrames 0, key oFramePeriod 0]

/-! ### The loop engine (R246 to R274) -/

/-- Whether the layout of SLOT_CFG and BR_LEN of slot i lies outside its ranges (R271, R272). -/
def Eff.slotRange (e : Eff s0) (i : Nat) : List Failure :=
  let w := e.slotCfg i
  failIf (9 < slotLane w || 4 < field w 16 3 || 2 ^ field w 5 3 ≤ field w 8 7) [dLoop] rsRange [key oSlotCfg i] ++
  failIf ((List.range 4).any fun b => (b ≤ field w 19 2) != (field (e.cv oBrLen i) (4 * b) 4 != 0)) [dLoop] rsRange
    [key oBrLen i, key oSlotCfg i] ++
  failIf (decide (e.cq oOutMax i < e.cq oOutMin i)) [dLoop] rsInconsistent [key oOutMax i, key oOutMin i]

/-- The slots that the set names with an element of a slot other than its default. -/
def Eff.slotsNamed (e : Eff s0) : List Nat :=
  (e.cfg.filterMap fun p =>
    let o := p.1 / 65536
    if o = oSlotCfg ∨ o = oBrLen ∨ o = oOutMax ∨ o = oOutMin then some (p.1 % 65536) else none).dedup

/-- An enabled slot: sections within the pool, fast slots at every tick, inputs bound (R246, R257, R262). -/
def Eff.slotFails (e : Eff s0) (i : Nat) : List Failure :=
  let w := e.slotCfg i
  let secs := (e.slotSecs i).flatten
  failIf (secs.any (4095 < ·)) [dLoop] rsCapacity [key oSecBase i, key oSlotCfg i, key oBrLen i] ++
  failIf (8 ≤ slotLane w && field w 5 3 != 0) [dLoop] rsInconsistent [key oSlotCfg i] ++
  ((List.range (min 4 (field w 16 3))).flatMap fun m => e.bindFails dLoop oInPt (4 * i + m) true) ++
  e.bindFails dLoop oLimPt i ++ e.bindFails dLoop oRunPt i

/-- Pool sections that a later enabled slot shares with an earlier one (R246). -/
def Eff.sharedSections (e : Eff s0) : List Failure :=
  (e.enabledSlots.foldl (init := (([] : List Nat), ([] : List Failure))) fun a i =>
    let secs := (e.slotSecs i).flatten
    (a.1 ++ secs, a.2 ++ failIf (secs.any a.1.contains) [dLoop] rsCapacity [key oSecBase i, key oSlotCfg i, key oBrLen i])).2

/-- A tap (R274). -/
def Eff.tapFails (e : Eff s0) (t : Nat) : List Failure :=
  let w := e.cv oTapSel t
  let node := field w 9 4
  let i := field w 0 9
  let n := (e.slotSecs i).flatten.length
  failIf (8 < node || (6 ≤ node && 59 < field w 13 6)) [dLoop] rsRange [key oTapSel t] ++
  failIf (bitOf w 22 && node ≤ 8 && ((1 ≤ node && node ≤ 4 && field (e.slotCfg i) 19 2 < node - 1) ||
    (6 ≤ node && n ≤ field w 13 6))) [dLoop] rsInconsistent [key oTapSel t, key oSlotCfg i, key oBrLen i]

/-- The bound POINTREFs of slots that are not enabled (R257); inputs from NIN upward are ignored. -/
def Eff.looseRefs (e : Eff s0) : List Failure :=
  e.cfg.flatMap fun p =>
    let o := p.1 / 65536
    let j := p.1 % 65536
    let i := if o = oInPt then j / 4 else j
    if (o = oInPt && j % 4 < field (e.slotCfg i) 16 3) || o = oLimPt || o = oRunPt then
      (if bitOf (e.slotCfg i) 0 then [] else e.bindFails dLoop o j)
    else []

/-- The loop engine's set. -/
def Eff.loopFails (e : Eff s0) : List Failure :=
  e.looseRefs ++
  (e.slotsNamed.flatMap fun i => e.slotRange i) ++ (e.enabledSlots.flatMap fun i => e.slotFails i) ++ e.sharedSections ++
  ((List.range 16).flatMap fun t => e.tapFails t) ++
  ([8, 9].flatMap fun f => failIf (120 < e.laneLoad f) [dLoop] rsBudget
    ((List.range 512).map (key oSlotCfg ·) ++ (List.range 512).map (key oBrLen ·)))

/-! ### The hub (R233 to R243) and its gates (R395, R413) -/

/-- Whether an event code of R238 exists. -/
def maskCode (v : Nat) : Bool := v ≤ 0x17 || (0x20 ≤ v && v ≤ 0x27) || (0x30 ≤ v && v ≤ 0x37) || v == 0xFF

/-- Leg u of the hub set. -/
def Eff.legFails (e : Eff s0) (u : Nat) : List Failure :=
  let per := e.cv oPer u
  let mode := e.cv oLegMode u
  let tick := max 1 (e.cv oFastTick)
  let srcs := [2 * u, 2 * u + 1].filter fun i => (pointOf (e.cv oSrc i)).isSome
  let off := per % tick != 0 || e.cv oPhase u % tick != 0 || (bitOf mode 3 && per / 2 % tick != 0)
  failIf (per ≤ e.cv oPhase u) [dHub] rsRange [key oPhase u, key oPer u] ++
  failIf (bitOf mode 3 && !bitOf mode 0) [dHub] rsInconsistent [key oLegMode u] ++
  failIf (bitOf mode 0 && per % 2 == 1) [dHub] rsInconsistent [key oLegMode u, key oPer u] ++
  failIf (!srcs.isEmpty && off) [dHub] rsInconsistent
    ([key oLegMode u, key oPer u, key oPhase u, key oFastTick 0] ++ srcs.map (key oSrc ·)) ++
  (srcs.flatMap fun i => failIf (!((slotOfRef (e.cv oSrc i)).any fun n =>
    bitOf (e.slotCfg n) 0 && 8 ≤ slotLane (e.slotCfg n))) [dHub, dLoop] rsReference [key oSrc i]) ++
  failIf (bitOf (e.cv oSafeLevels) (2 * u) && bitOf (e.cv oSafeLevels) (2 * u + 1)) [dHub] rsInconsistent [key oSafeLevels 0] ++
  failIf (e.cv oLegEn u == 1 && e.cv oDt u < 8 * e.cv oGateDtMin u) [dGate, dHub] rsInconsistent
    [key oLegEn u, key oDt u, key oGateDtMin u] ++
  ((List.range 8).flatMap fun i =>
    let own := e.cv oHubGroup u
    (List.range 4).flatMap fun g => failIf (g != own && field (e.cv oMaskPat (8 * g + i)) (2 * u) 2 != 0) [dHub] rsInconsistent
      [key oHubGroup u, key oMaskPat (8 * g + i)])

/-- The rest of the hub set (R238, R240, R242). -/
def Eff.hubFails (e : Eff s0) : List Failure :=
  let frozen := (List.range 4).filter fun g => e.cv oHaltMode g == 1
  let word := 0x465A_0000 + frozen.foldl (fun a g => a + 2 ^ g) 0
  ((List.range 12).flatMap fun u => e.legFails u) ++
  failIf (e.cv oFastTick < e.cv oTickLead + 800) [dHub] rsRange [key oFastTick 0, key oTickLead 0] ++
  ((List.range 32).flatMap fun i => failIf (!maskCode (e.cv oMaskEvt i)) [dHub] rsRange [key oMaskEvt i]) ++
  failIf (!frozen.isEmpty && e.cv oFreezeConfirm != word) [dHub] rsInconsistent
    (key oFreezeConfirm 0 :: (List.range 4).map (key oHaltMode ·))

/-- AX_SRC of an output in mode 1 or 2 (R413). -/
def Eff.gateFails (e : Eff s0) : List Failure :=
  (List.range 16).flatMap fun a => if e.cv oAxMode a = 0 then [] else e.bindFails dGate oAxSrc a true

/-! ### Converters (R366, R375, R381, R385, R571) -/

/-- Converter f. -/
def Eff.convFails (e : Eff s0) (f : Nat) : List Failure :=
  let on := e.seqsOn f
  let tick := on.filter fun q => seqSrc (e.seqCfg f q) == 2
  let paired := f % 2 == 1 && e.cv oPairMode (f / 2) != 0
  let el (q : Nat) : Nat := key oSeqCfg (4 * f + q)
  let els := (List.range 4).map el ++ (List.range 32).map fun i => key oEntry (32 * f + i)
  ((List.range 4).flatMap fun q =>
    let w := e.seqCfg f q
    let src := seqSrc w
    let tci := field w 3 5
    failIf (5 ≤ src || 24 ≤ tci || (src != 0 && (field w 13 6 == 0 || 32 < field w 13 6))) [dConv] rsRange [el q] ++
    failIf (32 < field w 8 5 + field w 13 6) [dConv] rsInconsistent [el q] ++
    failIf (src == 3 && tci < 24 && (e.cv oLegEn (tci / 2) == 0 || e.cv oTc tci == 0xFFFF_FFFF)) [dConv, dHub] rsInconsistent
      [el q, key oLegEn (tci / 2), key oTc tci]) ++
  failIf (!tick.isEmpty && 1 < on.length) [dConv] rsInconsistent (on.map el) ++
  failIf (paired && !on.isEmpty) [dConv] rsInconsistent (key oPairMode (f / 2) :: on.map el) ++
  (on.flatMap fun q =>
    let w := e.seqCfg f q
    let last := e.seqConversions f q - 1
    if seqSrc w = 1 then
      let edge := (2 * e.cv oSampleOffset + 24) / 25 * 25
      failIf (2 * e.cv oDeadline < edge + 25 * last + 141) [dConv, dSched] rsBudget
        (els ++ [key oSampleOffset 0, key oDeadline 0])
    else if seqSrc w = 2 then
      let mine (n : Nat) : Bool := (0x1000 + 8 * f ≤ n && n < 0x1008 + 8 * f) ||
        (f % 2 == 0 && 0x1040 + 4 * f ≤ n && n < 0x1048 + 4 * f)
      let lanes := [8, 9].filter fun lane => e.enabledSlots.any fun i =>
        slotLane (e.slotCfg i) == lane && (e.slotRefs i).any mine
      let load := lanes.foldl (fun m lane => max m (e.laneLoad lane)) 0
      failIf (e.cv oTickLead < 224 + 100 * last + 564 + 8 * ((load * 5 + 5) / 6)) [dConv, dHub, dLoop] rsBudget
        (els ++ [key oTickLead 0] ++ (List.range 512).map (key oSlotCfg ·))
    else [])

/-- The clock pins of the XB inputs (R571). -/
def Eff.xbFails (e : Eff s0) : List Failure :=
  (List.range 8).flatMap fun x =>
    let w := e.cv oXbClk x
    failIf (e.cv oClkoutCfg (field w 2 2) != field w 0 2 + 1) [dConv] rsInconsistent
      [key oXbClk x, key oClkoutCfg (field w 2 2)]

/-! ### Dispatch, assay, faults, time, lanes, acquisition -/

/-- Contracts in force and ratings (R33, R306). -/
def Eff.dispFails (e : Eff s0) : List Failure :=
  (allCells.flatMap fun n =>
    failIf (e.cv oPackVnom n != 0 && e.cv oPortIrated n == 0) [dDisp] rsRange [key oPortIrated n, key oPackVnom n] ++
    (if e.cv oContractPack n = 0 then [] else
      let bad (b : Bool) (os : List Nat) : List Failure := failIf b [dDisp] rsInconsistent (os.map fun o => key o n)
      bad (e.cv oCapAh n == 0) [oCapAh, oContractPack] ++
      failIf (e.cv oCapAh n != 0 && (e.cv oCapAh n < 10 || 10000 < e.cv oCapAh n)) [dDisp] rsRange [key oCapAh n, key oContractPack n] ++
      bad (e.cv oSocMax n ≤ e.cv oSocMin n) [oSocMin, oSocMax, oContractPack] ++
      bad (signed 16 (e.cv oTMax n) ≤ signed 16 (e.cv oTMin n)) [oTMin, oTMax, oContractPack] ++
      bad (e.cv oSocMin n < e.cv oEmergSocMin n) [oEmergSocMin, oSocMin, oContractPack] ++
      bad (e.cv oVcellFull n ≤ e.cv oVcellEmpty n) [oVcellEmpty, oVcellFull, oContractPack] ++
      bad (e.cv oPackVnom n == 0) [oPackVnom, oContractPack])) ++
  e.bindFails dDisp oDispReqPt 0

/-- Bins of the assay (R338). -/
def Eff.assayFails (e : Eff s0) : List Failure :=
  let w := e.cv oAssayWindow
  let on := (List.range 8).filter fun b => e.cv oAssayFreq b != 0
  let near (a b : Nat) : Bool :=
    let d := max (e.cv oAssayFreq a) (e.cv oAssayFreq b) - min (e.cv oAssayFreq a) (e.cv oAssayFreq b)
    d == 0 || d * w < 4000
  (on.flatMap fun b =>
    failIf (on.any fun a => a < b && near a b) [dAssay] rsInconsistent [key oAssayFreq b, key oAssayWindow 0] ++
    failIf (e.cv oAssayFreq b * w < 1000 * e.cv oMinCycles) [dAssay] rsInconsistent
      [key oAssayFreq b, key oAssayWindow 0, key oMinCycles 0]) ++
  failIf (on.all fun b => e.cv oBinWeight b == 0) [dAssay] rsInconsistent ((List.range 8).map (key oBinWeight ·))

/-- Whether an entry of the reaction table is fixed at its default: its Least value equals it, or its kind is reserved (R436). -/
def reactionFixed (k : Nat) : Bool :=
  match kind? k with
  | none => true
  | some r => (r.least != 0 && r.least == r.dev) || k == 0x30 || k == 0xC6 || k == 0xC7

/-- The reaction table (R431, R436) and EV_SLOT (R448). -/
def Eff.faultFails (e : Eff s0) : List Failure :=
  ((List.range 512).flatMap fun i =>
    let v := e.cv oReaction i
    let least := match kind? (i / 2) with
      | some r => r.least
      | none => 0
    failIf (v < least || (reactionFixed (i / 2) && v != reactionDefault i)) [dFault] rsRange [key oReaction i] ++
    failIf ((i % 2 == 0 && v == 3) || (i % 2 == 1 && v == 4)) [dFault] rsInconsistent [key oReaction i]) ++
  ((List.range 64).flatMap fun m =>
    let i := e.cv oEvSlot m
    failIf (i != 0xFFFF && !(i < 512 && bitOf (e.slotCfg i) 0)) [dFault, dLoop] rsReference [key oEvSlot m])

/-- Lanes (R145, R167). -/
def Eff.linkFails (e : Eff s0) : List Failure :=
  (List.range 28).flatMap fun l =>
    failIf (24 < e.cv oTxPre l + e.cv oTxPost l) [dLink] rsInconsistent [key oTxPre l, key oTxPost l] ++
    failIf (e.cv oLaneMode l == 2 && l < 26) [dLink] rsRange [key oLaneMode l]

/-- PTP_PROFILE and PTP_TRANSPORT (R496). -/
def Eff.timeFails (e : Eff s0) : List Failure :=
  failIf (e.cv oPtpProfile == 1 && e.cv oPtpTransport == 1) [dTime] rsInconsistent [key oPtpProfile 0, key oPtpTransport 0]

/-- Watch units (R537, R562). -/
def Eff.acqFails (e : Eff s0) : List Failure :=
  let on := (List.range 32).filter fun u => e.wuMode u != 0
  let span (o n : Nat) (u : Nat) : Nat × Nat := (e.cv o u, e.cv o u + e.cv n u)
  let meets (a b : Nat × Nat) : Bool := a.1 < b.2 && b.1 < a.2 && a.1 < a.2 && b.1 < b.2
  ((List.range 32).flatMap fun u =>
    let w := e.cv oWuCfg u
    failIf (w % 4 == 3 || field w 4 2 == 3 || (field w 6 2 == 2 && 31 < e.cv oWuTrigSel u)) [dAcq] rsRange
      [key oWuCfg u, key oWuTrigSel u]) ++
  (on.flatMap fun u =>
    let l := span oWuBase oWuLen u
    let r := span oWuRbase oWuRsize u
    failIf (4096 < l.2 || on.any fun v => v < u && meets (span oWuBase oWuLen v) l) [dAcq] rsCapacity
      [key oWuBase u, key oWuLen u, key oWuCfg u] ++
    failIf (512 < r.2 || on.any fun v => v < u && meets (span oWuRbase oWuRsize v) r) [dAcq] rsCapacity
      [key oWuRbase u, key oWuRsize u, key oWuCfg u] ++
    ((List.range (min 4096 l.2 - l.1)).flatMap fun i => failIf (pointOf (e.cv oWlPt (l.1 + i))).isNone [dAcq] rsReference
      [key oWlPt (l.1 + i), key oWuLen u]))

/-! ### The point store (R532, R533, R535) and the journal (R551) -/

/-- How many of some points' lines lie in bank b. -/
def linesIn (b : Nat) (pts : List Nat) : Nat := (((pts.map (· / 8)).dedup).filter fun l => l % 8 == b).length

/-- NEED[r][b] (R533). -/
def Eff.need (e : Eff s0) (r b : Nat) : Nat :=
  let inst := e.cellsIn
  match r with
  | 4 =>
    let outs := e.enabledSlots.map (0x2000 + ·)
    linesIn b (outs ++ (List.range 64).map (0x2400 + ·) ++ (List.range 0x21).map (0x3000 + ·)) +
      (if b = 4 ∨ b = 5 then inst.length else 0)
  | 5 =>
    let outs := (e.enabledSlots.filter fun i => 8 ≤ slotLane (e.slotCfg i)).map (0x2000 + ·)
    linesIn b outs * e.ticksPerFrame
  | 6 => (if b < 3 then e.portList.length else 0) + (if b = 0 then 1 else 0)
  | 7 =>
    allCells.foldl (init := 0) fun m n =>
      if e.assayed n then
        max m ((if b % 4 = 3 then 0 else 128) + (if b = 1 then 1 else 0) + (if n / 2 % 8 = b then 1 else 0))
      else m
  | 8 =>
    let taps := (List.range 16).filter fun t => bitOf (e.cv oTapSel t) 22
    (((List.range 32).filter fun u => e.wuMode u != 0).foldl (init := 0) fun a u =>
      a + ((e.wuLines u b).length + e.wuScan u - 1) / e.wuScan u) + linesIn b (taps.map (0x2480 + ·))
  | 9 => linesIn b (e.convFrame ++ e.convTick)
  | _ =>
    if r < 4 then (inst.filter fun c => c / 48 == r).length * (5 + if b < 3 then 1 else 0)
    else 0

/-- The slots of the committed table that requester r owns in bank b (R532). -/
def Eff.tableSlots (e : Eff s0) (b r : Nat) : Nat :=
  ((List.range 128).filter fun i => e.cv oSlotTable (128 * b + i) == 16 + r).length

/-- G[r][b] (R532). -/
def Eff.guaranteed (e : Eff s0) (r b : Nat) : Nat := e.tableSlots b r * (e.tf / 128)

/-- The point-store set against every need (R533, R535). -/
def Eff.storeFails (e : Eff s0) : List Failure :=
  ((List.range 8).flatMap fun b => (List.range 16).flatMap fun r =>
    failIf (e.guaranteed r b < e.need r b) [dStore, dLink, dSched, dLoop, dCasc, dDisp, dAssay, dAcq] rsCapacity
      [key oSlotTable (128 * b)]) ++
  ((List.range 1024).flatMap fun i =>
    let w := e.cv oSlotTable i
    failIf (!bitOf w 4 && w % 16 != 0) [dStore] rsInconsistent [key oSlotTable i])

/-- The journal's capacity (R551). -/
def Eff.journalFails (e : Eff s0) : List Failure :=
  failIf (12 * 1048576 < (2 * e.cv oCkptFrames + 96) * e.eMax) [dPair, dLink, dCasc, dConv, dHub, dLoop] rsCapacity
    [key oCkptFrames 0]

/-! ### The check of a commit -/

/-- Every relation that the sets break. -/
def Eff.failures (e : Eff s0) : List Failure :=
  e.topologyFails ++ e.cascFails ++ e.schedFails ++ e.loopFails ++ e.hubFails ++ e.gateFails ++
    ((List.range 4).flatMap fun f => e.convFails f) ++ e.xbFails ++ e.dispFails ++ e.assayFails ++ e.faultFails ++ e.linkFails ++
    e.timeFails ++ e.acqFails ++ e.storeFails ++ e.journalFails

/-- Whether a value lies within the stated range of its object (R67, R68, R76). -/
def inRange (r : ObjRow) (v : Nat) : Bool :=
  (r.ty != .pointref || !bitOf v 31 || v % 2 ^ 21 == 0) &&
  match r.rng with
  | .any => true
  | .range lo hi => lo ≤ v && v ≤ hi
  | .srange lo hi => decide (lo ≤ signed (8 * r.ty.width) v ∧ signed (8 * r.ty.width) v ≤ hi)
  | .step lo hi st => lo ≤ v && v ≤ hi && v % st == 0
  | .orVal lo hi x => (lo ≤ v && v ≤ hi) || v == x
  | .oneOf vs => vs.contains v

/-- Whether the block that owns an element is idle (R70): in READY and SAFE every block; a lane also while it is stopped. -/
def Eff.idleFor (e : Eff s0) (obj elem : Nat) : Bool :=
  let st := e.st.devState
  st == .ready || st == .safe || (obj / 65536 == 0x20 && obj % 65536 < 7 && (e.lane elem).stopped)

/-- A refusal: its reason, and the object and element first implicated (R76, R85). -/
structure Refused where
  reason : Nat
  obj : Nat
  elem : Nat
  deriving DecidableEq, Repr

/-- The element a failure names: the lowest staged one of those implicated, else the first. -/
def Failure.named (f : Failure) (staged : List (Nat × Nat)) : Nat :=
  match f.elems.filter fun k => staged.any (·.1 == k) with
  | [] => f.elems.headD 0xFF_FFFF_0000
  | k :: r => r.foldl min k

/-- The refusal of the lowest reason code, then the lowest object and element. -/
def firstRefusal (l : List (Nat × Nat)) : Option Refused :=
  match l with
  | [] => none
  | p :: r =>
    let best := r.foldl (fun a b => if b.1 < a.1 ∨ (b.1 = a.1 ∧ b.2 < a.2) then b else a) p
    some ⟨best.1, best.2 / 65536, best.2 % 65536⟩

/-- The check of domain d with a set of values (R73, R76), against the committed sets and `others` above them; `running` also
checks that the blocks of RWS objects are idle. The order among the reasons is that of their codes. -/
def Eff.checkSet (e : Eff s0) (d : Nat) (values others : List (Nat × Nat)) (running : Bool) : Option Refused :=
  let own := values.flatMap fun kv =>
    match objRow? (kv.1 / 65536) with
    | none => []
    | some r =>
      (if inRange r kv.2 then [] else [(rsRange, kv.1)]) ++
      (if running && r.acc == .rws && ((e.dom d).left.contains kv.1 || !e.idleFor (kv.1 / 65536) (kv.1 % 65536)) then
        [(rsNotStopped, kv.1)] else [])
  let rel := ((Eff.start (e.st.withSet (others ++ values))).failures.filter (·.doms.contains d)).map fun f =>
    (f.reason, f.named values)
  firstRefusal (own ++ rel)

end Sys2Proof.Machine
end

