-- ==== Sys2Proof/Machine/Device.lean ====
section
/-! DEFINITION. The device state machine (R101 to R131): its actions, the resolution of events at a frame boundary, what entry to
a state does, the judgements of a deadline, its timeouts, and the events that carry discovery on. Transitions that the manual gives
no STATE_CAUSE carry 0. -/

namespace Sys2Proof.Machine

variable {s0 : Root}

/-! ### The auxiliary outputs (R412, R413) -/

/-- The level that R412 gives output n: whether it is ordered on, whether mode 2 drives it, and its fraction in 1/256. -/
def Eff.auxWant (e : Eff s0) (n : Nat) : Bool × Bool × Nat :=
  let st := e.dev.state
  if !e.isActive || st == .off || st == .boot then (false, false, 0)
  else if n = e.cv oBrkAux then (e.dev.brkAt.isSome, false, 0)
  else if st == .ready || st == .discover then (e.cv oAxIdle n == 1, false, 0)
  else if st == .safe then (e.cv oAxSafe n == 1, false, 0)
  else
    let src := e.cv oAxSrc n
    let v : Int := if src = 0x8000_0000 then 0 else e.pv src
    match e.cv oAxMode n with
    | 0 => (e.cv oAxLevel n == 1, false, 0)
    | 1 => (decide (0x4000_0000 ≤ v), false, 0)
    | _ =>
      let d := (clampTo 0 256 (rdiv (v * 256) (2 ^ 31))).toNat
      if 0 < v then (true, true, d) else (false, false, 0)

/-- Every output takes its level at a frame start; the one under test in step 9 keeps its own (R412). -/
def Eff.auxFrame (e : Eff s0) : Eff s0 :=
  e.each (List.range 16) fun e n =>
    let a := e.out n
    let (on, pwm, d) := e.auxWant n
    if a.testing && (e.dev.state == .discover || !on) then e
    else if a.cmd == on && a.mode2 == pwm && a.duty == d then e
    else
      let e := e.orderOut n on pwm d
      e.when a.testing fun e => (e.modDev fun v => { v with auxTodo := v.auxTodo.filter (· != n) }).nextTest

/-! ### Entry to a state -/

/-- Entry to CHARGE (R120, R137): the phase that the packs and the bus give; with neither CHARGE fails at once. -/
def Eff.enterCharge (e : Eff s0) : Eff s0 :=
  let packs := allCells.any e.packOk
  let bus := match e.lvBus (allCells.filter e.installed) with
    | some v => decide (9 * unit40 (e.cv oVlvNom) < 10 * v)
    | none => false
  let e := e.modDev fun v => { v with
    chargeAt := e.time.up, chargeHold := 0, chargePhase := if packs then 1 else if bus then 3 else 1 }
  let e := e.each allCells fun e c =>
    e.when ((e.cell c).state == .joining) (·.modCell c fun x => { x with joinCount := 0, joinAt := e.time.up })
  e.when (!packs && !bus) (·.pushEv .stopping 3)

/-- Entry to SYNC (R123, R124): the IDLE cells of the used phases, up to 64 of each, are to become ACTIVE at the next deadline, under
R133 and R138. -/
def Eff.enterSync (e : Eff s0) : Eff s0 :=
  let e := e.modDev fun v => { v with
    syncAt := e.time.up, syncFrame := e.frame.k, syncGood := 0, syncBlockOk := true, syncReady := false, matched := false
    brkAt := none, bootStage := 10, brkOpen := 1 }
  e.each e.usedPhases fun e p =>
    e.each ((allCells.filter fun c => e.phase c == p && (e.cell c).state == .idle).take 64) fun e c =>
      e.modCell c fun x => { x with want := true }

/-- Entry to SAFE (R131): every cell in JOINING, IDLE or ACTIVE is BYPASSED with cause TRIP. -/
def Eff.enterSafe (e : Eff s0) : Eff s0 :=
  let e := (e.stopHub.modDev fun v => { v with brkAt := none }).modFaults fun f => { f with safeEntry := some e.time.up }
  e.each allCells fun e c =>
    let st := (e.cell c).state
    e.when (st == .joining || st == .idle || st == .active) (·.enterCell c .bypassed 8)

/-- Ends emergency support (R320). -/
def Eff.endEmergency (e : Eff s0) : Eff s0 := e.modMeter fun m => { m with emerg := false, emergNext := none }

/-- The device enters a state with its cause (R103, R105). -/
def Eff.enterState (e : Eff s0) (d : DevState) (cause : Nat) : Eff s0 :=
  let old := e.dev.state
  if d = old then e
  else
    let e := e.setState d cause
    match d with
    | .ready =>
      let e := (e.endEmergency.stopHub.modHub fun h => { h with halted := [] }).modDev fun v => { v with brkAt := none, auxTodo := [] }
      let e := e.each (List.range 16) fun e n => e.when (e.out n).testing (·.setOut n fun a => { a with testing := false, result := 5 })
      e.when (e.isActive && !e.gate.hiZ) (·.safeLevels (List.range 12))
    | .discover => e.enterDiscover
    | .charge => (e.modDev fun v => { v with bootStage := 9 }).enterCharge
    | .sync => e.enterSync
    | .run =>
      let e := e.when (old != .derated) (·.modDev fun v => { v with brkOpen := 0 })
      e.when (old == .sync) fun e => (e.modDev fun v => { v with bootStage := 11 }).startHub
    | .stopping =>
      let early := old == .discover || old == .charge
      let e := e.modDev fun v => { v with stopAt := e.time.up, stopStep := if early then 4 else 1, auxTodo := [] }
      e.modCasc fun c => { c with stopFrom := c.pwr, stopK := e.frame.k }
    | .safe => e.endEmergency.enterSafe
    | _ => e

/-! ### Events at a frame boundary (R103, R104) -/

/-- Whether R103 lists a transition to a state from the present one. -/
def DevState.listed (st d : DevState) : Bool :=
  match d with
  | .safe => st != .off && st != .boot && st != .safe
  | .stopping => st == .discover || st == .charge || st == .sync || st == .run || st == .derated
  | .derated => st == .run
  | .run => st == .sync || st == .derated
  | .ready => st == .stopping || st == .safe
  | .discover => st == .ready
  | .charge => st == .discover
  | .sync => st == .charge
  | _ => false

/-- STATE_CAUSE of an entry to DERATED: PWR_FAIL_N, the fault table, or none for redundancy (R106). -/
def Eff.derateCause (e : Eff s0) : Nat :=
  if bitOf e.dev.derate 3 then 8 else if e.dev.derate % 4 != 0 then 5 else 0

/-- An event that loses is recorded and an action behind it answered BUSY (R104). -/
def Eff.supersede (e : Eff s0) (v : StateEv) : Eff s0 :=
  let e := e.report { source := 0x0F0, kind := kEventSuperseded, addr := v.dest.code, withheld := true }
  e.finish v.answer (ansErr stBusy)

/-- The event of highest rank, the first among equals. -/
def topEvent (l : List StateEv) : Option StateEv :=
  l.foldl (init := none) fun best v =>
    match best with
    | none => some v
    | some b => if b.dest.rank < v.dest.rank then some v else best

/-- The transition of the frame boundary on the active device: the winner of R104 takes effect. The hub-stage bit clears once the
stage latch is clear (R127); any bit of DERATE_CAUSES leads from RUN to DERATED, and keeps DERATED from being left. -/
def Eff.stateBoundary (e : Eff s0) : Eff s0 :=
  let e := e.when (bitOf e.dev.derate 1 && !e.gate.stage) (·.derateUnset 1)
  let evs := e.dev.events
  let e := e.modDev fun v => { v with events := [] }
  let st := e.dev.state
  let held := e.dev.derate != 0
  let dead := evs.filter fun v => !st.listed v.dest
  let evs := evs.filter fun v => st.listed v.dest
  let e := e.each dead fun e v => e.finish v.answer (ansErr stBusy)
  let back := st == .derated && evs.any (·.dest == .run)
  let evs := if held && (st == .run || back) then evs ++ [⟨.derated, e.derateCause, .nobody⟩] else evs
  match topEvent evs with
  | none => e
  | some w =>
    let i := evs.idxOf w
    let e := e.each (evs.take i ++ evs.drop (i + 1)) fun e v => e.supersede v
    let e := e.when (w.dest != st) fun e =>
      (e.jitem 7 0 (actionPayload oDevState [BitVec.ofNat 8 w.dest.code, BitVec.ofNat 8 w.cause])).enterState w.dest w.cause
    e.finish w.answer ansOk

/-! ### Actions (R105) -/

/-- What the four actions share (R105): in BOOT they are refused with BUSY, elsewhere with NOT_ACTIVE on a device that is not ACTIVE. -/
def Eff.stateAction (e : Eff s0) (args : List Byte) (f : ActRes s0) : ActRes s0 :=
  if !e.isActive && e.dev.state != .boot then (e, some (ansErr stNotActive))
  else if args ≠ [] then (e, some (ansErr stType))
  else if e.dev.state == .boot then (e, some (ansErr stBusy))
  else f

/-- START. -/
def actStart (e : Eff s0) (c : Ctx) (args : List Byte) : ActRes s0 :=
  e.stateAction args <|
    match e.dev.state with
    | .ready => (e.pushEv .discover 1 c.ret, none)
    | .discover => (e, some ansNoChange)
    | .run => (e, some ansNoChange)
    | .derated =>
      if e.dev.derate = 0 ∧ e.cv oDerateAuto = 0 then (e.pushEv .run 1 c.ret, none) else (e, some (ansErr stBusy))
    | _ => (e, some (ansErr stBusy))

/-- STOP. -/
def actStop (e : Eff s0) (c : Ctx) (args : List Byte) : ActRes s0 :=
  e.stateAction args <|
    match e.dev.state with
    | .stopping => (e, some ansNoChange)
    | .ready => (e, some ansNoChange)
    | st => if st.listed .stopping then (e.pushEv .stopping 1 c.ret, none) else (e, some (ansErr stBusy))

/-- TRIP: the trip acts at once, through the reaction of TRIP_ACTION (R436, R437). -/
def actTrip (e : Eff s0) (c : Ctx) (args : List Byte) : ActRes s0 :=
  e.stateAction args <|
    match e.dev.state with
    | .safe => (e, some ansNoChange)
    | .off => (e, some (ansErr stBusy))
    | _ => (e.fault 0x0F0 kTripAction c.sess, some ansOk)

/-- SAFE_EXIT: refused while a HALT_SAFE condition persists. -/
def actSafeExit (e : Eff s0) (c : Ctx) (args : List Byte) : ActRes s0 :=
  e.stateAction args <|
    match e.dev.state with
    | .ready => (e, some ansNoChange)
    | .safe => if e.condAtLeast 7 then (e, some (ansErr stBusy)) else (e.pushEv .ready 1 c.ret, none)
    | _ => (e, some (ansErr stBusy))

/-- START as a request: OPERATOR, ACTIVE. -/
def execStart (q : Req) (args : List Byte) (s : State) : Host.Outcome State Fault Refusal :=
  .next ((Eff.start s).invoke q oStart args 1 false actStart).st

/-- STOP as a request: OPERATOR, ACTIVE. -/
def execStop (q : Req) (args : List Byte) (s : State) : Host.Outcome State Fault Refusal :=
  .next ((Eff.start s).invoke q oStop args 1 false actStop).st

/-- TRIP as a request: OPERATOR, ACTIVE. -/
def execTrip (q : Req) (args : List Byte) (s : State) : Host.Outcome State Fault Refusal :=
  .next ((Eff.start s).invoke q oTrip args 1 false actTrip).st

/-- SAFE_EXIT as a request: ENGINEER, ACTIVE. -/
def execSafeExit (q : Req) (args : List Byte) (s : State) : Host.Outcome State Fault Refusal :=
  .next ((Eff.start s).invoke q oSafeExit args 2 false actSafeExit).st

/-! ### Judgements of a deadline -/

/-- Whether the LV bus lies within ±2 % of VLV_NOM: the mean of the present VLV values of the IDLE cells (R120). -/
def Eff.busInTol (e : Eff s0) : Bool :=
  let nom := unit40 (e.cv oVlvNom)
  match e.lvBus (allCells.filter fun c => (e.cell c).state == .idle) with
  | some v => decide (50 * iabs (v - nom) ≤ nom)
  | none => false

/-- The IDLE cells. -/
def Eff.idleCells (e : Eff s0) : List Nat := allCells.filter fun c => (e.cell c).state == .idle

/-- CHARGE at a deadline (R120, R122): the end of a phase, whose successor starts with the next frame, and the 20 frames. -/
def Eff.judgeCharge (e : Eff s0) : Eff s0 :=
  let idle := e.idleCells
  let packs := idle.filter e.packOk
  let bus := e.busInTol
  let ph := e.dev.chargePhase
  let next := if ph = 1 && !packs.isEmpty && packs.all e.linkInTol then 2 else if ph = 2 && bus then 3 else ph
  let enough := e.usedPhases.all fun p => decide (e.nmin p ≤ (idle.filter fun c => e.phase c == p).length)
  let good := bus && idle.all e.linkInTol && enough
  let n := if good then e.dev.chargeHold + 1 else 0
  let e := e.modDev fun v => { v with chargePhase := next, chargeHold := n }
  e.when (decide (20 ≤ n)) (·.pushEv .sync 0)

/-- Whether the voltages match at a deadline (R124). -/
def Eff.syncMatches (e : Eff s0) : Bool :=
  let vtol : Int := e.cv oSyncVtol
  let atol : Int := e.cv oSyncAtol
  (e.usedPhases.all fun p =>
    decide (iabs (e.pv (0x3018 + p)) * 10000 ≤ vtol * 2 ^ 31 ∧ iabs (e.pv (0x301C + p)) * 18000 ≤ atol * 2 ^ 31)) &&
    decide (45 * twoPi ≤ e.casc.w ∧ e.casc.w ≤ 65 * twoPi)

/-- SYNC at a deadline (R124, R125): the block of frames, the count of matched cycles, BRK_AUX or SYNC_READY, and closure. Once
BRK_AUX is energised a cycle that fails does not withdraw it; with BRK_AUX = 0xFF it does withdraw the match, and the next full count
raises SYNC_READY anew. A closure without a full count before it is BRK_UNSYNC, once for each closure. -/
def Eff.judgeSync (e : Eff s0) : Eff s0 :=
  let n := e.cycleFrames
  let pos := (e.frame.k - e.dev.syncFrame) % n
  let ok := (pos == 0 || e.dev.syncBlockOk) && e.casc.lock
  let e := e.modDev fun v => { v with syncBlockOk := ok }
  let own := e.cv oBrkAux = 0xFF
  let e := if pos + 1 ≠ n then e
    else
      let good := ok && e.syncMatches
      let c := if good then e.dev.syncGood + 1 else 0
      let full := decide (e.cv oSyncHold ≤ c)
      let fresh := full && own && !e.dev.syncReady
      let e := e.modDev fun v => { v with
        syncGood := c
        matched := full || (v.matched && v.brkAt.isSome)
        brkAt := if full && !own && v.brkAt.isNone then some e.time.up else v.brkAt
        syncReady := full && (v.syncReady || fresh) }
      e.when fresh (·.fault 0x0F0 kSyncReady)
  if !e.brkClosed then e.modDev fun v => { v with brkOpen := 1 }
  else if e.dev.matched then e.pushEv .run 0
  else if e.dev.brkOpen = 0 then e
  else (e.modDev fun v => { v with brkOpen := 0 }).fault 0x0F0 kBrkUnsync

/-- RUN and DERATED at a deadline (R126): the breaker read open for 2 consecutive frames without a stop. -/
def Eff.judgeRun (e : Eff s0) : Eff s0 :=
  let n := if e.brkClosed then 0 else min (e.dev.brkOpen + 1) 3
  let e := e.modDev fun v => { v with brkOpen := n }
  e.when (n == 2 && !(e.dev.events.any (·.dest == .stopping))) (·.fault 0x0F0 kBrkTripped)

/-- The string current of every used phase is below 2 % of the rated phase current over a whole grid cycle (R129). -/
def Eff.currentLow (e : Eff s0) : Bool :=
  let n := e.cycleFrames
  let sv : Nat := e.cv oSRated * 1000
  let vll := e.cv oVllNom
  let k3 := if e.cv oConnection = 1 then 1 else 3
  e.casc.means.length == n && (List.range e.usedPhases.length).all fun i =>
    let sq : Int := e.casc.means.foldl (fun (a : Int) r => a + (r.getD i 0) * (r.getD i 0)) 0
    decide (sq * (k3 * vll * vll * 2500 : Nat) < (sv * sv * n : Nat) * 2 ^ 80)

/-- Step 4 of the controlled stop (R129, R133): JOINING and IDLE cells to BYPASSED with cause STOPPED, and READY. -/
def Eff.stopCells (e : Eff s0) : Eff s0 :=
  let e := e.each allCells fun e c =>
    let st := e.cellNext c
    e.when (st == .joining || st == .idle) (·.moveCell c .bypassed 10)
  e.pushEv .ready 0

/-- Every cell that is to be ACTIVE goes to IDLE. -/
def Eff.idleAll (e : Eff s0) : Eff s0 :=
  e.each allCells fun e c => e.when (e.cellNext c == .active) (·.moveCell c .idle (e.cell c).cause)

/-- Steps 3 and 4 of the controlled stop (R129), decided before the records of the next frame are built. Step 3 follows the breaker,
whether or not step 2 has come; step 4 waits until the hub legs have ended their periods. -/
def Eff.stopMoves (e : Eff s0) : Eff s0 :=
  if e.dev.state != .stopping then e
  else if e.dev.stopStep = 4 then e.stopCells
  else if e.brkClosed then e
  else if e.dev.stopStep < 3 then
    ((e.modDev fun v => { v with stopStep := 3, brkAt := none }).idleAll).modHub fun h => { h with stopReq := h.running }
  else if allCells.any fun c => e.cellNext c == .active then e.idleAll
  else if e.hub.running then e
  else e.stopCells

/-- Step 2 of the controlled stop (R129) at a deadline. -/
def Eff.judgeStop (e : Eff s0) : Eff s0 :=
  e.when (e.dev.stopStep == 1 && e.currentLow) fun e =>
    let e := e.modDev fun v => { v with stopStep := 2, brkAt := none }
    e.when (e.cv oBrkAux == 0xFF) (·.fault 0x0F0 kStopReady)

/-- What the state machine judges at a deadline, after the core. -/
def Eff.stateDeadline (e : Eff s0) : Eff s0 :=
  match e.dev.state with
  | .charge => e.judgeCharge
  | .sync => e.judgeSync
  | .run => e.judgeRun
  | .derated => e.judgeRun
  | .stopping => e.judgeStop
  | _ => e

/-! ### Timeouts -/

/-- CHARGE_TIMEOUT (R121): IDLE cells out of tolerance leave with cause CHARGE; with a used phase short of NMIN charged cells the
device goes to STOPPING. -/
def execChargeTimeout (s : State) : Host.Outcome State Fault Refusal :=
  let e := Eff.start s
  if e.dev.state != .charge || !e.isActive || e.time.up < e.dev.chargeAt + e.cv oChargeTimeout * 1000000 then .next e.st
  else
    let bad := e.idleCells.filter fun c => !e.linkInTol c
    let e := e.each bad fun e c => e.depart c 6
    let short := e.usedPhases.any fun p =>
      decide ((e.idleCells.filter fun c => e.phase c == p && e.linkInTol c).length < e.nmin p)
    .next (e.when short (·.pushEv .stopping 3)).st

/-- SYNC_TIMEOUT (R125), counted from entry to SYNC, in every configuration. -/
def execSyncTimeout (s : State) : Host.Outcome State Fault Refusal :=
  let e := Eff.start s
  let due := e.dev.state == .sync && e.isActive && decide (e.dev.syncAt + e.cv oSyncTimeout * 1000000 ≤ e.time.up)
  .next (e.when due (·.pushEv .stopping 4)).st

/-- BRK_FAIL (R125): no closure within BRK_TIME of the energising of BRK_AUX. -/
def execBrkFail (s : State) : Host.Outcome State Fault Refusal :=
  let e := Eff.start s
  match e.dev.brkAt with
  | some t =>
    let due := e.dev.state == .sync && e.isActive && e.cv oBrkAux != 0xFF && !e.brkClosed &&
      !(e.dev.events.any (·.cause == 7)) && decide (t + e.cv oBrkTime * 1000000 ≤ e.time.up)
    .next (e.when due fun e => (e.fault 0x0F0 kBrkFail).pushEv .stopping 7).st
  | none => .next e.st

/-- STOP_TIMEOUT (R130): READY not reached within STOP_RAMP + 1,000 ms with BRK_AUX configured. -/
def execStopTimeout (s : State) : Host.Outcome State Fault Refusal :=
  let e := Eff.start s
  let due := e.dev.state == .stopping && e.isActive && e.cv oBrkAux != 0xFF &&
    decide (e.dev.stopAt + (e.cv oStopRamp + 1000) * 1000000 ≤ e.time.up)
  .next (e.when due (·.tripCascade 5 6)).st

/-- DERATE_CLEAR_TIMEOUT (R127): no derate cause for 1 s, with DERATE_AUTO. -/
def execDerateClearTimeout (s : State) : Host.Outcome State Fault Refusal :=
  let e := Eff.start s
  match e.dev.derateClear with
  | some t =>
    let due := e.dev.state == .derated && e.isActive && e.dev.derate == 0 && e.cv oDerateAuto == 1 &&
      decide (t + 1000000000 ≤ e.time.up)
    .next (e.when due fun e => (e.modDev fun v => { v with derateClear := none }).pushEv .run 0).st
  | none => .next e.st

/-- DERATE_HOLD_EXPIRY (R430): bit 0 of DERATE_CAUSES clears DERATE_HOLD after the last report of class DERATE. -/
def execDerateHoldExpiry (s : State) : Host.Outcome State Fault Refusal :=
  let e := Eff.start s
  let due := bitOf e.dev.derate 0 && decide (e.dev.derateSince + e.cv oDerateHold * 1000000000 ≤ e.time.up)
  .next (e.when due (·.derateUnset 0)).st

/-! ### Discovery and training go on -/

/-- The exit check of DISCOVER (R118) at the end of step 9; without it steps 8 and 9 come again after 1 s. -/
def Eff.exitCheck (e : Eff s0) : Eff s0 :=
  let f := e.dev.discFaults
  let wired := !f.contains kChainMiswired && !f.contains kChainCount
  let cells := e.usedPhases.all fun p =>
    decide (e.nmin p ≤ (allCells.filter fun c => e.phase c == p && e.cellNext c == .joining).length)
  let aux := f.all fun k => !(k == kAuxOpen || k == kAuxShortVaux || k == kAuxShortGnd) ||
    (e.classOf k 0x9000 != 5 && e.classOf k 0x9000 != 7)
  let hops := e.usedChains.all fun n => !e.locked n || (e.hopsOf n).all fun h => 16 ≤ (e.hop n h).measured
  if wired && cells && aux && e.cv oBrkFb != 0x8000_0000 && hops then e.pushEv .charge 0
  else e.modDev fun v => { v with discStep := 10, discAt := e.time.up }

/-- AUX_TEST_DONE (R416, R417): the running test of an output completes with its measured voltages in mV; the next output of a
run of tests follows, and the end of step 9 leads to the exit check. -/
def execAuxTestDone (out : Fin 16) (vaMv vbMv vauxMv : Nat) (s : State) : Host.Outcome State Fault Refusal :=
  let e := Eff.start s
  let n := out.val
  if !(e.out n).testing || e.time.up < (e.out n).testAt + 2 * (e.cv oAxSettle 0 * 1000 + 50000) then .next e.st
  else
    let e := e.auxDecide n vaMv vbMv vauxMv
    let e := e.nextTest
    .next (e.when (e.dev.state == .discover && e.dev.discStep == 9 && e.dev.auxTodo.isEmpty) (·.exitCheck)).st

/-- Step J1 of joining ends with the peer lanes LOCKED (R480): both, or one where the other is down or not enabled. -/
def Eff.joinLanes (e : Eff s0) : Eff s0 :=
  e.when (e.pair.role == .joining && e.pair.joinStep == 1 && e.laneTrained 24 && e.laneTrained 25 && (e.locked 24 || e.locked 25))
    (·.modPair fun p => { p with joinStep := 2, joinAt := e.time.up })

/-- LANE_DOWN (R113, R156): a lane enabled and not LOCKED for 100 ms without a break. -/
def execLaneDown (lane : Fin 28) (s : State) : Host.Outcome State Fault Refusal :=
  let e := Eff.start s
  let l := lane.val
  let x := e.lane l
  if x.enabled && x.state != .locked && !x.downRaised && x.downSince + 100000000 ≤ e.time.up then
    let e := (e.modLane l fun x => { x with downRaised := true }).fault (0x020 + l) kLaneDown l
    .next (e.trainingStep.joinLanes).st
  else .next e.st

/-- The latencies of a new lock (R149), in ps: the transmit latency is not stated but for its bound of 40 ns; the receive latency differs
from that of the lock before by the slip position, at 3,200/33 ps a bit, and is not stated at the first lock but for its bound of 50 ns
(log 115). -/
def Eff.lockLatency (e : Eff s0) (l : Nat) : Eff s0 :=
  let tx := e.freeWord.toNat % 40001
  let e := e.tick
  let base := (e.lane l).rxBase.getD (e.freeWord.toNat % 43698)
  e.tick.modLane l fun x => { x with txLat := tx, rxBase := some base, rxLat := base + (3200 * x.slip + 16) / 33 }

/-- BLOCK_LOCK (R149, R152): the sync headers that a lane in HUNT examines, one per block; block lock comes with the 128th valid one in a
row. An Ethernet lane locks by the rules of its own standard (R164): the event itself is the lock, at the position `slip`, which no
Wynlink lane reads. -/
def execBlockLock (lane : Fin 28) (headers : List (BitVec 2)) (slip : Fin 66) (s : State) : Host.Outcome State Fault Refusal :=
  let e := Eff.start s
  let l := lane.val
  if (e.lane l).state != .hunt then .next e.st
  else
    let x := if l < 26 then (e.lane l).hunts headers else { e.lane l with slip := slip.val }
    let e := e.modLane l fun _ => x
    if x.good < 128 && l < 26 then .next e.st
    else
      let e := e.modLane l fun x => { x with
        state := .locked, good := 0, window := 0, windowBad := 0, rx := none, downRaised := false, lockLostAt := none }
      .next ((e.lockLatency l).trainingStep.joinLanes).st

end Sys2Proof.Machine
end

