-- ==== Sys2Proof/Machine/Report.lean ====
section
/-! DEFINITION. What the read-only objects of the dictionary read (R66, R80, R93, R98, R105, R140, R167, R213, R242, R271, R334,
R358, R384, R408, R420, R448, R483, R515, R534, R561, R586): one entry per object, its value as a function of the element. -/

namespace Sys2Proof.Machine

variable {s0 : Root}

/-! ### Status words -/

/-- SERVO codes (R516). -/
def Servo.code : Servo → Nat
  | .free => 0 | .acquire => 1 | .locked => 2 | .hold => 3

/-- TIME_STATUS (R516). -/
def Eff.timeStatus (e : Eff s0) : Nat :=
  let t := e.time
  let within := t.servo == .locked && decide (iabs t.lastSample ≤ (e.cv oLockTol * 65536 : Nat))
  t.servo.code + 4 * t.source + 16 * ofBool within + 32 * ofBool t.stepped + 64 * ofBool t.valid + 128 * ofBool t.utcFromPtp +
    256 * ofBool (t.leap != 0)

/-- CAL_STATUS (R519). -/
def Eff.calStatus (e : Eff s0) : Nat :=
  let t := e.time
  ofBool t.calValid + 2 * ofBool t.oscOk + 4 * ofBool t.vbatLow + 8 * ofBool t.tamperLow + 16 * t.tamper.length

/-- PTP_PORT_STATE, in the portState codes of IEEE 1588-2019: 6 MASTER, 9 SLAVE, 8 UNCALIBRATED, 4 LISTENING. -/
def Eff.ptpState (e : Eff s0) : Nat :=
  if e.ptpMaster then 6
  else if e.time.source == 1 then (if e.time.servo == .locked then 9 else 8)
  else 4

/-- PAIR_STATUS (R484). -/
def Eff.pairStatus (e : Eff s0) : Nat :=
  let p := e.pair
  ofBool (!p.presentN) + 2 * ofBool p.pathP0 + 4 * ofBool p.pathP1 + 8 * ofBool p.pathC + 16 * ofBool p.synced +
    32 * ofBool p.resync + 64 * ofBool p.replay + 128 * ofBool p.claim + 256 * ofBool p.roleOk + 512 * p.joinStep +
    4096 * p.joinAttempts

/-- GATE_STATUS (R409). -/
def Eff.gateStatus (e : Eff s0) (u : Nat) : Nat :=
  let l := e.leg u
  let h := e.gch (2 * u)
  let w := e.gch (2 * u + 1)
  let bits := [e.enabled u, l.mon, h.isOn, w.isOn, h.supPos && h.supNeg, w.supPos && w.supNeg, h.sense, w.sense, l.trip, l.uv,
    e.gate.stage, l.escalated, l.hTrip, l.lTrip, l.hUv, l.lUv]
  bits.zipIdx.foldl (fun a b => a + 2 ^ b.2 * ofBool b.1) 0

/-- PLL_STATUS (R587). -/
def Eff.pllStatus (e : Eff s0) : Nat :=
  let mask (l : List Nat) : Nat := ([0, 1, 2].filter l.contains).foldl (fun a x => a + 2 ^ x) 0
  mask e.dev.pllLocked + 8 * ofBool (!e.clk.refSysLost) + 16 * ofBool (!e.clk.refLaneLost) + 32 * mask e.clk.holdover +
    256 * mask e.clk.riseFail

/-- Whether the clock of an island runs (R572, R586): 9 stands for the converter clocks, which PLL_C carries. -/
def Eff.islandRuns (e : Eff s0) (i : Nat) : Bool :=
  !e.clk.stopped.contains i && !e.clk.halted.contains i && (i != 9 || e.dev.pllLocked.contains 2) &&
    (i < 10 || (e.lane (i - 10)).state != .off)

/-- ISLAND_CLK (R586). -/
def Eff.islandClk (e : Eff s0) : Nat :=
  (List.range 38).foldl (fun a i => a + 2 ^ i * ofBool (e.islandRuns i)) 0

/-- SUPPLY_STATUS (R588). -/
def Eff.supplyStatus (e : Eff s0) : Nat :=
  (List.range 10).foldl (fun a r => a + 2 ^ r * ofBool (!e.clk.notOk.contains r)) 0 + 1024 * ofBool e.dev.pwrFail +
    2048 * ofBool e.clk.holdup + 4096 * ofBool e.clk.pfDone

/-- INJECT_STATE (R448): [0] open, [1] mode, [9:5] forced points, [31:10] seconds left. -/
def Eff.injectState (e : Eff s0) : Nat :=
  32 * (e.faults.forced.length % 32) +
    match e.faults.inject.filter fun i => decide (e.time.up < i.ends) with
    | none => 0
    | some i => 1 + 2 * i.mode + 1024 * ((i.ends - e.time.up) / 1000000000 % 2 ^ 22)

/-- SESSION_INFO of slot i (R93). -/
def Eff.sessionInfo (e : Eff s0) (i : Nat) : Nat :=
  match smGet none e.sess.slots i with
  | none => 0
  | some x =>
    let via := match x.src with
      | .udp p _ _ => 1 + p.val
      | .can c => 3 + c.val
      | .spi => 5
    x.id + 2 ^ 32 * (x.level % 4) + 2 ^ 34 * via

/-- UP_SLACK of chain n (R213): the least margin of the frames kept. -/
def Eff.upSlack (e : Eff s0) (n : Nat) : Int :=
  match (smGet [] e.chain.slackHist n).filterMap id with
  | [] => 0
  | x :: r => r.foldl min x

/-- A TIMED_SLOT (R517). -/
def Timed.octets (t : Timed) : List Byte :=
  time96 t.target ++ le 8 t.fx ++ le 3 t.obj ++ le 1 (ofBool t.lateOk + 2 * ofBool t.late + 4 * ofBool t.isDone) ++
    le 1 t.status ++ le 1 t.detail ++ le 4 t.sess ++ le 2 t.args.length ++ t.args

/-- LEDGER_INFO (R448): [31:0] the newest SEQ, [47:32] the entries held in the ring, [63:48] those not yet stored. -/
def Eff.ledgerInfo (e : Eff s0) : Nat :=
  (match e.ring with
    | m :: _ => m.seq
    | [] => e.faults.ledgerSeq) + 2 ^ 32 * (e.ring.length % 65536) +
    2 ^ 48 * ((e.ring.filter fun m => e.faults.storedSeq < m.seq).length % 65536)

/-- A free value of an element. -/
def Eff.freeAt (e : Eff s0) (n : Nat) : Nat := (Config.freeWord (e.free + n)).toNat

/-- SLICE_LIVE (R384, R361): the committed values in MANUAL; the background estimates are free values. -/
def Eff.sliceLive (e : Eff s0) (l : Nat) : Nat :=
  if e.ccv (l / 8) oSliceCal (l / 8) = 2 then
    e.ccv (l / 8) oSliceOfs l % 65536 + 65536 * (e.ccv (l / 8) oSliceSkew l % 256) +
      2 ^ 24 * rawBits 32 (signed 32 (e.ccv (l / 8) oSliceGain l) - 0x40000000)
  else (e.freeAt (2 * l) + 2 ^ 32 * e.freeAt (2 * l + 1)) % 2 ^ 56

/-! ### The table of values -/

/-- Objects of areas 0x01 to 0x18. -/
def Eff.roPart1 (e : Eff s0) : List (Nat × (Nat → Nat)) := [
  (oSirev, fun _ => 0x10), (oFwver, fun _ => e.dev.fwVer), (oSerial, fun _ => Config.serial.toNat),
  (oFdrev, fun _ => 0x10), (oBootver, fun _ => Config.bootver.toNat), (oDictver, fun _ => Config.dictver.toNat),
  (oDevState, fun _ => e.st.devState.code), (oStateCause, fun _ => e.dev.cause),
  (oBootStage, fun _ => e.dev.bootStage + 128 * ofBool e.dev.bootFail), (oDerateCauses, fun _ => e.dev.derate),
  (oStageOwner, fun d => (e.dom d).owner), (oCommitSeq, fun d => (e.dom d).seq),
  (oCommitPending, fun d => ofBool (e.committing d)), (oLastRefusal, fun d => (e.dom d).lastRefusal)] ++ [
  (oKeysSet, fun _ => ofBool (e.cv oKOperator != 0 || e.cv oKEngineer != 0)), (oSessionInfo, e.sessionInfo),
  (oAuthFail, fun _ => e.sess.authFail), (oStoreSeq, e.newestSeq), (oStoreStatus, fun _ => if e.persist.job.isSome then 1 + ofBool e.freeBool else e.persist.status),
  (oFlashCount, fun _ => e.persist.count), (oTimeStatus, fun _ => e.timeStatus), (oIncrement, fun _ => e.time.incr),
  (oTimeOffset, fun _ => rawBits 64 e.time.lastSample), (oPtpOffset, fun _ => rawBits 64 e.time.ptpOffset),
  (oPtpPortState, fun _ => e.ptpState), (oPtpGm, fun _ => (e.ptp e.ptpSelected).best.elim 0 (·.gm)),
  (oPtpPathDelay, fun _ => rawBits 64 e.time.pathDelay), (oHopDelay, fun i => (smGet Hop.reset e.st.time.hops i).value),
  (oEchoRejects, fun _ => e.time.echoRejects),
  (oPeerOffset, fun _ => if e.isActive then 0 else rawBits 32 e.time.peerOffset)] ++ [
  (oCalUtc, fun _ => e.calNow), (oCalStatus, fun _ => e.calStatus),
  (oCalTamper, fun i => match e.time.tamper[i]? with
    | some p => p.1 * 2 ^ 60 + p.2 % 2 ^ 60
    | none => 0),
  (oRole, fun _ => e.pair.role.code), (oPairStatus, fun _ => e.pairStatus), (oEpoch, fun _ => e.pair.epoch),
  (oPeerSerial, fun _ => e.pair.peerSerial), (oPeerWord, fun _ => e.pair.peerWord), (oCleanRun, fun _ => e.pair.cleanRun),
  (oIncompleteFrames, fun _ => e.pair.incompleteFrames), (oDivergences, fun _ => e.pair.divergences),
  (oTakeovers, fun _ => e.pair.takeovers), (oLastTakeover, fun _ => e.pair.lastTakeover)]

/-- Objects of areas 0x20 to 0x34. -/
def Eff.roPart2 (e : Eff s0) : List (Nat × (Nat → Nat)) := [
  (oLaneState, fun l => (e.lane l).state.code), (oLaneStatus, fun l => (e.lane l).status),
  (oErrBlocks, fun l => (e.lane l).errBlocks), (oLockLosses, fun l => (e.lane l).lockLosses), (oRxEq, e.rxEq),
  (oEyeMargin, fun l => if e.locked l then e.freeAt l % 65536 else 0), (oLatTx, fun l => if e.locked l then (e.lane l).txLat else e.freeAt l % 40001),
  (oLatRx, fun l => if e.locked l then (e.lane l).rxLat else 0), (oFrameErr, fun l => (e.lane l).frameErr),
  (oUpSlack, fun n => rawBits 32 (e.upSlack n)), (oRelaying, fun n => smGet 0 e.st.chain.relaying n)] ++ [
  (oNmin, fun p => if e.usedPhases.contains p then e.nmin p else 0),
  (oNcell, fun p => (allCells.filter fun c => e.phase c == p).length),
  (oTermId, fun c => (e.cell c).termId), (oPackId, fun c => (e.cell c).packId),
  (oCellState, fun c => (e.cell c).state.code), (oCellCause, fun c => (e.cell c).cause),
  (oTermIfver, fun c => (e.cell c).ifver), (oDisagreeRun, fun c => (e.cell c).disagreeRun),
  (oCopyMismatches, fun c => (e.cell c).mismatches), (oDigestLate, fun _ => e.chain.digestLate)] ++ [
  (oCoreBudget, fun _ => e.coreBudget.toNat), (oDispFrames, fun _ => e.nd), (oPulseMoves, fun _ => e.sched.moves),
  (oHubPeriod, fun u => (e.hleg u).period), (oMaskActive, e.maskActive), (oPairSplits, fun _ => e.hub.splits),
  (oLaneCycles, e.laneLoad), (oCoreTime, fun _ => e.coreTime), (oOverruns, fun _ => e.loop.overruns),
  (oFastLate, fun _ => e.loop.fastLate)]

/-- Objects of areas 0x38 to 0x44. -/
def Eff.roPart3 (e : Eff s0) : List (Nat × (Nat → Nat)) := [
  (oEmergActive, fun _ => ofBool e.meter.emerg),
  (oMeterUnacked, fun n => ((e.mport n).recs.filter fun r => !r.2.2).length), (oImportMwh, fun n => (e.mport n).imp),
  (oExportMwh, fun n => (e.mport n).exp), (oMeterLost, fun _ => e.meter.lost), (oLateSamples, fun _ => e.assay.late),
  (oExcExcluded, fun _ => e.assay.excluded), (oWindowsPublished, fun _ => e.assay.published)] ++ [
  (oSliceLive, e.sliceLive), (oConvStatus, e.convStatus), (oDropped, fun f => (e.fa f).dropped),
  (oInvalidCnt, fun f => (e.fa f).invalid), (oGateStatus, e.gateStatus), (oGateTrips, fun _ => e.gate.trips),
  (oShootGuards, fun _ => e.gate.shoots), (oAxStatus, fun a => (e.out a).status),
  (oAxProbe, fun a => (e.out a).va % 65536 + 65536 * ((e.out a).vb % 65536))]

/-- Objects of areas 0x48 to 0x60. -/
def Eff.roPart4 (e : Eff s0) : List (Nat × (Nat → Nat)) := [
  (oQueueFill, fun _ => e.queue.length), (oLost, fun c => smGet 0 e.st.faults.lost c), (oLedgerInfo, fun _ => e.ledgerInfo),
  (oInjectState, fun _ => e.injectState), (oEvCount, fun i => smGet 0 e.st.faults.evCount i)] ++ [
  (oSlotsOwned, fun i => (e.ownedSlots (i / 16) (i % 16)).length), (oGuaranteed, fun i => e.guaranteed (i % 16) (i / 16)),
  (oNeed, fun i => e.need (i % 16) (i / 16)), (oMaxGap, fun i => e.maxGap (i / 16) (i % 16)), (oBankStatus, e.bankStatus),
  (oGrants, fun i => smGet 0 (e.bank (i / 16)).grants (i % 16)), (oReserveGrants, fun b => (e.bank b).reserve),
  (oWdogFires, fun b => (e.bank b).wdog)] ++ [
  (oWuStatus, e.wuStatus), (oWuMissed, fun u => (e.wu u).missed), (oCkptLast, fun _ => e.jrnl.ckptLast),
  (oJrnlSpan, fun _ => (fitEntries (ringOctets - e.heldOctets) e.jrnl.entries).length), (oJoinSpan, fun _ => e.jrnl.entries.length), (oEMax, fun _ => e.eMax),
  (oHoldsMissed, fun _ => e.jrnl.holdsMissed), (oRrStatus, fun _ => e.rrStatus),
  (oRrFirstDiff, fun _ => e.jrnl.firstDiff.getD 0xFFFF_FFFF_FFFF_FFFF), (oRrDiffs, fun _ => e.jrnl.diffs)] ++ [
  (oPllStatus, fun _ => e.pllStatus), (oIslandClk, fun _ => e.islandClk), (oSupplyStatus, fun _ => e.supplyStatus),
  (oRailMv, fun r => match e.clk.railMv.find? (·.1 == r) with
    | some p => p.2
    | none => e.freeAt r % 65536),
  (oResetCause, fun _ => e.clk.resetCause), (oJunctionTemp, fun _ => rawBits 16 e.clk.junction),
  (oPfCount, fun _ => e.clk.pfCount)]

/-- Every read-only object of fixed width, with its values by element. -/
def Eff.roTable (e : Eff s0) : List (Nat × (Nat → Nat)) := e.roPart1 ++ e.roPart2 ++ e.roPart3 ++ e.roPart4

/-- The sticky bits of a W1C object. -/
def Eff.sticky (e : Eff s0) (obj elem : Nat) : Nat :=
  if obj = oTrouble then e.trouble
  else if obj = oPairTrouble then e.pair.trouble
  else if obj = oLaneTrouble then (e.lane elem).trouble
  else if obj = oLegTrouble then (e.hleg elem).trouble
  else if obj = oConvTrouble then smGet 0 e.st.conv.trouble elem
  else if obj = oGateTrouble then (e.leg elem).trouble
  else if obj = oEvPending then field e.faults.evPend (32 * elem) 32
  else 0

/-- A BLOB (R67). -/
def blob (bs : List Byte) : List Byte := le 2 bs.length ++ bs

/-- The octets of the objects that are STRING, BLOB or TIME96, none for the others. -/
def Eff.roOctets (e : Eff s0) (obj elem : Nat) : Option (List Byte) :=
  if obj = oPart then some (le 1 8 ++ ascii "GBX-1924")
  else if obj = oFwdigest then some (blob (be 48 e.dev.fwDigest))
  else if obj = oMeterPubkey then some (blob (meterPubkey))
  else if obj = oPersistMap then some (blob Config.persistMap)
  else if obj = oLocalTime then some (time96 e.now16)
  else if obj = oTimedSlot then
    some (blob (match smGet none e.st.time.timed elem with
      | some t => t.octets
      | none => []))
  else if obj = oGateTripTime then
    some (match (e.leg elem).tripAt with
      | some t => time96 t
      | none => zeros 12)
  else if obj = oFirstErr then
    some (blob (match e.faults.firstErr with
      | some m => m.octets
      | none => zeros 32))
  else if obj = oHoldInfo then
    some (blob (match e.jrnl.hold with
      | some h => h.info
      | none => []))
  else none

/-- The objects whose values are free in part. -/
def freeObject (obj : Nat) : Bool := obj == oEyeMargin || obj == oLatTx || obj == oSliceLive || obj == oRailMv || obj == oStoreStatus

/-- The islands that hold the block of an object (R35, R40). The lane objects lie in the LINK island of their lane; those of a lane that
is OFF read what R154, R168 and R170 give for OFF (log 90). -/
def islandOf (obj elem : Nat) : Option Nat :=
  let a := obj / 65536
  if a = 0x10 then some 7
  else if a = 0x12 ∨ a = 0x44 then some 8
  else if a = 0x20 then (if obj % 65536 < 0x10 ∨ obj = oFrameErr then some (10 + elem) else if obj = oUpSlack then some (10 + elem) else none)
  else if a = 0x28 ∨ a = 0x2A then some 2
  else if a = 0x30 then (if obj = oFastLate then some 1 else some 0)
  else if a = 0x34 ∨ a = 0x38 then some 0
  else if a = 0x3C then some 4
  else if obj = oSliceLive then some 9
  else if a = 0x40 then some 8
  else if a = 0x50 then some 3
  else if a = 0x54 ∨ a = 0x58 then some 5
  else if obj = oPllStatus ∨ obj = oSupplyStatus ∨ obj = oRailMv ∨ obj = oJunctionTemp then some 8
  else none

/-- Whether an access to an object of an island is answered ISLAND_OFF (R40): its clock is faulty, halted, or, for the converter
clocks, not there. -/
def Eff.islandOff (e : Eff s0) (i : Nat) : Bool := if i < 10 then !e.islandRuns i else !e.st.islandOn i

end Sys2Proof.Machine
end

