-- ==== Sys2Proof/Machine/Activation.lean ====
section
/-! DEFINITION. Acknowledgement and activation of commits (R72, R79, R232, R382, R527, R546): where the boundary of each domain
lies, and what a set does to its block when it becomes active. -/

namespace Sys2Proof.Machine

variable {s0 : Root}

/-! ### Activation -/

/-- The watch unit that an element of domain ACQ concerns, none where it concerns no unit (R546). -/
def Eff.acqUnit (e : Eff s0) (k : Nat) : Option Nat :=
  let o := k / 65536
  let i := k % 65536
  if o = oWlPt ∨ o = oWlDband then
    let news := match (e.dom 12).pend with
      | some p => p.values
      | none => []
    let val (ob u : Nat) : Nat := (news.find? (·.1 == key ob u)).elim (e.cv ob u) (·.2)
    (List.range 32).find? fun u =>
      (e.cv oWuBase u ≤ i && i < e.cv oWuBase u + e.cv oWuLen u) || (val oWuBase u ≤ i && i < val oWuBase u + val oWuLen u)
  else if o / 256 = 0x5400 && o % 256 < 0x10 then some i
  else none

/-- At a frame start the units whose next pass begins take their part of a waiting ACQ set over, and the elements that concern no
unit take effect (R72, R546). -/
def Eff.acqSwitch (e : Eff s0) : Eff s0 :=
  match (e.dom 12).pend with
  | none => e
  | some p =>
    if p.waitPeer then e
    else
      let part (u : Option Nat) : List (Nat × Nat) := p.values.filter fun kv => e.acqUnit kv.1 == u
      let first := part none
      let e := e.each ((List.range 32).filter fun u => e.frame.k % e.wuScan u == 0) fun e u =>
        let mine := p.values.filter fun kv => e.acqUnit kv.1 == some u
        let old := e.wuShape u
        e.when (!mine.isEmpty) fun e => (e.each mine fun e kv => e.putCfg kv.1 kv.2).wuActivated u old
      e.each first fun e kv => e.putCfg kv.1 kv.2

/-- The set of domain d that waits becomes active with everything its block does then. -/
def Eff.activateSet (e : Eff s0) (d : Nat) : Eff s0 :=
  if !e.committing d then e
  else if d = dSched then
    let old := e.tf
    let e := e.activate d
    let e := e.each (List.range 24) fun e n => e.chainSlow n
    e.when (e.tf != old) fun e => e.each allCells fun e n => e.restartWindow n false
  else if d = dHub then
    let e := (e.activate d).modHub fun h => { h with switched := [] }
    e.when (!e.hub.running) (·.monitorLegs.driveLegs)
  else if d = dLoop then (e.activate d).loopActivated
  else if d = dCasc then
    let e := e.activate d
    e.each (allCells.filter fun c => !e.installed c && (e.cell c).state != .absent) fun e c => e.enterCell c .absent 0
  else if d = dDisp then
    let old := e.contracts
    (e.activate d).dispActivated old
  else if d = dAssay then
    let old := e.assaySet
    (e.activate d).assayActivated old
  else if d = dConv then ((e.activate d).modConv fun c => { c with switched := [] }).clkoutFollow
  else if d = dTime then (e.activate d).updateSource
  else if d = dAcq then
    let old := e.wuShapes
    let e := e.activate d
    e.each (List.range 32) fun e u => e.wuActivated u (old.getD u [])
  else if d = dStore then
    (e.activate d).each (List.range 8) fun e b => e.modBank b fun k => { k with switched := false }
  else e.activate d

/-- The domains whose boundary is a frame start (R72). -/
def frameDomains : List Nat := [dLink, dSched, dLoop, dCasc, dDisp, dAssay, dGate, dFault, dTime, dAcq, dPair]

/-- Whether the boundary of the waiting set of domain d has come (R72): its frame has started; the last leg, converter or bank
concerned has switched. -/
def Eff.boundary (e : Eff s0) (d : Nat) : Bool :=
  match (e.dom d).pend with
  | none => false
  | some p =>
    !p.waitPeer &&
      (if frameDomains.contains d then decide (p.actAt ≤ e.frame.k)
        else if d = dHub then !e.hub.running || e.hubConcerned.all e.hub.switched.contains
        else if d = dConv then (p.values.flatMap fun kv => e.convUnits kv.1).all e.conv.switched.contains
        else if d = dStore then (List.range 8).all fun b => (e.bank b).switched
        else true)

/-- COMMIT_ACTIVATION (R72): the boundary of the waiting set of a domain has come. -/
def execCommitActivation (d : Fin 15) (s : State) : Host.Outcome State Fault Refusal :=
  let e := Eff.start s
  .next (e.when (e.boundary d.val) (·.activateSet d.val)).st

/-- What a frame start does to the commits (R72). -/
def Eff.frameCommits (e : Eff s0) : Eff s0 :=
  e.acqSwitch.each frameDomains fun e d => e.when (e.boundary d) (·.activateSet d)

/-! ### Acknowledgement -/

/-- The commit result block (R85). -/
def commitBlock (status detail d obj elem actAt seq : Nat) : List Byte :=
  le 1 status ++ le 1 detail ++ le 1 d ++ [0] ++ le 3 obj ++ [0] ++ le 2 elem ++ [0, 0] ++ le 8 actAt ++ le 4 seq

/-- The answer to a COMMIT. -/
def commitAns (status detail d obj elem actAt seq : Nat) : Ans :=
  ⟨status, detail, commitBlock status detail d obj elem actAt seq⟩

/-- The period number of leg u's first period start that the HUB island reloads at least 3 of its cycles after instant t (R226, R232). -/
def Eff.hubPeriodAfter (e : Eff s0) (u : Nat) (t : Int) : Nat :=
  let l := e.hleg u
  let per : Int := max 1 (e.hcv u oPer u * qE)
  let base : Int := if l.begun then l.startAt else e.hub.ts + e.hcv u oPhase u * qE
  let n : Int := max (ofBool l.begun) ((t + hubGuard - base + per - 1) / per)
  l.period + n.toNat

/-- The frame in which an instant of local time lies, the running one at the earliest. -/
def Eff.frameAt (e : Eff s0) (t : Int) : Nat := e.frame.k + (max 0 (t - e.frame.tk) / (e.tf * nsq : Int)).toNat

/-- The instant at which converter unit m takes over a set acknowledged at instant t (R382): a fast converter at the end of the sequence
that runs, a sigma-delta channel at its next output. -/
def Eff.convSwitchAt (e : Eff s0) (m : Nat) (t : Int) : Int :=
  if m < 4 then
    match (e.fa m).running with
    | none => t
    | some q => max t ((e.fa m).start + 2 * halfEdge * e.seqConversions m q)
  else
    let period : Int := (e.sdFilt (m - 4)).1 * e.sdScale (m - 4) * (nsq / 4)
    e.frame0 + ((t - e.frame0) / period + 1) * period

/-- The instant at which the last bank takes over a set acknowledged at instant t (R527): the next wrap of its slot counter, which
advances once per STORE cycle of 1 ns (R35). -/
def Eff.storeSwitchAt (e : Eff s0) (t : Int) : Int :=
  t + ((List.range 8).foldl (fun (a b : Nat) => max a (128 - (e.bank b).slot)) 0) * nsq

/-- ACT_AT of the set of domain d that is to become active from instant t on, no earlier than frame k (R72). -/
def Eff.actPoint (e : Eff s0) (d : Nat) (values : List (Nat × Nat)) (t : Int) (k : Nat) : Nat :=
  let after (n : Nat) : Nat := (k + n - 1) / n * n
  if d = dDevice then 0
  else if d = dHub then
    if e.hub.running then e.hubPeriodAfter ((values.map fun kv => e.legOf kv.1).foldl min 11) t else 0
  else if d = dDisp then after e.nd
  else if d = dAcq then
    values.foldl (fun a kv => match e.acqUnit kv.1 with
      | some u => max a (after (e.wuScan u))
      | none => a) k
  else if d = dConv then
    (values.flatMap fun kv => e.convUnits kv.1).foldl (fun a m => max a (e.frameAt (e.convSwitchAt m t))) (e.frameAt t)
  else if d = dStore then e.frameAt (e.storeSwitchAt t)
  else k

/-- The acknowledgement of the set of domain d (R72, R74): it is answered, and the domains that do not wait become active. -/
def Eff.ackCommit (e : Eff s0) (d : Nat) : Eff s0 :=
  match (e.dom d).pend with
  | none => e
  | some p =>
    let e := e.modDom d fun x => { x with pend := some { p with waitPeer := false, answer := .nobody } }
    let e := e.finish p.answer (commitAns stOk 0 d 0xFF_FFFF 0 p.actAt ((e.dom d).seq + 1))
    let e := e.when (d == dConv) fun e =>
      (e.each ([0, 1, 2, 3].filter fun f => (e.fa f).running.isNone) fun e f => e.convTake f).convEnd
    e.when (d == dDevice || (d == dHub && !e.hub.running)) (·.activateSet d)

/-- The device acknowledges and activates a commit alone that its standby has not confirmed (R79, R463), from the next boundary
on. -/
def Eff.commitAlone (e : Eff s0) (d : Nat) : Eff s0 :=
  match (e.dom d).pend with
  | none => e
  | some p =>
    let at1 := e.actPoint d p.values e.time.clock (e.frame.k + 1)
    (e.modDom d fun x => { x with pend := some { p with actAt := at1, ackAt := e.time.clock } }).ackCommit d

/-- What the standby has not confirmed within 2 frames (R79): PEER_COMMIT_MISSED; a checkpoint at the next frame start brings the standby
up to date. -/
def Eff.peerMissed (e : Eff s0) : Eff s0 :=
  ((e.setTrouble 11).fault 0x082 kPeerCommitMissed).modPair fun p => { p with ckptReq := some (p.ckptReq.getD e.frame.k) }

/-- PEER_COMMIT_MISSED (R79): the standby has not confirmed a commit within 2 frames of its sending. -/
def Eff.commitMissed (e : Eff s0) (d : Nat) : Eff s0 := e.peerMissed.commitAlone d

/-- PEER_COMMIT_MISSED as the event (R79). -/
def execPeerCommitMissed (d : Fin 15) (s : State) : Host.Outcome State Fault Refusal :=
  let e := Eff.start s
  let late := match (e.dom d.val).pend with
    | some p => p.waitPeer && decide (p.sentFrame + 2 ≤ e.frame.k)
    | none => false
  .next (e.when late (·.commitMissed d.val)).st

end Sys2Proof.Machine
end

