-- ==== Sys2Proof/Machine/Dictionary.lean ====
section
/-! DEFINITION. The object dictionary's server (R64 to R100, R607): READ, WRITE, sticky bits, COMMIT and ABANDON. -/

namespace Sys2Proof.Machine

variable {s0 : Root}

/-! ### READ -/

/-- The object numbers of the point mirror (R65). -/
def mirrored (obj : Nat) : Bool := 0x80_0000 ≤ obj && obj < 0xA0_0000

/-- Whether an object is a key (R93). -/
def isKey (obj : Nat) : Bool := obj == oKOperator || obj == oKEngineer

/-- The octets of an element of an object, with its staged value where `staged` asks for it (R67, R71, R93). -/
def Eff.elemOctets (e : Eff s0) (r : ObjRow) (obj elem : Nat) (staged : Bool) : List Byte :=
  if isKey obj then blob (zeros 16)
  else
    match e.roOctets obj elem with
    | some bs => bs
    | none =>
      let v := match r.acc with
        | .ro => (e.roTable.find? (·.1 == obj)).elim 0 (·.2 elem)
        | .w1c => e.sticky obj elem
        | _ =>
          match (if staged then smGet none e.st.stg (key obj elem) else none) with
          | some v => v
          | none => e.cv obj elem
      le r.ty.width v

/-- Whether a selection names elements an object of `n` elements has (R82). -/
def selects (n first count : Nat) : Bool := 0 < count && first + count ≤ n

/-- A READ whose message has passed (R607): NO_OBJECT, ISLAND_OFF, then TOO_LONG for the answer. Reading needs no right but
that of a session. -/
def Eff.readAns (e : Eff s0) (obj : Nat) (staged : Bool) (first count : Nat) : Ans :=
  let head (ty : Byte) (body : List Byte) : Ans :=
    if 1444 < 6 + body.length then ansErr stTooLong else ansOk ([ty, 0] ++ le 2 count ++ body)
  let off (i : Option Nat) : Bool := i.any e.islandOff
  if mirrored obj then
    let n := obj - 0x80_0000
    if first ≠ 0 ∨ count = 0 ∨ 2097152 < n + count then ansErr stNoObject
    else if off (some 3) then ansErr stIslandOff
    else if 179 < count then ansErr stTooLong
    else head Ty.u64.code ((List.range count).flatMap fun i => le 8 (e.pt (n + i)).toNat)
  else
    match objRow? obj with
    | none => ansErr stNoObject
    | some r =>
      if r.acc = .act ∨ !selects r.n first count then ansErr stNoObject
      else
        let elems := (List.range count).map (first + ·)
        if elems.any fun i => off (islandOf obj i) then ansErr stIslandOff
        else if 1444 < count then ansErr stTooLong
        else head r.ty.code (elems.flatMap fun i => e.elemOctets r obj i staged)

/-- A READ request (R607). -/
def Eff.dapRead (e : Eff s0) (q : Req) (obj : Nat) (flags : Byte) (first count : Nat) : Eff s0 :=
  match e.vet q 1 (le 3 obj ++ [flags] ++ le 2 first ++ le 2 count) with
  | .stop e => e
  | .go e _ _ =>
    let a := e.readAns obj (flags.getLsbD 0) first count
    let e := e.when (freeObject obj) fun e => e.each (List.range (2 * count)) fun e _ => e.tick
    let e := e.when (mirrored obj && a.status == stOk) fun e => e.each (List.range count) fun e i => e.consume 12 (obj - 0x80_0000 + i)
    e.answer q 1 a

/-- READ (R71, R82, R607). -/
def execDapRead (q : Req) (obj : ObjNo) (flags : Byte) (first count : BitVec 16) (s : State) : Host.Outcome State Fault Refusal :=
  .next ((Eff.start s).dapRead q obj.toNat flags first.toNat count.toNat).st

/-! ### WRITE -/

/-- The defined bits of a value (R45, R67): reserved bits are ignored. -/
def maskedValue (r : ObjRow) (v : Nat) : Nat :=
  let v := match r.mask with
    | some m => v &&& m
    | none => v
  if r.ty = .pointref then v &&& 0x801F_FFFF else v

/-- The values of a WRITE to `count` elements; none for a wrong length or encoding (R67, R68). -/
def writtenValues (r : ObjRow) (obj count : Nat) (vals : List Byte) : Option (List Nat) :=
  if isKey obj then
    if vals.length = 18 ∧ fieldLe vals 0 2 = 16 then some [unle (vals.drop 2)] else none
  else if r.ty.width = 0 ∨ vals.length ≠ count * r.ty.width then none
  else
    let vs := (List.range count).map fun i => fieldLe vals (i * r.ty.width) r.ty.width
    if r.ty = .bool ∧ vs.any (1 < ·) then none else some (vs.map (maskedValue r))

/-- Clears the bits `v` of a sticky element (R99, R169, R244, R388, R410, R446, R485). Bit 3 of the trouble record clears the
CLIP bits of the legs too, bit 4 the OVERRUN bits of the converters. -/
def Eff.clearSticky (e : Eff s0) (obj elem v : Nat) : Eff s0 :=
  let less (t : Nat) : Nat := t - (t &&& v)
  if obj = oTrouble then
    let e := e.modTrouble less
    let e := e.when (bitOf v 3) fun e => e.each (List.range 12) fun e u => e.modHleg u fun l =>
      { l with trouble := l.trouble - (l.trouble &&& 1) }
    e.when (bitOf v 4) fun e => e.each (List.range 4) fun e f => e.modConv fun c =>
      { c with trouble := smMod 0 c.trouble f fun t => t - (t &&& 1) }
  else if obj = oPairTrouble then e.modPair fun p => { p with trouble := less p.trouble }
  else if obj = oLaneTrouble then e.modLane elem fun l => { l with trouble := less l.trouble }
  else if obj = oLegTrouble then e.modHleg elem fun l => { l with trouble := less l.trouble }
  else if obj = oConvTrouble then e.modConv fun c => { c with trouble := smMod 0 c.trouble elem less }
  else if obj = oGateTrouble then e.modLeg elem fun l => { l with trouble := less l.trouble }
  else if obj = oEvPending then
    e.modFaults fun f => { f with evPend := f.evPend - (f.evPend &&& (v * 2 ^ (32 * elem))) }
  else e

/-- W1C writes to elements (R69, R99, R100): they take effect at once and each clear is logged with its session. -/
def Eff.clearAll (e : Eff s0) (obj sess : Nat) (l : List (Nat × Nat)) : Eff s0 :=
  let e := e.each l fun e p => e.clearSticky obj p.1 p.2
  e.when (obj != oEvPending && l.any (·.2 != 0)) (·.fault 0x082 kTroubleClear sess)

/-- Stages values under the session's lock (R77). -/
def Eff.stage (e : Eff s0) (d sess : Nat) (l : List (Nat × Nat)) : Eff s0 :=
  (e.each l fun e p => e.setStg p.1 (some p.2)).modDom d fun x =>
    { x with owner := sess, left := x.left.filter fun k => !l.any (·.1 == k) }

/-- A WRITE whose message has passed, in the order of R607. -/
def Eff.writeAns (e : Eff s0) (level sess obj first count : Nat) (vals : List Byte) : Eff s0 × Ans :=
  let no (st : Nat) : Eff s0 × Ans := (e, ansErr st)
  if mirrored obj then
    if first ≠ 0 ∨ count = 0 ∨ 2097152 < obj - 0x80_0000 + count then no stNoObject else no stReadOnly
  else
    match objRow? obj with
    | none => no stNoObject
    | some r =>
      let staged := r.acc == .rw || r.acc == .rws
      let lock := (e.dom r.dom).owner
      if r.acc = .act ∨ !selects r.n first count then no stNoObject
      else if obj / 65536 ≠ 1 ∧ level < r.right then no stRights
      else if r.acc = .ro then no stReadOnly
      else if staged && !e.isActive && obj / 65536 != 4 then no stNotActive
      else
        match writtenValues r obj count vals with
        | none => no stType
        | some vs =>
          let l := vs.zipIdx.map fun p => (first + p.2, p.1)
          if !staged then (e.clearAll obj sess l, ansOk)
          else if lock ≠ 0 ∧ lock ≠ sess then no stLocked
          else if r.acc = .rws ∧ l.any fun p => !e.idleFor obj p.1 then no stNotStopped
          else (e.stage r.dom sess (l.map fun p => (key obj p.1, p.2)), ansOk)

/-- A WRITE request (R607). -/
def Eff.dapWrite (e : Eff s0) (q : Req) (obj : Nat) (flags : Byte) (first count : Nat) (vals : List Byte) : Eff s0 :=
  match e.vet q 2 (le 3 obj ++ [flags] ++ le 2 first ++ le 2 count ++ vals) with
  | .stop e => e
  | .go e level sess =>
    let (e, a) := e.writeAns level sess obj first count vals
    e.answer q 2 a

/-- WRITE (R68 to R70, R77, R84). -/
def execDapWrite (q : Req) (obj : ObjNo) (flags : Byte) (first count : BitVec 16) (vals : List Byte) (s : State) :
    Host.Outcome State Fault Refusal :=
  .next ((Eff.start s).dapWrite q obj.toNat flags first.toNat count.toNat vals).st

/-- A W1C write to the trouble record (R99, R100). -/
def execTroubleW1c (q : Req) (vals : List Byte) (s : State) : Host.Outcome State Fault Refusal :=
  .next ((Eff.start s).dapWrite q oTrouble 0 0 1 vals).st

/-- A W1C write to the sticky bits of a block (R169, R244, R388, R410, R446, R485). -/
def execStickyClear (q : Req) (obj : ObjNo) (first count : BitVec 16) (vals : List Byte) (s : State) :
    Host.Outcome State Fault Refusal :=
  .next ((Eff.start s).dapWrite q obj.toNat 0 first.toNat count.toNat vals).st

/-! ### COMMIT and ABANDON -/

/-- The right that COMMIT and ABANDON of a staged set need (R80). -/
def commitRight (l : List (Nat × Nat)) : Nat :=
  l.foldl (fun a p => match objRow? (p.1 / 65536) with
    | some r => max a r.right
    | none => a) 1

/-- The checks that COMMIT and ABANDON share, in their order (R607), as the status of the first that fails. -/
def Eff.commitGate (e : Eff s0) (c : Ctx) (d : Nat) : Option Nat :=
  let l := e.st.stagedOf d
  let own := (e.dom d).owner
  if c.level < commitRight l then some stRights
  else if !e.isActive && !(!l.isEmpty && l.all fun p => p.1 / 65536 / 65536 == 4) then some stNotActive
  else if own ≠ 0 ∧ own ≠ c.sess then some stLocked
  else none

/-- The payload of CONTROL COMMIT (R457). -/
def commitPayload (d actAt : Nat) (l : List (Nat × Nat)) : List Byte := le 1 d ++ [0, 0, 0] ++ le 8 actAt ++ imageOctets l

/-- COMMIT (R72 to R79). DESIGN CHOICE (log 103): a COMMIT while an earlier one of the domain waits for the standby is answered BUSY. -/
def actCommit (e : Eff s0) (c : Ctx) (args : List Byte) : ActRes s0 :=
  let d := octet args 0
  let ans (st det obj elem : Nat) : Ans := commitAns st det d obj elem 0 (e.dom d).seq
  if args.length ≠ 1 then (e, some (ansErr stType))
  else if 15 ≤ d then (e, some (commitAns stRefused rsRange d 0xFF_FFFF 0 0 0))
  else
    match e.commitGate c d with
    | some st => (e, some (ans st 0 0xFF_FFFF 0))
    | none =>
      let l := e.st.stagedOf d
      if l.isEmpty then (e, some (ans stOk 1 0xFF_FFFF 0))
      else if (e.dom d).pend.isSome then (e, some (ans stBusy 0 0xFF_FFFF 0))
      else
        match e.checkSet d l [] true with
        | some f =>
          ((e.modDom d fun x => { x with lastRefusal := f.reason }).event 14, some (ans stRefused f.reason f.obj f.elem))
        | none =>
          let pair := e.pair.standby
          let k := e.frame.k + (if pair then 2 else 1)
          let t := if pair then e.frame.tk + 2 * e.tf * nsq else e.time.clock
          let at1 := e.actPoint d l t k
          let e := e.unstage d
          let e := e.modDom d fun x => { x with pend := some ⟨l, c.ret, pair, e.frame.k, at1, t⟩ }
          if pair then (e.sendControl 2 k (commitPayload d at1 l), none) else (e.ackCommit d, none)

/-- ABANDON (R77, R80). -/
def actAbandon (e : Eff s0) (c : Ctx) (args : List Byte) : ActRes s0 :=
  let d := octet args 0
  if args.length ≠ 1 then (e, some (ansErr stType))
  else if 15 ≤ d then (e, some ansRange)
  else
    match e.commitGate c d with
    | some st => (e, some (ansErr st))
    | none => (e.unstage d, some ansOk)

/-- COMMIT as a request (R80, R607). -/
def execCommit (q : Req) (args : List Byte) (s : State) : Host.Outcome State Fault Refusal :=
  .next ((Eff.start s).invoke q oCommit args 0 false actCommit).st

/-- ABANDON as a request (R80, R607). -/
def execAbandon (q : Req) (args : List Byte) (s : State) : Host.Outcome State Fault Refusal :=
  .next ((Eff.start s).invoke q oAbandon args 0 false actAbandon).st

end Sys2Proof.Machine
end

