-- ==== Sys2Proof/Machine/Persist.lean ====
section
/-! DEFINITION. Persistence (R94 to R98, R443): storing domains and the Ledger, and the restore of all domains at start-up. -/

namespace Sys2Proof.Machine

variable {s0 : Root}

/-! ### STORE -/

/-- The restore order of R98. -/
def restoreOrder : List Nat :=
  [dDevice, dTime, dPair, dLink, dCasc, dLoop, dConv, dSched, dHub, dGate, dFault, dDisp, dAssay, dAcq, dStore]

/-- STORE (R95, R443): a domain code, 0x20 for the Ledger, or 0xFF for all domains. A device with too little flash stores
nothing (R94). -/
def actStore (e : Eff s0) (_c : Ctx) (args : List Byte) : ActRes s0 :=
  let d := octet args 0
  let todo := if d = 0xFF then restoreOrder else [d]
  if args.length ≠ 1 then (e, some (ansErr stType))
  else if !(d < 15 || d == 0x20 || d == 0xFF) then (e, some ansRange)
  else if todo.any (fun d => (e.dom d).pend.isSome) || e.persist.job.isSome || e.dev.pwrFail || e.clk.holdup then
    (e, some (ansErr stBusy))
  else if e.persist.small then (e, some ansOk)
  else (e.startStore todo, some ansOk)

/-- STORE as a request (R95, R98). -/
def execStore (q : Req) (args : List Byte) (s : State) : Host.Outcome State Fault Refusal :=
  .next ((Eff.start s).invoke q oStore args 2 false actStore).st

/-- The commit record of a finished image is written last (R95, R96): 1 above the newest valid record of the domain. -/
def Eff.writeRecord (e : Eff s0) (j : StoreJob) (d : Nat) : Eff s0 :=
  let n := e.newestSeq d + 1
  if d = 0x20 then
    let i : LedgerImage := ⟨commitRecord n d (ledgerOctets j.first j.last j.entries), j.first, j.last, j.entries⟩
    (e.modPersist fun p => { p with ledger := smSet none p.ledger j.bank (some i) }).modFaults fun f =>
      { f with storedSeq := (j.entries.head?.elim f.storedSeq (·.seq)), lastStore := e.time.up }
  else if d = 0x21 then
    let ports := e.meter.storing
    e.modMeter fun m => { m with slots := smSet none m.slots j.bank (some ⟨commitRecord n d (Config.meterOctets ports), ports⟩) }
  else
    e.modPersist fun p => { p with
      slots := smSet none p.slots (2 * d + j.bank) (some ⟨commitRecord n d (imageOctets j.values), j.values⟩) }

/-- STORE_COMPLETE (R95, R96, R99): the running store ends. The commit record is written, or the flash verify failed: the slot
then holds no valid record. -/
def execStoreComplete (verified : Bool) (s : State) : Host.Outcome State Fault Refusal :=
  let e := Eff.start s
  match e.persist.job with
  | none => .next e.st
  | some j =>
    if verified then .next (((e.writeRecord j (j.todo.headD 0)).event 15).startStore j.todo.tail).st
    else
      let e := e.modPersist fun p => { p with job := none, status := 3 }
      .next (((e.setTrouble 7).fault 0x082 kStoreFail).event 15).st

/-- LEDGER_STORE (R443): 10 s after an entry to SAFE, or LEDGER_STORE_MIN after the last store when entries have been added. -/
def execLedgerStore (s : State) : Host.Outcome State Fault Refusal :=
  let e := Eff.start s
  let f := e.faults
  let safe := match f.safeEntry with
    | some t => decide (t + 10000000000 ≤ e.time.up)
    | none => false
  let newest := match e.ring with
    | m :: _ => m.seq
    | [] => 0
  let due := decide (f.storedSeq < newest) && decide (f.lastStore + e.cv oLedgerStoreMin * 60000000000 ≤ e.time.up)
  .next (e.when ((safe || due) && e.persist.job.isNone) fun e =>
    (e.modFaults fun f => { f with safeEntry := if safe then none else f.safeEntry }).storeSoon 0x20).st

/-! ### The restore of R98 -/

/-- The candidate of one domain: what it may still fall back to, its present choice first and its defaults last, and whether both
banks held a valid image. -/
structure Cand where
  dom : Nat
  opts : List (List (Nat × Nat))
  two : Bool
  deriving DecidableEq, Repr

/-- The candidates of domain d: the valid images by SEQ (R97), then the defaults. -/
def Eff.candidate (e : Eff s0) (d : Nat) : Cand :=
  let im (b : Nat) : List (Nat × List (Nat × Nat)) := match smGet none e.st.persist.slots (2 * d + b) with
    | some i => if recordValid d i.record (imageOctets i.values) then [(recordNo i.record, i.values)] else []
    | none => []
  let l := im 0 ++ im 1
  let l := match l with
    | [a, b] => if a.1 < b.1 then [b, a] else [a, b]
    | l => l
  ⟨d, l.map (·.2) ++ [[]], l.length == 2⟩

/-- The domains that a check of all candidates as one set refuses. -/
def Eff.refusedOf (e : Eff s0) (cs : List Cand) : List Nat :=
  let vals := cs.flatMap fun c => c.opts.headD []
  let bad := (Eff.start (e.st.withSet vals)).failures.flatMap (·.doms)
  cs.filterMap fun c =>
    let own := (c.opts.headD []).any fun kv => match objRow? (kv.1 / 65536) with
      | some r => !inRange r kv.2
      | none => false
    if own || bad.contains c.dom then some c.dom else none

/-- The passes of the restore with the trouble bits they set; `fuel` bounds them (each domain falls back at most twice). -/
def Eff.restorePasses (e : Eff s0) : Nat → List Cand → Nat → List Cand × Nat
  | 0, cs, bits => (cs, bits)
  | fuel + 1, cs, bits =>
    let bad := e.refusedOf cs
    if bad.isEmpty then (cs, bits)
    else
      match ((cs.filter fun c => bad.contains c.dom && 1 < c.opts.length).reverse).head? with
      | none => (cs.map fun c => { c with opts := [[]] }, bits ||| 64)
      | some v =>
        let b := if v.opts.length = 3 then 32 else if v.two then 64 else 96
        e.restorePasses fuel (cs.map fun c => if c.dom = v.dom then { c with opts := c.opts.tail } else c) (bits ||| b)

/-- All candidates become active together (R98): ACT_AT 0, COMMIT_SEQ rises for each domain restored from an image. CAL_TRIM,
which the BACKUP domain holds (R574), stays where no image lists it. -/
def Eff.restoreDomains (e : Eff s0) : Eff s0 :=
  let trim := smGet none e.cfg (key oCalTrim 0)
  let e := (e.clearCfg.clearStg.modDoms fun _ => []).setCfg (key oCalTrim 0) trim
  let (cs, bits) := e.restorePasses 48 (restoreOrder.map fun d => e.candidate d) 0
  let e := e.each cs fun e c =>
    let e := e.each (c.opts.headD []) fun e kv => e.putCfg kv.1 kv.2
    e.when (1 < c.opts.length) (·.modDom c.dom fun x => { x with seq := x.seq + 1 })
  let e := e.when (bitOf bits 5) fun e => (e.setTrouble 5).fault 0x082 kRestoreRefused
  let e := e.when (bitOf bits 6) fun e => (e.setTrouble 6).fault 0x082 kRestoreDefault
  e.loopActivated.updateSource.monitorLegs

/-- The valid Ledger image of the higher SEQ. -/
def Eff.ledgerImage (e : Eff s0) : Option LedgerImage :=
  if e.newestSeq 0x20 = 0 then none else smGet none e.st.persist.ledger (e.newestBank 0x20)

/-- The Ledger restores the image of the higher SEQ, and the tail's newer entries marked PF_TAIL, with the captures that go with them
(R428, R443). -/
def Eff.restoreLedger (e : Eff s0) : Eff s0 :=
  let im := e.ledgerImage
  let l := im.elim [] (·.entries)
  let top := l.head?.elim 0 (·.seq)
  let tail := e.persist.tail.elim [] fun t => (t.entries.filter fun m => top < m.seq).map fun m => { m with pfTail := true }
  let all := tail ++ l
  let (first, last) := if tail.isEmpty then (im.bind (·.first), im.bind (·.last))
    else (e.persist.tail.bind (·.first), e.persist.tail.bind (·.last))
  if all.isEmpty then e
  else (e.setRing (all.take 32766)).modFaults fun f => { f with
    ledgerSeq := max f.ledgerSeq (all.head?.elim 0 (·.seq)), storedSeq := max f.storedSeq top, first := first, last := last }

/-- The valid meter image of the higher SEQ (R98, R333). -/
def Eff.meterImage (e : Eff s0) : Option (SMap MPort) :=
  if e.newestSeq 0x21 = 0 then none else (smGet none e.st.meter.slots (e.newestBank 0x21)).map (·.ports)

/-- The meter restores the power-fail close where that is newer than the stored image, else the image, whose ports then carry GAP
(R333). A power-fail area that is not newer is discarded. -/
def Eff.restoreMeter (e : Eff s0) : Eff s0 :=
  let newer := match e.meter.pfArea with
    | some (n, ports, _) => if e.newestSeq 0x21 < n then some ports else none
    | none => none
  match newer, e.meterImage with
  | some ports, _ => e.modMeter fun m => { m with ports := ports.map fun p => (p.1, { p.2 with started := false }) }
  | none, some ports =>
    e.modMeter fun m => { m with pfArea := none, ports := ports.map fun p => (p.1, { p.2 with started := false, gap := true }) }
  | none, none => e.modMeter fun m => { m with pfArea := none }

/-- The local clock starts from the calendar clock (R491). -/
def Eff.timeFromCalendar (e : Eff s0) : Eff s0 :=
  let c : Int := e.calNow
  let unit : Int := 1000000000 * nsq
  e.modTime fun t => { t with
    clock := if t.calValid then c * unit / 32768 + signed 16 (e.cv oUtcOffset) * unit else 0, valid := t.calValid }

/-- DICTIONARY_RESTORE (R98, R107, R108): step 5 of start-up. -/
def execDictionaryRestore (flashReadable : Bool) (s : State) : Host.Outcome State Fault Refusal :=
  let e := Eff.start s
  if e.dev.state != .boot || e.dev.bootFail || e.dev.bootStage ≠ 4 then .next e.st
  else if !flashReadable then .next (e.modDev fun v => { v with bootFail := true }).st
  else
    let e := e.when e.persist.small fun e => (e.setTrouble 12).fault 0x082 kFlashSmall
    let e := (e.restoreDomains.restoreLedger).restoreMeter
    .next (e.timeFromCalendar.modDev fun v => { v with bootStage := 5 }).st

end Sys2Proof.Machine
end

