-- ==== Sys2Proof/Machine/Pairing.lean ====
section
/-! DEFINITION. Actions of the pair (R477, R483) and forced points (R441). -/

namespace Sys2Proof.Machine

variable {s0 : Root} {b0 : State}

/-- The device becomes JOINING at step J1 (R450, R480) and reports READY (R102). -/
def Eff.enterJoining (e : Eff s0) : Eff s0 :=
  let e := e.becomeRole .joining
  let e := e.when (e.dev.state != .off && e.dev.state != .boot) (·.enterState .ready 10)
  let e := e.modPair fun p => { p with
    joinStep := 1, joinAt := e.time.up, synced := false, resync := false, replay := false, cleanRun := 0, newerSeen := false
    finishing := false, handoverAt := none, avail := none, outdig := none, digests := [], before := none, ckpt := none
    image := none, frFrame := 0, joinConfig := [], timed := [], standby := false, waitAt := none, shadowDone := 0
    outbox := [], waitActs := [], onceWait := [], standing := [], lackRun := [], haveRun := [] }
  (e.modMeter fun m => { m with pfArea := none }).joinLanes

/-- PAIR_HANDOVER (R477, R483). Whether the standby is synchronised with 1,000 clean frames is its own state, which no message
carries: a free truth value. -/
def actPairHandover (e : Eff s0) (_c : Ctx) (args : List Byte) : ActRes s0 :=
  if args ≠ [] then (e, some (ansErr stType))
  else if !e.isActive || !e.hasStandby || e.pair.handoverAt.isSome then (e, some (ansResultFrame 1 0))
  else
    let ready := e.freeBool
    let e := e.tick
    if !ready then (e, some (ansResultFrame 2 0))
    else
      let m := e.frame.k + (if e.time.clock = e.frame.tk then 2 else 3)
      ((e.sendControl 8 m []).modPair fun p => { p with handoverAt := some m }, some (ansResultFrame 0 m))

/-- PAIR_REJOIN (R450, R483): answered before the change of role ends the session. -/
def actPairRejoin (e : Eff s0) (c : Ctx) (args : List Byte) : ActRes s0 :=
  if args ≠ [] then (e, some (ansErr stType))
  else if e.pair.role != .retired || e.pair.barred then (e, some (ansOk (le 1 1)))
  else
    let e := (e.finish c.ret (ansOk (le 1 0))).modPair fun p => { p with joinAttempts := 0 }
    (e.enterJoining, none)

/-- PAIR_HANDOVER as a request: ENGINEER (R483). -/
def execPairHandover (q : Req) (args : List Byte) (s : State) : Host.Outcome State Fault Refusal :=
  .next ((Eff.start s).invoke q oPairHandover args 2 false actPairHandover).st

/-- PAIR_REJOIN as a request: ENGINEER, every role (R483). -/
def execPairRejoin (q : Req) (args : List Byte) (s : State) : Host.Outcome State Fault Refusal :=
  .next ((Eff.start s).invoke q oPairRejoin args 2 false actPairRejoin).st

/-! ### Forced points (R441) -/

/-- Whether a point is written into the deadline snapshot (R258). -/
def Eff.inSnapshot (e : Eff s0) (n : Nat) : Bool :=
  if 0x1000 ≤ n && n < 0x1050 then n < 0x1038 || 0x1040 ≤ n
  else if 0x10000 ≤ n && n < 0x1C000 then n % 256 < 18 && e.installed ((n - 0x10000) / 256)
  else if 0x30000 ≤ n && n < 0x33000 then e.portExists ((n - 0x30000) / 64)
  else if 0x40000 ≤ n && n < 0x4C000 then e.portExists ((n - 0x40000) / 256)
  else false

/-- The points forced, with the forces and releases that wait for a frame start. -/
def Eff.forcedSoon (e : Eff s0) : List Nat :=
  let waiting := e.pair.timed.map (·.2) ++ e.pair.waitActs.map fun w => (w.obj, w.args)
  waiting.foldl (init := e.faults.forced.map (·.1)) fun l w =>
    if w.1 = oForcePoint then
      let n := fieldLe w.2 0 4
      if octet w.2 4 = 1 then (n :: l).dedup else l.filter (· != n)
    else l

/-- FORCE_POINT (R441, R448). -/
def actForcePoint (e : Eff s0) (c : Ctx) (args : List Byte) : ActRes s0 :=
  if args.length ≠ 9 then (e, some (ansErr stType))
  else
    let n := fieldLe args 0 4
    let mode := octet args 4
    let l := e.forcedSoon
    if 1 < mode then (e, some ansRange)
    else if !e.inSnapshot n then (e, some ansReference)
    else if !e.injecting c then (e, some (ansResultFrame 1 0))
    else if mode = 0 ∧ !l.contains n then (e, some (ansResultFrame 1 0))
    else if mode = 1 ∧ !l.contains n ∧ 16 ≤ l.length then (e, some (ansResultFrame 2 0))
    else e.pairAct c oForcePoint args

/-- FORCE_POINT as a request: ENGINEER, ACTIVE, as it acts on the core (R78, R448). -/
def execForcePoint (q : Req) (args : List Byte) (s : State) : Host.Outcome State Fault Refusal :=
  .next ((Eff.start s).invoke q oForcePoint args 2 true actForcePoint).st

/-- What FORCE_POINT does at its frame start. -/
def Eff.applyForce (e : Eff s0) (args : List Byte) : Eff s0 :=
  e.modFaults fun f => { f with
    forced := smSet none f.forced (fieldLe args 0 4) (if octet args 4 = 1 then some (fieldLe args 5 4) else none) }

end Sys2Proof.Machine
end

