-- ==== Sys2Proof/Machine/Actions.lean ====
section
/-! DEFINITION. The actions as one table, and scheduled actions (R511 to R514, R517). -/

namespace Sys2Proof.Machine

variable {s0 : Root}

/-- An action of the dictionary: its object, least right, whether the role must be ACTIVE (R78), and what it does. -/
structure ActRow (s0 : Root) where
  obj : Nat
  right : Nat
  active : Bool
  run : Eff s0 → Ctx → List Byte → ActRes s0

/-- The actions that can be scheduled, first part. -/
def actRows1 (s0 : Root) : List (ActRow s0) := [
  ⟨oStart, 1, false, actStart⟩, ⟨oStop, 1, false, actStop⟩, ⟨oTrip, 1, false, actTrip⟩, ⟨oSafeExit, 2, false, actSafeExit⟩,
  ⟨oCommit, 0, false, actCommit⟩, ⟨oAbandon, 0, false, actAbandon⟩, ⟨oStore, 2, false, actStore⟩,
  ⟨oCalSet, 2, false, actCalSet⟩, ⟨oCalTamperClear, 2, false, actCalTamperClear⟩,
  ⟨oPairHandover, 2, false, actPairHandover⟩, ⟨oPairRejoin, 2, false, actPairRejoin⟩,
  ⟨oLaneStop, 2, false, actLaneStop⟩, ⟨oLaneStart, 2, false, actLaneStart⟩, ⟨oCellReq, 1, true, actCellReq⟩,
  ⟨oCellEnToggle, 2, true, actCellEnToggle⟩, ⟨oSlotReset, 2, true, actSlotReset⟩]

/-- The actions that can be scheduled, second part. -/
def actRows2 (s0 : Root) : List (ActRow s0) := [
  ⟨oDispEmerg, 1, true, actDispEmerg⟩, ⟨oSocSet, 2, true, actSocSet⟩, ⟨oMeterClose, 1, false, actMeterClose⟩,
  ⟨oMeterRead, 1, false, actMeterRead⟩, ⟨oMeterAck, 1, true, actMeterAck⟩, ⟨oConvTrigger, 2, false, actConvTrigger⟩,
  ⟨oAuxProspect, 1, true, actAuxProspect⟩, ⟨oAuxClear, 2, false, actAuxClear⟩,
  ⟨oFirstErrRearm, 2, false, actFirstErrRearm⟩, ⟨oLedgerRead, 2, false, actLedgerRead⟩,
  ⟨oLedgerClear, 2, false, actLedgerClear⟩, ⟨oInjectOpen, 2, false, actInjectOpen⟩,
  ⟨oInjectClose, 2, false, actInjectClose⟩, ⟨oForce, 2, false, actForce⟩, ⟨oForcePoint, 2, true, actForcePoint⟩,
  ⟨oEvSubscribe, 0, false, actEvSubscribe⟩]

/-- The actions that can be scheduled, third part. -/
def actRows3 (s0 : Root) : List (ActRow s0) := [
  ⟨oWuArm, 1, false, actWuArm⟩, ⟨oWuDisarm, 1, false, actWuDisarm⟩, ⟨oWuTrigger, 2, false, actWuTrigger⟩,
  ⟨oWuRelease, 2, false, actWuRelease⟩, ⟨oAcqExport, 1, false, actAcqExport⟩, ⟨oJrnlHold, 2, false, actJrnlHold⟩,
  ⟨oJrnlRelease, 2, false, actJrnlRelease⟩, ⟨oJrnlExport, 1, false, actJrnlExport⟩, ⟨oRrStart, 2, false, actRrStart⟩,
  ⟨oRrStop, 2, false, actRrStop⟩, ⟨oRrImport, 2, false, actRrImport⟩]

/-- The row of an action. -/
def actRow? (s0 : Root) (obj : Nat) : Option (ActRow s0) :=
  (actRows1 s0 ++ actRows2 s0 ++ actRows3 s0).find? (·.obj == obj)

/-- The right of an action with its arguments. -/
def Eff.actRight (e : Eff s0) (r : ActRow s0) (args : List Byte) : Nat :=
  if r.obj = oCellReq then e.cellRight args
  else if r.obj = oCommit ∨ r.obj = oAbandon then commitRight (e.st.stagedOf (octet args 0))
  else r.right

/-! ### Scheduled actions -/

/-- A slot for a new scheduled action: an empty one, else the first that is DONE (R517). -/
def Eff.timedSlot (e : Eff s0) : Option Nat :=
  let at1 (i : Nat) : Option Timed := smGet none e.st.time.timed i
  match (List.range 32).find? fun i => (at1 i).isNone with
  | some i => some i
  | none => (List.range 32).find? fun i => (at1 i).any (·.isDone)

/-- TIMED_ACTION (R511, R512): the target is turned into its frame now; in a pair the
action goes to the standby as it stands, which confirms it before the answer. -/
def actTimedAction (e : Eff s0) (c : Ctx) (args : List Byte) : ActRes s0 :=
  let obj := fieldLe args 12 3
  let n := fieldLe args 16 2
  let sub := args.drop 18
  if args.length < 18 ∨ sub.length ≠ n then (e, some (ansErr stType))
  else if 1000000000 ≤ fieldLe args 6 4 ∨ 64 < n ∨ obj = oTimedAction ∨ obj = oTimedCancel ∨ obj = oStepAuthorise ∨ obj / 65536 = 4 then (e, some ansRange)
  else
    match actRow? s0 obj with
    | none => (e, some ansReference)
    | some r =>
      let target := untime96 args
      let fx := e.frameOf target
      let passed := decide (fx < (e.frame.k + 1 : Nat))
      let lateOk := bitOf (octet args 15) 0
      if c.level < e.actRight r sub then (e, some (ansErr stRights))
      else
        match e.timedSlot with
        | none => (e, some (ansErr stBusy))
        | some i =>
          if passed && !lateOk then (e, some (ansErr stLate))
          else
            let f := if passed then e.frame.k + 1 else fx.toNat
            let x : Timed := ⟨target, f, obj, lateOk, passed, false, 0, 0, c.sess, e.actRight r sub, sub⟩
            let e := e.modTime fun t => { t with timed := smSet none t.timed i (some x) }
            if e.pair.standby && e.isActive then
              let cs := e.pair.nextCseq
              let e := e.sendAction f oTimedAction args
              (e.modPair fun p => { p with
                waitActs := p.waitActs ++ [⟨oTimedAction, le 1 i, cs, f, true, c.ret⟩] }, none)
            else (e, some (ansOk (le 4 i ++ le 8 f)))

/-- TIMED_ACTION as a request (R511): the session needs the right of the action it schedules. -/
def execTimedAction (q : Req) (args : List Byte) (s : State) : Host.Outcome State Fault Refusal :=
  .next ((Eff.start s).invoke q oTimedAction args 0 false actTimedAction).st

/-- A scheduled action executes (R512, R513): with its right, answered into its slot. In a pair the standby has it already, but
for a COMMIT, which takes its set along. -/
def Eff.runTimed (e : Eff s0) (i : Nat) : Eff s0 :=
  match smGet none e.st.time.timed i with
  | none => e
  | some x =>
    let e := e.when x.late fun e => (e.setTrouble 10).fault 0x051 kLateExec
    let e := e.jitem 7 0 (actionPayload x.obj x.args)
    match actRow? s0 x.obj with
    | none => e
    | some r =>
      if r.active && !e.isActive then e.finish (.slot i) (ansErr stNotActive)
      else
        let had := e.pair.standby
        let alone := had && x.obj != oCommit
        let e := e.when alone (·.modPair fun p => { p with standby := false })
        let (e, a) := r.run e ⟨x.level, x.sess, .slot i⟩ x.args
        let e := e.when alone (·.modPair fun p => { p with standby := had })
        match a with
        | some a => e.finish (.slot i) a
        | none => e

/-- The scheduled actions that are due at frame k, in ascending target and then ascending slot (R513). -/
def Eff.timedDue (e : Eff s0) (k : Nat) : List Nat :=
  let l := e.time.timed.filterMap fun p => match p.2 with
    | some x => if !x.isDone && decide (x.fx ≤ k) then some (x.target, p.1) else none
    | none => none
  (l.insertionSort fun a b => a.1 < b.1 ∨ (a.1 = b.1 ∧ a.2 ≤ b.2)).map (·.2)

/-- A step under R495 sets every pending frame anew (R514): one that has passed executes late where LATE_OK allows it, else it is
cancelled with LATE. -/
def Eff.retime (e : Eff s0) : Eff s0 :=
  e.each e.time.timed fun e p =>
    match p.2 with
    | none => e
    | some x =>
      if x.isDone then e
      else
        let f := e.frameOf x.target
        let put (y : Timed) (e : Eff s0) : Eff s0 := e.modTime fun t => { t with timed := smSet none t.timed p.1 (some y) }
        if (e.frame.k : Int) ≤ f then put { x with fx := f.toNat } e
        else if x.lateOk then put { x with fx := e.frame.k, late := true } e
        else put { x with isDone := true, status := stLate } e

end Sys2Proof.Machine
end

