-- ==== Sys2Proof/Machine/Snapshot.lean ====
section
/-! DEFINITION. The deadline of a frame (R53 to R61): the snapshot, the availability vector, the points it writes (R191, R193,
R441), the core computation in its order, and the digests of a frame (R467). -/

namespace Sys2Proof.Machine

variable {s0 : Root} {b0 : State}

/-! ### Taking the snapshot (R53, R60, R204) -/

/-- The data whose copies differ (R205), and those held and intact: cell numbers, and 192 more than the port for BATT. -/
def Eff.disagreeing (e : Eff s0) : List Nat :=
  (e.cells.filter fun p => p.2.measDis).map (·.1) ++ (e.cells.filter fun p => p.2.battDis).map (192 + ·.1)

def Eff.presentNow (e : Eff s0) : List Nat :=
  (e.cells.filter fun p => p.2.meas.isSome && !p.2.measDis).map (·.1) ++
    (e.cells.filter fun p => p.2.batt.isSome && !p.2.battDis).map (192 + ·.1)

/-- The snapshot of the running frame: what has arrived by now, with the device's own vector. -/
def Eff.snapInputs (e : Act b0) : Act b0 :=
  e.modFrame fun f => { f with
    snapped := true, snapK := f.k, vector := e.presentNow, snapDis := e.disagreeing, peerVec := false
    snapMeas := e.cells.filterMap fun p => p.2.meas.map fun m => (p.1, some m)
    snapBatt := e.cells.filterMap fun p => p.2.batt.map fun b => (p.1, some b) }

/-- The MEAS datum of cell c that the frame uses: held, and present in the vector (R60, R61). -/
def Eff.useMeas (e : Eff s0) (c : Nat) : Option MeasRec :=
  if e.frame.vector.contains c then smGet none e.frame.snapMeas c else none

/-- The BATT datum of port n that the frame uses. -/
def Eff.useBatt (e : Eff s0) (n : Nat) : Option (List Byte) :=
  if e.frame.vector.contains (192 + n) then smGet none e.frame.snapBatt n else none

/-! ### The points of the snapshot (R48, R191, R193) -/

/-- A record in the snapshot becomes the points of its cell (R191). A quantity with a REASON is INVALID, and its VALUE holds the previous
one (R46, R49; log 107). -/
def Eff.writeMeas (e : Eff s0) (c : Nat) (m : MeasRec) : Eff s0 :=
  let r := m.octets
  let b := cellPt c
  let toff : Int := (e.frame.so / 4 : Nat)
  let reason := fieldLe r 12 8
  let e := e.each (List.range 16) fun e q =>
    let w := field reason (4 * q) 4
    if w = 0 then e.putPt (b + q) (signed 32 (fieldLe r (20 + 4 * q) 4)) toff 0
    else e.putPt (b + q) (e.pv (b + q)) toff qInvalid w
  let e := e.putPt (b + 16) ((fieldLe r 84 2 + 65536 * fieldLe r 86 2 : Nat) : Int) toff 0
  let e := e.putPt (b + 17) ((fieldLe r 88 2 : Nat) : Int) toff 0
  let flags := octet r 1
  let shut := bitOf flags 0
  (e.modCell c fun x => { x with
    bypClosed := shut, aligned := bitOf flags 4, orderAt := if x.state == .active && !shut then none else x.orderAt }).jitem 1 c (r.take 92)

/-- A new identity of the pack of port n (R24, R327, R340). -/
def Eff.newPack (e : Eff s0) (n id : Nat) : Eff s0 :=
  if (e.cell n).packId = id then e
  else ((e.modCell n fun x => { x with packId := id }).closePort n 1).assayPack n

/-- A battery segment in the snapshot becomes the points of its port (R192, R193). -/
def Eff.writeBatt (e : Eff s0) (n : Nat) (seg : List Byte) : Eff s0 :=
  let status := fieldLe seg 2 2
  let e := e.modCell n fun x => { x with packAvail := bitOf status 0 && bitOf status 1 }
  let e := e.modMeter fun m => { m with battSeen := smSet none m.battSeen n (some e.frame.k) }
  let e := e.each (segGroups seg) fun e g =>
    let t : Int := g.2.2.1 * 250
    let far := decide (t < -32768 ∨ 32767 < t)
    let toff : Int := if far then -32768 else t
    let q := if far then qOld else 0
    let put (first size scale : Nat) (w : Nat) (e : Eff s0) : Eff s0 :=
      e.each g.2.2.2.zipIdx fun e v =>
        e.when (decide (g.2.1 + v.2 < size)) (·.putPt (first + g.2.1 + v.2) ((signed w v.1) * scale) toff q)
    if g.1 = 0 then put (0x040000 + 256 * n) 256 32768 32 e
    else if g.1 = 1 then put (0x030000 + 64 * n) 64 65536 16 e
    else if g.1 = 2 && g.2.2.2.length == 4 then
      e.newPack n (g.2.2.2.reverse.foldl (fun a v => a * 65536 + v) 0)
    else e
  e.jitem 2 n (seg.take (seg.length - 4))

/-- Points whose input is missing in this frame (R48). -/
def Eff.missRange (e : Eff s0) (first n : Nat) (dis : Bool) : Eff s0 :=
  e.each (List.range n) fun e i => e.missPt (first + i) dis

/-- The points of every installed cell and existing port: written from the data that the vector and the snapshot hold, or missing. -/
def Eff.writeInputs (e : Eff s0) : Eff s0 :=
  e.each (allCells.filter fun c => e.installed c) fun e c =>
    let dis := e.frame.snapDis
    let e := match e.useMeas c with
      | some m => e.writeMeas c m
      | none => e.missRange (cellPt c) 18 (dis.contains c)
    if !e.portExists c then e
    else match e.useBatt c with
      | some b => e.writeBatt c b
      | none => (e.missRange (0x030000 + 64 * c) 64 (dis.contains (192 + c))).missRange (0x040000 + 256 * c) 256
          (dis.contains (192 + c))

/-- Forced points (R441): the value stands in, and the point carries FORCED. -/
def Eff.overlayForced (e : Eff s0) : Eff s0 :=
  e.each e.faults.forced fun e p =>
    match p.2 with
    | some v => e.setPoint p.1 (mkPoint v (ptToff (e.pt p.1)) qForced 0)
    | none => e

/-! ### What a deadline counts of each cell -/

/-- Frames without a valid record from either device (R30), and frames in DISAGREE (R206). -/
def Eff.countRecords (e : Eff s0) : Eff s0 :=
  let f := e.frame
  e.each (allCells.filter fun c => (e.cell c).state != .absent) fun e c =>
    let seen := (smGet none f.snapMeas c).isSome || f.vector.contains c || e.chain.peerNow.contains c
    let dis := f.snapDis.contains c || f.snapDis.contains (192 + c)
    e.modCell c fun x => { x with
      miss := if seen then 0 else min (x.miss + 1) 65535, disagreeRun := if dis then min (x.disagreeRun + 1) 65535 else 0 }

/-- RELAYING (R445): the cells of each chain whose record came through the peer; on a standby, those it relays. -/
def Eff.noteRelaying (e : Eff s0) : Eff s0 :=
  e.each (List.range 24) fun e n =>
    let served (p : Nat) : Bool :=
      if e.isActive then ((e.useMeas (8 * n + p)).any (·.relayed)) && !(e.cell (8 * n + p)).direct
      else e.chain.relayReq.contains (8 * n + p)
    let w := ((List.range 8).filter served).foldl (fun a p => a + 2 ^ p) 0
    e.when (smGet 0 e.chain.relaying n != w) fun e => (e.modChain fun h => { h with relaying := smSet 0 h.relaying n w }).event (24 + n)

/-- Everything between the snapshot and the core: points, forced values, summaries (R310), cell counts. -/
def Eff.prepare (e : Eff s0) : Eff s0 :=
  let e := e.modAssay fun a => { a with wiped := [] }
  let e := (e.countRecords.writeInputs).overlayForced
  let e := e.modLoop fun p => { p with taken := e.pts }
  (e.each e.portList fun e n => e.summaries n).noteRelaying

/-! ### Digests (R467) -/

/-- Changes the digests of frame k; the latest few are kept. -/
def Eff.setDigests (e : Eff s0) (k : Nat) (f : Digests → Digests) : Eff s0 :=
  e.modPair fun p => { p with digests := ((k, f (e.digestsOf k)) :: p.digests.filter (·.1 != k)).take 8 }

/-- The core output points of frame k in ascending number (R467): the frame slots that ran, the cascade functions', the
dispatcher's in its frames, those of installed cells, EXC_B of the others, those of ports, and the publications of the assay engine. -/
def Eff.corePoints (e : Eff s0) (skip published : List Nat) : List Nat :=
  let k := e.frame.k
  let disp := k % e.nd == 0
  let results := allCells.filter fun n => published.contains n || e.assay.wiped.contains n
  let slots := e.enabledSlots.filter fun i =>
    slotLane (e.slotCfg i) < 8 && slotDue (e.slotCfg i) k && !skip.contains i
  slots.map (0x2000 + ·) ++ (List.range 0x21).map (0x3000 + ·) ++ (if disp then [0x3040, 0x3041, 0x3042, 0x3043] else []) ++
    published.flatMap (fun n => (List.range 4).map fun i => 0x3200 + 4 * n + i) ++
    allCells.flatMap (fun c => if e.installed c then (List.range 16).map fun i => cellPt c + 32 + i else [cellPt c + 36]) ++
    allCells.flatMap (fun n => ((if disp then [0, 1, 2, 3] else []) ++ (if e.portExists n then [4, 5, 6, 8, 9, 10, 11] else []) ++
      (if results.contains n then [12] else []) ++ (if e.portExists n then [16, 17, 18, 19, 20] else [])).map (portPt n + ·)) ++
    results.flatMap (fun n => (List.range 256).flatMap fun m => (List.range 22).map fun i => 0x080000 + 32 * (256 * n + m) + i)

/-- POINT_CRC of the frame. -/
def Eff.pointCrc (e : Eff s0) (l : List Nat) : Nat := (crc32c (l.flatMap fun n => le 4 n ++ le 8 (e.pt n).toNat)).toNat

/-- SCHED_CRC and POINT_CRC of the running frame, whose slots `skip` did not finish. -/
def Eff.coreDigests (e : Eff s0) (skip : List Nat) : Eff s0 :=
  e.setDigests e.frame.k fun d => { d with
    sched := e.schedCrc, point := e.pointCrc (e.corePoints skip e.assay.fresh) }

/-- OVR_SLOTS (R454). -/
def slotBits (l : List Nat) : List Byte := bitOctets 64 l

/-- OUTDIG of frame k (R454), to a standby. -/
def Eff.sendOutdig (e : Eff s0) (ovr : Option (List Nat)) : Eff s0 :=
  let d := e.digestsOf e.frame.k
  e.when (e.isActive && e.pair.standby) (·.sendPeer 0 (wynFrame 0x28 0 (le 8 e.frame.k ++ le 4 d.sched ++ le 4 d.point ++
    le 4 d.hub ++ le 1 (ofBool ovr.isSome) ++ zeros 3 ++ slotBits (ovr.getD []))))

/-! ### The core -/

/-- Whether the device sends schedules (R449, R475, R477): as ACTIVE, in the frame in which it has seen a newer epoch as well; a device that
retires completes those of the running frame; in frame m − 1 of a handover the standby sends them too. -/
def Eff.sendsSchedules (e : Eff s0) : Bool :=
  e.isActive || (e.pair.role == .retired && e.pair.finishing) ||
    (e.pair.role == .standby && e.pair.handoverAt == some (e.frame.k + 1))

/-- The schedules of frame k + 1 go out, keep-alives in an overrun frame (R267). -/
def Eff.sendRecords (e : Eff s0) (empty : Bool) : Eff s0 :=
  if !e.sendsSchedules then e
  else ((e.sendSchedules empty).sendRelays).modPair fun p => { p with schedSent := true, finishing := false }

/-- The computation of a frame (R53, R133, R267, R275): cell transitions, first pass, frame lanes, assay samples and excitation, second
pass and schedule generator, then dispatcher, meter, publications and the judgements of the device state. The dispatcher and the
assay engine read the deadline snapshot and write behind the frame lanes, which see their points as of t_k (R56, R258). `ovr` holds
the unfinished slots of a frame that overran. -/
def Eff.coreFrame (e : Eff s0) (ovr : Option (List Nat)) : Eff s0 :=
  let snap := e.emergStart
  let e := (snap.stopMoves.cellDeadline).freshCells
  let e := (e.firstPass).frameLanes (ovr.getD [])
  let e := e.assayFrame e.useBatt e.useMeas
  let e := match ovr with
    | none => ((e.modLoop fun p => { p with ovrRun := 0 }).secondPass).buildRecords e.allocated e.packOk
    | some l => ((e.jitem 6 0 (slotBits l)).overrun).modSched fun s => { s with recs := [] }
  let e := ((e.assayExclude ovr.isSome).sendRecords ovr.isSome).dispatchFrame snap
  let e := e.meterFrame
  let published := allCells.filter fun n => (e.asp n).due.any fun c => decide (c.ends + e.assayL ≤ e.frame.k)
  let e := (e.assayEnd snap).modAssay fun a => { a with fresh := published }
  let e := e.coreDigests (ovr.getD [])
  (e.sendOutdig ovr).stateDeadline

/-- The sigma-delta outputs that came too late for the snapshot (R380), and the outputs of a fast tick that lies behind the deadline
(R258), stand back for the computation, and return after it. -/
def Eff.withSnapWords (e : Eff s0) (f : Eff s0 → Eff s0) : Eff s0 :=
  let limit := e.frame.tk + ((e.frame.dl : Int) - 100) * nsq
  let late := ((List.range 24).map (0x1020 + ·)).filterMap fun n =>
    let w := e.snapWord n limit
    if w = e.pt n then none else some (n, w, e.pt n)
  let ahead := decide (e.frame.tk + (e.frame.dl : Int) * nsq < e.loop.tickAt)
  let late := late ++ (if ahead then e.loop.tickOld.map fun p => (0x2000 + p.1, p.2, e.pt (0x2000 + p.1)) else [])
  let e := f (e.each late fun e x => e.setPoint x.1 x.2.1)
  e.each late fun e x => e.setPoint x.1 x.2.2

/-! ### What goes to the standby after the snapshot (R199, R453) -/

/-- AVAIL of the running frame, on both peer lanes. -/
def Eff.sendAvail (e : Eff s0) : Eff s0 :=
  let want := allCells.filter fun c => e.installed c && !(e.cell c).direct
  e.when e.pair.standby (·.sendBoth (wynFrame 0x22 0 (le 8 e.frame.k ++ bitOctets 64 e.frame.vector ++ bitOctets 24 want)))

/-- A FILL of a cell's record as held in the snapshot (R453); the frame is built anew around the record and its segment. -/
def Eff.sendFill (e : Eff s0) (c : Nat) (m : MeasRec) (batt : Option (List Byte)) : Eff s0 :=
  let seg := batt.getD (zeros 4 ++ le 4 (crc32c (zeros 4)).toNat)
  let frame := wynFrame 0x11 0 (m.octets ++ seg)
  e.sendPeer (c / 8 % 2) (wynFrame 0x27 0 (le 1 (c / 8) ++ zeros 3 ++ frame))

/-- The standing fills. -/
def Eff.sendStanding (e : Eff s0) : Eff s0 :=
  e.when e.pair.standby (·.each e.pair.peerStanding fun e c =>
    match smGet none e.frame.snapMeas c with
    | some m => e.sendFill c m (smGet none e.frame.snapBatt c)
    | none => e)

/-! ### The deadline of the ACTIVE device and of one without a shadow -/

/-- The frame slots that are due, which a halted LOOP island leaves unfinished (R267). -/
def Eff.dueSlots (e : Eff s0) : List Nat :=
  e.enabledSlots.filter fun i => slotLane (e.slotCfg i) < 8 && slotDue (e.slotCfg i) e.frame.k

/-- What the islands make of the frame: a LOOP island that is halted or without its clock overruns with every due slot. -/
def Eff.overrunOf (e : Eff s0) (given : Option (List Nat)) : Option (List Nat) :=
  if e.clk.halted.contains 0 || e.clk.stopped.contains 0 then some e.dueSlots else given

/-- The deadline of an ACTIVE device, and of one that retires in this frame: snapshot, AVAIL and fills, points, core. -/
def Eff.activeDeadline (e : Act b0) (ovr : Option (List Nat)) : Act b0 :=
  e.snapInputs.keep fun e =>
    let e := e.when e.isActive fun e => e.sendAvail.sendStanding
    let e := e.convMissing
    e.withSnapWords fun e => ((e.prepare).convForward 0xFFFF 0 e.convFrame).coreFrame (e.overrunOf ovr)

end Sys2Proof.Machine
end

