-- ==== Sys2Proof/Machine/Frame.lean ====
section
/-! DEFINITION. Frame starts (R177, R488, R493, R495, R513): the grid, clock steps, scheduled actions, what acts at a frame boundary,
the claim (R476), a standby's shadow of a frame (R464 to R468, R471), and the takeover (R473, R477). -/

namespace Sys2Proof.Machine

variable {s0 : Root} {b0 : State}

/-! ### The grid -/

/-- Lets local time run up to an instant that lies ahead. -/
def Eff.advance (e : Eff s0) (t : Int) : Eff s0 :=
  if e.time.clock < t then (e.pass ((t - e.time.clock) / nsq).toNat).modTime fun x => { x with clock := t } else e

/-- The next frame start (R488): the first instant of the grid at least half a period after the last one. -/
def Eff.nextStart (e : Eff s0) : Int :=
  let g : Int := max 1 (e.tf * nsq)
  let least := if e.frame.running then e.frame.tk + g / 2 else e.time.clock
  (least + g - 1) / g * g

/-! ### Clock steps (R493 to R495) -/

/-- The clock steps by d at a frame start, and the frame with it. A JOINING device (`joins`) takes its frame number from the beacon whose
instants its step has made its own (R502). -/
def Eff.stepFrame (e : Act b0) (joins : Bool) (d : Int) : Act b0 :=
  let e := e.keep (·.stepClock d)
  let e := e.modFrame fun f => { f with
    tk := f.tk + d * 65536, tkPrev := f.tkPrev + d * 65536, tkOld := f.tkOld + d * 65536 }
  let g : Int := max 1 (e.tf * nsq)
  e.when joins (·.modFrame fun f => { f with
    k := ((e.time.beaconFrame : Int) + (f.tk - e.time.beaconTk + g / 2) / g).toNat })

/-- The step that waits for this frame start: an authorised one closes the meter intervals first and sets the scheduled actions
anew; a first lock steps only where R493 lets it. -/
def Eff.stepAtStart (e : Act b0) (joins : Bool) : Act b0 :=
  match e.time.stepAt with
  | none => e
  | some d =>
    if e.time.stepAuth then
      let e := (e.keep (·.closeAll 4)).stepFrame joins d
      e.keep fun e => (e.each (allCells.filter fun n => (e.mport n).started) fun e n => e.modPort n fun m => { m with
        startT := e.frame.tk / 65536, disc := true }).retime
    else if e.mayStep then e.stepFrame joins d
    else e.keep fun e => (e.modTime fun t => { t with stepAt := none }).discontinuity

/-! ### Journalled actions (R256, R457) -/

/-- What a journalled action does at its frame start. -/
def Eff.applyCore (e : Eff s0) (obj : Nat) (args : List Byte) : Eff s0 :=
  let n := octet args 0
  if obj = oSlotReset then e.clearSlot (fieldLe args 0 2)
  else if obj = oSocSet then e.applySoc args
  else if obj = oMeterAck then e.applyMeterAck args
  else if obj = oForcePoint then e.applyForce args
  else if obj = oDispEmerg then e.modMeter fun m => { m with emergNext := some (n == 1) }
  else if obj = oMeterClose then
    let cause := if args.length = 2 then octet args 1 else 4
    if n = 255 then e.closeAll cause else e.closePort n cause
  else if obj = oCellReq then e.applyReq n (octet args 1)
  else if obj = oConvTrigger then e.modConv fun c => { c with soft := c.soft ++ [4 * n + octet args 1] }
  else e

/-- An action of the list that acts at a frame start. A scheduled action that an ACTIVE device has taken over from its time as
standby runs whole; on a standby only what the core does of it, while cell requests come with their acceptance. -/
def Eff.applyTimed (e : Eff s0) (obj : Nat) (args : List Byte) : Eff s0 :=
  if obj = oTimedAction then
    let inner := fieldLe args 12 3
    let sub := args.drop 18
    if !e.isActive then (if inner = oCellReq then e else e.applyCore inner sub)
    else match actRow? s0 inner with
      | some r => (r.run e ⟨3, 0, .nobody⟩ sub).1
      | none => e
  else e.applyCore obj args

/-- The answer of an action that the standby has confirmed, or that the device takes alone: it then acts at its frame start. -/
def Eff.finishWait (e : Eff s0) (w : PendAct) : Eff s0 :=
  if w.obj = oTimedAction then e.finish w.ret (ansOk (le 4 (octet w.args 0) ++ le 8 w.frame))
  else
    let e := e.modPair fun p => { p with timed := p.timed ++ [(w.frame, w.obj, w.args)] }
    e.finish w.ret (if w.result then ansResultFrame 0 w.frame else ansOk)

/-- Actions that the standby has not confirmed within 2 frames (R79): acknowledged alone, with PEER_COMMIT_MISSED. -/
def Eff.waitTimeouts (e : Eff s0) : Eff s0 :=
  let k := e.frame.k
  let out := e.pair.outbox
  let isLate (w : PendAct) : Bool := match out.find? (·.cseq == w.cseq) with
    | some m => decide (m.sentAt + 2 ≤ k)
    | none => true
  let l := e.pair.waitActs.filter isLate
  let e := e.modPair fun p => { p with
    waitActs := p.waitActs.filter fun w => !isLate w, outbox := p.outbox.filter fun m => k < m.sentAt + 3 }
  e.each l fun e w =>
    if e.isActive then e.peerMissed.finishWait w else e

/-! ### The claim (R112, R476) -/

/-- Claims the hub: ROLE_OK goes low, and the hub is driven: by its running periods, or at SAFE levels. -/
def Eff.claimHub (e : Eff s0) : Eff s0 :=
  let e := e.modPair fun p => { p with refreshAt := e.time.up, roleOk := false, roleQual := false, schedSent := true }
  let e := e.clkoutGap.takeClaim.clkoutFollow
  if e.hub.running then e.driveLegs else e.safeLevels (List.range 12)

/-- The refresh of a frame start: the schedules of the frame before were sent and the supervisor's lockstep check passes. -/
def Eff.refreshClaim (e : Eff s0) : Eff s0 :=
  let ok := e.isActive && e.pair.claim && e.pair.schedSent && !e.clk.halted.contains 6 && !e.clk.stopped.contains 6
  e.modPair fun p => { p with refreshAt := if ok then e.time.up else p.refreshAt, schedSent := false }

/-! ### The power-fail write (R333, R443) -/

/-- The Ledger tail: FIRST, LAST and up to 30 of the newest entries not yet stored. -/
def Eff.writeTail (e : Eff s0) : Eff s0 :=
  let l := (e.ring.filter fun m => decide (e.faults.storedSeq < m.seq)).take 30
  let e := e.when (!e.persist.small) (·.modPersist fun p => { p with
    tail := some ⟨e.faults.first, e.faults.last, l⟩ })
  e.modClk fun c => { c with pfWrite := false, pfDone := true, holdup := false }

/-- The frame start after PWR_FAIL_N: every port closes; without a standby the closes and counters go to the power-fail area; then
the Ledger tail. With a rail out of its window nothing more is written (R581). -/
def Eff.powerFail (e : Eff s0) : Eff s0 :=
  if !e.clk.pfWrite then e
  else
    let e := e.closeAll 3
    if e.clk.notOk.any (· != 9) then e.modClk fun c => { c with pfWrite := false, holdup := false }
    else
      let e := e.when e.isActive (·.modMeter fun m => { m with pfArea := some (e.newestSeq 0x21 + 1, m.ports, m.closes) })
      e.writeTail

/-! ### Joining and resynchronisation (R466, R480, R482) -/

/-- A join attempt fails: it restarts at J4, or retires the device after the third. -/
def Eff.joinFail (e : Eff s0) : Eff s0 :=
  let n := e.pair.joinAttempts + 1
  let e := e.modPair fun p => { p with joinAttempts := n, ckpt := none, image := none, synced := false, cleanRun := 0 }
  if 3 ≤ n then (e.becomeRole .retired).modPair fun p => { p with joinStep := 0 }
  else
    let e := e.modPair fun p => { p with joinStep := 4, joinAt := e.time.up, frFrame := e.frame.k }
    e.sendControl 9 0 (le 8 e.frame.k)

/-- A frame that clears SYNCED (R466): a standby asks for a checkpoint, a device in J6 has failed its attempt. -/
def Eff.lostSync (e : Eff s0) : Eff s0 :=
  let e := e.modPair fun p => { p with synced := false }
  if e.pair.role == .joining then e.joinFail
  else if e.pair.role == .standby && !e.pair.resync then
    (e.modPair fun p => { p with resync := true, image := none, ckpt := none, frFrame := e.frame.k }).sendControl 9 0 (le 8 e.frame.k)
  else e

/-- What the replay of the received checkpoint and of the device's own journal reaches (R466, R480): the images are the
firmware's, and so is the replay of one. -/
def Eff.replayed (e : Eff s0) : Option Ckpt :=
  match e.pair.image with
  | none => none
  | some (fc, bs) =>
    match Config.ckptOf bs with
    | none => none
    | some c => Config.replay c ((e.jrnl.entries.filter fun x => decide (fc ≤ x.1)).reverse.map (·.2))

/-- The committed sets that a checkpoint holds (R552), in place of the device's own but for DEVICE, which each device has for itself
(R480). -/
def Eff.loadSets (e : Eff s0) (cfg : SMap (Option Nat)) : Eff s0 :=
  let shared (k : Nat) : Bool := let d := objDomain (k / 65536); decide (1 ≤ d ∧ d < 15)
  let e := e.each ((e.st.cfg.map (·.1)).filter shared) fun e k => e.setCfg k none
  e.each (cfg.filter fun x => shared x.1) fun e x => e.setCfg x.1 x.2

/-- A cell as a checkpoint holds it, with what this device itself has read and counted of it since BOOT (R213). -/
def Cell.loaded (own c : Cell) : Cell :=
  { c with termId := own.termId, lastTerm := own.lastTerm, ifver := own.ifver, mismatches := own.mismatches
           disagreeRun := own.disagreeRun, accEpoch := own.accEpoch, hops := own.hops, meas := own.meas, batt := own.batt
           measDis := own.measDis, battDis := own.battDis, direct := own.direct, dig := own.dig, copy := own.copy }

/-- The device takes over the core state that a checkpoint holds (R552). Its own images in flash and its own counters stay. -/
def Eff.loadCkpt (e : Eff s0) (c : Ckpt) : Eff s0 :=
  let e := e.loadSets c.cfg
  let e := e.clearPoints.each c.pts fun e p => e.setPoint p.1 p.2
  let e := (((e.modLoop fun _ => c.loop).modSched fun _ => c.sched).modCasc fun _ => c.casc).modAssay fun _ => c.assay
  let e := e.modMeter fun m => { c.meter with storing := m.storing, slots := m.slots, pfArea := m.pfArea }
  let e := ((e.modHub fun _ => c.hub).modCells fun own =>
    allCells.filterMap fun n =>
      let x := (smGet Cell.reset own n).loaded (smGet Cell.reset c.cells n)
      if x = Cell.reset then none else some (n, x)).modFaults fun f => { f with forced := c.forced }
  let e := e.modPair fun p => { p with timed := p.timed ++ c.timed.filterMap fun t => match t.2 with
    | some x => if x.isDone then none
      else some (x.fx, oTimedAction, time96 x.target ++ le 3 x.obj ++ [0] ++ le 2 x.args.length ++ x.args)
    | none => none }
  e.putState c.dev e.dev.cause

/-- The replayed state replaces the shadow state at a frame start (R466). -/
def Eff.resyncEnd (e : Eff s0) : Eff s0 :=
  if !e.pair.resyncNext then e
  else
    let e := match e.replayed with
      | some c => (e.loadCkpt c).modPair fun p => { p with synced := true, resync := false }
      | none => e.modPair fun p => { p with resync := false }
    e.modPair fun p => { p with resyncNext := false, image := none }

/-- J3 ends with the chain lanes and the time base in place (R480): recording starts, and the device asks for the checkpoint. -/
def Eff.joinTime (e : Eff s0) : Eff s0 :=
  if e.pair.role == .joining && e.pair.joinStep == 3 && e.time.servo == .locked && e.time.stepAt.isNone &&
      e.usedChains.all e.laneTrained then
    (e.modPair fun p => { p with joinStep := 4, joinAt := e.time.up, frFrame := e.frame.k }).sendControl 9 0 (le 8 e.frame.k)
  else e

/-- The segments of a checkpoint image, from an offset on. -/
def ckptSegs (frame total crc : Nat) : Nat → Nat → List Byte → List (List Byte)
  | 0, _, _ => []
  | fuel + 1, off, bs =>
    if bs.isEmpty then []
    else wynFrame 0x2B 0 (le 8 frame ++ le 4 off ++ le 4 total ++ le 4 crc ++ bs.take 1508) ::
      ckptSegs frame total crc fuel (off + 1508) (bs.drop 1508)

/-- A checkpoint for the peer at the first frame start after its request (R480), over both lanes in turn. -/
def Eff.sendCkpt (e : Eff s0) : Eff s0 :=
  match e.pair.ckptReq with
  | none => e
  | some _ =>
    let bs := Config.ckptOctets e.capture
    let segs := ckptSegs e.frame.k bs.length (crc32c bs).toNat bs.length 0 bs
    (e.modPair fun p => { p with ckptReq := none }).each segs.zipIdx fun e x => e.sendPeer (x.2 % 2) x.1

/-! ### The frame boundary -/

/-- The device state that a code of R105 names. -/
def stateOf (c : Nat) : Option DevState :=
  [DevState.ready, .discover, .charge, .sync, .run, .derated, .stopping, .safe].find? (·.code == c)

/-- A STANDBY takes the state that the active device's newest status word reports (R102). The word carries no cause: a state that no
transition of R103 reaches from the present one has come with the role (STATE_CAUSE 0x0A), else the cause is not stated (log 106). -/
def Eff.followPeer (e : Eff s0) : Eff s0 :=
  if e.pair.role == .standby && e.pair.peerSerial != 0 && e.pair.peerWord % 16 == 0 then
    match stateOf (field e.pair.peerWord 4 4) with
    | some d => e.enterState d (if e.dev.state.listed d then 0 else 10)
    | none => e
  else e

/-- Whether the device computes the core: as ACTIVE, or as a shadow (R449). -/
def Eff.shadows (e : Eff s0) : Bool := e.pair.role == .standby || (e.pair.role == .joining && e.pair.joinStep == 6)

/-- Forced points that the end of their injection session releases (R439): journalled and passed on as a release is. -/
def Eff.releaseForced (e : Eff s0) : Eff s0 :=
  if !e.faults.releaseAll then e
  else
    let l := (e.faults.forced.map (·.1)).map fun n => le 4 n ++ zeros 5
    let e := e.each l fun e a =>
      ((e.jitem 7 0 (actionPayload oForcePoint a)).when e.isActive (·.sendAction e.frame.k oForcePoint a)).applyForce a
    e.modFaults fun f => { f with releaseAll := false }

/-- Whether a journalled action is one of the dispatcher or the meter, which acts after the commits of its frame (R302). -/
def afterCommits (obj : Nat) (args : List Byte) : Bool :=
  let o := if obj = oTimedAction then fieldLe args 12 3 else obj
  o == oSocSet || o == oDispEmerg || o == oMeterClose || o == oMeterAck

/-- The boundary of a frame: actions that act at it, cell and device transitions, commits, meter closes and windows, watch passes,
the handover of points to the fast lanes (R259), hub start, checkpoints and auxiliary outputs. -/
def Eff.frameBoundary (e : Eff s0) : Eff s0 :=
  let k := e.frame.k
  let core := e.isActive || e.shadows
  let e := e.resyncEnd
  let due := e.pair.timed.filter fun x => decide (x.1 ≤ k)
  let run (l : List (Nat × Nat × List Byte)) (e : Eff s0) : Eff s0 :=
    e.each l fun e x => (e.jitem 7 0 (actionPayload x.2.1 x.2.2)).applyTimed x.2.1 x.2.2
  let e := (e.modPair fun p => { p with timed := p.timed.filter fun x => decide (k < x.1) }).when core (·.assayCloses)
  let e := run (due.filter fun x => !afterCommits x.2.1 x.2.2) e
  let e := e.softTriggers.cellBoundary
  let e := if e.isActive then e.stateBoundary
    else (e.modDev fun v => { v with events := [] }).followPeer
  let e := (run (due.filter fun x => afterCommits x.2.1 x.2.2) e.frameCommits.lanesFrame).powerFail
  let e := e.when core fun e => e.meterStart.assayStart
  let e := e.watchFrame
  let e := e.modLoop fun p => { p with handed := e.pts, halted := [] }
  let e := e.when (e.hub.startNext && e.running) (·.startHub)
  let e := e.releaseForced.takeCkpt
  e.sendCkpt.auxFrame

/-! ### A standby's shadow (R464 to R468) -/

/-- Whether the shadow of the last snapshot has not been computed. -/
def Eff.shadowDue (e : Eff s0) : Bool :=
  e.shadows && (e.frame.snapped || e.frame.boundaryDue) && decide (e.pair.shadowDone ≤ e.frame.snapK)

/-- The slots named, the second pass and the records of the shadow are undone (R267, R468), with the loop and the points as they
were. -/
def Eff.undoSlots (e : Eff s0) (l : LoopSt) (pts : SMap PointWord) (slots : List Nat) : Eff s0 :=
  let back (e : Eff s0) (n : Nat) : Eff s0 := e.setPoint n (smGet pointReset pts n)
  let e := e.each slots fun e i => (e.each (e.slotSecs i).flatten fun e q =>
    e.setSec q (smGet 0 l.s1 q) (smGet 0 l.s2 q)).setPoint (0x2000 + i) (smGet pointReset pts (0x2000 + i))
  let e := e.each [0x3014, 0x3015, 0x3016] back
  let e := e.each (allCells.filter fun c => e.installed c) fun e c =>
    e.each ([32, 34, 35, 37, 38, 39].map (cellPt c + ·)) back
  let e := e.assayExclude true
  (e.modSched fun s => { s with recs := [], cells := s.prev, moves := s.prevMoves }).modLoop fun p => { p with
    ovrRun := l.ovrRun + 1 }

/-- An overrun of the active device (R267, R468): the slots named keep states and outputs, the second pass and the records of the
shadow are undone, and the digests formed anew. -/
def Eff.adoptOverrun (e : Act b0) (k : Nat) (slots : List Nat) : Act b0 :=
  match e.pair.before with
  | none => e
  | some (l, pts) =>
    let now := e.frame.k
    let e := (e.keep (·.undoSlots l pts slots)).modFrame fun f => { f with k := k }
    (e.keep (·.coreDigests slots)).modFrame fun f => { f with k := now }

/-- The object that a CONTROL ACTION for a self-replay names (R469): the manual gives it none. -/
def selfReplay : Nat := 0xFF_FFFF

/-- A self-replay starts at frame k (R469). -/
def Eff.startReplay (e : Eff s0) (k : Nat) : Eff s0 :=
  e.modPair fun p => { p with replay := true, kd := k, replayAt := e.time.up, ownPass := none, peerPass := none }

/-- A clean frame (R468); the 1,000th in a row ends step J6 and makes the device STANDBY. -/
def Eff.cleanFrame (e : Eff s0) : Eff s0 :=
  let e := e.modPair fun p => { p with cleanRun := (p.cleanRun + 1) % 2 ^ 32 }
  if e.pair.role == .joining && 1000 ≤ e.pair.cleanRun then
    ((e.becomeRole .standby).modPair fun p => { p with joinStep := 0, synced := true }).updateSource
  else e

/-- A divergent frame (R469, R471, R482). -/
def Eff.divergentFrame (e : Eff s0) (k : Nat) : Eff s0 :=
  let now := e.time.clock
  let e := e.modPair fun p => { p with
    cleanRun := 0, divergences := (p.divergences + 1) % 2 ^ 32, trouble := p.trouble ||| 2
    divTimes := (now :: p.divTimes).filter fun t => decide (now - 1000000000 * nsq < t) }
  if e.pair.role == .joining then e.joinFail
  else if 4 < e.pair.divTimes.length then (e.fault 0x050 kDivergence 4).retire 2
  else if e.pair.replay then e
  else (e.startReplay k).sendControl 3 0 (le 3 selfReplay ++ [0] ++ le 2 8 ++ le 8 k)

/-- OUTDIG of the last shadowed frame against its own digests (R468). -/
def Eff.compareOutdig (e : Act b0) : Act b0 :=
  match e.pair.outdig with
  | none => e
  | some o =>
    let k := fieldLe o 4 8
    if !e.shadows || e.pair.shadowDone != k + 1 then e
    else
      let e := e.keep (·.modPair fun p => { p with outdig := none })
      let e := e.when (bitOf (octet o 24) 0) (·.adoptOverrun k (octetBits ((o.drop 28).take 64)))
      e.keep fun e =>
        if e.pair.incomplete then e.modPair fun p => { p with cleanRun := 0 }
        else
          let d := e.digestsOf k
          if d.sched = fieldLe o 12 4 && d.point = fieldLe o 16 4 && d.hub = fieldLe o 20 4 then e.cleanFrame
          else e.divergentFrame k

/-- The data of a vector that the snapshot lacks (R61, R465). -/
def Eff.lacking (e : Eff s0) (vec : List Nat) : List Nat :=
  vec.filter fun d => if d < 192 then (smGet none e.frame.snapMeas d).isNone else (smGet none e.frame.snapBatt (d - 192)).isNone

/-- The active device's vector of frame k, where its AVAIL has come. -/
def Eff.availOf (e : Eff s0) (k : Nat) : Option (List Nat) :=
  match e.pair.avail with
  | some (ka, bs) => if ka = k then some ((octetBits bs).filter (· < 384)) else none
  | none => none

/-- The shadow of the last snapshot (R61, R464 to R466), with the active device's vector unless `own`; the frame boundary that waits
for it follows. -/
def Eff.runShadow (e : Act b0) (own : Bool) : Act b0 :=
  if !e.shadowDue then e
  else
    let f := e.frame
    let k := f.snapK
    let e := e.when f.boundaryDue (·.modFrame fun g => { g with k := k, tk := g.tkPrev, tkPrev := g.tkOld })
    let av := if own then none else e.availOf k
    let vec := av.getD f.vector
    let bad := av.isNone || !(e.lacking vec).isEmpty
    let inc := bad || !e.pair.synced || e.pair.resync
    let e := e.modFrame fun g => { g with vector := vec, peerVec := av.isSome }
    let e := e.keep fun e =>
      let e := e.modPair fun p => { p with
        before := some (e.loop, e.pts), incomplete := inc, shadowDone := k + 1, onceWait := []
        incompleteFrames := (p.incompleteFrames + ofBool inc) % 2 ^ 32, trouble := if inc then p.trouble ||| 4 else p.trouble }
      let e := (e.prepare).coreFrame (e.overrunOf none)
      e.when bad (·.lostSync)
    let e := if f.boundaryDue then
        ((e.keep (·.journalClose)).modFrame fun g =>
          { g with k := f.k, tk := f.tk, tkPrev := f.tkPrev, boundaryDue := false }).keep (·.frameBoundary)
      else e
    e.compareOutdig

/-! ### Takeover and handover (R473, R477) -/

/-- A standby becomes ACTIVE (R472, R473): with its shadow completed and the next epoch. It claims the hub where ROLE_OK has been
qualified high, waits for that where the line is high, and leaves the hub to the old device where that holds the line (R476). -/
def Eff.takeOver (e : Act b0) : Act b0 :=
  (e.runShadow true).keep fun e =>
  let e := e.becomeRole .active
  let first := e.frame.k + (if e.frame.snapped then 1 else 0)
  let e := e.modPair fun p => { p with
    epoch := (p.epoch + 1) % 65536, takeovers := (p.takeovers + 1) % 65536, lastTakeover := first
    trouble := if p.synced then p.trouble else p.trouble ||| 32
    resync := false, replay := false, handoverAt := none, standby := false, peerMiss := 0, outdig := none, avail := none
    onceWait := [], standing := [], peerStanding := [], schedSent := true, outbox := [], finishing := false }
  let e := e.modChain fun h => { h with relayReq := [] }
  let e := e.each (allCells.filter fun n => (e.mport n).started) fun e n => e.modPort n fun m => { m with switched := true }
  let e := e.updateSource
  if e.pair.roleQual then e.claimHub else e.when (!e.pair.roleOk) (·.modPair fun p => { p with trouble := p.trouble ||| 16 })

/-- Frame m of a handover (R477): the old device becomes STANDBY and releases its claim, the standby becomes ACTIVE. -/
def Eff.handoverFrame (e : Act b0) : Act b0 :=
  match e.pair.handoverAt with
  | none => e
  | some m =>
    if e.frame.k < m then e
    else if e.isActive then
      e.keep fun e => ((e.becomeRole .standby).modPair fun p => { p with
        handoverAt := none, synced := true, resync := false, replay := false, cleanRun := 0, standby := false, avail := none, outdig := none
        shadowDone := e.frame.k, absentP := 0, absentC := 0, lastC := [] }).updateSource
    else if e.pair.role == .standby then e.takeOver
    else e.keep (·.modPair fun p => { p with handoverAt := none })

/-! ### FRAME_START -/

/-- Whether frames run: on an ACTIVE device from READY on (R177), on any other once it has its frame number. -/
def Eff.framesRun (e : Eff s0) : Bool :=
  e.dev.state != .off && e.dev.state != .boot && (e.frame.running || e.isActive) && !e.clk.stopped.contains 7

/-- What a frame start clears and counts of the chains (R159, R213). -/
def Eff.chainFrame (e : Eff s0) : Eff s0 :=
  let e := e.each (e.cells.map (·.1)) fun e c => e.modCell c fun x => { x with
    meas := none, batt := none, measDis := false, battDis := false, direct := false, dig := none, copy := none }
  let now := e.chain.peerNow
  let e := e.modChain fun h =>
    { h with
      peerHas := (allCells.filter now.contains).map fun c => (c, min (smGet 0 h.peerHas c + 1) 8)
      peerNow := []
      slackHist := (List.range 24).foldl (init := h.slackHist) fun m n =>
        match smGet none h.slackNow n, smGet [] m n with
        | none, [] => m
        | v, l => smSet [] m n ((v :: l).take 1000)
      slackNow := [] }
  (e.modPair fun p => { p with digSent := [] }).modConv fun c => { c with fired := [], written := [] }

/-- The scheduled actions of this frame (R513), in their order, as of the boundary: what they set for the next frame start acts at
this one. -/
def Eff.timedActions (e : Act b0) : Act b0 :=
  let k := e.frame.k
  let l := e.timedDue k
  if l.isEmpty then e
  else ((e.modFrame fun f => { f with k := k - 1 }).keep (·.each l fun e i => e.runTimed i)).modFrame fun f => { f with k := k }

/-- A STEP_AUTHORISE that acts at this frame start (R495), on either device. -/
def Eff.stepDue (e : Eff s0) : Eff s0 :=
  match e.pair.timed.find? fun x => x.2.1 == oStepAuthorise && decide (x.1 ≤ e.frame.k) with
  | some x => e.modTime fun t => { t with stepAt := some (signed 64 (fieldLe x.2.2 0 8)), stepAuth := true }
  | none => e

/-- The start of the next frame. -/
def Eff.frameStart (e : Act b0) : Act b0 :=
  let e := e.when e.frame.boundaryDue (·.runShadow false)
  let t := e.nextStart
  let first := !e.frame.running
  let waits := e.shadowDue
  let joins := e.pair.role == .joining && e.time.beaconFrame != 0
  let dl := e.cv oDeadline
  let so := e.cv oSampleOffset
  let g : Int := e.tf * nsq
  let e := e.keep fun e => (e.releaseHeld.advance t).when (!first && !waits) (·.journalClose)
  let crc := (crc32c e.hub.reloads).toNat
  let e := e.modFrame fun f => { f with
    running := true, k := if first then 0 else f.k + 1, tkOld := if first then t - 2 * g else f.tkPrev
    tkPrev := if first then t - g else f.tk, tk := t, snapped := false, boundaryDue := waits, dl := dl, so := so
    dlPrev := if first then dl else f.dl }
  let e := e.keep fun e => ((e.modHub fun h => { h with reloads := [] }).setDigests e.frame.k fun d => { d with hub := crc }).stepDue
  let e := (e.stepAtStart joins).timedActions
  let e := e.keep fun e =>
    let e := (e.echoFrame.chainFrame).refreshClaim
    e.when e.pair.newerSeen (·.enterJoining)
  let e := e.handoverFrame
  e.keep fun e =>
    let e := (e.joinTime).waitTimeouts
    if e.frame.boundaryDue then e.lanesFrame else e.frameBoundary

/-- FRAME_START (R177): the next frame starts at its instant of the grid. A JOINING device that does not know its frame number yet (R177)
has frame starts for its lanes alone (R154, R480 step J1). -/
def execFrameStart (s : State) : Host.Outcome State Fault Refusal :=
  let e := Eff.start s
  if e.framesRun then .next e.frameStart.st
  else .next (e.when (e.pair.role == .joining && e.dev.state != .off && e.dev.state != .boot && !e.clk.stopped.contains 7)
    fun e => (e.advance e.nextStart).lanesFrame).st

/-! ### CANARY and BEACON (R187, R198, R459, R501, R505) -/

/-- C of R501, in 2⁻¹⁶ ns. -/
def canaryC : Int := 200 * 65536

/-- The CANARY of the running frame. -/
def Eff.canary (e : Eff s0) : List Byte :=
  wynFrame 0x21 0 (le 8 e.frame.k ++ le 8 Config.serial.toNat ++ le 2 e.pair.epoch ++ zeros 2 ++ le 4 e.peerStatus)

/-- CANARY_SEND (R198, R459, R501): on both peer lanes, at t_k + C, or on an ACTIVE device whose peer follows it at t_k + 2C − ρ. -/
def execCanarySend (s : State) : Host.Outcome State Fault Refusal :=
  let e := Eff.start s
  if !e.frame.running || e.dev.state == .off || e.dev.state == .boot then .next e.st
  else
    let tk := e.frame.tk / 65536
    let peer := e.pair.peerWord % 16
    .next (e.each [0, 1] fun e m =>
      let at1 := match smGet none e.time.canaryRho m with
        | some (f, rho) =>
          if e.isActive && (peer == 1 || peer == 2) && f + 1 == e.frame.k && decide (0 ≤ rho ∧ rho ≤ 2 * canaryC) then
            tk + 2 * canaryC - rho
          else tk + canaryC
        | none => tk + canaryC
      e.when (e.locked (24 + m)) (·.emit (.canary (24 + m) at1 (frameBlocks e.canary)))).st

/-- The instant at which a BEACON leaves (R505): the first block boundary at or after t_k + DEADLINE + 100 ns. Where the blocks of a
lane begin is not stated: a free value below the 6.4 ns of a block. -/
def Eff.beaconAt (e : Eff s0) : Int :=
  let base := (e.frame.tk + ((e.frame.dl : Int) + 100) * nsq) / 65536
  base + (e.freeWord.toNat % 419430 : Nat)

/-- The BEACON of chain n (R187), with the delays of its hops. -/
def Eff.beacon (e : Eff s0) (n : Nat) : List Byte :=
  let g : Int := e.tf * nsq
  wynFrame 0x02 e.devb (le 8 e.frame.k ++ time96 e.beaconAt ++ time96 ((e.frame.tk + g) / 65536) ++ le 4 e.tf ++
    (List.range 8).flatMap fun h => le 4 (e.hop n h).value)

/-- Whether the device relays on chain n (R202, R479). -/
def Eff.relays (e : Eff s0) (n : Nat) : Bool :=
  (e.pair.role == .standby || (e.pair.role == .joining && e.locked n)) && e.chain.relayReq.any (· / 8 == n)

/-- BEACON_SEND (R187, R505): after the deadline and before the first SCHEDULE frame, once a frame, on each chain that an ACTIVE device
serves, and on those that a standby relays. -/
def execBeaconSend (s : State) : Host.Outcome State Fault Refusal :=
  let e := Eff.start s
  if !e.frame.running || !e.frame.snapped || e.chain.beaconK == some e.frame.k || decide (e.schedAt ≤ e.time.clock) then .next e.st
  else
    let e := (e.advance (e.frame.tk + ((e.frame.dl : Int) + 100) * nsq)).modChain fun h => { h with beaconK := some e.frame.k }
    .next (e.each (e.usedChains.filter fun n => e.isActive || e.relays n) fun e n => (e.sendChain n (e.beacon n)).tick).st

end Sys2Proof.Machine
end

