-- ==== Sys2Proof/Machine/Boot.lean ====
section
/-! DEFINITION. Resets and start-up steps 1 to 6 (R101, R103, R107 to R112, R574 to R576). -/

namespace Sys2Proof.Machine

variable {s0 : Root} {b0 : State}

/-! ### Resets -/

/-- What a DEVICE reset leaves of the time unit: the calendar clock and the tamper ring of the BACKUP domain (R574). -/
def TimeSt.backup (t : TimeSt) : TimeSt :=
  { TimeSt.reset with
    up := t.up, calBase := t.calBase, calAt := t.calAt, calValid := t.calValid, oscOk := t.oscOk, vbatLow := t.vbatLow
    tamperLow := t.tamperLow, tamper := t.tamper, calErr := t.calErr }

/-- What a DEVICE reset leaves of the gate model: the levels of its inputs. -/
def GateSt.inputs (g : GateSt) : GateSt :=
  { GateSt.reset with
    enN := g.enN, enRise := g.enRise
    gates := (List.range 24).foldl (init := []) fun m k =>
      let x := smGet Gate.reset g.gates k
      smSet Gate.reset m k { Gate.reset with sense := x.sense, supPos := x.supPos, supNeg := x.supNeg } }

/-- Storage and pins through a DEVICE reset: flash keeps its images, the pair unit the levels of its pins, the clocks what the supplies,
references and the junction show. -/
def Eff.resetOuter (e : Eff s0) (cause : Nat) : Eff s0 :=
  let e := e.modPersist fun p => { p with job := none, answer := .nobody, status := 0 }
  let e := e.modMeter fun m => { MeterSt.reset with slots := m.slots, pfArea := m.pfArea }
  let e := e.modPair fun p => { PairSt.reset with strapB := p.strapB, presentN := p.presentN, roleOk := p.roleOk }
  let e := e.modGate GateSt.inputs
  let e := e.modHub fun h => { HubSt.reset with comm := h.comm }
  let e := e.modTime TimeSt.backup
  e.modClk fun c => { ClkSt.reset with
    resetCause := cause, notOk := c.notOk, railMv := c.railMv, refSysLost := c.refSysLost, refLaneLost := c.refLaneLost
    junction := c.junction, resetN := c.resetN }

/-- A reset of the DEVICE domain (R574, R575): the device is OFF, its outputs high-impedance and de-energised, everything at its
reset value but the BACKUP domain, flash and the levels of pins. -/
def Eff.deviceReset (e : Act b0) (cause : Nat) : Act b0 :=
  let trim := smGet none e.cfg (key oCalTrim 0)
  let e := (((e.clearPoints.clearCfg.clearStg).clearQueue).setRing []).setCfg (key oCalTrim 0) trim
  let e := (e.modDoms fun _ => []).modSess fun _ => SessSt.reset
  let e := (((e.putState .off 0).modTrouble fun _ => 0).modDev fun _ => DevSt.reset).modFaults fun _ => FaultSt.reset
  let e := ((e.modLanes fun _ => []).modCells fun _ => []).modChain fun _ => ChainSt.reset
  let e := e.clearAux.modFrame fun _ => FrameSt.reset
  let e := ((e.modBanks fun _ => []).modConv fun _ => ConvSt.reset).modLoop fun _ => LoopSt.reset
  let e := ((e.modSched fun _ => SchedSt.reset).modCasc fun _ => CascSt.reset).modAssay fun _ => AssaySt.reset
  let e := (e.modWatch fun _ => []).modJrnl fun _ => JrnlSt.reset
  e.resetOuter cause

/-- Start-up step 1 begins (R103, R107). -/
def Eff.enterBoot (e : Eff s0) : Eff s0 := (e.setState .boot 0).modDev fun v => { v with releasedAt := e.time.up }

/-- RESET_N_RISE (R103, R107, R579): with the supplies in range the device leaves OFF; without, it stays OFF until they are. -/
def execResetNRise (suppliesInRange : Bool) (s : State) : Host.Outcome State Fault Refusal :=
  let e := Eff.start s
  if e.dev.state != .off || e.clk.resetN then .next e.st
  else
    let e := (e.modClk fun c => { c with resetN := true }).modDev fun v => { v with releasedAt := e.time.up }
    .next (e.when suppliesInRange fun e => (e.modClk fun c => { c with notOk := [] }).enterBoot).st

/-- RESET_N_LOW (R575): qualified after 1 µs, never seen below 100 ns; whether a pulse between the two is, is a free truth value. -/
def execResetNLow (lowNs : Nat) (s : State) : Host.Outcome State Fault Refusal :=
  let e := Eff.start s
  if lowNs < 100 then .next e.st
  else
    let seen := decide (1000 ≤ lowNs) || e.freeBool
    let e := e.when (decide (lowNs < 1000)) (·.tick)
    .next (e.when seen fun e =>
      (e.when (e.dev.state != .off) (·.deviceReset 1)).modClk fun c => { c with resetN := false }).st

/-- JTAG_SYSRESET (R574, R575): the DEVICE domain resets; with RESET_N high and the rails in range start-up begins again. -/
def execJtagSysreset (s : State) : Host.Outcome State Fault Refusal :=
  let e := Eff.start s
  if e.dev.state == .off then .next e.st
  else
    let e := e.deviceReset 3
    .next (e.when (e.clk.resetN && e.clk.notOk.all (· == 9)) (·.enterBoot)).st

/-! ### Steps 1 to 4 -/

/-- Whether start-up stands after step n and goes on. -/
def Eff.bootAt (e : Eff s0) (n : Nat) : Bool := e.dev.state == .boot && e.dev.bootStage == n && !e.dev.bootFail

/-- A start-up step completes. -/
def Eff.bootDone (e : Eff s0) (n : Nat) : Eff s0 := e.modDev fun v => { v with bootStage := n }

/-- A start-up step fails (R108): the device stays in BOOT until a reset. -/
def Eff.bootFails (e : Eff s0) : Eff s0 := e.modDev fun v => { v with bootFail := true }

/-- SUPPLIES_IN_RANGE (R107, R579): every rail has been in its window for 10 ms; step 1 ends, at the earliest 10 ms after the rise of
RESET_N, and step 2 begins. -/
def execSuppliesInRange (s : State) : Host.Outcome State Fault Refusal :=
  let e := Eff.start s
  let e := e.modClk fun c => { c with notOk := [] }
  let wait := e.dev.releasedAt
  let e := if e.dev.state == .off && e.clk.resetN then
      (e.setState .boot 0).modDev fun v => { v with releasedAt := wait } else e
  let due := e.bootAt 0 && e.clk.resetN && decide (e.dev.releasedAt + 10000000 ≤ e.time.up)
  .next (e.when due fun e => (e.bootDone 1).modClk fun c => { c with stepAt := e.time.up }).st

/-- Whether the reference of a PLL is there (R564, R568). -/
def Eff.refOk (e : Eff s0) (pll : Nat) : Bool := if pll = 1 then !e.clk.refLaneLost else !e.clk.refSysLost

/-- PLL_LOCK (R566, R567): the lock pin has risen from 0.18 V to 1.62 V. Within 1.2 ms to 5.0 ms lock is declared; a rise of any other
time fails the check. In start-up step 2 the last of the three completes the step; a lock regained ends holdover. -/
def execPllLock (pll : Fin 3) (riseUs : Nat) (s : State) : Host.Outcome State Fault Refusal :=
  let e := Eff.start s
  let x := pll.val
  let inStep := e.bootAt 1
  let running := e.dev.state != .off && (e.dev.state != .boot || 2 ≤ e.dev.bootStage)
  if e.dev.pllLocked.contains x || !e.refOk x || !(inStep || running) then .next e.st
  else if !(1200 ≤ riseUs && riseUs ≤ 5000) then
    .next (e.modClk fun c => { c with riseFail := (x :: c.riseFail).dedup }).st
  else if inStep && e.clk.stepAt + 20000000 < e.time.up then .next e.st
  else
    let e := e.modDev fun v => { v with pllLocked := x :: v.pllLocked }
    let e := e.modClk fun c => { c with
      riseFail := c.riseFail.filter (· != x), holdover := c.holdover.filter (· != x) }
    let e := e.setCond kPllUnlock x false
    .next (e.clkoutFollow.when (inStep && (List.range 3).all e.dev.pllLocked.contains) (·.bootDone 2)).st

/-- PLL_LOCK_FAIL (R108): a PLL not locked 20 ms into step 2. -/
def execPllLockFail (s : State) : Host.Outcome State Fault Refusal :=
  let e := Eff.start s
  let missing := (List.range 3).filter fun x => !e.dev.pllLocked.contains x
  let due := e.bootAt 1 && !missing.isEmpty && decide (e.clk.stepAt + 20000000 ≤ e.time.up)
  .next (e.when due fun e => e.bootFails.modClk fun c => { c with pllFail := missing }).st

/-- SRAM_SELF_TEST_DONE (R108, R110): step 3 fails on an uncorrectable word or more than 64 words with a single-bit defect. -/
def execSramSelfTestDone (uncorrectable : Bool) (singleBitWords : Nat) (s : State) : Host.Outcome State Fault Refusal :=
  let e := Eff.start s
  if !e.bootAt 2 then .next e.st
  else if uncorrectable || 64 < singleBitWords then .next (e.bootFails.modClk fun c => { c with sramFail := true }).st
  else .next (e.bootDone 3).st

/-- The boot ROM counts the flash devices, before it looks for any firmware copy (R94). A device on XSPI_CS1_N counts where its density
is that of flash device 0; less than 64 MiB in all is small. -/
def Eff.countFlash (e : Eff s0) (flash : FlashRead) : Eff s0 :=
  let n := if flash.density0 ≠ 0 ∧ flash.density1 = flash.density0 then 2 else 1
  e.modPersist fun p => { p with count := n, small := decide (n * flash.density0 < 64) }

/-- The order in which the boot ROM tries the firmware copies (R109): the one with the higher version first. DESIGN CHOICE (log 104):
copy 0 where the versions are equal. -/
def fwOrder (v0 v1 : Nat) : List Nat := if v0 < v1 then [1, 0] else [0, 1]

/-- FIRMWARE_VERIFY_DONE (R94, R109): the boot ROM has read the flash, and the verification of the copy whose turn it is ends; `digest` is
the SHA-384 digest of that copy, or none where its signature does not verify. The first that verifies runs; step 4 fails with both
bad. -/
def execFirmwareVerifyDone (flash : FlashRead) (digest : Option (BitVec 384)) (s : State) : Host.Outcome State Fault Refusal :=
  let e := Eff.start s
  if !e.bootAt 3 then .next e.st
  else
    let e := e.countFlash flash
    match (fwOrder flash.version0.toNat flash.version1.toNat).find? fun c => !e.dev.fwTried.contains c with
    | none => .next e.st
    | some c =>
      match digest with
      | some d =>
        .next ((e.bootDone 4).modDev fun v => { v with
          fwVer := if c = 0 then flash.version0.toNat else flash.version1.toNat, fwDigest := d.toNat }).st
      | none =>
        let e := e.modDev fun v => { v with fwTried := c :: v.fwTried }
        let e := e.modClk fun x => { x with fwBad := c :: x.fwBad }
        .next (e.when (decide (2 ≤ e.dev.fwTried.length)) (·.bootFails)).st

/-! ### Step 6: role negotiation -/

/-- Step 6 ends and the device is READY (R103). -/
def Eff.bootReady (e : Eff s0) : Eff s0 := ((e.bootDone 6).modPair fun p => { p with waitAt := none }).enterState .ready 0

/-- The claim at step 6 (R112, R177, R472): ACTIVE with EPOCH 1, the hub driven; the meter closes of a power fail wait for their
signature (R333), and with AUTOSTART the device goes on to DISCOVER at once (R103). -/
def Eff.bootClaim (e : Eff s0) : Eff s0 :=
  let e := (e.bootReady.becomeRole .active).modPair fun p => { p with epoch := 1 }
  let e := e.modMeter fun m => match m.pfArea with
    | some (_, _, l) => { m with closes := m.closes ++ l, pfArea := none }
    | none => m
  let e := e.claimHub.updateSource
  e.when (e.cv oAutostart == 1) (·.enterState .discover 2)

/-- The device leaves step 6 as JOINING (R112, R450). -/
def Eff.bootJoin (e : Eff s0) : Eff s0 := e.bootReady.enterJoining

/-- ROLE_NEGOTIATION (R112): the levels of PRESENT_N and ROLE_OK at step 6 decide, with the ROLE strap. -/
def execRoleNegotiation (presentN roleOk : Bool) (s : State) : Host.Outcome State Fault Refusal :=
  let e := Eff.start s
  if !e.bootAt 5 || e.pair.waitAt.isSome then .next e.st
  else
    let e := e.modPair fun p => { p with presentN := presentN, roleOk := roleOk }
    match presentN, roleOk with
    | true, true => .next e.bootClaim.st
    | false, false => .next e.bootJoin.st
    | false, true => .next (if e.pair.strapB then e.modPair fun p => { p with waitAt := some e.time.up } else e.bootClaim).st
    | true, false => .next ((e.fault 0x050 kRoleLine).bootFails).st

/-- ROLE_WAIT_EXPIRY (R112): ROLE_OK has stayed high for the 2 s of device B. -/
def execRoleWaitExpiry (s : State) : Host.Outcome State Fault Refusal :=
  let e := Eff.start s
  match e.pair.waitAt with
  | some t => .next (e.when (e.bootAt 5 && e.pair.roleOk && decide (t + 2000000000 ≤ e.time.up)) (·.bootClaim)).st
  | none => .next e.st

/-- ROLE_OK_FALL (R112): the peer claims; a device that waits at step 6 becomes JOINING. -/
def execRoleOkFall (s : State) : Host.Outcome State Fault Refusal :=
  let e := (Eff.start s).modPair fun p => { p with roleOk := false, roleQual := false }
  .next (e.when (e.bootAt 5 && e.pair.waitAt.isSome) (·.bootJoin)).st

/-! ### The boot status register -/

/-- The boot status register (R576). -/
def Eff.bootstat (e : Eff s0) : Nat :=
  let bits (l : List Nat) (n : Nat) : Nat := (List.range n).foldl (fun a i => a + 2 ^ i * ofBool (l.contains i)) 0
  e.dev.bootStage % 128 + 128 * ofBool e.dev.bootFail + 2 ^ 8 * bits e.clk.pllFail 3 + 2 ^ 11 * ofBool e.clk.sramFail +
    2 ^ 12 * bits e.clk.fwBad 2 + 2 ^ 16 * e.clk.resetCause +
    2 ^ 18 * (List.range 10).foldl (fun a r => a + 2 ^ r * ofBool (!e.clk.notOk.contains r)) 0

/-- BOOTSTAT (R576): read in every state while VDD_FD and VDDIO_18 are in range. -/
def execBootstat (s : State) : Host.Outcome State Fault Refusal :=
  let e := Eff.start s
  let on := !e.clk.notOk.contains 7 && !e.clk.notOk.contains 4
  .next (e.when on (·.emit (.bootstat (BitVec.ofNat 32 e.bootstat)))).st

end Sys2Proof.Machine
end

