-- ==== Sys2Proof/Machine/Clocks.lean ====
section
/-! DEFINITION. Running clocks, supplies, power fail and the junction sensor (R564 to R588). -/

namespace Sys2Proof.Machine

variable {s0 : Root} {b0 : State}

/-! ### PLLs and references -/

/-- The CONV reset domain is held (R567, R574): the converters and filters are at reset; their counters stay. -/
def Eff.resetConv (e : Eff s0) : Eff s0 :=
  e.modConv fun c => { c with
    fs := c.fs.map fun p => (p.1, { ConvF.reset with dropped := p.2.dropped, invalid := p.2.invalid })
    sd := c.sd.map fun p => (p.1, { SdCh.reset with stuck := p.2.stuck, clkMissing := p.2.clkMissing, doneAt := p.2.doneAt, before := p.2.before }) }

/-- A running PLL loses lock (R567): holdover, PLL_UNLOCK and what hangs on the PLL: PLL_C holds the CONV domain, and with PLL_B every
lane leaves LOCKED, its recovered clock without reference. -/
def Eff.unlock (e : Eff s0) (x : Nat) : Eff s0 :=
  if !e.dev.pllLocked.contains x then e
  else
    let e := e.modDev fun v => { v with pllLocked := v.pllLocked.filter (· != x) }
    let e := e.modClk fun c => { c with holdover := (x :: c.holdover).dedup }
    let e := (e.setCond kPllUnlock x true).fault 0x091 kPllUnlock
    let e := e.when (x == 2) (·.resetConv.clkoutFollow)
    e.when (x == 1) fun e => e.each (List.range 28) fun e l =>
      e.when ((e.lane l).state == .locked || (e.lane l).state == .hunt) fun e =>
        (e.modLane l fun y => { y with lol := true, trouble := y.trouble ||| (if y.los then 0 else 2) }).warmAcquire l

/-- PLL_UNLOCK (R567). -/
def execPllUnlock (pll : Fin 3) (s : State) : Host.Outcome State Fault Refusal := .next ((Eff.start s).unlock pll.val).st

/-- REFCLK_LOSS (R568): no edge for 200 ns. REFCLK_SYS carries PLL_A and PLL_C, REFCLK_LANE carries PLL_B. -/
def execRefclkLoss (lane : Bool) (noEdgeNs : Nat) (s : State) : Host.Outcome State Fault Refusal :=
  let e := Eff.start s
  if noEdgeNs < 200 then .next e.st
  else if lane then .next ((e.modClk fun c => { c with refLaneLost := true }).unlock 1).st
  else .next (((e.modClk fun c => { c with refSysLost := true }).unlock 0).unlock 2).st

/-- REFCLK_RETURN (R568). -/
def execRefclkReturn (lane : Bool) (s : State) : Host.Outcome State Fault Refusal :=
  .next ((Eff.start s).modClk fun c =>
    if lane then { c with refLaneLost := false } else { c with refSysLost := false }).st

/-! ### Island clocks -/

/-- Whether a stop of an island's clock is intended (R572): a lane that is OFF, the converter clocks while CONV is held, or a debug
halt. -/
def Eff.stopIntended (e : Eff s0) (i : Nat) : Bool :=
  (10 ≤ i && (e.lane (i - 10)).state == .off) || (i == 9 && !e.dev.pllLocked.contains 2) || e.clk.halted.contains i

/-- ISLAND_CLOCK_FAULT (R572, R239): the island's clock has stopped or lies more than 5 % off. -/
def execIslandClockFault (island : Fin 38) (s : State) : Host.Outcome State Fault Refusal :=
  let e := Eff.start s
  let i := island.val
  if e.dev.state == .off || e.clk.stopped.contains i || e.stopIntended i then .next e.st
  else
    let e := e.modClk fun c => { c with stopped := i :: c.stopped }
    let e := (e.setCond kPllUnlock (16 + i) true).fault 0x091 kPllUnlock
    .next (e.when (i == 2) (·.haltHub)).st

/-- ISLAND_CLOCK_RESTORE (R572). -/
def execIslandClockRestore (island : Fin 38) (s : State) : Host.Outcome State Fault Refusal :=
  let e := (Eff.start s).modClk fun c => { c with stopped := c.stopped.filter (· != island.val) }
  .next (e.setCond kPllUnlock (16 + island.val) false).st

/-- Whether debug halts are enabled (R573): while a VENDOR session is there to enable them (log 126). -/
def Eff.debugEnabled (e : Eff s0) : Bool :=
  e.sess.slots.any fun p => match p.2 with
    | some x => x.proved && x.level == 3
    | none => false

/-- The islands that a debug halt or its release names: one, or all of them. -/
def haltIslands (island : Option (Fin 38)) : List Nat :=
  match island with
  | some i => [i.val]
  | none => List.range 38

/-- DEBUG_HALT (R573): a halt of LOOP, FAST, SCHED, ASSAY or STORE sets NONDET; one of FAST or SCHED halts the hub (R239). -/
def execDebugHalt (island : Option (Fin 38)) (s : State) : Host.Outcome State Fault Refusal :=
  let e := Eff.start s
  let l := (haltIslands island).filter fun i => !e.clk.halted.contains i
  if e.dev.state == .off || !e.debugEnabled then .next e.st
  else
    let e := e.modClk fun c => { c with halted := l ++ c.halted }
    let e := e.when (l.any fun i => decide (i ≤ 4)) (·.nondet)
    .next (e.when (l.any fun i => i == 1 || i == 2) (·.haltHub)).st

/-- DEBUG_HALT_RELEASE (R573): the islands run again; NONDET and the halted hub groups stay. -/
def execDebugHaltRelease (island : Option (Fin 38)) (s : State) : Host.Outcome State Fault Refusal :=
  .next ((Eff.start s).modClk fun c => { c with halted := c.halted.filter fun i => !(haltIslands island).contains i }).st

/-! ### Supplies -/

/-- Every auxiliary output follows its own VAUX lock-out (R578). -/
def Eff.auxSupply (e : Eff s0) : Eff s0 :=
  e.each (List.range 16) fun e n => e.setOut n fun a => { a with energised := a.cmd && !a.oc && !a.ot && !e.vauxLow }

/-- SUPPLY_OOR (R578): a rail out of its window for 2 µs. VBAT only reports. -/
def execSupplyOor (rail : Fin 10) (mv forNs : Nat) (s : State) : Host.Outcome State Fault Refusal :=
  let e := Eff.start s
  let r := rail.val
  if inWindow r mv || forNs < 2000 then .next e.st
  else
    let fresh := !e.clk.notOk.contains r
    let held := e.dev.state == .off || e.bootAt 0
    let e := if r = 9 then e.vbatAt mv else (e.readRail r mv).backupCheck
    let e := e.when (r == 8) (·.auxSupply)
    .next (e.when (fresh && r != 9 && !held) fun e => (e.setCond kSupplyOor r true).fault 0x090 kSupplyOor r).st

/-- SUPPLY_RESET (R578): a rail below its threshold for 1 µs resets the DEVICE domain. -/
def execSupplyReset (rail : Fin 10) (mv forNs : Nat) (s : State) : Host.Outcome State Fault Refusal :=
  let e := Eff.start s
  let r := rail.val
  if (railWindow r).2.2 ≤ mv || forNs < 1000 then .next e.st
  else
    let e := e.readRail r mv
    .next (e.when (e.dev.state != .off) (·.deviceReset 2)).backupCheck.st

/-- RAIL_RETURN (R578, R103): the rail is back in its window. -/
def execRailReturn (rail : Fin 10) (mv : Nat) (s : State) : Host.Outcome State Fault Refusal :=
  let e := Eff.start s
  let r := rail.val
  if !inWindow r mv then .next e.st
  else .next (((if r = 9 then e.vbatAt mv else e.readRail r mv).setCond kSupplyOor r false).when (r == 8) (·.auxSupply)).st

/-- JUNCTION_HOT (R585): the sensor reads in 0.1 °C; the fault is raised above TJ_HOT and again only after a fall of 5 °C. -/
def execJunctionHot (deciC : Int) (s : State) : Host.Outcome State Fault Refusal :=
  let e := Eff.start s
  let lim := signed 16 (e.cv oTjHot)
  let hot := decide (lim < deciC)
  let raise := hot && !e.clk.hot && e.dev.state != .off
  let e := e.modClk fun c => { c with
    junction := deciC, hot := if hot then c.hot || raise else c.hot && !(decide (deciC ≤ lim - 50)) }
  .next (e.when raise (·.fault 0x093 kJunctionHot)).st

/-! ### Power fail -/

/-- PWR_FAIL_N_ASSERT (R580, R581, R128): qualified low after 10 µs. The sequence sets bit 3 of DERATE_CAUSES, raises PWR_FAIL and leaves
the closes and writes to the next frame start; with a standby the closes go to it first. One that arrives while a sequence runs is
only counted. In BOOT no frame start comes and nothing is closed. -/
def execPwrFailNAssert (lowNs : Nat) (s : State) : Host.Outcome State Fault Refusal :=
  let e := Eff.start s
  if lowNs < 10000 || e.dev.state == .off then .next e.st
  else
    let again := e.clk.holdup
    let e := e.modClk fun c => { c with pfCount := (c.pfCount + 1) % 2 ^ 32 }
    let e := (e.modDev fun v => { v with pwrFail := true, pwrFailAt := e.time.up }).derateSet 3
    if again then .next e.st
    else
      let run := e.dev.state != .boot
      let e := e.event 20
      let e := e.modClk fun c => { c with holdup := run, pfDone := false, pfWrite := run }
      let e := e.when (e.isActive && e.hasStandby) (·.sendAction (e.frame.k + 1) oMeterClose [0xFF, 3])
      .next (e.fault 0x090 kPwrFail).st

/-- PWR_FAIL_N_RELEASE (R581, R588): the pin is high; once it has been for 10 ms, bit 3 of DERATE_CAUSES clears. -/
def execPwrFailNRelease (highNs : Nat) (s : State) : Host.Outcome State Fault Refusal :=
  let e := Eff.start s
  .next ((e.modDev fun v => { v with pwrFail := false }).when (decide (10000000 ≤ highNs)) (·.derateUnset 3)).st

end Sys2Proof.Machine
end

