-- ==== Sys2Proof/Machine/Pair.lean ====
section
/-! DEFINITION. The pair (R449 to R485): peer frames received, canaries and the declaration of failure, CONTROL messages, replays,
joining, and the deadlines and shadows that follow from them. -/

namespace Sys2Proof.Machine

variable {s0 : Root} {b0 : State}

/-! ### Measurement frames and their copies (R200 to R205) -/

/-- DIGEST of chain n (R200), once a frame: the CRC values of the frames that the device received itself. -/
def Eff.sendDigest (e : Eff s0) (n : Nat) : Eff s0 :=
  if e.pair.digSent.contains n then e
  else
    let copy (p : Nat) : List Byte := match (e.cell (8 * n + p)).copy with
      | some (r, s) => le 4 r ++ le 4 s
      | none => zeros 8
    let valid := (List.range 8).filter fun p => (e.cell (8 * n + p)).meas.any fun m => !m.relayed
    let e := e.modPair fun p => { p with digSent := n :: p.digSent }
    e.sendPeer 0 (wynFrame 0x23 0 (le 1 n ++ bitOctets 1 valid ++ zeros 2 ++ le 4 (e.frame.k % 2 ^ 32) ++
      (List.range 8).flatMap copy))

/-- Whether the upstream traffic of chain n is complete: every cell of it that is not ABSENT has its record (log 117). -/
def Eff.chainComplete (e : Eff s0) (n : Nat) : Bool :=
  (List.range 8).all fun p => let x := e.cell (8 * n + p); x.state == .absent || x.meas.isSome

/-- A frame on chain n that is a MEASURE (R188, R204): taken whatever its FCRC, a failure of which is counted (R213). A standby forwards
those that RELAY_REQ names (R202), and sends the DIGEST of a chain with the last of its records. -/
def Eff.chainMeasure (e : Eff s0) (n : Nat) (bs : List Byte) : Eff s0 :=
  if !measFrame bs then e.intact n 0x11 bs fun _ e => e.frameErr n
  else if !wynLen n bs then e.frameErr n
  else
    let e := ((e.when (!fcrcOk bs) (·.frameErr n)).noteSlack n bs).measure bs false
    let e := e.when (e.relays n && e.chain.relayReq.contains (octet bs 4)) fun e =>
      e.sendPeer (n % 2) (wynFrame 0x25 0 (le 1 n ++ zeros 3 ++ bs))
    e.when (e.shadows && e.chainComplete n && !e.frame.snapped) (·.sendDigest n)

/-- MEASURE_RECEIVE (R188, R204, R407): blocks from a chain that carry a MEASURE frame. -/
def execMeasureReceive (chain : Fin 24) (blocks : List Block) (s : State) : Host.Outcome State Fault Refusal :=
  .next ((Eff.start s).heard chain.val blocks fun bs e => e.chainMeasure chain.val bs).st

/-- RELAY_UP_RECEIVE (R202): the active device uses a relayed MEASURE exactly as a direct one, on the CRCs of its record and segment
(R204). -/
def execRelayUpReceive (peerLane : Fin 2) (blocks : List Block) (s : State) : Host.Outcome State Fault Refusal :=
  let l := 24 + peerLane.val
  .next ((Eff.start s).heard l blocks fun bs e =>
    let m := (bs.drop 8).take (bs.length - 12)
    if octet bs 0 != 0x25 || !wynLen l bs then e.intact l 0 bs fun _ e => e
    else (e.when (!fcrcOk bs) (·.frameErr l)).when (e.isActive && measFrame m && fieldLe m 2 2 == m.length) (·.measure m true)).st

/-- RELAY_DN_RECEIVE (R202): the records go out on their chain, with RELAYED set, DEVB as the standby's own and HCRC anew. -/
def execRelayDnReceive (peerLane : Fin 2) (blocks : List Block) (s : State) : Host.Outcome State Fault Refusal :=
  .next ((Eff.start s).received (24 + peerLane.val) 0x24 blocks fun octets e =>
    let n := octet octets 4
    let recs := (octets.drop 32).take (octets.length - 36)
    let hd := [0x01#8] ++ le 1 (17 + e.devb) ++ le 2 (28 + recs.length) ++ (octets.drop 12).take 16
    let m := hd ++ le 4 (crc32c hd).toNat ++ recs
    let ok := n < 24 && 36 ≤ octets.length && (e.pair.role == .standby || e.pair.role == .joining)
    e.when ok (·.sendChain n (m ++ le 4 (crc32c m).toNat))).st

/-! ### AVAIL and fills (R199, R452, R453, R465) -/

/-- A FILL_REQ. -/
def Eff.fillReq (e : Eff s0) (mode : Nat) (cells : List Nat) : Eff s0 :=
  e.when (!cells.isEmpty) (·.sendPeer 0 (wynFrame 0x26 0 (le 8 e.frame.snapK ++ le 1 mode ++ zeros 3 ++ bitOctets 24 cells)))

/-- Fills for what AVAIL names and the snapshot lacks: ONCE, and STANDING for a cell lacked in 2 frames in a row. The fills of a
standing request are waited for as well. -/
def Eff.requestFills (e : Eff s0) : Eff s0 :=
  match e.availOf e.frame.snapK with
  | none => e
  | some vec =>
    if !e.shadowDue then e
    else
      let cells := ((e.lacking vec).map (· % 192)).dedup
      let run (c : Nat) : Nat := smGet 0 e.pair.lackRun c + 1
      let fresh := cells.filter fun c => 2 ≤ run c && !e.pair.standing.contains c
      let once := cells.filter fun c => !e.pair.standing.contains c
      let e := e.modPair fun p => { p with
        onceWait := cells, lackRun := cells.map fun c => (c, run c), standing := p.standing ++ fresh }
      (e.fillReq 0 once).fillReq 1 fresh

/-- Cells that have come directly in 1,000 frames in a row are named CLEAR (R465). -/
def Eff.clearFills (e : Eff s0) : Eff s0 :=
  let runs := e.pair.standing.map fun c => (c, if (e.cell c).direct then smGet 0 e.pair.haveRun c + 1 else 0)
  let over1 := (runs.filter fun r => 1000 ≤ r.2).map (·.1)
  let e := e.modPair fun p => { p with haveRun := runs, standing := p.standing.filter fun c => !over1.contains c }
  e.fillReq 2 over1

/-- AVAIL_RECEIVE (R61, R199, R465): the first copy of a frame's AVAIL is taken. -/
def execAvailReceive (peerLane : Fin 2) (blocks : List Block) (s : State) : Host.Outcome State Fault Refusal :=
  .next ((Eff.start s).received (24 + peerLane.val) 0x22 blocks fun octets e =>
    let k := fieldLe octets 4 8
    let known := e.pair.avail.any fun a => a.1 == k
    if octets.length != 104 || known || e.isActive then e
    else
      let e := e.modPair fun p => { p with avail := some (k, (octets.drop 12).take 64) }
      let vec := octetBits ((octets.drop 12).take 64)
      let relay := octetBits ((octets.drop 76).take 24)
      let e := e.modChain fun h => { h with
        relayReq := relay, peerNow := h.peerNow ++ vec.filter fun c => decide (c < 192) && !relay.contains c }
      e.requestFills).st

/-- FILL_REQ_RECEIVE (R452, R453): ONCE fills go out from what the device holds for that frame; STANDING and CLEAR change the
standing list. -/
def execFillReqReceive (peerLane : Fin 2) (blocks : List Block) (s : State) : Host.Outcome State Fault Refusal :=
  .next ((Eff.start s).received (24 + peerLane.val) 0x26 blocks fun octets e =>
    let k := fieldLe octets 4 8
    let mode := octet octets 12
    let cells := (octetBits ((octets.drop 16).take 24)).filter (· < 192)
    if octets.length != 44 || !e.isActive then e
    else if mode = 0 then
      e.each cells fun e c =>
        if e.frame.snapK = k then
          (match smGet none e.frame.snapMeas c with
            | some m => e.sendFill c m (smGet none e.frame.snapBatt c)
            | none => e)
        else if e.frame.k = k then
          (match (e.cell c).meas with
            | some m => e.sendFill c m (e.cell c).batt
            | none => e)
        else e
    else if mode = 1 then e.modPair fun p => { p with peerStanding := p.peerStanding ++ cells.filter fun c => !p.peerStanding.contains c }
    else if mode = 2 then e.modPair fun p => { p with peerStanding := p.peerStanding.filter fun c => !cells.contains c }
    else e).st

/-- FILL_RECEIVE (R453, R464): a record for the snapshot that waits for its shadow, or for the running frame. -/
def execFillReceive (peerLane : Fin 2) (blocks : List Block) (s : State) : Host.Outcome State Fault Refusal :=
  let l := 24 + peerLane.val
  .next ((Eff.start s).received l 0x27 blocks fun octets e =>
    let m := (octets.drop 8).take (octets.length - 12)
    let r := measRec m
    let c := octet r 0
    if e.isActive || !measFrame m || fieldLe m 2 2 != m.length then e
    else if e.shadowDue && fieldLe r 4 4 == e.frame.snapK % 2 ^ 32 && c < 192 then
      let e := e.when (rcrcOk m && (smGet none e.frame.snapMeas c).isNone) (·.modFrame fun f => { f with
        snapMeas := smSet none f.snapMeas c (some ⟨r, true⟩) })
      let e := e.when (scrcOk m && (smGet none e.frame.snapBatt c).isNone) (·.modFrame fun f => { f with
        snapBatt := smSet none f.snapBatt c (some (battSeg m)) })
      e.modPair fun p => { p with onceWait := p.onceWait.filter (· != c) }
    else e.measure m true).st

/-! ### OUTDIG, CONV and CKPT frames -/

/-- OUTDIG_RECEIVE (R468): the lane outputs of the frame are drained, and its digests compared. -/
def execOutdigReceive (peerLane : Fin 2) (blocks : List Block) (s : State) : Host.Outcome State Fault Refusal :=
  .next ((Eff.start s).received (24 + peerLane.val) 0x28 blocks fun octets e =>
    if octets.length != 96 || !e.shadows then e
    else (e.modPair fun p => { p with outdig := some octets }).compareOutdig).st

/-- CONV_FRAME_RECEIVE (R383, R455, R464): the active device's converter values stand in for the device's own; a compare marked LATE
kept its value. -/
def execConvFrameReceive (peerLane : Fin 2) (blocks : List Block) (s : State) : Host.Outcome State Fault Refusal :=
  .next ((Eff.start s).received (24 + peerLane.val) 0x29 blocks fun octets e =>
    let tick := fieldLe octets 12 2
    let n := fieldLe octets 14 2
    let late := fieldLe octets 16 4
    if e.isActive || n = 0 || 100 < n || octets.length != 24 + 12 * n then e
    else
      let e := e.each (List.range n) fun e i =>
        let p := fieldLe octets (20 + 12 * i) 4
        e.when (decide (0x1000 ≤ p ∧ p < 0x1050)) (·.setPoint p (BitVec.ofNat 64 (fieldLe octets (24 + 12 * i) 8)))
      let e := e.each ((List.range 24).filter (bitOf late)) fun e i => e.modHleg (i / 2) fun h =>
        if i % 2 = 0 then { h with lane0 := [] } else { h with lane1 := [] }
      let vals := (octets.drop 20).take (12 * n)
      if tick = 0xFFFF then e.jitem 3 0 vals else e.jitem 4 (tick % 256) (le 4 late ++ vals)).st

/-- A checkpoint image is complete (R458, R480): its IMAGE_CRC passes and J5 or the replay of R466 begins, or it fails. -/
def Eff.ckptComplete (e : Eff s0) (c : CkptRx) : Eff s0 :=
  let bs := ((c.segs.insertionSort fun a b => a.1 ≤ b.1).flatMap (·.2)).take c.total
  let e := e.modPair fun p => { p with ckpt := none }
  if (crc32c bs).toNat = c.crc then
    let e := e.modPair fun p => { p with image := some (c.frame, bs) }
    e.when (e.pair.role == .joining) (·.modPair fun p => { p with joinStep := 5, joinAt := e.time.up })
  else if e.pair.role == .joining then e.joinFail
  else e.sendControl 9 0 (le 8 e.pair.frFrame)

/-- CKPT_RECEIVE (R79, R458): a segment of the image that the device has asked for, in J4 or to resynchronise; one that a STANDBY has not
asked for brings it up to date after a commit that it missed (log 118). -/
def execCkptReceive (peerLane : Fin 2) (blocks : List Block) (s : State) : Host.Outcome State Fault Refusal :=
  .next ((Eff.start s).received (24 + peerLane.val) 0x2B blocks fun octets e =>
    let f := fieldLe octets 4 8
    let off := fieldLe octets 12 4
    let data := (octets.drop 24).take (octets.length - 28)
    let fresh := e.pair.role == .standby && !e.pair.resync
    let e := e.when fresh (·.modPair fun p => { p with resync := true, synced := false, image := none, ckpt := none, frFrame := f - 1 })
    let wants := (e.pair.role == .joining && e.pair.joinStep == 4) || (e.pair.role == .standby && e.pair.resync && e.pair.image.isNone)
    if !wants || octets.length < 28 || f ≤ e.pair.frFrame then e
    else
      let c : CkptRx := match e.pair.ckpt with
        | some c => if c.frame = f then c else ⟨f, fieldLe octets 16 4, fieldLe octets 20 4, []⟩
        | none => ⟨f, fieldLe octets 16 4, fieldLe octets 20 4, []⟩
      let c := if c.segs.any (·.1 == off) then c else { c with segs := c.segs ++ [(off, data)] }
      let held := c.segs.foldl (fun a x => a + x.2.length) 0
      if c.total ≤ held then e.ckptComplete c else e.modPair fun p => { p with ckpt := some c }).st

/-! ### CONTROL messages (R456, R457) -/

/-- A CONTROL message of a type: its segments are kept until all have come, then it is acknowledged where its type is, and `f` gets
FRAME and payload. One already received complete is discarded. -/
def Eff.control (e : Eff s0) (lane type : Nat) (bl : List Block) (f : Eff s0 → Nat → List Byte → Eff s0) : Eff s0 :=
  e.received (24 + lane) 0x2A bl fun bs e =>
    let cs := fieldLe bs 8 4
    let n := fieldLe bs 20 2
    if bs.length != 28 + n || 1508 < n || octet bs 4 != type || e.pair.rxDone.contains cs then e
    else
      let seg : CtrlSeg := ⟨cs, octet bs 5 % 128, bitOf (octet bs 5) 7, (bs.drop 24).take n⟩
      let held := seg :: e.pair.rxSegs.filter fun x => !(x.cseq == cs && x.seg == seg.seg)
      let own := held.filter (·.cseq == cs)
      let part (i : Nat) : Option CtrlSeg := own.find? (·.seg == i)
      let whole := match own.find? (·.last) with
        | some z => (List.range (z.seg + 1)).all fun i => (part i).isSome
        | none => false
      if !whole then e.modPair fun p => { p with rxSegs := held.take 256 }
      else
        let payload := (List.range own.length).flatMap fun i => match part i with
          | some x => x.payload
          | none => []
        let e := e.modPair fun p => { p with
          rxSegs := held.filter (·.cseq != cs), rxDone := (cs :: p.rxDone).take 256 }
        f (e.when (ackedType type) (·.sendControl 4 0 (le 4 cs))) (fieldLe bs 12 8) payload

/-- The sets that a joining device has received, put into force in place of its own, but for DEVICE (R480). -/
def Eff.replaceSets (e : Eff s0) : Eff s0 :=
  let own := e.st.cfg.map (·.1)
  let e := e.each own fun e k => e.when (let d := objDomain (k / 65536); decide (1 ≤ d ∧ d < 15)) (·.setCfg k none)
  e.each (List.range 15) fun e d => match (e.dom d).pend with
    | some p => e.when (d != 0) (·.each p.values fun e kv => e.putCfg kv.1 kv.2)
    | none => e

/-- J2 ends once the sets of every domain but DEVICE have come (R480): checked as one set, they become active together, or the attempt
fails. -/
def Eff.joinConfig (e : Eff s0) : Eff s0 :=
  if !(e.pair.role == .joining && e.pair.joinStep == 2 && (List.range 14).all fun i => e.pair.joinConfig.contains (i + 1)) then e
  else
    let sets := (List.range 14).filterMap fun i => (e.dom (i + 1)).pend
    let odd := sets.any fun p => p.values.any fun kv => match objRow? (kv.1 / 65536) with
      | some r => !inRange r kv.2
      | none => true
    let next := e.replaceSets
    if odd || (next.failures.any fun f => f.doms.any (· != 0)) then
      (e.each (List.range 14) fun e i => e.modDom (i + 1) fun x => { x with pend := none }).joinFail
    else
      let e := next.each (List.range 14) fun e i =>
        (e.modDom (i + 1) fun x => { x with pend := x.pend.map fun p => { p with waitPeer := false } }).activateSet (i + 1)
      e.modPair fun p => { p with joinStep := 3, joinAt := e.time.up, joinConfig := [] }

/-- CONTROL_CONFIG (R457, R480). -/
def execControlConfig (peerLane : Fin 2) (blocks : List Block) (s : State) : Host.Outcome State Fault Refusal :=
  .next ((Eff.start s).control peerLane.val 1 blocks fun e _ p =>
    let d := octet p 0
    if !(e.pair.role == .joining && e.pair.joinStep ≤ 2) || d = 0 || 15 ≤ d then e
    else
      let e := e.modDom d fun x => { x with pend := some ⟨imageValues (p.drop 4), .nobody, true, e.frame.k, 0, 0⟩ }
      (e.modPair fun q => { q with joinConfig := (d :: q.joinConfig).dedup }).joinConfig).st

/-- CONTROL_COMMIT (R79): the standby takes the staged set, to become active at the same boundary. During J2 it changes the set that
waits there. -/
def execControlCommit (peerLane : Fin 2) (blocks : List Block) (s : State) : Host.Outcome State Fault Refusal :=
  .next ((Eff.start s).control peerLane.val 2 blocks fun e _ p =>
    let d := octet p 0
    let vals := imageValues (p.drop 12)
    if e.isActive || 15 ≤ d then e
    else if e.pair.role == .joining && e.pair.joinStep ≤ 2 then
      e.modDom d fun x => { x with pend := x.pend.map fun w => { w with
        values := (w.values.filter fun kv => !(vals.any (·.1 == kv.1))) ++ vals } }
    else
      let e := e.modDom d fun x => { x with
        pend := some ⟨vals, .nobody, true, e.frame.k, fieldLe p 4 8, e.frame.tk + 2 * e.tf * nsq⟩ }
      e.ackCommit d).st

/-- CONTROL_ACTION (R457): a journalled action acts at its frame start, at once where that has come; a self-replay starts (R469). -/
def execControlAction (peerLane : Fin 2) (blocks : List Block) (s : State) : Host.Outcome State Fault Refusal :=
  .next ((Eff.start s).control peerLane.val 3 blocks fun e frame p =>
    let obj := fieldLe p 0 3
    let args := (p.drop 6).take (fieldLe p 4 2)
    if obj = selfReplay then
      if e.pair.replay || !(e.isActive || e.pair.role == .standby) then e else e.startReplay (fieldLe args 0 8)
    else if e.isActive then e
    else if obj = oTimedCancel then
      let hit (x : Nat × Nat × List Byte) : Bool :=
        x.1 == fieldLe args 0 8 && x.2.1 == oTimedAction && fieldLe x.2.2 12 3 == fieldLe args 8 3 && x.2.2.drop 18 == args.drop 11
      e.modPair fun q => { q with timed := q.timed.filter fun x => !hit x }
    else if frame ≤ e.frame.k && !e.frame.boundaryDue then (e.jitem 7 0 (actionPayload obj args)).applyTimed obj args
    else e.modPair fun q => { q with timed := q.timed ++ [(frame, obj, args)] }).st

/-- CONTROL_ACK (R79, R457): the standby has confirmed; the commit is acknowledged, the action answered. -/
def execControlAck (peerLane : Fin 2) (blocks : List Block) (s : State) : Host.Outcome State Fault Refusal :=
  .next ((Eff.start s).control peerLane.val 4 blocks fun e _ p =>
    let cs := fieldLe p 0 4
    match e.pair.outbox.find? (·.cseq == cs) with
    | none => e
    | some m =>
      let e := e.modPair fun q => { q with outbox := q.outbox.filter (·.cseq != cs) }
      if m.type = 2 then
        let d := octet m.payload 0
        e.when ((e.dom d).pend.any (·.waitPeer)) (·.ackCommit d)
      else if m.type = 3 then
        match e.pair.waitActs.find? (·.cseq == cs) with
        | some w => (e.modPair fun q => { q with waitActs := q.waitActs.filter (·.cseq != cs) }).finishWait w
        | none => e
      else e).st

/-- The stage latch of the peer (R403), with a Ledger entry marked PEER where an escalation set it (R442). -/
def Eff.peerStage (e : Eff s0) (cause : Nat) (t : Int) : Eff s0 :=
  let was := e.gate.stage
  let e := ((e.modGate fun g => { g with stage := true }).allGatesOff).derateSet 1
  e.when (!was && bitOf cause 2) (·.report { source := 0x070, kind := kGateEscalate, addr := 0xFFFF, time := some t, peer := true })

/-- A leg latch of the peer (R403): both gates off, the latch counted once, and a Ledger entry marked PEER for each new cause (R442).
LATCH does not carry which gate of the leg it was: a free one (log 122). -/
def Eff.peerLatch (e : Eff s0) (u cause : Nat) (t : Int) : Eff s0 :=
  let l := e.leg u
  let trip := bitOf cause 0 && !l.trip
  let uv := bitOf cause 1 && !l.uv
  let gate := 0x8000 + 2 * u + ofBool e.freeBool
  let e := e.tick.modLeg u fun l => { l with
    trip := l.trip || bitOf cause 0, uv := l.uv || bitOf cause 1, escalated := l.escalated || bitOf cause 2, tripAt := some t
    trouble := l.trouble ||| (16 * ofBool trip + 32 * ofBool uv) }
  let e := (e.modGch (2 * u) (Gate.shut e.time.up)).modGch (2 * u + 1) (Gate.shut e.time.up)
  let e := e.when ((trip || uv) && !l.trip && !l.uv) (·.modGate fun g => { g with trips := (g.trips + 1) % 2 ^ 32 })
  let e := e.when trip (·.report { source := 0x070, kind := kGateTrip, addr := gate, time := some t, peer := true })
  e.when uv (·.report { source := 0x070, kind := kGateUvlo, addr := gate, time := some t, peer := true })

/-- CONTROL_LATCH (R403, R457): the latch is set unless a later clearing toggle has been seen on the device's own GATE_EN_N. -/
def execControlLatch (peerLane : Fin 2) (blocks : List Block) (s : State) : Host.Outcome State Fault Refusal :=
  .next ((Eff.start s).control peerLane.val 5 blocks fun e _ p =>
    let u := octet p 0
    let c := octet p 1
    let t := untime96 (p.drop 2)
    if e.gate.lastToggle.any fun x => decide (t < x) then e
    else if u = 0xFF || bitOf c 3 then e.peerStage c t
    else e.when (decide (u < 12)) (·.peerLatch u c t)).st

/-- CONTROL_METER (R331): a signed record; the close that waits for it on this device is done. -/
def execControlMeter (peerLane : Fin 2) (blocks : List Block) (s : State) : Host.Outcome State Fault Refusal :=
  .next ((Eff.start s).control peerLane.val 6 blocks fun e _ p =>
    let n := octet p 5
    let sq := fieldLe p 16 4
    if e.isActive || p.length != 208 || 192 ≤ n then e
    else
      let e := e.modMeter fun m => { m with closes := m.closes.filter fun c => !(c.port == n && c.seq == sq) }
      e.addRecord n sq p).st

/-- The outcome of a self-replay (R470), once both results are known. -/
def Eff.replayOutcome (e : Act b0) : Act b0 :=
  match e.pair.ownPass, e.pair.peerPass with
  | some own, some peer =>
    let (act, stb) := if e.isActive then (own, peer) else (peer, own)
    let addr := if act then (if stb then 0 else 2) else (if stb then 1 else 3)
    let e := e.keep fun e => (e.modPair fun p => { p with replay := false }).fault 0x050 kDivergence addr
    if e.isActive then e.keep fun e => e.when (addr == 1) (·.retire 2)
    else if e.pair.role != .standby then e
    else if addr = 1 then e.takeOver
    else e.keep fun e => e.when (addr == 2 || addr == 3) (·.retire 2)
  | _, _ => e

/-- REPLAY_RESULT (R470): the peer's result. -/
def execReplayResult (peerLane : Fin 2) (blocks : List Block) (s : State) : Host.Outcome State Fault Refusal :=
  .next ((Eff.start s).control peerLane.val 7 blocks fun e _ p =>
    e.when (e.pair.replay && fieldLe p 0 8 == e.pair.kd) fun e =>
      (e.modPair fun q => { q with peerPass := some (octet p 8 == 0) }).replayOutcome).st

/-- HANDOVER (R477): the standby becomes ACTIVE at the frame start named. -/
def execHandover (peerLane : Fin 2) (blocks : List Block) (s : State) : Host.Outcome State Fault Refusal :=
  .next ((Eff.start s).control peerLane.val 8 blocks fun e frame _ =>
    e.when (e.pair.role == .standby) (·.modPair fun q => { q with handoverAt := some frame })).st

/-- CKPT_REQ (R480): a checkpoint at the next frame start. -/
def execCkptReq (peerLane : Fin 2) (blocks : List Block) (s : State) : Host.Outcome State Fault Refusal :=
  .next ((Eff.start s).control peerLane.val 9 blocks fun e _ p =>
    e.when e.isActive (·.modPair fun q => { q with ckptReq := some (fieldLe p 0 8) })).st

/-- RETIRING (R477): the active device tells why it retires; what the standby does then follows from the canaries and ROLE_OK
(R461). -/
def execRetiring (peerLane : Fin 2) (blocks : List Block) (s : State) : Host.Outcome State Fault Refusal :=
  .next ((Eff.start s).control peerLane.val 0x0A blocks fun e _ _ => e).st

/-- CONTROL_REPEAT (R457): every message not acknowledged 1 frame after it was sent goes out once more, with its CSEQ. -/
def execControlRepeat (s : State) : Host.Outcome State Fault Refusal :=
  let e := Eff.start s
  let due (m : CtrlMsg) : Bool := !m.repeated && decide (m.sentAt + 1 ≤ e.frame.k)
  let l := e.pair.outbox.filter due
  let e := e.modPair fun p => { p with outbox := p.outbox.map fun m => if due m then { m with repeated := true } else m }
  .next (e.each l fun e m => e.putControl m.type m.cseq m.frame m.payload).st

/-! ### Canaries (R112, R460, R472, R475, R501, R502) -/

/-- The two positions are strapped alike (R112): ROLE_CONFLICT, and the device with the higher SERIAL retires until its next BOOT. -/
def Eff.strapConflict (e : Eff s0) (serial : Nat) : Eff s0 :=
  let e := e.when (!(e.dev.conds.contains (kRoleConflict, 1))) fun e => (e.setCond kRoleConflict 1 true).fault 0x050 kRoleConflict 1
  e.when (e.pair.role != .retired && e.pair.role != .unset && decide (serial < Config.serial.toNat)) fun e =>
    (e.becomeRole .retired).modPair fun p => { p with barred := true, joinStep := 0 }

/-- The committed sets of every domain but DEVICE, to a device that joins (R480). -/
def Eff.sendConfigs (e : Eff s0) : Eff s0 :=
  e.each (List.range 14) fun e i => e.sendControl 1 0 (le 1 (i + 1) ++ zeros 3 ++ imageOctets (e.activeSet (i + 1)))

/-- The first copy of a peer CANARY: status word, epoch, claims, presence. -/
def Eff.canaryNews (e : Eff s0) (serial epoch word : Nat) : Eff s0 :=
  let old := e.pair.peerWord % 16
  let known := e.pair.peerSerial != 0
  let e := e.modPair fun p => { p with
    peerSerial := serial, peerWord := word, peerAt := e.time.up
    rxDone := if known && word % 16 != old then [] else p.rxDone, rxSegs := if known && word % 16 != old then [] else p.rxSegs }
  let alike := bitOf word 11 == e.pair.strapB
  let e := if alike then e.strapConflict serial else e.setCond kRoleConflict 1 false
  let r := word % 16
  if e.isActive then
    if r = 0 then
      if newerThan epoch e.pair.epoch then e.newerEpoch epoch
      else if epoch = e.pair.epoch && e.pair.strapB && !alike then (e.fault 0x050 kRoleConflict 0).enterJoining
      else e
    else if r = 1 || r = 2 then
      let fresh := r == 2 && (!e.pair.standby || old != 2 || !known)
      let e := e.modPair fun p => { p with standby := true, peerMiss := 0 }
      e.when fresh (·.sendConfigs)
    else e.modPair fun p => { p with standby := false }
  else if r = 0 && (e.pair.role == .standby || e.pair.role == .joining) then e.modPair fun p => { p with epoch := epoch }
  else e

/-- A JOINING device takes the frame number of the active device (R177): its frames run on its own grid from then on. -/
def Eff.joinFrames (e : Act b0) (f : Nat) : Act b0 :=
  if e.pair.role != .joining || 4 ≤ e.pair.joinStep || e.time.everLocked then e
  else
    let g : Int := max 1 (e.tf * nsq)
    let tk := e.time.clock / g * g
    if e.frame.running then e.modFrame fun x => { x with k := f }
    else e.modFrame fun x => { x with running := true, k := f, tk := tk, tkPrev := tk - g, tkOld := tk - 2 * g }

/-- The offset sample of one lane (R502), in 2⁻¹⁶ ns: against the beacon's t_k until the first lock, whose step places the arrival
at t_k + C, and from then on half the difference to the device's own t_k. -/
def Eff.peerOffset (e : Eff s0) (f : Nat) (a : Int) : Option Int :=
  let g : Int := e.tf * nsq
  if e.pair.role == .joining && !e.time.everLocked then
    if e.time.beaconFrame = 0 then none
    else some (a - (e.time.beaconTk + ((f : Int) - e.time.beaconFrame) * g) / 65536 - canaryC)
  else some ((a - (e.frame.tk + ((f : Int) - e.frame.k) * g) / 65536 - canaryC - ps16 (e.cvi oPeerAsym)) / 2)

/-- The servo's part of a CANARY of the active device (R502): the mean over the lanes; a lane whose partner is LOCKED waits for it,
and a value left over from an earlier frame counts alone. -/
def Eff.canaryTime (e : Eff s0) (m f : Nat) (a : Int) : Eff s0 :=
  match e.peerOffset f a with
  | none => e
  | some o =>
    let put (x : Option (Nat × Int)) (e : Eff s0) : Eff s0 := e.modTime fun t => { t with canaryRho := smSet none t.canaryRho m x }
    let drop (e : Eff s0) : Eff s0 := e.modTime fun t => { t with canaryRho := [] }
    let take (v : Int) (e : Eff s0) : Eff s0 := (e.modTime fun t => { t with peerOffset := v }).when (e.time.source == 2) (·.offsetSample v)
    match smGet none e.time.canaryRho (1 - m) with
    | some (g, v) => if g = f then take ((o + v) / 2) (drop e) else put (some (f, o)) (take v (drop e))
    | none =>
      match smGet none e.time.canaryRho m with
      | some (_, v) => put (some (f, o)) (take v (drop e))
      | none => if e.locked (25 - m) then put (some (f, o)) e else take o e

/-- CANARY_RECEIVE (R460): a CANARY of the peer, with the instant of its START block in 2⁻¹⁶ ns of local time. The second copy of a
frame only counts for its lane. -/
def execCanaryReceive (peerLane : Fin 2) (blocks : List Block) (arrival : Int) (s : State) : Host.Outcome State Fault Refusal :=
  let m := peerLane.val
  .next ((Eff.start s).received (24 + m) 0x21 blocks fun octets e =>
    if octets.length != 32 then e
    else
      let f := fieldLe octets 4 8
      let word := fieldLe octets 24 4
      let second := if m = 0 then e.pair.lastP1.contains f else e.pair.lastP0.contains f
      let e := e.modPair fun p => if m = 0 then { p with lastP0 := (f :: p.lastP0).take 4 } else { p with lastP1 := (f :: p.lastP1).take 4 }
      let e := e.when (!second) (·.canaryNews (fieldLe octets 12 8) (fieldLe octets 20 2) word)
      let g : Int := e.tf * nsq
      let rho := arrival - (e.frame.tk + ((f : Int) - e.frame.k) * g) / 65536
      if e.isActive then
        e.modTime fun t => { t with canaryRho := smSet none t.canaryRho m (some (f, rho)) }
      else if word % 16 != 0 || !(e.pair.role == .standby || e.pair.role == .joining) then e
      else
        let e := (e.joinFrames f).canaryTime m f arrival
        e.when (f == e.frame.k && !e.frame.boundaryDue) (·.followPeer)).st

/-- A SCHEDULE frame at a chain port of the device (R460, R475): its header stands on its own HCRC, whatever the FCRC. -/
def Eff.heardSchedule (e : Eff s0) (n : Nat) (octets : List Byte) : Eff s0 :=
  let e := e.when (!fcrcOk octets) (·.frameErr n)
  if octets.length < 28 || fieldLe octets 20 4 != (crc32c (octets.take 20)).toNat then e
  else
    let e := e.newerEpoch (fieldLe octets 8 2)
    let relayed := bitOf (octet octets 1) 4
    let serial := fieldLe octets 12 4
    let own := e.pair.peerSerial != 0 && serial == e.pair.peerSerial % 2 ^ 32
    if relayed || !own then e
    else
      let k16 := fieldLe octets 18 2
      let back := (e.frame.k % 65536 + 65536 - k16) % 65536
      let f := if back ≤ e.frame.k then e.frame.k - back else 0
      e.modPair fun p => { p with
        lastC := (f :: p.lastC).take 4, peerWord := fieldLe octets 16 2 + p.peerWord / 65536 * 65536 }

/-- SCHEDULE_RECEIVE (R460, R475): blocks from a chain that carry a SCHEDULE frame. -/
def execScheduleReceive (chain : Fin 24) (blocks : List Block) (s : State) : Host.Outcome State Fault Refusal :=
  let n := chain.val
  .next ((Eff.start s).heard n blocks fun bs e =>
    if octet bs 0 == 1 && wynLen n bs then e.heardSchedule n bs else e.intact n 0 bs fun _ e => e).st

/-- BEACON_RECEIVE (R187, R502): a joining device takes t_k from a BEACON for its first step. -/
def execBeaconReceive (chain : Fin 24) (blocks : List Block) (s : State) : Host.Outcome State Fault Refusal :=
  .next ((Eff.start s).received chain.val 0x02 blocks fun octets e =>
    if octets.length != 76 || e.pair.role != .joining then e
    else e.modTime fun t => { t with
      beaconFrame := fieldLe octets 4 8
      beaconTk := (untime96 (octets.drop 24) - (fieldLe octets 36 4 : Nat) * 65536) * 65536 }).st

/-- TRIP_BLOCK_RECEIVE (R197, R438): a TRIP block on a peer lane goes to every LOCKED chain port. -/
def execTripBlockReceive (peerLane : Fin 2) (block : Block) (s : State) : Host.Outcome State Fault Refusal :=
  let e := Eff.start s
  let p := blockOctets block
  if e.locked (24 + peerLane.val) && block.sync == 2 && octet p 0 == 0xAA && octet p 6 == 0x5A && octet p 7 == 0xA5 then
    .next (e.tripOn (List.range 24) block).st
  else .next e.st

/-! ### Paths and the declaration of failure (R460 to R463) -/

/-- The paths of the frame before (R460), which the deadline of the running frame decides. -/
def Eff.peerPaths (e : Eff s0) : Eff s0 :=
  let k := e.frame.k
  if k = 0 then e
  else
    let p0 := e.pair.lastP0.contains (k - 1)
    let p1 := e.pair.lastP1.contains (k - 1)
    let c := e.pair.lastC.contains (k - 1)
    e.modPair fun p => { p with
      pathP0 := p0, pathP1 := p1, pathC := c, absentP := if p0 || p1 then 0 else p.absentP + 1
      absentC := if c then 0 else p.absentC + 1, peerMiss := if p0 || p1 then 0 else p.peerMiss + 1 }

/-- A path fault (R462): raised once per outage. -/
def Eff.pathFault (e : Eff s0) : Eff s0 :=
  let p := e.pair
  if p.absentP = 0 && p.absentC = 0 then e.modPair fun p => { p with pathRaised := false }
  else if ((2 ≤ p.absentP && p.absentC = 0) || (2 ≤ p.absentC && p.absentP = 0)) && !p.pathRaised then
    (e.modPair fun p => { p with pathRaised := true, trouble := p.trouble ||| 1 }).fault 0x050 kCanaryPath
  else e

/-- The evaluation of a STANDBY at a deadline (R461). -/
def Eff.judgePeer (e : Act b0) : Act b0 :=
  if e.pair.role != .standby then e
  else
    let e := e.keep (·.pathFault)
    let p := e.pair
    let failed := (2 ≤ p.absentP && 2 ≤ p.absentC) || ((0 < p.absentP || 0 < p.absentC) && bitOf p.peerWord 8) || p.peerWord % 16 == 3
    e.when failed (·.takeOver)

/-- STANDBY_ABSENT (R463): 2 frames without a CANARY of the standby; commits and actions that wait for it are acknowledged alone. -/
def execStandbyAbsent (s : State) : Host.Outcome State Fault Refusal :=
  let e := Eff.start s
  if !e.isActive || !e.pair.standby || e.pair.peerMiss < 2 then .next e.st
  else
    let acts := e.pair.waitActs
    let e := e.modPair fun p => { p with standby := false, outbox := [], waitActs := [], peerStanding := [] }
    let e := e.each acts fun e w => e.finishWait w
    .next (e.each (List.range 15) fun e d => e.when ((e.dom d).pend.any (·.waitPeer)) (·.commitAlone d)).st

/-- ROLE_OK_HIGH (R461, R476): ROLE_OK is high; qualified for 1 µs it lets a STANDBY whose peer last reported ACTIVE take over, and an
ACTIVE device without a claim take the hub. -/
def execRoleOkHigh (highNs : Nat) (s : State) : Host.Outcome State Fault Refusal :=
  let e := (Eff.start s).modPair fun p => { p with roleOk := true, roleQual := p.roleQual || decide (1000 ≤ highNs) }
  if highNs < 1000 then .next e.st
  else if e.pair.role == .standby && e.pair.peerSerial != 0 && e.pair.peerWord % 16 == 0 then .next e.takeOver.st
  else .next (e.when (e.isActive && !e.pair.claim && !e.pair.newerSeen && e.dev.state != .off && e.dev.state != .boot) (·.claimHub)).st

/-- CLAIM_RELEASE (R476): the claim has not been refreshed for 1.5 frame periods. -/
def execClaimRelease (s : State) : Host.Outcome State Fault Refusal :=
  let e := Eff.start s
  .next (e.when (e.pair.claim && decide (2 * e.pair.refreshAt + 3 * e.tf ≤ 2 * e.time.up)) (·.releaseClaim)).st

/-- PRESENT_N_CHANGE (R484, R582): reported in PAIR_STATUS. -/
def execPresentNChange (high : Bool) (s : State) : Host.Outcome State Fault Refusal :=
  .next ((Eff.start s).modPair fun p => { p with presentN := high }).st

/-- JOIN_NO_CANARY (R450): a JOINING device without an intact CANARY for 2 s, with ROLE_OK high, restarts start-up at step 6. -/
def execJoinNoCanary (s : State) : Host.Outcome State Fault Refusal :=
  let e := Eff.start s
  let since := max e.pair.peerAt e.pair.joinAt
  if e.pair.role == .joining && e.pair.roleOk && decide (since + 2000000000 ≤ e.time.up) then
    let e := (e.becomeRole .unset).modPair fun p => { p with joinStep := 0, waitAt := none }
    let e := (e.setState .boot 10).modDev fun v => { v with bootStage := 5 }
    .next (e.modFrame fun f => { f with running := false }).st
  else .next e.st

/-! ### Deadlines and shadows -/

/-- The deadline of the running frame (R53, R460, R465, R473): decided by role. -/
def Eff.deadline (e : Act b0) (given : Option (List Nat)) : Act b0 :=
  if !e.frame.running || e.frame.snapped || e.dev.state == .off || e.dev.state == .boot then e
  else
    let e := e.keep (·.advance (e.frame.tk + e.frame.dl * nsq))
    let e := ((e.when e.frame.boundaryDue (·.runShadow false)).keep (·.peerPaths)).judgePeer
    if e.isActive || (e.pair.role == .retired && e.pair.finishing) then e.activeDeadline given
    else if e.shadows then
      e.snapInputs.keep fun e =>
        let e := e.each e.usedChains fun e n => e.sendDigest n
        e.clearFills.requestFills
    else e.modFrame fun f => { f with snapped := true }

/-- INPUT_DEADLINE (R53). -/
def execInputDeadline (s : State) : Host.Outcome State Fault Refusal := .next ((Eff.start s).deadline none).st

/-- OVERRUN (R267): the deadline of a frame whose computation overran, with the slots left unfinished. -/
def execOverrun (unfinished : List (Fin 512)) (s : State) : Host.Outcome State Fault Refusal :=
  .next ((Eff.start s).deadline (some (unfinished.map (·.val)))).st

/-- SHADOW_START (R465): snapshot, AVAIL and the fills requested are there. -/
def execShadowStart (s : State) : Host.Outcome State Fault Refusal :=
  let e := Eff.start s
  .next (e.when ((e.availOf e.frame.snapK).isSome && e.pair.onceWait.isEmpty) (·.runShadow false)).st

/-- SHADOW_LIMIT (R465, R466): the latest start of the shadow, t_{k+1} + DEADLINE − W − 200 ns, in the frame that follows it. -/
def execShadowLimit (s : State) : Host.Outcome State Fault Refusal :=
  let e := Eff.start s
  .next (e.when (e.shadowDue && e.frame.boundaryDue) fun e =>
    (e.advance (e.frame.tk + ((e.frame.dl : Int) - e.coreTime - 200) * nsq)).runShadow false).st

/-- RESYNC_DONE (R466): the replay has reached the live frame; its state replaces the shadow's at the next frame start. -/
def execResyncDone (s : State) : Host.Outcome State Fault Refusal :=
  let e := Eff.start s
  .next (e.when (e.pair.role == .standby && e.pair.resync && e.pair.image.isSome) (·.modPair fun p => { p with resyncNext := true })).st

/-! ### Self-replay (R469, R470) -/

/-- SELF_REPLAY_DONE (R469, R470): the device's own result, which also goes to the peer. `pass` is whether all 64 frames matched. -/
def execSelfReplayDone (pass : Bool) (s : State) : Host.Outcome State Fault Refusal :=
  let e := Eff.start s
  if !e.pair.replay || e.pair.ownPass.isSome then .next e.st
  else
    let e := e.sendControl 7 0 (le 8 e.pair.kd ++ le 1 (ofBool (!pass)))
    .next (e.modPair fun p => { p with ownPass := some pass }).replayOutcome.st

/-- REPLAY_RESULT_TIMEOUT (R470): a device without a result 1 s after the divergence counts as failed. -/
def execReplayResultTimeout (s : State) : Host.Outcome State Fault Refusal :=
  let e := Eff.start s
  if e.pair.replay && decide (e.pair.replayAt + 1000000000 ≤ e.time.up) then
    .next (e.modPair fun p => { p with ownPass := some (p.ownPass.getD false), peerPass := some (p.peerPass.getD false) }).replayOutcome.st
  else .next e.st

/-! ### Joining (R480 to R482) -/

/-- JOIN_REPLAY_DONE (R480, R481): the replay of J5 has reached the live frame, and the live compare begins. A replay for which the
journal holds no input fails the attempt. -/
def execJoinReplayDone (s : State) : Host.Outcome State Fault Refusal :=
  let e := Eff.start s
  if !(e.pair.role == .joining && e.pair.joinStep == 5) then .next e.st
  else
    match e.replayed with
    | none => .next e.joinFail.st
    | some c =>
      .next ((e.loadCkpt c).modPair fun p => { p with
        joinStep := 6, joinAt := e.time.up, synced := true, cleanRun := 0, image := none, outdig := none
        shadowDone := e.frame.k + (if e.frame.snapped then 1 else 0) }).st

/-- JOIN_STEP_TIMEOUT (R480, R482): a step of joining has exceeded its maximum. -/
def execJoinStepTimeout (s : State) : Host.Outcome State Fault Refusal :=
  let e := Eff.start s
  let most := match e.pair.joinStep with
    | 1 => some 100
    | 2 => some 50
    | 3 => some 100
    | 4 => some 60
    | _ => none
  match most with
  | some ms => .next (e.when (e.pair.role == .joining && decide (e.pair.joinAt + ms * 1000000 < e.time.up)) (·.joinFail)).st
  | none => .next e.st

end Sys2Proof.Machine
end

