-- ==== Sys2Proof/Machine/Sessions.lean ====
section
/-! DEFINITION. The session commands of DAP (R81 to R93): OPEN, PROVE, CLOSE, KEEPALIVE and the timeouts. -/

namespace Sys2Proof.Machine

variable {s0 : Root}

/-- K_OPERATOR or K_ENGINEER is set (R93). -/
def Eff.keysSet (e : Eff s0) : Bool := e.cv oKOperator != 0 || e.cv oKEngineer != 0

/-- The key of a level as 16 octets, none where it is not set (R91, R93). -/
def Eff.levelKey (e : Eff s0) (level : Nat) : Option (List Byte) :=
  if level = 3 then some (le 16 Config.vendorKey.toNat)
  else
    let k := if level = 2 then e.cv oKEngineer else e.cv oKOperator
    if k = 0 then none else some (le 16 k)

/-- Whether a source is locked out (R92). -/
def Eff.lockedOut (e : Eff s0) (src : Src) : Bool := e.sess.lockouts.any fun p => p.1 == src && decide (e.time.up < p.2)

/-- A session number for a new session: the free value of this OPEN, moved upward past 0 and the numbers in use. -/
def Eff.newSession (e : Eff s0) : Nat :=
  let used := e.sess.slots.filterMap fun p => p.2.map (·.id)
  let start := (Config.freeSession e.free).toNat
  ((List.range 9).map (fun i => (start + i) % 2 ^ 32)).find? (fun n => n != 0 && !used.contains n) |>.getD 1

/-- The empty session slot of lowest number. -/
def Eff.freeSlot (e : Eff s0) : Option Nat := (List.range 8).find? fun i => (smGet none e.sess.slots i).isNone

/-- An OPEN request (R90 to R92): a session slot, its number and the device nonce. A message above 1,444 octets of
payload is answered TOO_LONG, a source under lockout AUTH, a ninth session BUSY, a nonce or level of another form TYPE. -/
def Eff.openReq (e : Eff s0) (q : Req) (level : Byte) (nonce : List Byte) : Eff s0 :=
  if !e.st.serving then e
  else if 1440 < nonce.length then e.reply q 0x10 (ansErr stTooLong)
  else if e.lockedOut q.src then e.reply q 0x10 (ansErr stAuth)
  else if nonce.length ≠ 16 ∨ 3 < level.toNat then e.reply q 0x10 (ansErr stType)
  else
    match e.freeSlot with
    | none => e.reply q 0x10 (ansErr stBusy)
    | some slot =>
      let id := e.newSession
      let dn := le 16 (Config.freeNonce e.free).toNat
      let x : Session := { id, level := level.toNat, src := q.src, cn := nonce, dn, proved := false, ks := [],
                           hiSeq := none, cache := [], opened := e.time.up, lastValid := e.time.up }
      let e := e.modSess fun t => { t with slots := smSet none t.slots slot (some x) }
      e.tick.reply q 0x10 (ansOk (zeros 2 ++ le 4 id ++ dn))

/-- A failed proof (R91, R92): counted; the fifth from one source within 60 s locks the source out for 60 s. -/
def Eff.failProof (e : Eff s0) (src : Src) : Eff s0 :=
  let now := e.time.up
  let e := e.modSess fun t => { t with
    authFail := (t.authFail + 1) % 2 ^ 32
    fails := (src, now) :: t.fails.filter fun p => decide (now < p.2 + 60000000000) }
  if 5 ≤ (e.sess.fails.filter (·.1 == src)).length then
    let e := e.modSess fun t => { t with
      lockouts := (src, now + 60000000000) :: t.lockouts.filter (·.1 != src), fails := t.fails.filter (·.1 != src) }
    (e.setTrouble 8).fault 0x082 kAuthLockout
  else e

/-- A PROVE request (R91 to R93): the client proof is checked, the device proof returned and the session key derived. -/
def Eff.proveReq (e : Eff s0) (q : Req) (proof : List Byte) : Eff s0 :=
  match e.vet q 0x11 proof with
  | .stop e => e
  | .go e _ id =>
    match e.st.findSession id with
    | none => e.answer q 0x11 (ansErr stNoSession)
    | some (_, x) =>
      if proof.length ≠ 32 then e.answer q 0x11 (ansErr stType)
      else
        let sid := le 4 id
        let lv := le 1 x.level
        let accept (k ks : List Byte) : Eff s0 :=
          let dev := hmac k (ascii "GBX-DEVC" ++ sid ++ lv ++ x.dn ++ x.cn)
          (e.answer q 0x11 (ansOk dev)).modSession id fun y => { y with proved := true, ks := ks }
        if !e.keysSet && x.src == .spi && x.level ≤ 2 && proof == zeros 32 then accept (zeros 16) (zeros 16)
        else
          match e.levelKey x.level with
          | some k =>
            if proof = hmac k (ascii "GBX-OPEN" ++ sid ++ lv ++ x.cn ++ x.dn) then
              accept k ((hmac k (ascii "GBX-SKEY" ++ sid ++ x.cn ++ x.dn)).take 16)
            else (e.answer q 0x11 (ansErr stAuth)).failProof x.src
          | none => (e.answer q 0x11 (ansErr stAuth)).failProof x.src

/-- A CLOSE request (R90): the answer goes out, then the session ends with its locks, staged sets and injection. -/
def Eff.closeReq (e : Eff s0) (q : Req) : Eff s0 :=
  match e.vet q 0x12 [] with
  | .stop e => e
  | .go e _ id => (e.answer q 0x12 ansOk).when (id != 0) (·.endSession id)

/-- A KEEPALIVE request (R82, R90): a valid request that does nothing else. -/
def Eff.keepaliveReq (e : Eff s0) (q : Req) : Eff s0 :=
  match e.vet q 0x13 [] with
  | .stop e => e
  | .go e _ _ => e.answer q 0x13 ansOk

/-- OPEN (R90 to R92). -/
def execOpen (q : Req) (level : Byte) (nonce : List Byte) (s : State) : Host.Outcome State Fault Refusal :=
  .next ((Eff.start s).openReq q level nonce).st

/-- PROVE (R91 to R93). -/
def execProve (q : Req) (proof : List Byte) (s : State) : Host.Outcome State Fault Refusal :=
  .next ((Eff.start s).proveReq q proof).st

/-- CLOSE (R90). -/
def execClose (q : Req) (s : State) : Host.Outcome State Fault Refusal := .next ((Eff.start s).closeReq q).st

/-- KEEPALIVE (R82, R90). -/
def execKeepalive (q : Req) (s : State) : Host.Outcome State Fault Refusal := .next ((Eff.start s).keepaliveReq q).st

/-- PROVE_TIMEOUT (R91): a session not proved within 5 s of its OPEN ends. Before that nothing happens. -/
def execProveTimeout (slot : Fin 8) (s : State) : Host.Outcome State Fault Refusal :=
  let e := Eff.start s
  match smGet none e.sess.slots slot.val with
  | some x => .next (if !x.proved && x.opened + 5000000000 ≤ e.time.up then e.endSession x.id else e).st
  | none => .next e.st

/-- SESSION_TIMEOUT (R90): a session without a valid request for SESSION_TIMEOUT ends. -/
def execSessionTimeout (slot : Fin 8) (s : State) : Host.Outcome State Fault Refusal :=
  let e := Eff.start s
  match smGet none e.sess.slots slot.val with
  | some x =>
    .next (if x.lastValid + e.cv oSessionTimeout * 1000000000 ≤ e.time.up then e.endSession x.id else e).st
  | none => .next e.st

/-- AUTH_LOCKOUT_END (R92): a lockout whose 60 s have passed ends. -/
def execAuthLockoutEnd (src : Src) (s : State) : Host.Outcome State Fault Refusal :=
  let e := Eff.start s
  .next (e.modSess fun t => { t with
    lockouts := t.lockouts.filter fun p => p.1 != src || decide (e.time.up < p.2) }).st

end Sys2Proof.Machine
end

