-- ==== Sys2Proof/Machine/Transports.lean ====
section
/-! DEFINITION. DAP messages as octets: the CAN FD segments of R88 and the host SPI transactions of R89, with the reading of a whole
message that both deliver. -/

namespace Sys2Proof.Machine

variable {s0 : Root}

/-! ### A whole message -/

/-- The actions that cannot be scheduled (R511), which stand beside the table of the others. -/
def servedRow? (s0 : Root) (obj : Nat) : Option (ActRow s0) :=
  match actRow? s0 obj with
  | some r => some r
  | none =>
    if obj = oTimedAction then some ⟨obj, 0, false, actTimedAction⟩
    else if obj = oTimedCancel then some ⟨obj, 0, false, actTimedCancel⟩
    else if obj = oStepAuthorise then some ⟨obj, 2, false, actStepAuthorise⟩
    else none

/-- An ACTION request as octets (R82, R607): arguments of another length than ARGLEN are answered TYPE in the place of that check; the truth value says that its answer is still to come. -/
def Eff.serveAction (e : Eff s0) (q : Req) (p : List Byte) : Eff s0 × Bool :=
  match e.vet q 3 p with
  | .stop e => (e, false)
  | .go e level sess =>
    if p.length < 6 then (e.answer q 3 (ansErr stType), false)
    else
      let obj := fieldLe p 0 3
      let args := p.drop 6
      match servedRow? s0 obj with
      | none => (e.answer q 3 (ansErr stNoObject), false)
      | some r =>
        let right := if obj = oCellReq then e.cellRight args else r.right
        let whole := args.length == fieldLe p 4 2
        e.actOn q level sess args right r.active fun e c a => if whole then r.run e c a else (e, some (ansErr stType))

/-- A request of wrong length or unknown opcode, answered TYPE once its message has passed (R83). -/
def Eff.badRequest (e : Eff s0) (q : Req) (op : Nat) (p : List Byte) : Eff s0 :=
  match e.vet q op p with
  | .stop e => e
  | .go e _ _ => e.answer q op (ansErr stType)

/-- The payload of a request is executed by its opcode (R82). -/
def Eff.serveBody (e : Eff s0) (q : Req) (op : Nat) (p : List Byte) : Eff s0 × Bool :=
  if op = 3 then e.serveAction q p
  else if op = 1 ∧ p.length = 8 then
    (e.dapRead q (fieldLe p 0 3) (BitVec.ofNat 8 (octet p 3)) (fieldLe p 4 2) (fieldLe p 6 2), false)
  else if op = 2 ∧ 8 ≤ p.length then
    (e.dapWrite q (fieldLe p 0 3) (BitVec.ofNat 8 (octet p 3)) (fieldLe p 4 2) (fieldLe p 6 2) (p.drop 8), false)
  else if op = 0x10 then (e.openReq q (BitVec.ofNat 8 (octet p 0)) (p.drop 4), false)
  else if op = 0x11 then (e.proveReq q p, false)
  else if op = 0x12 ∧ p = [] then (e.closeReq q, false)
  else if op = 0x13 ∧ p = [] then (e.keepaliveReq q, false)
  else (e.badRequest q op p, false)

/-- A whole DAP message from a source (R81). What is no request of version 1, or shorter than its LEN, gets no answer; what its reserved
octets hold is ignored (R12), and octets past the message are padding. -/
def Eff.serve (e : Eff s0) (src : Src) (m : List Byte) : Eff s0 × Bool :=
  let len := fieldLe m 8 2
  if m.length < 12 + len ∨ octet m 0 ≠ 0x10 then (e, false)
  else
    let q : Req := { src := src, seq := BitVec.ofNat 16 (fieldLe m 2 2), session := BitVec.ofNat 32 (fieldLe m 4 4)
                     tag := (m.drop (12 + len)).take 16, rsv := BitVec.ofNat 16 (fieldLe m 10 2) }
    e.serveBody q (octet m 1) ((m.drop 12).take len)

/-! ### CAN FD (R88) -/

/-- Forgets the partial message of a controller. -/
def Eff.dropPartial (e : Eff s0) (c : Nat) : Eff s0 := e.modSess fun s => { s with canPart := smSet none s.canPart c none }

/-- A complete message on controller c: executed unless an earlier request still waits for its response. -/
def Eff.serveCan (e : Eff s0) (c : Fin 2) (m : List Byte) : Eff s0 :=
  if e.sess.canBusy.contains c.val then e
  else
    let e := e.modSess fun s => { s with canBusy := c.val :: s.canBusy }
    let (e, waits) := e.serve (.can c) m
    e.when (!waits) (·.modSess fun s => { s with canBusy := s.canBusy.filter (· != c.val) })

/-- DAPC_SEGMENT (R88): a segment joins the partial message of its controller, or discards it where it is out of order, not of the
full data length though not the last, or later than 100 ms; the last executes the message. -/
def execDapcSegment (c : Fin 2) (octets : List Byte) (s : State) : Host.Outcome State Fault Refusal :=
  let e := Eff.start s
  let h := octet octets 0
  let first := bitOf h 7
  let last := bitOf h 6
  let n := h % 64
  if !e.st.serving || e.cv oDapcRate c.val == 2 || octets == [] then .next e.st
  else
    let held : Option Partial := (smGet none e.sess.canPart c.val).filter fun p => decide (e.time.up < p.started + 100000000)
    let p : Option Partial := if first then some ⟨[], 0, e.time.up⟩ else held
    let e := e.dropPartial c.val
    match p with
    | none => .next e.st
    | some p =>
      if p.next ≠ n ∨ 64 < octets.length ∨ (!last && octets.length ≠ 64) then .next e.st
      else
        let m := p.octets ++ octets.drop 1
        if last then .next (e.serveCan c m).st
        else .next (e.modSess fun s => { s with canPart := smSet none s.canPart c.val (some ⟨m, (n + 1) % 64, p.started⟩) }).st

/-- DAPC_MESSAGE_TIMEOUT (R88): a message still incomplete 100 ms after its FIRST segment. -/
def execDapcMessageTimeout (c : Fin 2) (s : State) : Host.Outcome State Fault Refusal :=
  let e := Eff.start s
  match smGet none e.sess.canPart c.val with
  | some p => .next (e.when (decide (p.started + 100000000 ≤ e.time.up)) (·.dropPartial c.val)).st
  | none => .next e.st

/-! ### Host SPI (R89) -/

/-- SPI_PUT: LEN16, the message and its CRC-32C. While a request waits for its response, or with a wrong length or CRC, it is
rejected. -/
def execSpiPut (len : BitVec 16) (msg : List Byte) (crc : BitVec 32) (s : State) : Host.Outcome State Fault Refusal :=
  let e := Eff.start s
  if !e.st.serving then .next e.st
  else if e.sess.spiBusy || msg.length != len.toNat || crc32c msg != crc then
    .next (e.modSess fun t => { t with spiRejected := true }).st
  else
    let e := e.modSess fun t => { t with spiBusy := true }
    let (e, waits) := e.serve .spi msg
    .next (e.modSess fun t => { t with spiBusy := waits && t.spiBusy }).st

/-- The reply to GET: LEN16, the message and its CRC-32C; LEN16 = 0 where none is pending. -/
def spiReply (m : Option (List Byte)) : List Byte :=
  match m with
  | some m => le 2 m.length ++ m ++ le 4 (crc32c m).toNat
  | none => le 2 0

/-- SPI_GET: the oldest response pending, else the oldest notification. -/
def execSpiGet (s : State) : Host.Outcome State Fault Refusal :=
  let e := Eff.start s
  if !e.st.serving then .next e.st
  else
    match e.sess.spiResp, e.sess.spiNote with
    | m :: r, _ => .next ((e.modSess fun t => { t with spiResp := r }).emit (.spi (spiReply (some m)))).st
    | [], m :: r => .next ((e.modSess fun t => { t with spiNote := r }).emit (.spi (spiReply (some m)))).st
    | [], [] => .next (e.emit (.spi (spiReply none))).st

/-- The word of STATUS: response pending, notification pending, PUT rejected, busy. -/
def SessSt.spiStatus (t : SessSt) : Nat :=
  ofBool (!t.spiResp.isEmpty) + 2 * ofBool (!t.spiNote.isEmpty) + 4 * ofBool t.spiRejected + 8 * ofBool t.spiBusy

/-- SPI_STATUS: the word goes out and the PUT-rejected bit clears. -/
def execSpiStatus (s : State) : Host.Outcome State Fault Refusal :=
  let e := Eff.start s
  if !e.st.serving then .next e.st
  else .next ((e.emit (.spi (le 4 e.sess.spiStatus))).modSess fun t => { t with spiRejected := false }).st

/-! ### Host interrupt pins (R89, R446) -/

/-- Whether an event that EV_ROUTE sends to a bit is pending (R446). -/
def State.routed (s : State) (bit : Nat) : Bool :=
  (List.range 128).any fun ev => bitOf s.faults.evPend ev && bitOf (s.cv oEvRoute ev) bit

/-- Whether HOST_IRQi_N is low: 0 while a response is pending, 1 while a notification is (R89), 2 and 3 while an event routed to them
is (R446). A device that does not serve drives none of them low. -/
def State.hostIrqLow (s : State) (i : Fin 4) : Bool :=
  s.serving &&
    (if i = 0 then !s.sess.spiResp.isEmpty else if i = 1 then !s.sess.spiNote.isEmpty else s.routed (i.val - 2))

end Sys2Proof.Machine
end

