-- ==== Sys2Proof/Machine/Dispatch.lean ====
section
/-! DEFINITION. One arm per command; every meaning is a definition of its own in a family file. -/

namespace Sys2Proof.Machine

/-- The effect of a command on everything but the queue. -/
def exec (i : Instr) (s : State) : Host.Outcome State Fault Refusal :=
  match i with
  | .dapRead q obj flags first count => Sys2Proof.Machine.execDapRead q obj flags first count s
  | .dapWrite q obj flags first count vals => Sys2Proof.Machine.execDapWrite q obj flags first count vals s
  | .dapOpen q level nonce => Sys2Proof.Machine.execOpen q level nonce s
  | .dapProve q proof => Sys2Proof.Machine.execProve q proof s
  | .dapClose q => Sys2Proof.Machine.execClose q s
  | .keepalive q => Sys2Proof.Machine.execKeepalive q s
  | .proveTimeout slot => Sys2Proof.Machine.execProveTimeout slot s
  | .sessionTimeout slot => Sys2Proof.Machine.execSessionTimeout slot s
  | .authLockoutEnd src => Sys2Proof.Machine.execAuthLockoutEnd src s
  | .dapcSegment c octets => Sys2Proof.Machine.execDapcSegment c octets s
  | .dapcMessageTimeout c => Sys2Proof.Machine.execDapcMessageTimeout c s
  | .spiPut len msg crc => Sys2Proof.Machine.execSpiPut len msg crc s
  | .spiGet => Sys2Proof.Machine.execSpiGet s
  | .spiStatus => Sys2Proof.Machine.execSpiStatus s
  | .commit q args => Sys2Proof.Machine.execCommit q args s
  | .abandon q args => Sys2Proof.Machine.execAbandon q args s
  | .commitActivation d => Sys2Proof.Machine.execCommitActivation d s
  | .peerCommitMissed d => Sys2Proof.Machine.execPeerCommitMissed d s
  | .store q args => Sys2Proof.Machine.execStore q args s
  | .storeComplete verified => Sys2Proof.Machine.execStoreComplete verified s
  | .troubleW1c q vals => Sys2Proof.Machine.execTroubleW1c q vals s
  | .stickyClear q obj first count vals => Sys2Proof.Machine.execStickyClear q obj first count vals s
  | .resetNRise suppliesInRange => Sys2Proof.Machine.execResetNRise suppliesInRange s
  | .resetNLow lowNs => Sys2Proof.Machine.execResetNLow lowNs s
  | .jtagSysreset => Sys2Proof.Machine.execJtagSysreset s
  | .suppliesInRange => Sys2Proof.Machine.execSuppliesInRange s
  | .pllLock pll riseUs => Sys2Proof.Machine.execPllLock pll riseUs s
  | .pllLockFail => Sys2Proof.Machine.execPllLockFail s
  | .sramSelfTestDone uncorrectable singleBitWords => Sys2Proof.Machine.execSramSelfTestDone uncorrectable singleBitWords s
  | .firmwareVerifyDone flash digest => Sys2Proof.Machine.execFirmwareVerifyDone flash digest s
  | .dictionaryRestore flashReadable => Sys2Proof.Machine.execDictionaryRestore flashReadable s
  | .roleNegotiation presentN roleOk => Sys2Proof.Machine.execRoleNegotiation presentN roleOk s
  | .roleWaitExpiry => Sys2Proof.Machine.execRoleWaitExpiry s
  | .start q args => Sys2Proof.Machine.execStart q args s
  | .stop q args => Sys2Proof.Machine.execStop q args s
  | .trip q args => Sys2Proof.Machine.execTrip q args s
  | .safeExit q args => Sys2Proof.Machine.execSafeExit q args s
  | .discoveryEnd peerIds peerVers => Sys2Proof.Machine.execDiscoveryEnd peerIds peerVers s
  | .discoverRetry => Sys2Proof.Machine.execDiscoverRetry s
  | .repeatedDiscovery => Sys2Proof.Machine.execRepeatedDiscovery s
  | .frameStart => Sys2Proof.Machine.execFrameStart s
  | .checkpointComplete => Sys2Proof.Machine.execCheckpointComplete s
  | .canarySend => Sys2Proof.Machine.execCanarySend s
  | .inputDeadline => Sys2Proof.Machine.execInputDeadline s
  | .beaconSend => Sys2Proof.Machine.execBeaconSend s
  | .overrun unfinished => Sys2Proof.Machine.execOverrun unfinished s
  | .chargeTimeout => Sys2Proof.Machine.execChargeTimeout s
  | .syncTimeout => Sys2Proof.Machine.execSyncTimeout s
  | .brkFail => Sys2Proof.Machine.execBrkFail s
  | .stopTimeout => Sys2Proof.Machine.execStopTimeout s
  | .derateClearTimeout => Sys2Proof.Machine.execDerateClearTimeout s
  | .derateHoldExpiry => Sys2Proof.Machine.execDerateHoldExpiry s
  | .pwrFailNAssert lowNs => Sys2Proof.Machine.execPwrFailNAssert lowNs s
  | .pwrFailNRelease highNs => Sys2Proof.Machine.execPwrFailNRelease highNs s
  | .reqIdle q cell => Sys2Proof.Machine.execReqIdle q cell s
  | .reqActive q cell => Sys2Proof.Machine.execReqActive q cell s
  | .reqBypass q cell => Sys2Proof.Machine.execReqBypass q cell s
  | .reqRejoin q cell => Sys2Proof.Machine.execReqRejoin q cell s
  | .reqRetire q cell => Sys2Proof.Machine.execReqRetire q cell s
  | .cellLost cell => Sys2Proof.Machine.execCellLost cell s
  | .cellSuspect cell => Sys2Proof.Machine.execCellSuspect cell s
  | .joinTimeout cell => Sys2Proof.Machine.execJoinTimeout cell s
  | .bypassOpenTimeout cell => Sys2Proof.Machine.execBypassOpenTimeout cell s
  | .laneWakeDone lane => Sys2Proof.Machine.execLaneWakeDone lane s
  | .adaptationEnd lane quiet eq => Sys2Proof.Machine.execAdaptationEnd lane quiet eq s
  | .laneAcquireDone lane => Sys2Proof.Machine.execLaneAcquireDone lane s
  | .blockLock lane headers slip => Sys2Proof.Machine.execBlockLock lane headers slip s
  | .lockLoss lane blocks => Sys2Proof.Machine.execLockLoss lane blocks s
  | .losAssert lane ampMv belowNs => Sys2Proof.Machine.execLosAssert lane ampMv belowNs s
  | .losClear lane ampMv aboveNs => Sys2Proof.Machine.execLosClear lane ampMv aboveNs s
  | .lolAssert lane ppm forNs outOfLock => Sys2Proof.Machine.execLolAssert lane ppm forNs outOfLock s
  | .lolClear lane ppm forNs => Sys2Proof.Machine.execLolClear lane ppm forNs s
  | .warmAcquireTimeout lane => Sys2Proof.Machine.execWarmAcquireTimeout lane s
  | .laneDown lane => Sys2Proof.Machine.execLaneDown lane s
  | .laneStop q args => Sys2Proof.Machine.execLaneStop q args s
  | .laneStart q args => Sys2Proof.Machine.execLaneStart q args s
  | .measureReceive chain blocks => Sys2Proof.Machine.execMeasureReceive chain blocks s
  | .responseReceive chain blocks roundTrip => Sys2Proof.Machine.execResponseReceive chain blocks roundTrip s
  | .scheduleReceive chain blocks => Sys2Proof.Machine.execScheduleReceive chain blocks s
  | .beaconReceive chain blocks => Sys2Proof.Machine.execBeaconReceive chain blocks s
  | .tripBlockReceive peerLane block => Sys2Proof.Machine.execTripBlockReceive peerLane block s
  | .canaryReceive peerLane blocks arrival => Sys2Proof.Machine.execCanaryReceive peerLane blocks arrival s
  | .availReceive peerLane blocks => Sys2Proof.Machine.execAvailReceive peerLane blocks s
  | .digestReceive peerLane blocks => Sys2Proof.Machine.execDigestReceive peerLane blocks s
  | .relayDnReceive peerLane blocks => Sys2Proof.Machine.execRelayDnReceive peerLane blocks s
  | .relayUpReceive peerLane blocks => Sys2Proof.Machine.execRelayUpReceive peerLane blocks s
  | .fillReqReceive peerLane blocks => Sys2Proof.Machine.execFillReqReceive peerLane blocks s
  | .fillReceive peerLane blocks => Sys2Proof.Machine.execFillReceive peerLane blocks s
  | .outdigReceive peerLane blocks => Sys2Proof.Machine.execOutdigReceive peerLane blocks s
  | .convFrameReceive peerLane blocks => Sys2Proof.Machine.execConvFrameReceive peerLane blocks s
  | .ckptReceive peerLane blocks => Sys2Proof.Machine.execCkptReceive peerLane blocks s
  | .controlConfig peerLane blocks => Sys2Proof.Machine.execControlConfig peerLane blocks s
  | .controlCommit peerLane blocks => Sys2Proof.Machine.execControlCommit peerLane blocks s
  | .controlAction peerLane blocks => Sys2Proof.Machine.execControlAction peerLane blocks s
  | .controlAck peerLane blocks => Sys2Proof.Machine.execControlAck peerLane blocks s
  | .controlLatch peerLane blocks => Sys2Proof.Machine.execControlLatch peerLane blocks s
  | .controlMeter peerLane blocks => Sys2Proof.Machine.execControlMeter peerLane blocks s
  | .replayResult peerLane blocks => Sys2Proof.Machine.execReplayResult peerLane blocks s
  | .handover peerLane blocks => Sys2Proof.Machine.execHandover peerLane blocks s
  | .ckptReq peerLane blocks => Sys2Proof.Machine.execCkptReq peerLane blocks s
  | .retiring peerLane blocks => Sys2Proof.Machine.execRetiring peerLane blocks s
  | .controlRepeat => Sys2Proof.Machine.execControlRepeat s
  | .standbyAbsent => Sys2Proof.Machine.execStandbyAbsent s
  | .roleOkHigh highNs => Sys2Proof.Machine.execRoleOkHigh highNs s
  | .claimRelease => Sys2Proof.Machine.execClaimRelease s
  | .joinNoCanary => Sys2Proof.Machine.execJoinNoCanary s
  | .presentNChange high => Sys2Proof.Machine.execPresentNChange high s
  | .pairHandover q args => Sys2Proof.Machine.execPairHandover q args s
  | .pairRejoin q args => Sys2Proof.Machine.execPairRejoin q args s
  | .shadowStart => Sys2Proof.Machine.execShadowStart s
  | .shadowLimit => Sys2Proof.Machine.execShadowLimit s
  | .resyncDone => Sys2Proof.Machine.execResyncDone s
  | .selfReplayDone pass => Sys2Proof.Machine.execSelfReplayDone pass s
  | .replayResultTimeout => Sys2Proof.Machine.execReplayResultTimeout s
  | .joinReplayDone => Sys2Proof.Machine.execJoinReplayDone s
  | .joinStepTimeout => Sys2Proof.Machine.execJoinStepTimeout s
  | .hubPeriodStart leg => Sys2Proof.Machine.execHubPeriodStart leg s
  | .hubMidReload leg => Sys2Proof.Machine.execHubMidReload leg s
  | .fastTick => Sys2Proof.Machine.execFastTick s
  | .triggerCompareMatch tc => Sys2Proof.Machine.execTriggerCompareMatch tc s
  | .commEdge pin level stableNs => Sys2Proof.Machine.execCommEdge pin level stableNs s
  | .hubHaltDetect noUpdateNs => Sys2Proof.Machine.execHubHaltDetect noUpdateNs s
  | .gateCommand gate on => Sys2Proof.Machine.execGateCommand gate on s
  | .guardDeadTimeEnd gate => Sys2Proof.Machine.execGuardDeadTimeEnd gate s
  | .blankingEnd gate => Sys2Proof.Machine.execBlankingEnd gate s
  | .senseQualified gate asserted forNs => Sys2Proof.Machine.execSenseQualified gate asserted forNs s
  | .supplyFail gate positiveOk negativeOk forNs => Sys2Proof.Machine.execSupplyFail gate positiveOk negativeOk forNs s
  | .gateEnNRise => Sys2Proof.Machine.execGateEnNRise s
  | .gateEnNFall => Sys2Proof.Machine.execGateEnNFall s
  | .cellEnToggle q args => Sys2Proof.Machine.execCellEnToggle q args s
  | .slotReset q args => Sys2Proof.Machine.execSlotReset q args s
  | .conversionTrigger conv seq => Sys2Proof.Machine.execConversionTrigger conv seq s
  | .convTrigger q args => Sys2Proof.Machine.execConvTrigger q args s
  | .entryResult conv lower upper => Sys2Proof.Machine.execEntryResult conv lower upper s
  | .sequenceEnd conv => Sys2Proof.Machine.execSequenceEnd conv s
  | .sdOutput ch sample => Sys2Proof.Machine.execSdOutput ch sample s
  | .sdStuck ch clocks clockMissing => Sys2Proof.Machine.execSdStuck ch clocks clockMissing s
  | .bitstreamResume ch clocks => Sys2Proof.Machine.execBitstreamResume ch clocks s
  | .calConverged conv => Sys2Proof.Machine.execCalConverged conv s
  | .auxProspect q args => Sys2Proof.Machine.execAuxProspect q args s
  | .auxTestDone out vaMv vbMv vauxMv => Sys2Proof.Machine.execAuxTestDone out vaMv vbMv vauxMv s
  | .auxTestAbort out => Sys2Proof.Machine.execAuxTestAbort out s
  | .auxOvercurrent out ma forUs => Sys2Proof.Machine.execAuxOvercurrent out ma forUs s
  | .auxOcBlankEnd out => Sys2Proof.Machine.execAuxOcBlankEnd out s
  | .auxOvertemp out hot => Sys2Proof.Machine.execAuxOvertemp out hot s
  | .auxClear q args => Sys2Proof.Machine.execAuxClear q args s
  | .faultReport source kind address master atype => Sys2Proof.Machine.execFaultReport source kind address master atype s
  | .tripRepeat => Sys2Proof.Machine.execTripRepeat s
  | .queueAccept => Sys2Proof.Machine.execQueueAccept s
  | .holdingDrop source => Sys2Proof.Machine.execHoldingDrop source s
  | .ledgerDrain => Sys2Proof.Machine.execLedgerDrain s
  | .ledgerStore => Sys2Proof.Machine.execLedgerStore s
  | .firstErrRearm q args => Sys2Proof.Machine.execFirstErrRearm q args s
  | .ledgerRead q args => Sys2Proof.Machine.execLedgerRead q args s
  | .ledgerClear q args => Sys2Proof.Machine.execLedgerClear q args s
  | .injectOpen q args => Sys2Proof.Machine.execInjectOpen q args s
  | .injectClose q args => Sys2Proof.Machine.execInjectClose q args s
  | .injectExpiry => Sys2Proof.Machine.execInjectExpiry s
  | .force q args => Sys2Proof.Machine.execForce q args s
  | .forcePoint q args => Sys2Proof.Machine.execForcePoint q args s
  | .evSubscribe q args => Sys2Proof.Machine.execEvSubscribe q args s
  | .eventNotification slot ev => Sys2Proof.Machine.execEventNotification slot ev s
  | .dispEmerg q args => Sys2Proof.Machine.execDispEmerg q args s
  | .socSet q args => Sys2Proof.Machine.execSocSet q args s
  | .meterClose q args => Sys2Proof.Machine.execMeterClose q args s
  | .meterRead q args => Sys2Proof.Machine.execMeterRead q args s
  | .meterAck q args => Sys2Proof.Machine.execMeterAck q args s
  | .meterSign port => Sys2Proof.Machine.execMeterSign port s
  | .ptpSyncReceive m seq twoStep t1 ingress correction logInterval => Sys2Proof.Machine.execPtpSyncReceive m seq twoStep t1 ingress correction logInterval s
  | .ptpFollowUpReceive m seq t1 correction => Sys2Proof.Machine.execPtpFollowUpReceive m seq t1 correction s
  | .ptpDelayRespReceive m seq t4 correction => Sys2Proof.Machine.execPtpDelayRespReceive m seq t4 correction s
  | .ptpPdelayReqReceive m seq ingress correction => Sys2Proof.Machine.execPtpPdelayReqReceive m seq ingress correction s
  | .ptpPdelayRespReceive m seq ingress turnaround => Sys2Proof.Machine.execPtpPdelayRespReceive m seq ingress turnaround s
  | .ptpAnnounceReceive m gm priority1 clockClass accuracy variance priority2 utcOffset utcValid leap61 leap59 stepsRemoved => Sys2Proof.Machine.execPtpAnnounceReceive m gm priority1 clockClass accuracy variance priority2 utcOffset utcValid leap61 leap59 stepsRemoved s
  | .announceTimeout m => Sys2Proof.Machine.execAnnounceTimeout m s
  | .timeHold => Sys2Proof.Machine.execTimeHold s
  | .stepAuthorise q args => Sys2Proof.Machine.execStepAuthorise q args s
  | .leapSecond => Sys2Proof.Machine.execLeapSecond s
  | .calendarCompare => Sys2Proof.Machine.execCalendarCompare s
  | .calSet q args => Sys2Proof.Machine.execCalSet q args s
  | .calTamperClear q args => Sys2Proof.Machine.execCalTamperClear q args s
  | .tamperNFall lowUs => Sys2Proof.Machine.execTamperNFall lowUs s
  | .vbatLow mv => Sys2Proof.Machine.execVbatLow mv s
  | .oscillatorStop noEdgeUs => Sys2Proof.Machine.execOscillatorStop noEdgeUs s
  | .timedAction q args => Sys2Proof.Machine.execTimedAction q args s
  | .timedCancel q args => Sys2Proof.Machine.execTimedCancel q args s
  | .transferPost requester bank write lines => Sys2Proof.Machine.execTransferPost requester bank write lines s
  | .storeCycle bank completes => Sys2Proof.Machine.execStoreCycle bank completes s
  | .bankWatchdog bank => Sys2Proof.Machine.execBankWatchdog bank s
  | .watchRead unit line => Sys2Proof.Machine.execWatchRead unit line s
  | .wuArm q args => Sys2Proof.Machine.execWuArm q args s
  | .wuDisarm q args => Sys2Proof.Machine.execWuDisarm q args s
  | .wuTrigger q args => Sys2Proof.Machine.execWuTrigger q args s
  | .wuRelease q args => Sys2Proof.Machine.execWuRelease q args s
  | .postEnd unit => Sys2Proof.Machine.execPostEnd unit s
  | .holdoffEnd unit => Sys2Proof.Machine.execHoldoffEnd unit s
  | .acqExport q args => Sys2Proof.Machine.execAcqExport q args s
  | .jrnlHold q args => Sys2Proof.Machine.execJrnlHold q args s
  | .jrnlRelease q args => Sys2Proof.Machine.execJrnlRelease q args s
  | .jrnlExport q args => Sys2Proof.Machine.execJrnlExport q args s
  | .streamDatagram => Sys2Proof.Machine.execStreamDatagram s
  | .rrStart q args => Sys2Proof.Machine.execRrStart q args s
  | .rrStop q args => Sys2Proof.Machine.execRrStop q args s
  | .rrImport q args => Sys2Proof.Machine.execRrImport q args s
  | .replayFrame digestsEqual changes => Sys2Proof.Machine.execReplayFrame digestsEqual changes s
  | .pllUnlock pll => Sys2Proof.Machine.execPllUnlock pll s
  | .refclkLoss lane noEdgeNs => Sys2Proof.Machine.execRefclkLoss lane noEdgeNs s
  | .islandClockFault island => Sys2Proof.Machine.execIslandClockFault island s
  | .debugHalt island => Sys2Proof.Machine.execDebugHalt island s
  | .bootstat => Sys2Proof.Machine.execBootstat s
  | .supplyOor rail mv forNs => Sys2Proof.Machine.execSupplyOor rail mv forNs s
  | .supplyReset rail mv forNs => Sys2Proof.Machine.execSupplyReset rail mv forNs s
  | .junctionHot deciC => Sys2Proof.Machine.execJunctionHot deciC s
  | .roleOkFall => Sys2Proof.Machine.execRoleOkFall s
  | .refclkReturn lane => Sys2Proof.Machine.execRefclkReturn lane s
  | .islandClockRestore island => Sys2Proof.Machine.execIslandClockRestore island s
  | .debugHaltRelease island => Sys2Proof.Machine.execDebugHaltRelease island s
  | .railReturn rail mv => Sys2Proof.Machine.execRailReturn rail mv s
  | .ptpDelayReqReceive m seq ingress correction => Sys2Proof.Machine.execPtpDelayReqReceive m seq ingress correction s
  | .ptpSyncSend egress => Sys2Proof.Machine.execPtpSyncSend egress s
  | .ptpAnnounceSend => Sys2Proof.Machine.execPtpAnnounceSend s
  | .ptpDelayReqSend egress => Sys2Proof.Machine.execPtpDelayReqSend egress s
  | .ptpPdelayReqSend egress => Sys2Proof.Machine.execPtpPdelayReqSend egress s

end Sys2Proof.Machine
end

