-- ==== Sys2Proof/Machine/Idle.lean ====
section
/-! DEFINITION. What passes while no command waits: one tick of the 250 MHz TIME clock, with the hub edges and the schedules that fall in it. -/

namespace Sys2Proof.Machine

/-- One tick of 4 ns (R486): the local clock advances by INCREMENT (2⁻³² ns), uptime by 4 ns. The local clock stands while
the device is OFF. The edges that the compares, masks and dead times of the hub give within the tick (R227, R230, R236) leave at its
end (log 55), with the GATE_EARLY of a gate that they turn off (R397). The schedules held since the deadline leave at t_k + DEADLINE + B (R53). -/
def idle (s : State) : State :=
  let e := (Eff.start s).pass 4
  if e.dev.state == .off then e.st
  else
    let e := (e.modTime fun t => { t with clock := t.clock + t.incr }).driveLegs.reportEarly
    (e.when (!e.chain.held.isEmpty && decide (e.schedAt ≤ e.time.clock)) (·.releaseHeld)).st

end Sys2Proof.Machine
end

