-- ==== Sys2Proof/Safety.lean ====
section
/-! DEFINITION. The terms the claims use: well-formed states, requests that pass, answers that have been sent, and faults that are only
recorded. -/

namespace Sys2Proof.Machine

/-- The invariant every step keeps: the point store is in canonical form and lists only points that exist, the committed and the staged
dictionary are in canonical form, the collector queue holds at most 256 messages (R426), the Ledger ring at most 32,766 entries
(R442), and the outputs are where role, claim and state let them be (R101, R102, R412, R476). -/
def State.Inv (s : State) : Prop :=
  Memory.wf s.pts = true ∧ smWf none s.cfg = true ∧ smWf none s.stg = true ∧ s.queue.length ≤ 256 ∧ s.ring.length ≤ 32766 ∧
    s.OutputsOk

/-! ### Requests -/

/-- A request passes the checks that every request meets (R86, R90, R91, R607), with right `lvl` as session `sid`: the transports serve; it
comes without a session while OBSERVER_OPEN allows that, or from a proved session of its source that is not overdue, with the right tag
and a SEQ in the window that has not been answered before. -/
def State.Accepts (s : State) (q : Req) (op : Nat) (p : List Byte) (lvl sid : Nat) : Prop :=
  s.serving = true ∧ p.length ≤ 1444 ∧
    ((q.session = 0 ∧ s.cv oObserverOpen 0 ≠ 0 ∧ lvl = 0 ∧ sid = 0) ∨
      (q.session ≠ 0 ∧ op ≠ 0x11 ∧ ∃ slot x, s.findSession q.session.toNat = some (slot, x) ∧ x.src = q.src ∧ x.proved = true ∧
        (Eff.start s).overdue x = false ∧
        q.tag = dapTag x.ks (dapOctets 0 op q.seq.toNat q.session.toNat p q.rsv.toNat) ∧
        x.cache.find? (·.1 == q.seq.toNat) = none ∧ x.outside q.seq.toNat = false ∧ lvl = x.level ∧ sid = x.id))

/-- An ACTION request passes (R607): the checks of every request, the right the action needs, and the role ACTIVE where it needs that. -/
def State.Invoked (s : State) (q : Req) (obj : Nat) (args : List Byte) (right : Nat) (active : Bool) (lvl sid : Nat) : Prop :=
  s.Accepts q 3 (actionPayload obj args) lvl sid ∧ right ≤ lvl ∧ (active = true → s.pair.role = .active)

/-- The message `m` answers request `q` of an opcode with `a` (R81, R82): a response with the SEQ and SESSION of the request and the payload
of the answer, then a tag or nothing. -/
def answers (q : Req) (op : Nat) (a : Ans) (m : List Byte) : Prop :=
  ∃ tag, m = dapOctets 1 op q.seq.toNat q.session.toNat a.payload ++ tag

/-- The last thing the device has sent, or queued for the host, answers request `q` of an opcode with `a` (R87 to R89). -/
def State.Replied (t : State) (q : Req) (op : Nat) (a : Ans) : Prop :=
  ∃ m, answers q op a m ∧
    match q.src with
    | .udp _ _ _ => ∃ r, t.sent = Out.dap q.src m :: r
    | .can c => ∃ r, t.sent = ((canSegments 64 0 m).map (Out.can c.val (t.cv oDapcId c.val + 1))).reverse ++ r
    | .spi => ∃ r, t.sess.spiResp = r ++ [m]

/-- A PTP message as the device sends it (R496 to R499): in its domain, to the destination of its kind. -/
def State.ptpMsg (s : State) (m : Nat) (kind : PtpKind) (seq : Nat) (stamp correction : Int) (clock : Option PtpClock) : Out :=
  .ptp ⟨m, kind, s.cv oPtpDomain 0, seq, (Eff.start s).ptpLink kind, stamp, correction, clock⟩

/-! ### The point store -/

/-- The collector once requester r has been delivered a line of the point store: what it consumed of its 8 points is known (R44, R521). -/
def State.delivered (s : State) (r line : Nat) : FaultSt :=
  (List.range 8).foldl (fun f i => { f with
    consumed := smSet none f.consumed (r * pointCount + (8 * line + i)) (some (rawBits 32 (ptVal (s.pt (8 * line + i))))) }) s.faults

/-! ### Trips and lanes -/

/-- Lane l is LOCKED. -/
def State.locked (s : State) (l : Nat) : Prop := (smGet Lane.reset s.lanes l).state = .locked

/-- Every chain and peer lane that was LOCKED has been sent the TRIP block with a cause (R437). -/
def State.Tripped (s t : State) (cause : Nat) : Prop :=
  ∀ l < 26, s.locked l → Out.trip l (tripBlock cause s.pair.epoch s.frame.k) ∈ t.sent

/-- What a receiver makes of blocks that reach lane l (R153, R173): the lane after them, and what it has heard. -/
def State.hears (s : State) (l : Nat) (bl : List Block) : Lane × List Heard :=
  (smGet Lane.reset s.lanes l).takes (26 ≤ l) (s.time.clock / (1000000000 * nsq)).toNat bl

/-- The state once blocks have been heard on lane l: the lane's receiver has moved on. -/
def State.took (s : State) (l : Nat) (bl : List Block) : State :=
  if (s.hears l bl).1 = smGet Lane.reset s.lanes l then s
  else { s with lanes := smSet Lane.reset s.lanes l (s.hears l bl).1 }

/-- Blocks on lane l carry one frame and nothing else to hear, and the frame is intact and of a kind (R172 to R174): the lane is LOCKED,
length and FCRC are right. -/
def State.Intact (s : State) (l kind : Nat) (bl : List Block) (bs : List Byte) : Prop :=
  s.locked l ∧ (s.hears l bl).2 = [.frame bs] ∧ wynLen l bs = true ∧ fcrcOk bs = true ∧ octet bs 0 = kind

/-- Blocks on a peer lane carry, for the first time, a CONTROL message of a type in one intact segment `bs` (R456), with FRAME and
payload. -/
def State.Whole (s : State) (m : Fin 2) (type : Nat) (bl : List Block) (bs : List Byte) (frame : Nat) (p : List Byte) : Prop :=
  s.Intact (24 + m.val) 0x2A bl bs ∧ octet bs 4 = type ∧ octet bs 5 = 128 ∧ bs.length = 28 + fieldLe bs 20 2 ∧ fieldLe bs 20 2 ≤ 1508 ∧
    fieldLe bs 8 4 ∉ s.pair.rxDone ∧ (∀ x ∈ s.pair.rxSegs, x.cseq ≠ fieldLe bs 8 4) ∧ frame = fieldLe bs 12 8 ∧
    p = (bs.drop 24).take (fieldLe bs 20 2)

/-- The pair unit once a CONTROL message has been taken: its CSEQ is known, and an acknowledgement has used one (R456, R457). -/
def PairSt.took (p : PairSt) (bs : List Byte) (acked : Bool) : PairSt :=
  { p with
    rxDone := (fieldLe bs 8 4 :: p.rxDone).take 256
    nextCseq := if acked then (p.nextCseq + 1) % 2 ^ 32 else p.nextCseq }

/-! ### Resets -/

/-- The state that a reset of the DEVICE domain leaves (R574, R575): everything at its reset value but flash, the BACKUP domain (the
calendar clock with CAL_TRIM) and the levels of pins, supplies and references. The model's own counters go on. -/
def State.afterReset (s : State) (cause : Nat) : State :=
  { State.reset with
    cfg := smSet none [] (key oCalTrim 0) (smGet none s.cfg (key oCalTrim 0))
    persist := { s.persist with job := none, answer := .nobody, status := 0 }
    meter := { MeterSt.reset with slots := s.meter.slots, pfArea := s.meter.pfArea }
    pair := { PairSt.reset with strapB := s.pair.strapB, presentN := s.pair.presentN, roleOk := s.pair.roleOk }
    gate := s.gate.inputs, hub := { HubSt.reset with comm := s.hub.comm }, time := s.time.backup
    clk := { ClkSt.reset with
      resetCause := cause, notOk := s.clk.notOk, railMv := s.clk.railMv, refSysLost := s.clk.refSysLost
      refLaneLost := s.clk.refLaneLost, junction := s.clk.junction, resetN := s.clk.resetN }
    free := s.free, sent := s.sent, pending := s.pending }

/-! ### Faults -/

/-- The class of a kind and address in the table in force only records, and holds no journal (R430, R555). -/
def State.Quiet (s : State) (kind addr : Nat) : Prop :=
  (Eff.start s).classOf kind addr ≤ 1 ∧ (Eff.start s).classOf kind addr < s.cv oJrnlHoldClass 0

/-- The message of a report (R422, R424, R442). -/
def State.message (s : State) (source kind addr : Nat) : Entry :=
  { addr := addr, kind := kind, sev := (Eff.start s).classOf kind addr, source := source, time := (Eff.start s).now16
    frame := s.frame.k, merges := 0, access := none, forced := false, notActed := false, peer := false, pfTail := false, seq := 0
    rid := s.faults.reports + 1 }

/-- The collector after a report that is only recorded (R424, R428, R446): the message is loaded or merged, captured in LAST and in the
captures that are free, and the event of its class occurs. -/
def State.noted (s : State) (source kind addr : Nat) : FaultSt :=
  (((Eff.start s).record (s.message source kind addr)).event ((Eff.start s).classOf kind addr)).st.faults

end Sys2Proof.Machine
end

