-- ==== Sys2Proof/Certificates/Slice0/Obligations.lean ====
section
/-! DEFINITION. The statements for the provers. Requests that pass are described by `State.Accepts` and `State.Invoked`, answers by
`State.Replied`, frames that arrive whole by `State.Intact` and `State.Whole`, and reports that are only recorded by `State.Quiet` and
`State.noted` (Safety.lean). A conclusion `t = { s with f := t.f, … }` says that nothing outside the fields named changes. -/

open Sys2Proof Sys2Proof.Machine

/-- For every command c and state s whose queue begins with c, step s is exec c on s with the queue's rest, whatever its outcome. -/
def Obligations.StepRunsTheFrontCommand : Prop :=
  ∀ (c : Instr) (rest : List Instr) (s : State), s.pending = c :: rest → step s = exec c { s with pending := rest }

/-- With an empty queue a step lets uptime rise by 4 ns and the local clock by INCREMENT (in OFF it stands). In OFF nothing else changes.
With no schedule held and no EARLY latched or due for its report, only the gates and the hub can follow; while the hub outputs are
high-impedance not even they do. Schedules held since the deadline are gone after the tick that reaches t_k + DEADLINE + B, and stay
held before it. That this happens on an empty queue is the model's choice (assumption 2); the size of the tick, INCREMENT (R486) and
the instant of the schedules (R53) are the manual's. -/
def Obligations.EmptyQueueLetsOneTickPass : Prop :=
  (∀ s : State, s.pending = [] → s.dev.state = .off → step s = .next { s with time := { s.time with up := s.time.up + 4 } }) ∧
  (∀ s : State, s.pending = [] → s.dev.state ≠ .off → s.chain.held = [] →
    (∀ k < 24, (smGet Gate.reset s.gate.gates k).early = false ∧ (smGet Gate.reset s.gate.gates k).earlyDue = false) →
    ∃ t, step s = .next t ∧
      t = { s with time := { s.time with up := s.time.up + 4, clock := s.time.clock + s.time.incr }, gate := t.gate, hub := t.hub } ∧
      (s.gate.hiZ = true → t.gate = s.gate ∧ t.hub = s.hub)) ∧
  (∀ s : State, s.pending = [] → s.dev.state ≠ .off → s.gate.hiZ = true → s.chain.held ≠ [] →
    (∀ k < 24, (smGet Gate.reset s.gate.gates k).earlyDue = false) →
    ∃ t, step s = .next t ∧ t.time = { s.time with up := s.time.up + 4, clock := s.time.clock + s.time.incr } ∧
      t.chain.held = (if (Eff.start s).schedAt ≤ s.time.clock + s.time.incr then [] else s.chain.held))

/-- At reset every one of the points reads VALUE 0, TOFF 0, QUALITY 0x44 and FLAGS 0 (R45). The device is OFF without a role, its hub
outputs are high-impedance without a claim, no auxiliary output is energised, every lane is OFF and every cell ABSENT, every
configuration value is its default, the collector queue, the Ledger ring and the queue of commands are empty and nothing has been sent.
Values the manual gives none for are the model's choice (assumption 3) and not named here. -/
def Obligations.ResetLeavesTheDeviceOff : Prop :=
  (∀ n, State.reset.pt n = mkPoint 0 0 0x44 0) ∧ State.reset.dev.state = .off ∧ State.reset.pair.role = .unset ∧
    State.reset.gate.hiZ = true ∧ State.reset.pair.claim = false ∧ (∀ n, (smGet Aux.reset State.reset.aux n).energised = false) ∧
    (∀ l, (smGet Lane.reset State.reset.lanes l).state = .off) ∧ (∀ c, (smGet Cell.reset State.reset.cells c).state = .absent) ∧
    (∀ obj elem, State.reset.cv obj elem = objDefault State.reset.pair.strapB obj elem) ∧ State.reset.queue = [] ∧
    State.reset.ring = [] ∧ State.reset.pending = [] ∧ State.reset.sent = []

/-- The invariant State.Inv (canonical point store and dictionary, sizes of the collector queue and of the Ledger ring, outputs in step
with role, claim and state) holds right after reset. -/
def Obligations.ResetMeetsTheInvariant : Prop :=
  State.reset.Inv

/-- For every state that meets State.Inv, whatever step answers as next state meets it again: the point store lists only the 2,097,152
points and is canonical, so are the committed and the staged dictionary, the collector queue holds at most 256 messages (R426), the
Ledger ring at most 32,766 entries (slots 2 to 32,767, R442), and the outputs follow claim, role and state. -/
def Obligations.EveryStepKeepsTheInvariant : Prop :=
  ∀ s t : State, s.Inv → step s = .next t → t.Inv

/-- From every state whose outputs are where role, claim and state let them be, every step leads to such a state: hub outputs are driven
only while the claim is held, the claim is held only by an ACTIVE device (so that any other role has its hub outputs high-impedance,
R102), no device is ACTIVE in OFF or BOOT, and an auxiliary output is energised only on an ACTIVE device. That only a device in role
ACTIVE sends schedules is not part of this statement. -/
def Obligations.HubIsDrivenOnlyUnderTheClaimOfAnActiveDevice : Prop :=
  (∀ s t : State, s.OutputsOk → step s = .next t → t.OutputsOk) ∧
    (∀ s : State, s.OutputsOk → s.pair.role ≠ .active →
      s.gate.hiZ = true ∧ s.pair.claim = false ∧ ∀ n a, (n, a) ∈ s.aux → a.energised = false) ∧
    (∀ s : State, s.OutputsOk → s.dev.state = .off ∨ s.dev.state = .boot → s.gate.hiZ = true)

/-- Whatever step answers as next state has everything sent before still at the end of the list of what was sent, an uptime and a count of
consumed free values not below those before, and the queue without its front command. (The list of what was sent and the count of free
values are the model's own fields, assumptions 1 and 4.) -/
def Obligations.StepsNeverTakeBackWhatWasSent : Prop :=
  ∀ s t : State, step s = .next t →
    (∃ l, t.sent = l ++ s.sent) ∧ s.time.up ≤ t.time.up ∧ s.free ≤ t.free ∧ t.pending = s.pending.tail

/-- For every command and every state exec answers a next state, with the queue as it was: the device is never stopped by a command. What
the next state holds is said by the statements of the single commands. -/
def Obligations.NoCommandFaultsOrIsRefused : Prop :=
  ∀ (c : Instr) (s : State), ∃ t, exec c s = .next t ∧ t.pending = s.pending

/-- On a canonical point store, writing word w to point n below 2,097,152 makes n read w and leaves every other point as it was; writing to
a number at or above 2,097,152 changes nothing. -/
def Obligations.PointStoreReadsWhatWasWritten : Prop :=
  ∀ (s : State) (n : Nat) (w : PointWord), Memory.wf s.pts = true →
    Memory.wf ((Eff.start s).setPoint n w).st.pts = true ∧
    ∀ i, ((Eff.start s).setPoint n w).st.pt i = if i = n ∧ n < 2097152 then w else s.pt i

/-- For every VALUE in 32 bits, TOFF in 16 bits, QUALITY and FLAGS in 8 bits, the point word holds VALUE in bits 31:0, TOFF in 47:32,
QUALITY in 55:48 and FLAGS in 63:56, and each reads back. -/
def Obligations.PointWordsHoldTheirFields : Prop :=
  ∀ (v toff : Int) (q f : Nat), -2 ^ 31 ≤ v → v < 2 ^ 31 → -2 ^ 15 ≤ toff → toff < 2 ^ 15 → q < 256 → f < 256 →
    ptVal (mkPoint v toff q f) = v ∧ ptToff (mkPoint v toff q f) = toff ∧ ptQual (mkPoint v toff q f) = q ∧
    ptFlags (mkPoint v toff q f) = f ∧
    (mkPoint v toff q f).toNat = rawBits 32 v + rawBits 16 toff * 2 ^ 32 + q * 2 ^ 48 + f * 2 ^ 56

/-- For every instant from 0 to below 2 to the 48 seconds, in units of 2 to the minus 16 ns, the 12 octets of its TIME96 read back as that
instant. -/
def Obligations.Time96RoundTrips : Prop :=
  ∀ t : Int, 0 ≤ t → t < 2 ^ 48 * 1000000000 * 65536 → (time96 t).length = 12 ∧ untime96 (time96 t) = t

/-- For every message of at most 4,032 octets, the segments' octets 1 onward joined are the message followed by less than 64 zero octets;
octet 0 of segment i holds FIRST exactly for i = 0, LAST exactly for the last one, and i modulo 64; every segment but the last has 64
octets, and the last has a CAN FD data length (0 to 8, 12, 16, 20, 24, 32, 48 or 64). What the receiver does with segments stands in
HostTransportsComplete. -/
def Obligations.CanSegmentsCarryTheWholeMessage : Prop :=
  ∀ m : List Byte, m.length ≤ 4032 →
    (∃ k < 64, (canSegments 64 0 m).flatMap (·.drop 1) = m ++ zeros k) ∧
    ∀ i seg, (canSegments 64 0 m)[i]? = some seg →
      octet seg 0 = (if i = 0 then 128 else 0) + (if i + 1 = (canSegments 64 0 m).length then 64 else 0) + i % 64 ∧
      (i + 1 < (canSegments 64 0 m).length → seg.length = 64) ∧
      seg.length ∈ [1, 2, 3, 4, 5, 6, 7, 8, 12, 16, 20, 24, 32, 48, 64]

/-- For every list of elements (object in 3 octets, element in 2) with values below 2 to the 64, the octets of its image read back as the
list. The layout of the image is the firmware's; the one stated is the model's choice (assumption 9). -/
def Obligations.SetImagesRoundTrip : Prop :=
  ∀ l : List (Nat × Nat), (∀ p ∈ l, p.1 < 2 ^ 40 ∧ p.2 < 2 ^ 64) → imageValues (imageOctets l) = l

/-- A KEEPALIVE that passes is answered OK and changes only the sessions. A CLOSE that passes ends the session: it leaves its slot, and its
registration and its injection session go. An OPEN from a source not locked out, with a free session slot, takes that slot and is
answered OK with the session number and the device nonce, which are free values (assumption 4). A PROVE within 5 s of the OPEN of a
session not yet proved, with a SEQ in the window and not used before, whose proof is the HMAC of R91 under the key of its level is
answered with the device's proof, and the session then is proved and holds the derived session key. Nothing else changes. -/
def Obligations.SessionRequestsComplete : Prop :=
  (∀ (s : State) (q : Req) (lvl sid : Nat), s.Accepts q 0x13 [] lvl sid →
    ∃ t, exec (.keepalive q) s = .next t ∧ t.Replied q 0x13 ansOk ∧ t = { s with sess := t.sess, sent := t.sent }) ∧
  (∀ (s : State) (q : Req) (lvl sid : Nat), s.Accepts q 0x12 [] lvl sid →
    ∃ t, exec (.dapClose q) s = .next t ∧
      (sid ≠ 0 → (∀ b ∈ t.faults.subs, b.sess ≠ sid) ∧ (∀ i, t.faults.inject = some i → i.sess ≠ sid) ∧
        (smWf none s.sess.slots = true → ∀ n y, s.findSession sid = some (n, y) → smGet none t.sess.slots n = none)) ∧
      t = { s with sess := t.sess, sent := t.sent, stg := t.stg, doms := t.doms, faults := t.faults }) ∧
  (∀ (s : State) (q : Req) (level : Byte) (nonce : List Byte) (slot : Nat), s.serving = true → (Eff.start s).lockedOut q.src = false →
    nonce.length = 16 → level.toNat ≤ 3 → (Eff.start s).freeSlot = some slot →
    ∃ t, exec (.dapOpen q level nonce) s = .next t ∧
      t.Replied q 0x10 (ansOk (zeros 2 ++ le 4 (Eff.start s).newSession ++ le 16 (Config.freeNonce s.free).toNat)) ∧
      t = { s with sess := t.sess, sent := t.sent, free := s.free + 1 }) ∧
  (∀ (s : State) (q : Req) (proof k : List Byte) (slot : Nat) (x : Session), s.serving = true → q.session ≠ 0 →
    s.findSession q.session.toNat = some (slot, x) → x.src = q.src → x.proved = false → x.cache.find? (·.1 == q.seq.toNat) = none →
    x.outside q.seq.toNat = false → (Eff.start s).overdue x = false → (Eff.start s).levelKey x.level = some k → proof.length = 32 →
    proof = hmac k (ascii "GBX-OPEN" ++ le 4 x.id ++ le 1 x.level ++ x.cn ++ x.dn) →
    ∃ t y, exec (.dapProve q proof) s = .next t ∧
      t.Replied q 0x11 (ansOk (hmac k (ascii "GBX-DEVC" ++ le 4 x.id ++ le 1 x.level ++ x.dn ++ x.cn))) ∧
      t.findSession x.id = some (slot, y) ∧ y.proved = true ∧ y.level = x.level ∧
      y.ks = (hmac k (ascii "GBX-SKEY" ++ le 4 x.id ++ x.cn ++ x.dn)).take 16 ∧
      t = { s with sess := t.sess, sent := t.sent })

/-- PROVE_TIMEOUT on a session not proved within 5 s of its OPEN, and SESSION_TIMEOUT on one without a valid request for SESSION_TIMEOUT,
end the session: it leaves its slot, its registration goes, and nothing outside sessions, domains, staged values and collector changes.
Before that time, and PROVE_TIMEOUT on a proved session, they change nothing. AUTH_LOCKOUT_END drops exactly the lockouts of its source
whose time has passed. -/
def Obligations.SessionTimersEndSessions : Prop :=
  (∀ (s : State) (slot : Fin 8) (x : Session), smGet none s.sess.slots slot.val = some x →
    x.proved = false → x.opened + 5000000000 ≤ s.time.up →
    ∃ t, exec (.proveTimeout slot) s = .next t ∧ (∀ b ∈ t.faults.subs, b.sess ≠ x.id) ∧
      (∀ n y, s.findSession x.id = some (n, y) → t.sess = { s.sess with slots := smSet none s.sess.slots n none }) ∧
      t = { s with sess := t.sess, stg := t.stg, doms := t.doms, faults := t.faults }) ∧
  (∀ (s : State) (slot : Fin 8) (x : Session), smGet none s.sess.slots slot.val = some x →
    (x.proved = true ∨ s.time.up < x.opened + 5000000000) → exec (.proveTimeout slot) s = .next s) ∧
  (∀ (s : State) (slot : Fin 8) (x : Session), smGet none s.sess.slots slot.val = some x →
    x.lastValid + s.cv oSessionTimeout 0 * 1000000000 ≤ s.time.up →
    ∃ t, exec (.sessionTimeout slot) s = .next t ∧ (∀ b ∈ t.faults.subs, b.sess ≠ x.id) ∧
      (∀ n y, s.findSession x.id = some (n, y) → t.sess = { s.sess with slots := smSet none s.sess.slots n none }) ∧
      t = { s with sess := t.sess, stg := t.stg, doms := t.doms, faults := t.faults }) ∧
  (∀ (s : State) (slot : Fin 8) (x : Session), smGet none s.sess.slots slot.val = some x →
    s.time.up < x.lastValid + s.cv oSessionTimeout 0 * 1000000000 → exec (.sessionTimeout slot) s = .next s) ∧
  (∀ (s : State) (src : Src), ∃ t, exec (.authLockoutEnd src) s = .next t ∧
    (∀ p, p ∈ t.sess.lockouts ↔ p ∈ s.sess.lockouts ∧ (p.1 = src → s.time.up < p.2)) ∧
    t = { s with sess := { s.sess with lockouts := t.sess.lockouts } })

/-- While the device serves: SPI STATUS answers its word and clears the rejected bit; SPI GET answers the oldest response, else the oldest
notification, else LEN16 0; an SPI PUT while busy, of wrong length or of wrong CRC is rejected, and one that holds a KEEPALIVE that
passes is answered in the response queue and the interface is free again. A first CAN FD segment opens a partial message, the next in
order extends it, a single segment that holds a KEEPALIVE that passes is answered in CAN FD segments; a partial message older than 100
ms is discarded by DAPC_MESSAGE_TIMEOUT, a younger one stays. HOST_IRQ0_N is low while a response waits, HOST_IRQ1_N while a
notification does, HOST_IRQ2_N and HOST_IRQ3_N while a pending event is routed to them. -/
def Obligations.HostTransportsComplete : Prop :=
  (∀ s : State, s.serving = true →
    exec .spiStatus s = .next { s with
      sent := .spi (le 4 s.sess.spiStatus) :: s.sent, sess := { s.sess with spiRejected := false } } ∧
    (∀ m r, s.sess.spiResp = m :: r → exec .spiGet s = .next { s with
      sent := .spi (le 2 m.length ++ m ++ le 4 (crc32c m).toNat) :: s.sent, sess := { s.sess with spiResp := r } }) ∧
    (∀ m r, s.sess.spiResp = [] → s.sess.spiNote = m :: r → exec .spiGet s = .next { s with
      sent := .spi (le 2 m.length ++ m ++ le 4 (crc32c m).toNat) :: s.sent, sess := { s.sess with spiNote := r } }) ∧
    (s.sess.spiResp = [] → s.sess.spiNote = [] → exec .spiGet s = .next { s with sent := .spi (le 2 0) :: s.sent })) ∧
  (∀ (s : State) (len : BitVec 16) (msg : List Byte) (crc : BitVec 32), s.serving = true →
    (s.sess.spiBusy = true ∨ msg.length ≠ len.toNat ∨ crc32c msg ≠ crc) →
    exec (.spiPut len msg crc) s = .next { s with sess := { s.sess with spiRejected := true } }) ∧
  (∀ (s : State) (msg : List Byte) (q : Req) (lvl sid : Nat), s.serving = true → s.sess.spiBusy = false →
    12 ≤ msg.length → msg.length < 65536 → octet msg 0 = 0x10 → octet msg 1 = 0x13 → fieldLe msg 8 2 = 0 →
    q = { src := .spi, seq := BitVec.ofNat 16 (fieldLe msg 2 2), session := BitVec.ofNat 32 (fieldLe msg 4 4), tag := (msg.drop 12).take 16,
          rsv := BitVec.ofNat 16 (fieldLe msg 10 2) } →
    State.Accepts { s with sess := { s.sess with spiBusy := true } } q 0x13 [] lvl sid →
    ∃ t, exec (.spiPut (BitVec.ofNat 16 msg.length) msg (crc32c msg)) s = .next t ∧ t.Replied q 0x13 ansOk ∧ t.sess.spiBusy = false ∧
      t = { s with sess := t.sess }) ∧
  (∀ (s : State) (c : Fin 2) (p : Partial), smGet none s.sess.canPart c.val = some p →
    exec (.dapcMessageTimeout c) s = .next (if p.started + 100000000 ≤ s.time.up then
      { s with sess := { s.sess with canPart := smSet none s.sess.canPart c.val none } } else s)) ∧
  (∀ (s : State) (c : Fin 2) (bs : List Byte), s.serving = true → s.cv oDapcRate c.val ≠ 2 → bs.length = 63 →
    exec (.dapcSegment c (0x80 :: bs)) s = .next { s with sess := { s.sess with
      canPart := smSet none (smSet none s.sess.canPart c.val none) c.val (some ⟨bs, 1, s.time.up⟩) } }) ∧
  (∀ (s : State) (c : Fin 2) (p : Partial) (bs : List Byte), s.serving = true → s.cv oDapcRate c.val ≠ 2 → bs.length = 63 → p.next < 64 →
    smGet none s.sess.canPart c.val = some p → s.time.up < p.started + 100000000 →
    exec (.dapcSegment c (BitVec.ofNat 8 p.next :: bs)) s = .next { s with sess := { s.sess with
      canPart := smSet none (smSet none s.sess.canPart c.val none) c.val (some ⟨p.octets ++ bs, (p.next + 1) % 64, p.started⟩) } }) ∧
  (∀ (s : State) (c : Fin 2) (msg : List Byte) (q : Req) (lvl sid : Nat), s.serving = true → s.cv oDapcRate c.val ≠ 2 →
    c.val ∉ s.sess.canBusy → 12 ≤ msg.length → msg.length ≤ 63 → octet msg 0 = 0x10 → octet msg 1 = 0x13 → fieldLe msg 8 2 = 0 →
    q = { src := .can c, seq := BitVec.ofNat 16 (fieldLe msg 2 2), session := BitVec.ofNat 32 (fieldLe msg 4 4), tag := (msg.drop 12).take 16,
          rsv := BitVec.ofNat 16 (fieldLe msg 10 2) } →
    State.Accepts { s with sess := { s.sess with
      canPart := smSet none s.sess.canPart c.val none, canBusy := c.val :: s.sess.canBusy } } q 0x13 [] lvl sid →
    ∃ t, exec (.dapcSegment c (0xC0 :: msg)) s = .next t ∧ t.Replied q 0x13 ansOk ∧ c.val ∉ t.sess.canBusy ∧
      t = { s with sess := t.sess, sent := t.sent }) ∧
  (∀ s : State, s.serving = true → (s.hostIrqLow 0 = true ↔ s.sess.spiResp ≠ [])) ∧
  (∀ s : State, s.serving = true → (s.hostIrqLow 1 = true ↔ s.sess.spiNote ≠ [])) ∧
  (∀ (s : State) (i : Fin 2), s.serving = true → (s.hostIrqLow ⟨i.val + 2, by omega⟩ = true ↔
    ∃ ev < 128, bitOf s.faults.evPend ev = true ∧ bitOf (s.cv oEvRoute ev) i.val = true))

/-- A READ of the point mirror that passes returns the words of the points; a READ of an RW or RWS object returns the committed value of
each element, or the staged one where FLAGS asks for it and there is one. A WRITE that passes to an RW or RWS object on an ACTIVE
device, with the right, a value of the type, the lock free or its own, and for RWS an idle block, stages each value and takes the lock.
A W1C write to the trouble record clears exactly the defined bits written 1 (reserved bits are ignored), one to the sticky bits of the
pair, a lane, a leg, a converter, a gate leg or the pending events clears exactly those of its element, with right 2 (events 1). The
report of the clear is assumed to be of a class that only records. -/
def Obligations.DictionaryRequestsComplete : Prop :=
  (∀ (s : State) (q : Req) (obj : ObjNo) (flags : Byte) (count : BitVec 16) (n lvl sid : Nat), obj.toNat = 0x80_0000 + n → 1 ≤ count.toNat →
    count.toNat ≤ 179 → n + count.toNat ≤ 2097152 → (Eff.start s).islandOff 3 = false →
    s.Accepts q 1 (le 3 obj.toNat ++ [flags] ++ le 2 0 ++ le 2 count.toNat) lvl sid →
    ∃ t, exec (.dapRead q obj flags 0 count) s = .next t ∧
      t.Replied q 1 (ansOk ([5, 0] ++ le 2 count.toNat ++ (List.range count.toNat).flatMap fun i => le 8 (s.pt (n + i)).toNat)) ∧
      t = { s with sess := t.sess, sent := t.sent, faults := { s.faults with consumed := t.faults.consumed } }) ∧
  (∀ (s : State) (q : Req) (obj : ObjNo) (flags : Byte) (first count : BitVec 16) (r : ObjRow) (lvl sid : Nat),
    objRow? obj.toNat = some r → r.acc = .rw ∨ r.acc = .rws → mirrored obj.toNat = false → isKey obj.toNat = false →
    1 ≤ count.toNat → first.toNat + count.toNat ≤ r.n → count.toNat ≤ 1444 → 10 + count.toNat * r.ty.width ≤ 1444 →
    (∀ i < count.toNat, ∀ j, islandOf obj.toNat (first.toNat + i) = some j → (Eff.start s).islandOff j = false) →
    s.Accepts q 1 (le 3 obj.toNat ++ [flags] ++ le 2 first.toNat ++ le 2 count.toNat) lvl sid →
    ∃ t, exec (.dapRead q obj flags first count) s = .next t ∧
      t.Replied q 1 (ansOk ([r.ty.code, 0] ++ le 2 count.toNat ++ (List.range count.toNat).flatMap fun i =>
        le r.ty.width (if flags.getLsbD 0 = true then (smGet none s.stg (key obj.toNat (first.toNat + i))).getD (s.cv obj.toNat (first.toNat + i))
          else s.cv obj.toNat (first.toNat + i)))) ∧
      t = { s with sess := t.sess, sent := t.sent }) ∧
  (∀ (s : State) (q : Req) (obj : ObjNo) (flags : Byte) (first count : BitVec 16) (vals : List Byte) (r : ObjRow) (vs : List Nat)
    (lvl sid : Nat), objRow? obj.toNat = some r → r.acc = .rw ∨ r.acc = .rws → mirrored obj.toNat = false → s.pair.role = .active →
    1 ≤ count.toNat → first.toNat + count.toNat ≤ r.n → (obj.toNat / 65536 = 1 ∨ r.right ≤ lvl) →
    writtenValues r obj.toNat count.toNat vals = some vs →
    ((smGet Domain.reset s.doms r.dom).owner = 0 ∨ (smGet Domain.reset s.doms r.dom).owner = sid) →
    (r.acc = .rws → ∀ i < vs.length, (Eff.start s).idleFor obj.toNat (first.toNat + i) = true) →
    s.Accepts q 2 (le 3 obj.toNat ++ [flags] ++ le 2 first.toNat ++ le 2 count.toNat ++ vals) lvl sid →
    ∃ t, exec (.dapWrite q obj flags first count vals) s = .next t ∧ t.Replied q 2 ansOk ∧
      t.stg = vs.zipIdx.foldl (fun m p => smSet none m (key obj.toNat (first.toNat + p.2)) (some p.1)) s.stg ∧
      t.doms = smMod Domain.reset s.doms r.dom (fun x => { x with owner := sid, left := x.left.filter fun k =>
        !(vs.zipIdx.map fun p => key obj.toNat (first.toNat + p.2)).contains k }) ∧
      t = { s with sess := t.sess, sent := t.sent, stg := t.stg, doms := t.doms }) ∧
  (∀ (s : State) (q : Req) (vals : List Byte) (lvl sid : Nat), vals.length = 4 → 2 ≤ lvl → s.Quiet kTroubleClear sid →
    s.Accepts q 2 (le 3 oTrouble ++ [0] ++ le 2 0 ++ le 2 1 ++ vals) lvl sid →
    ∃ t, exec (.troubleW1c q vals) s = .next t ∧ t.Replied q 2 ansOk ∧
      t.trouble = s.trouble - (s.trouble &&& (fieldLe vals 0 4 &&& 0x1FFF)) ∧
      t = { s with sess := t.sess, sent := t.sent, trouble := t.trouble, hub := t.hub, conv := t.conv, faults := t.faults }) ∧
  (∀ (s : State) (q : Req) (obj : ObjNo) (first : BitVec 16) (vals : List Byte) (r : ObjRow) (v lvl sid : Nat),
    obj.toNat ∈ [oPairTrouble, oLaneTrouble, oLegTrouble, oConvTrouble, oGateTrouble, oEvPending] → objRow? obj.toNat = some r →
    first.toNat < r.n → vals.length = 4 → v = maskedValue r (fieldLe vals 0 4) → r.right ≤ lvl → s.Quiet kTroubleClear sid →
    s.Accepts q 2 (le 3 obj.toNat ++ [0] ++ le 2 first.toNat ++ le 2 1 ++ vals) lvl sid →
    ∃ t, exec (.stickyClear q obj first 1 vals) s = .next t ∧ t.Replied q 2 ansOk ∧
      (obj.toNat = oPairTrouble → t.pair = { s.pair with trouble := s.pair.trouble - (s.pair.trouble &&& v) } ∧
        t = { s with sess := t.sess, sent := t.sent, faults := t.faults, pair := t.pair }) ∧
      (obj.toNat = oLaneTrouble → t.lanes = smMod Lane.reset s.lanes first.toNat (fun l => { l with trouble := l.trouble - (l.trouble &&& v) }) ∧
        t = { s with sess := t.sess, sent := t.sent, faults := t.faults, lanes := t.lanes }) ∧
      (obj.toNat = oLegTrouble → t.hub = { s.hub with legs := smMod HubLeg.reset s.hub.legs first.toNat fun l =>
          { l with trouble := l.trouble - (l.trouble &&& v) } } ∧
        t = { s with sess := t.sess, sent := t.sent, faults := t.faults, hub := t.hub }) ∧
      (obj.toNat = oConvTrouble → t.conv = { s.conv with trouble := smMod 0 s.conv.trouble first.toNat fun x => x - (x &&& v) } ∧
        t = { s with sess := t.sess, sent := t.sent, faults := t.faults, conv := t.conv }) ∧
      (obj.toNat = oGateTrouble → t.gate = { s.gate with legs := smMod Leg.reset s.gate.legs first.toNat fun l =>
          { l with trouble := l.trouble - (l.trouble &&& v) } } ∧
        t = { s with sess := t.sess, sent := t.sent, faults := t.faults, gate := t.gate }) ∧
      (obj.toNat = oEvPending → t.faults = { s.faults with
          evPend := s.faults.evPend - (s.faults.evPend &&& (v * 2 ^ (32 * first.toNat))) } ∧
        t = { s with sess := t.sess, sent := t.sent, faults := t.faults }))

/-- On a device without standby, a COMMIT that passes for domain LINK, SCHED, LOOP, CASC, ASSAY, GATE, FAULT, TIME or PAIR, with a staged
set that meets every check, is answered OK with the result block (ACT_AT the next frame, COMMIT_SEQ the coming one); the set leaves
staging and waits. An ABANDON that passes empties the staged set. Once its frame has come, COMMIT_ACTIVATION makes every value of a
waiting set of LINK, GATE, FAULT or PAIR committed, counts COMMIT_SEQ up and raises EV13; before, it changes nothing, and neither does
a set that still waits for the standby. A commit the standby has not confirmed 2 frames after it was sent sets trouble bit 11, orders a
checkpoint for the standby and is acknowledged alone for the next frame. -/
def Obligations.CommitsComplete : Prop :=
  (∀ (s : State) (q : Req) (b : Byte) (l : List (Nat × Nat)) (lvl sid : Nat), s.Invoked q oCommit [b] 0 false lvl sid →
    b.toNat ∈ [dLink, dSched, dLoop, dCasc, dAssay, dGate, dFault, dTime, dPair] →
    (Eff.start s).commitGate ⟨lvl, sid, .req q⟩ b.toNat = none → s.stagedOf b.toNat = l → l ≠ [] →
    (smGet Domain.reset s.doms b.toNat).pend = none → (Eff.start s).checkSet b.toNat l [] true = none → s.pair.standby = false →
    ∃ t x, exec (.commit q [b]) s = .next t ∧ smGet Domain.reset t.doms b.toNat = x ∧
      x.pend = some ⟨l, .nobody, false, s.frame.k, s.frame.k + 1, s.time.clock⟩ ∧
      t.Replied q 3 (commitAns 0 0 b.toNat 0xFF_FFFF 0 (s.frame.k + 1) (x.seq + 1)) ∧
      t = { s with sess := t.sess, sent := t.sent, stg := t.stg, doms := t.doms }) ∧
  (∀ (s : State) (q : Req) (b : Byte) (lvl sid : Nat), s.Inv → s.Invoked q oAbandon [b] 0 false lvl sid → b.toNat < 15 →
    (Eff.start s).commitGate ⟨lvl, sid, .req q⟩ b.toNat = none →
    ∃ t, exec (.abandon q [b]) s = .next t ∧ t.Replied q 3 ansOk ∧ t.stagedOf b.toNat = [] ∧
      t = { s with sess := t.sess, sent := t.sent, stg := t.stg, doms := t.doms }) ∧
  (∀ (s : State) (d : Fin 15) (p : PendCommit), d.val ∈ [dLink, dGate, dFault, dPair] →
    (smGet Domain.reset s.doms d.val).pend = some p → p.waitPeer = false → p.actAt ≤ s.frame.k →
    ∃ t, exec (.commitActivation d) s = .next t ∧
      t.cfg = p.values.foldl (fun m kv =>
        smSet none m kv.1 (if kv.2 = objDefault s.pair.strapB (kv.1 / 65536) (kv.1 % 65536) then none else some kv.2)) s.cfg ∧
      t.doms = smMod Domain.reset s.doms d.val (fun x => { x with pend := none, seq := (x.seq + 1) % 2 ^ 32 }) ∧
      t.faults.evPend = s.faults.evPend ||| 2 ^ 13 ∧
      t = { s with cfg := t.cfg, doms := t.doms, jrnl := t.jrnl, faults := t.faults }) ∧
  (∀ (s : State) (d : Fin 15) (p : PendCommit), (smGet Domain.reset s.doms d.val).pend = some p →
    (p.waitPeer = true ∨ (d.val ∈ [dLink, dGate, dFault, dPair] ∧ s.frame.k < p.actAt)) → exec (.commitActivation d) s = .next s) ∧
  (∀ (s : State) (d : Fin 15) (p : PendCommit) (q : Req), d.val ∈ [dLink, dSched, dLoop, dCasc, dAssay, dGate, dFault, dTime, dPair] →
    (smGet Domain.reset s.doms d.val).pend = some p → p.waitPeer = true → p.sentFrame + 2 ≤ s.frame.k → p.answer = .req q →
    s.Quiet kPeerCommitMissed 0 →
    ∃ t x, exec (.peerCommitMissed d) s = .next t ∧ t.trouble = s.trouble ||| 2 ^ 11 ∧ smGet Domain.reset t.doms d.val = x ∧
      x.pend = some { p with answer := .nobody, waitPeer := false, actAt := s.frame.k + 1, ackAt := s.time.clock } ∧
      t.pair = { s.pair with ckptReq := some (s.pair.ckptReq.getD s.frame.k) } ∧
      t.Replied q 3 (commitAns 0 0 d.val 0xFF_FFFF 0 (s.frame.k + 1) (x.seq + 1)) ∧
      t = { s with sess := t.sess, sent := t.sent, doms := t.doms, pair := t.pair, trouble := t.trouble, faults := t.faults })

/-- A STORE that passes with right 2, for a domain, the Ledger (0x20) or all domains (0xFF), with no commit of those domains waiting, no
store running, enough flash and no power failure, is answered OK: it erases the slot of its first domain in the bank that does not hold
the newest valid record, and starts a job whose image is the domain's active set (the Ledger's entries). STORE_COMPLETE, when verified,
writes the image with a commit record of R96 whose SEQ is 1 above the newest valid one of the domain and raises EV15; the job goes on
to the next domain, or ends. When not verified the job ends with STORE_STATUS 3, trouble bit 7 is set and EV15 raised; the slot stays
erased. With no job running it changes nothing. -/
def Obligations.StoresComplete : Prop :=
  (∀ (s : State) (q : Req) (b : Byte) (d : Nat) (r : List Nat) (bank : Nat) (lvl sid : Nat), s.Invoked q oStore [b] 2 false lvl sid →
    (b.toNat < 15 ∨ b.toNat = 0x20 ∨ b.toNat = 0xFF) → d :: r = (if b.toNat = 0xFF then restoreOrder else [b.toNat]) →
    (∀ x ∈ d :: r, (smGet Domain.reset s.doms x).pend = none) → s.persist.job = none → s.dev.pwrFail = false → s.clk.holdup = false →
    s.persist.small = false → bank = (if (Eff.start s).newestSeq d = 0 then 0 else 1 - (Eff.start s).newestBank d) →
    ∃ t, exec (.store q [b]) s = .next t ∧ t.Replied q 3 ansOk ∧
      t.persist = (if d = 0x20 then { s.persist with
          ledger := smSet none s.persist.ledger bank none, job := some ⟨d :: r, bank, [], s.faults.first, s.faults.last, s.ring⟩ }
        else { s.persist with
          slots := smSet none s.persist.slots (2 * d + bank) none
          job := some ⟨d :: r, bank, (Eff.start s).activeSet d, none, none, []⟩ }) ∧
      t = { s with sess := t.sess, sent := t.sent, persist := t.persist }) ∧
  (∀ (s : State) (j : StoreJob) (d : Nat) (rest : List Nat) (i : Image), s.persist.job = some j → j.todo = d :: rest →
    d ≠ 0x20 → d ≠ 0x21 → 0x21 ∉ rest →
    i = ⟨commitRecord ((Eff.start s).newestSeq d + 1) d (imageOctets j.values), j.values⟩ →
    ∃ t, exec (.storeComplete true) s = .next t ∧
      (rest = [] → t.persist = { s.persist with
        slots := smSet none s.persist.slots (2 * d + j.bank) (some i), job := none, status := 0 }) ∧
      (smWf none s.persist.slots = true → j.bank < 2 → d ∉ rest → smGet none t.persist.slots (2 * d + j.bank) = some i) ∧
      (∀ n, t.persist.job = some n → n.todo = rest) ∧
      t.faults.evPend = s.faults.evPend ||| 2 ^ 15 ∧ t = { s with persist := t.persist, faults := t.faults }) ∧
  (∀ (s : State) (j : StoreJob), s.persist.job = some j → j.todo = [0x20] →
    ∃ t, exec (.storeComplete true) s = .next t ∧ t.persist = { s.persist with
        ledger := smSet none s.persist.ledger j.bank (some
          ⟨commitRecord ((Eff.start s).newestSeq 0x20 + 1) 0x20 (ledgerOctets j.first j.last j.entries), j.first, j.last, j.entries⟩)
        job := none, status := 0 } ∧
      t.faults.evPend = s.faults.evPend ||| 2 ^ 15 ∧ t = { s with persist := t.persist, faults := t.faults }) ∧
  (∀ (s : State) (j : StoreJob), s.persist.job = some j → j.todo = [0x21] →
    ∃ t, exec (.storeComplete true) s = .next t ∧ t.persist = { s.persist with job := none, status := 0 } ∧
      t.meter = { s.meter with slots := smSet none s.meter.slots j.bank (some
        ⟨commitRecord ((Eff.start s).newestSeq 0x21 + 1) 0x21 (Config.meterOctets s.meter.storing), s.meter.storing⟩) } ∧
      t.faults.evPend = s.faults.evPend ||| 2 ^ 15 ∧ t = { s with persist := t.persist, meter := t.meter, faults := t.faults }) ∧
  (∀ (s : State) (j : StoreJob), s.persist.job = some j → s.Quiet kStoreFail 0 →
    ∃ t, exec (.storeComplete false) s = .next t ∧ t.persist = { s.persist with job := none, status := 3 } ∧
      t.trouble = s.trouble ||| 2 ^ 7 ∧ t = { s with persist := t.persist, trouble := t.trouble, faults := t.faults }) ∧
  (∀ (s : State) (v : Bool), s.persist.job = none → exec (.storeComplete v) s = .next s)

/-- In every state but OFF, RESET_N low for at least 1 us, a SYSRESET while RESET_N is low or a rail is bad, and a rail below its reset
threshold for 1 us leave the state that afterReset describes: OFF, with everything at its reset value but flash, the BACKUP domain and
the levels of pins, and the reset cause 1, 3 or 2. A SYSRESET with RESET_N high and the rails in range goes on to BOOT at once. RESET_N
low for less than 100 ns does nothing; between the two times it may or may not be seen, which is a free choice. Nothing of this happens
twice in OFF. The BACKUP domain goes only where VBAT at 0 V and VDD_FD are lost together (R574; the voltages are the model's choice,
assumption 124). What is kept through a reset follows the manual's BACKUP domain and storage; the values given at reset where the
manual gives none are the model's choice (assumption 3). -/
def Obligations.ResetsReturnTheDeviceToOff : Prop :=
  (∀ (s : State) (ns : Nat), s.dev.state ≠ .off → 1000 ≤ ns →
    exec (.resetNLow ns) s = .next { s.afterReset 1 with clk := { (s.afterReset 1).clk with resetN := false } }) ∧
  (∀ (s : State) (ns : Nat), s.dev.state = .off → 1000 ≤ ns →
    exec (.resetNLow ns) s = .next { s with clk := { s.clk with resetN := false } }) ∧
  (∀ (s : State) (ns : Nat), ns < 100 → exec (.resetNLow ns) s = .next s) ∧
  (∀ (s : State) (ns : Nat), s.dev.state ≠ .off → 100 ≤ ns → ns < 1000 → ∃ t, exec (.resetNLow ns) s = .next t ∧
    (t = { s with free := s.free + 1 } ∨
      t = { State.afterReset { s with free := s.free + 1 } 1 with clk := { (s.afterReset 1).clk with resetN := false } })) ∧
  (∀ s : State, s.dev.state ≠ .off → (s.clk.resetN = false ∨ ∃ r ∈ s.clk.notOk, r ≠ 9) →
    exec .jtagSysreset s = .next (s.afterReset 3)) ∧
  (∀ s : State, s.dev.state ≠ .off → s.clk.resetN = true → (∀ r ∈ s.clk.notOk, r = 9) →
    ∃ t, exec .jtagSysreset s = .next t ∧
      t.dev = { DevSt.reset with state := .boot, releasedAt := s.time.up } ∧
      t = { s.afterReset 3 with dev := t.dev, faults := t.faults }) ∧
  (∀ (s : State) (rail : Fin 10) (mv ns : Nat), s.dev.state ≠ .off → mv < (railWindow rail.val).2.2 → 1000 ≤ ns →
    (9 ∉ s.clk.notOk ∨ smGet 0 s.clk.railMv 9 ≠ 0) →
    ∃ t, exec (.supplyReset rail mv ns) s = .next t ∧
      t.clk.railMv = smSet 0 s.clk.railMv rail.val mv ∧ rail.val ∈ t.clk.notOk ∧
      t = { s.afterReset 2 with clk := { (s.afterReset 2).clk with railMv := t.clk.railMv, notOk := t.clk.notOk } }) ∧
  (∀ (s : State) (mv ns : Nat), s.dev.state ≠ .off → mv < 1620 → 1000 ≤ ns → 9 ∈ s.clk.notOk → smGet 0 s.clk.railMv 9 = 0 →
    ∃ t, exec (.supplyReset 7 mv ns) s = .next t ∧ t.dev.state = .off ∧ t.clk.resetCause = 2 ∧
      t.time.calValid = false ∧ t.time.calBase = 0 ∧ t.time.calErr = 0 ∧ t.time.tamper = [] ∧ t.persist.count = s.persist.count)

/-- RESET_N rising in OFF leads to BOOT with the supplies in range, and to OFF with RESET_N high without. Supplies in range for their time
end step 1 from 10 ms after the rise; in step 2 a PLL whose lock pin rises in 1.2 to 5.0 ms within 20 ms is locked, and the third ends
the step; a PLL not locked after 20 ms fails it. Step 3 fails on an uncorrectable word or more than 64 defective words and ends
otherwise. In step 4 the flash devices are counted, and the copies of the firmware are tried higher version first: one that verifies
ends step 4, its version and digest are FWVER and FWDIGEST; both failing fails it. Unreadable flash fails step 5; otherwise it ends
with the local clock started from the calendar clock where that is valid. (That copy 0 is first among equal versions is the model's
choice, assumption 104.) BOOTSTAT goes out while its two supplies are in range. -/
def Obligations.StartUpStepsComplete : Prop :=
  (∀ s : State, s.dev.state = .off → s.clk.resetN = false →
    (∃ t, exec (.resetNRise true) s = .next t ∧
      t.dev = { s.dev with state := .boot, cause := 0, releasedAt := s.time.up } ∧
      t.clk = { s.clk with resetN := true, notOk := [] } ∧ t.pair = { s.pair with role := .unset, claim := false } ∧ t.gate.hiZ = true ∧
      t = { s with dev := t.dev, clk := t.clk, pair := t.pair, gate := t.gate, aux := t.aux, faults := t.faults }) ∧
    exec (.resetNRise false) s = .next { s with
      clk := { s.clk with resetN := true }, dev := { s.dev with releasedAt := s.time.up } }) ∧
  (∀ s : State, s.dev.state = .boot → s.dev.bootStage = 0 → s.dev.bootFail = false → s.clk.resetN = true →
    s.dev.releasedAt + 10000000 ≤ s.time.up →
    exec .suppliesInRange s = .next { s with
      dev := { s.dev with bootStage := 1 }, clk := { s.clk with notOk := [], stepAt := s.time.up } }) ∧
  (∀ (s : State) (pll : Fin 3) (us : Nat), s.dev.state = .boot → s.dev.bootStage = 1 → s.dev.bootFail = false →
    pll.val ∉ s.dev.pllLocked → (if pll.val = 1 then s.clk.refLaneLost else s.clk.refSysLost) = false →
    1200 ≤ us → us ≤ 5000 → s.time.up ≤ s.clk.stepAt + 20000000 →
    ∃ t, exec (.pllLock pll us) s = .next t ∧
      t = { s with
        dev := { s.dev with
          pllLocked := pll.val :: s.dev.pllLocked, conds := s.dev.conds.filter (· != (kPllUnlock, pll.val))
          bootStage := if (List.range 3).all (fun x => (pll.val :: s.dev.pllLocked).contains x) = true then 2 else 1 }
        clk := { s.clk with
          riseFail := s.clk.riseFail.filter (· != pll.val), holdover := s.clk.holdover.filter (· != pll.val)
          clkouts := t.clk.clkouts } } ∧
      (s.gate.hiZ = true → (∀ i < 4, smGet ClkPin.reset s.clk.clkouts i = ClkPin.reset) → t.clk.clkouts = s.clk.clkouts)) ∧
  (∀ s : State, s.dev.state = .boot → s.dev.bootStage = 1 → s.dev.bootFail = false → s.clk.stepAt + 20000000 ≤ s.time.up →
    (∃ x < 3, x ∉ s.dev.pllLocked) →
    exec .pllLockFail s = .next { s with
      dev := { s.dev with bootFail := true }
      clk := { s.clk with pllFail := (List.range 3).filter fun x => !s.dev.pllLocked.contains x } }) ∧
  (∀ (s : State) (ue : Bool) (n : Nat), s.dev.state = .boot → s.dev.bootStage = 2 → s.dev.bootFail = false →
    exec (.sramSelfTestDone ue n) s = .next (if ue = true ∨ 64 < n then
      { s with dev := { s.dev with bootFail := true }, clk := { s.clk with sramFail := true } }
      else { s with dev := { s.dev with bootStage := 3 } })) ∧
  (∀ (s : State) (f : FlashRead) (digest : BitVec 384) (c count : Nat), s.dev.state = .boot → s.dev.bootStage = 3 →
    s.dev.bootFail = false → count = (if f.density0 ≠ 0 ∧ f.density1 = f.density0 then 2 else 1) →
    c < 2 → c ∉ s.dev.fwTried → (1 - c ∈ s.dev.fwTried ∨ if c = 0 then f.version1 ≤ f.version0 else f.version0 < f.version1) →
    exec (.firmwareVerifyDone f (some digest)) s = .next { s with
      dev := { s.dev with
        bootStage := 4, fwVer := if c = 0 then f.version0.toNat else f.version1.toNat, fwDigest := digest.toNat }
      persist := { s.persist with count := count, small := decide (count * f.density0 < 64) } } ∧
    exec (.firmwareVerifyDone f none) s = .next { s with
      dev := { s.dev with fwTried := c :: s.dev.fwTried, bootFail := decide (1 ≤ s.dev.fwTried.length) }
      clk := { s.clk with fwBad := c :: s.clk.fwBad }
      persist := { s.persist with count := count, small := decide (count * f.density0 < 64) } }) ∧
  (∀ s : State, s.dev.state = .boot → s.dev.bootStage = 4 → s.dev.bootFail = false →
    exec (.dictionaryRestore false) s = .next { s with dev := { s.dev with bootFail := true } } ∧
    ∃ t, exec (.dictionaryRestore true) s = .next t ∧ t.dev.bootStage = 5 ∧ t.time.valid = t.time.calValid ∧
      t.time.clock = if t.time.calValid = true then
        ((Eff.start t).calNow : Int) * (1000000000 * nsq) / 32768 + signed 16 (t.cv oUtcOffset 0) * (1000000000 * nsq) else 0) ∧
  (∀ s : State, 7 ∉ s.clk.notOk → 4 ∉ s.clk.notOk →
    exec .bootstat s = .next { s with sent := .bootstat (BitVec.ofNat 32 (Eff.start s).bootstat) :: s.sent })

/-- At step 6, alone (both lines high), or as device A beside a peer that does not claim, the device becomes ACTIVE with EPOCH 1, takes the
claim, drives the hub and is READY; with AUTOSTART it goes on to DISCOVER at once; beside a peer that claims it becomes JOINING; device
B beside a peer that does not claim waits, and then becomes ACTIVE after 2 s with ROLE_OK high, or JOINING when ROLE_OK falls before;
an absent peer that claims is a ROLE_LINE fault and fails the start. ROLE_OK falling on a device that does not wait is only noted. -/
def Obligations.RolesAreDecidedAtStepSix : Prop :=
  (∀ (s : State) (a b : Bool), s.dev.state = .boot → s.dev.bootStage = 5 → s.dev.bootFail = false → s.pair.waitAt = none →
    b = true → (a = true ∨ s.pair.strapB = false) → s.cv oAutostart 0 ≠ 1 →
    ∃ t, exec (.roleNegotiation a b) s = .next t ∧ t.pair.role = .active ∧ t.pair.epoch = 1 ∧ t.pair.claim = true ∧ t.gate.hiZ = false ∧
      t.dev.state = .ready ∧ t.dev.bootStage = 6 ∧ t.sent = s.sent ∧ t.pts = s.pts ∧ t.cfg = s.cfg) ∧
  (∀ (s : State) (a b : Bool), s.dev.state = .boot → s.dev.bootStage = 5 → s.dev.bootFail = false → s.pair.waitAt = none →
    b = true → (a = true ∨ s.pair.strapB = false) → s.cv oAutostart 0 = 1 →
    ∃ t, exec (.roleNegotiation a b) s = .next t ∧ t.pair.role = .active ∧ t.pair.epoch = 1 ∧ t.pair.claim = true ∧ t.gate.hiZ = false ∧
      t.dev.state = .discover ∧ t.dev.cause = 2 ∧ t.cfg = s.cfg) ∧
  (∀ s : State, s.dev.state = .boot → s.dev.bootStage = 5 → s.dev.bootFail = false → s.pair.waitAt = none →
    (∃ t, exec (.roleNegotiation false false) s = .next t ∧ t.pair.role = .joining ∧ t.pair.claim = false ∧ t.gate.hiZ = true ∧
      t.dev.state = .ready ∧ t.dev.bootStage = 6 ∧ t.sent = s.sent ∧ t.pts = s.pts ∧ t.cfg = s.cfg) ∧
    (s.pair.strapB = true → exec (.roleNegotiation false true) s = .next { s with
      pair := { s.pair with presentN := false, roleOk := true, waitAt := some s.time.up } }) ∧
    (s.Quiet kRoleLine 0 → exec (.roleNegotiation true false) s = .next { s with
      pair := { s.pair with presentN := true, roleOk := false }, dev := { s.dev with bootFail := true }
      faults := s.noted 0x050 kRoleLine 0 })) ∧
  (∀ (s : State) (w : Nat), s.dev.state = .boot → s.dev.bootStage = 5 → s.dev.bootFail = false → s.pair.waitAt = some w →
    (s.pair.roleOk = true → w + 2000000000 ≤ s.time.up → s.cv oAutostart 0 ≠ 1 →
      ∃ t, exec .roleWaitExpiry s = .next t ∧ t.pair.role = .active ∧ t.pair.epoch = 1 ∧ t.pair.claim = true ∧ t.gate.hiZ = false ∧
        t.dev.state = .ready ∧ t.dev.bootStage = 6 ∧ t.sent = s.sent ∧ t.pts = s.pts ∧ t.cfg = s.cfg) ∧
    (s.time.up < w + 2000000000 → exec .roleWaitExpiry s = .next s) ∧
    ∃ t, exec .roleOkFall s = .next t ∧ t.pair.role = .joining ∧ t.pair.roleOk = false ∧ t.dev.state = .ready ∧ t.dev.bootStage = 6 ∧
      t.sent = s.sent ∧ t.pts = s.pts ∧ t.cfg = s.cfg) ∧
  (∀ s : State, s.pair.waitAt = none → exec .roleOkFall s = .next { s with pair := { s.pair with roleOk := false, roleQual := false } })

/-- With reactions that only record: a PLL that loses lock goes to holdover and is reported, PLL_C with the converters held at reset, PLL_B
with every LOCKED or HUNT lane in ACQUIRE; an absent reference does the same for the PLLs it carries, and its return is noted. An
unintended stop of an island clock, or a debug halt, of an island other than the hub's is noted, the first reported; both are undone. A
halt needs a VENDOR session (assumption 126); one of all islands halts the hub and sets NONDET. A rail outside its window for 2 us is
reported, its return clears the condition; VAUX below 8.0 V turns every auxiliary output off, VBAT only takes CAL_VALID with it. A
junction above TJ_HOT is reported once. PWR_FAIL_N low for 10 us on a device with a frame to come sets bit 3 of DERATE_CAUSES, counts,
raises EV20 and arms the write; 10 ms of release clear the bit. -/
def Obligations.ClocksAndSuppliesComplete : Prop :=
  (∀ (s : State) (pll : Fin 3), pll.val ∈ s.dev.pllLocked → s.Quiet kPllUnlock 0 →
    (pll.val ≠ 1 → ∃ t, exec (.pllUnlock pll) s = .next t ∧ t = { s with
      dev := { s.dev with
        pllLocked := s.dev.pllLocked.filter (· != pll.val)
        conds := (kPllUnlock, pll.val) :: s.dev.conds.filter (· != (kPllUnlock, pll.val)) }
      clk := { s.clk with holdover := (pll.val :: s.clk.holdover).dedup, clkouts := t.clk.clkouts }
      faults := s.noted 0x091 kPllUnlock 0
      conv := if pll.val = 2 then { s.conv with
        fs := s.conv.fs.map fun p => (p.1, { ConvF.reset with dropped := p.2.dropped, invalid := p.2.invalid })
        sd := s.conv.sd.map fun p => (p.1, { SdCh.reset with
          stuck := p.2.stuck, clkMissing := p.2.clkMissing, doneAt := p.2.doneAt, before := p.2.before }) } else s.conv } ∧
      (pll.val = 0 → t.clk.clkouts = s.clk.clkouts)) ∧
    (pll.val = 1 → ∃ t, exec (.pllUnlock pll) s = .next t ∧ 1 ∉ t.dev.pllLocked ∧ 1 ∈ t.clk.holdover)) ∧
  (∀ (s : State) (lane : Bool) (ns : Nat), 200 ≤ ns → (∀ x ∈ s.dev.pllLocked, x = if lane = true then 0 else 1) →
    exec (.refclkLoss lane ns) s = .next { s with
      clk := if lane = true then { s.clk with refLaneLost := true } else { s.clk with refSysLost := true } }) ∧
  (∀ (s : State) (lane : Bool), exec (.refclkReturn lane) s = .next { s with
      clk := if lane = true then { s.clk with refLaneLost := false } else { s.clk with refSysLost := false } }) ∧
  (∀ (s : State) (i : Fin 38), i.val ≠ 2 → s.dev.state ≠ .off → i.val ∉ s.clk.stopped → (Eff.start s).stopIntended i.val = false →
    s.Quiet kPllUnlock 0 →
    exec (.islandClockFault i) s = .next { s with
      clk := { s.clk with stopped := i.val :: s.clk.stopped }
      dev := { s.dev with conds := (kPllUnlock, 16 + i.val) :: s.dev.conds.filter (· != (kPllUnlock, 16 + i.val)) }
      faults := s.noted 0x091 kPllUnlock 0 }) ∧
  (∀ (s : State) (i : Fin 38), exec (.islandClockRestore i) s = .next { s with
      clk := { s.clk with stopped := s.clk.stopped.filter (· != i.val) }
      dev := { s.dev with conds := s.dev.conds.filter (· != (kPllUnlock, 16 + i.val)) } }) ∧
  (∀ (s : State) (i : Option (Fin 38)), (Eff.start s).debugEnabled = false → exec (.debugHalt i) s = .next s) ∧
  (∀ s : State, s.dev.state ≠ .off → (Eff.start s).debugEnabled = true → 0 ∉ s.clk.halted →
    ∃ t, exec (.debugHalt none) s = .next t ∧ (∀ i < 38, i ∈ t.clk.halted) ∧ bitOf t.trouble 0 = true ∧ t.jrnl.nondet = true ∧
      t.hub.halted = List.range 4) ∧
  (∀ (s : State) (i : Fin 38), s.dev.state ≠ .off → (Eff.start s).debugEnabled = true → i.val ∉ s.clk.halted → i.val ≠ 1 → i.val ≠ 2 →
    ∃ t, exec (.debugHalt (some i)) s = .next t ∧ t.clk = { s.clk with halted := i.val :: s.clk.halted } ∧
      (i.val ≤ 4 → bitOf t.trouble 0 = true ∧ t.jrnl = { s.jrnl with nondet := true, sinceCkpt := true }) ∧
      (4 < i.val → t.trouble = s.trouble ∧ t.jrnl = s.jrnl) ∧
      t = { s with clk := t.clk, trouble := t.trouble, jrnl := t.jrnl, faults := t.faults }) ∧
  (∀ (s : State) (i : Fin 38), exec (.debugHaltRelease (some i)) s = .next { s with
      clk := { s.clk with halted := s.clk.halted.filter (· != i.val) } }) ∧
  (∀ s : State, (∀ i ∈ s.clk.halted, i < 38) → exec (.debugHaltRelease none) s = .next { s with clk := { s.clk with halted := [] } }) ∧
  (∀ (s : State) (r : Fin 10) (mv ns : Nat), r.val ≠ 8 → r.val ≠ 9 → Machine.inWindow r.val mv = false → 2000 ≤ ns → r.val ∉ s.clk.notOk →
    s.dev.state ≠ .off → s.dev.state ≠ .boot → 9 ∉ s.clk.notOk → s.Quiet kSupplyOor r.val →
    exec (.supplyOor r mv ns) s = .next { s with
      clk := { s.clk with railMv := smSet 0 s.clk.railMv r.val mv, notOk := (r.val :: s.clk.notOk).dedup }
      dev := { s.dev with conds := (kSupplyOor, r.val) :: s.dev.conds.filter (· != (kSupplyOor, r.val)) }
      faults := s.noted 0x090 kSupplyOor r.val }) ∧
  (∀ (s : State) (mv ns : Nat), mv < 8000 → 2000 ≤ ns → smWf Aux.reset s.aux = true → 9 ∉ s.clk.notOk → s.Quiet kSupplyOor 8 →
    ∃ t, exec (.supplyOor 8 mv ns) s = .next t ∧ (∀ n < 16, (smGet Aux.reset t.aux n).energised = false) ∧ 8 ∈ t.clk.notOk) ∧
  (∀ (s : State) (mv ns : Nat), (mv < 2000 ∨ 3600 < mv) → 0 < mv → 2000 ≤ ns →
    ∃ t, exec (.supplyOor 9 mv ns) s = .next t ∧ 9 ∈ t.clk.notOk ∧ t.faults = s.faults ∧
      t.time.vbatLow = decide (mv < 2200) ∧ t.time.calValid = (s.time.calValid && decide (1800 ≤ mv))) ∧
  (∀ (s : State) (mv : Nat), 2000 ≤ mv → mv ≤ 3600 →
    ∃ t, exec (.railReturn 9 mv) s = .next t ∧ 9 ∉ t.clk.notOk ∧ t.time.vbatLow = decide (mv < 2200) ∧
      t.time.calValid = s.time.calValid) ∧
  (∀ (s : State) (mv : Nat), 8000 ≤ mv → mv ≤ 34000 → ∃ t, exec (.railReturn 8 mv) s = .next t ∧ 8 ∉ t.clk.notOk) ∧
  (∀ (s : State) (r : Fin 10) (mv : Nat), r.val ≠ 8 → r.val ≠ 9 → Machine.inWindow r.val mv = true →
    exec (.railReturn r mv) s = .next { s with
      clk := { s.clk with railMv := smSet 0 s.clk.railMv r.val mv, notOk := s.clk.notOk.filter (· != r.val) }
      dev := { s.dev with conds := s.dev.conds.filter (· != (kSupplyOor, r.val)) } }) ∧
  (∀ (s : State) (c : Int), s.dev.state ≠ .off → s.clk.hot = false → signed 16 (s.cv oTjHot 0) < c → s.Quiet kJunctionHot 0 →
    exec (.junctionHot c) s = .next { s with
      clk := { s.clk with junction := c, hot := true }, faults := s.noted 0x093 kJunctionHot 0 }) ∧
  (∀ (s : State) (ns : Nat), 10000 ≤ ns → s.dev.state ≠ .off → s.dev.state ≠ .boot → s.clk.holdup = false → s.pair.standby = false →
    s.Quiet kPwrFail 0 →
    ∃ t, exec (.pwrFailNAssert ns) s = .next t ∧ bitOf t.dev.derate 3 = true ∧
      t.dev = { s.dev with pwrFail := true, pwrFailAt := s.time.up, derate := s.dev.derate ||| 8, derateClear := none } ∧
      t.clk = { s.clk with pfCount := (s.clk.pfCount + 1) % 2 ^ 32, holdup := true, pfDone := false, pfWrite := true } ∧
      bitOf t.faults.evPend 20 = true ∧ t = { s with dev := t.dev, clk := t.clk, faults := t.faults }) ∧
  (∀ (s : State) (ns : Nat), exec (.pwrFailNRelease ns) s = .next (if 10000000 ≤ ns then
    ((Eff.start { s with dev := { s.dev with pwrFail := false } }).derateUnset 3).st
    else { s with dev := { s.dev with pwrFail := false } }) ∧
    (10000000 ≤ ns → ∃ t, exec (.pwrFailNRelease ns) s = .next t ∧ bitOf t.dev.derate 3 = false))

/-- A START in READY orders DISCOVER with STATE_CAUSE 1, a STOP in DISCOVER, CHARGE, SYNC, RUN or DERATED orders STOPPING, a SAFE_EXIT in
SAFE without a persisting HALT_SAFE condition orders READY; the answer comes at the frame boundary and nothing but the orders and the
session changes. START in DISCOVER and RUN, STOP in READY and STOPPING, TRIP in SAFE and SAFE_EXIT in READY answer NOCHANGE. A TRIP of
class HALT in any other state, with no gate holding a latched EARLY, is answered OK, has sent TRIP blocks of cause 5 on every LOCKED
lane, holds every leg at SAFE_LEVELS, arms the repeat and orders SAFE with STATE_CAUSE 1. -/
def Obligations.DeviceActionsComplete : Prop :=
  (∀ (s : State) (q : Req) (lvl sid : Nat), s.Invoked q oStart [] 1 true lvl sid →
    (s.dev.state = .ready → ∃ t, exec (.start q []) s = .next t ∧
      t = { s with sess := t.sess, dev := { s.dev with events := s.dev.events ++ [⟨.discover, 1, .req q⟩] } }) ∧
    (s.dev.state = .discover ∨ s.dev.state = .run → ∃ t, exec (.start q []) s = .next t ∧ t.Replied q 3 ansNoChange ∧
      t = { s with sess := t.sess, sent := t.sent })) ∧
  (∀ (s : State) (q : Req) (lvl sid : Nat), s.Invoked q oStop [] 1 true lvl sid →
    (s.dev.state ∈ [.discover, .charge, .sync, .run, .derated] → ∃ t, exec (.stop q []) s = .next t ∧
      t = { s with sess := t.sess, dev := { s.dev with events := s.dev.events ++ [⟨.stopping, 1, .req q⟩] } }) ∧
    (s.dev.state = .ready ∨ s.dev.state = .stopping → ∃ t, exec (.stop q []) s = .next t ∧ t.Replied q 3 ansNoChange ∧
      t = { s with sess := t.sess, sent := t.sent })) ∧
  (∀ (s : State) (q : Req) (lvl sid : Nat), s.Invoked q oTrip [] 1 true lvl sid →
    (s.dev.state = .safe → ∃ t, exec (.trip q []) s = .next t ∧ t.Replied q 3 ansNoChange ∧ t = { s with sess := t.sess, sent := t.sent }) ∧
    (s.dev.state ∉ [.off, .boot, .safe] → (Eff.start s).classOf kTripAction sid = 5 → (Eff.start s).earlyGates = [] →
      ∃ t, exec (.trip q []) s = .next t ∧ t.Replied q 3 ansOk ∧ s.Tripped t 5 ∧
        (∀ u < 12, (smGet HubLeg.reset t.hub.legs u).safeHeld = true) ∧
        t.dev = { s.dev with
          tripRepeat := some (tripBlock 5 s.pair.epoch s.frame.k, s.time.up), events := s.dev.events ++ [⟨.safe, 1, .nobody⟩] } ∧
        t = { s with sess := t.sess, sent := t.sent, dev := t.dev, hub := t.hub, gate := t.gate, faults := t.faults, jrnl := t.jrnl })) ∧
  (∀ (s : State) (q : Req) (lvl sid : Nat), s.Invoked q oSafeExit [] 2 true lvl sid →
    (s.dev.state = .safe → (Eff.start s).condAtLeast 7 = false → ∃ t, exec (.safeExit q []) s = .next t ∧
      t = { s with sess := t.sess, dev := { s.dev with events := s.dev.events ++ [⟨.ready, 1, .req q⟩] } }) ∧
    (s.dev.state = .ready → ∃ t, exec (.safeExit q []) s = .next t ∧ t.Replied q 3 ansNoChange ∧
      t = { s with sess := t.sess, sent := t.sent }))

/-- Each of the five cell requests that passes for a cell number below 192 is queued with its code (IDLE 1, ACTIVE 2, BYPASS 3, REJOIN 4,
RETIRE 5) and changes nothing else; REJOIN of a RETIRED cell and RETIRE need right 2, the others 1. At the deadline a request for a
cell not installed gets RESULT 3, one for a cell that a fault removes in this frame WRONG_STATE (1); of any other cell, IDLE, BYPASS
and RETIRE of an ACTIVE one get REDUNDANCY (2) where its phase has fewer than NMIN + 2 ACTIVE cells, and are accepted where it has at
least that many; ACTIVE outside SYNC, RUN and DERATED gets 4, and there is accepted for an IDLE cell alone; REJOIN needs a terminal and
a cell that is BYPASSED, RETIRED or ABSENT (ABSENT is the model's reading, assumption 105). A single accepted request of IDLE, BYPASS
or RETIRE orders the transition of its cell with CELL_CAUSE 1. -/
def Obligations.CellRequestsComplete : Prop :=
  (∀ (s : State) (q : Req) (cell : Byte) (lvl sid : Nat) (c : Instr) (code : Nat),
    (c, code) ∈ [(Instr.reqIdle q cell, 1), (.reqActive q cell, 2), (.reqBypass q cell, 3), (.reqRejoin q cell, 4), (.reqRetire q cell, 5)] →
    s.Invoked q oCellReq [cell, BitVec.ofNat 8 code] ((Eff.start s).cellRight [cell, BitVec.ofNat 8 code]) true lvl sid → cell.toNat < 192 →
    ∃ t, exec c s = .next t ∧
      t = { s with sess := t.sess, chain := { s.chain with reqs := s.chain.reqs ++ [⟨.req q, cell.toNat, code⟩] } }) ∧
  (∀ (s : State) (cell : Byte), (Eff.start s).cellRight [cell, 5] = 2 ∧ (Eff.start s).cellRight [cell, 1] = 1 ∧
    (Eff.start s).cellRight [cell, 2] = 1 ∧ (Eff.start s).cellRight [cell, 3] = 1 ∧
    ((Eff.start s).cellRight [cell, 4] = 2 ↔ (smGet Cell.reset s.cells cell.toNat).state = .retired)) ∧
  (∀ (s : State) (c : Nat) (gone : List Nat) (code : Nat), (Eff.start s).installed c = false → (Eff.start s).reqResult gone c code = 3) ∧
  (∀ (s : State) (c : Nat) (gone : List Nat) (code : Nat), (Eff.start s).installed c = true → c ∈ gone →
    (Eff.start s).reqResult gone c code = 1) ∧
  (∀ (s : State) (c : Nat) (gone : List Nat), (Eff.start s).installed c = true → c ∉ gone → (Eff.start s).cellNext c = .active →
    (∀ code ∈ [1, 3, 5], (Eff.start s).reqResult gone c code =
      if (Eff.start s).activeCount (s.cv oCellPhase c) < (Eff.start s).nmin (s.cv oCellPhase c) + 2 then 2 else 0)) ∧
  (∀ (s : State) (c : Nat) (gone : List Nat), (Eff.start s).installed c = true → c ∉ gone →
    (Eff.start s).reqResult gone c 2 =
      (if s.dev.state ∉ [.sync, .run, .derated] then 4 else if (Eff.start s).cellNext c = .idle then 0 else 1) ∧
    (Eff.start s).reqResult gone c 4 =
      (if (Eff.start s).cellNext c ∈ [.bypassed, .retired, .absent] ∧ (smGet Cell.reset s.cells c).termId ≠ 0 then 0 else 1)) ∧
  (∀ (s : State) (c code : Nat) (st : CellState) (gone : List Nat), (code, st) ∈ [(1, CellState.idle), (3, .bypassed), (5, .retired)] →
    s.chain.reqs = [⟨.nobody, c, code⟩] → (Eff.start s).reqResult gone c code = 0 → s.frame.running = false → s.pair.standby = false →
    ((Eff.start s).cellRequests gone).st = { s with chain := { s.chain with reqs := [], moves := s.chain.moves ++ [(c, st, 1)] } })

/-- At the end of discovery with every installed cell answered, no chain with more terminals than CHAIN_LEN and no hop delays yet, the
cells that have answered are found, the others have no terminal, and step 9 begins with output 0 under test. A found cell that is
ABSENT with an unchanged terminal, or BYPASSED with cause TRIP or STOPPED, is ordered to JOINING at the next deadline. A chain that
both devices reach without a break is miswired exactly where device B's identities are not the reverse of device A's. After a failed
exit check steps 8 and 9 come again from 1 s on. In RUN and DERATED, every 1,000 frames, the positions whose cells are ABSENT, BYPASSED
or RETIRED on LOCKED chains are asked again. A cell without a valid record for 4 frames departs with cause 3, one DISAGREE for 8 frames
is reported and its departure carries cause 5, a join check that exceeds 10 s and a bypass switch not open 100 ms after its order make
the cell depart with cause 9. The reports are assumed of a class that only records. -/
def Obligations.DiscoveryAndLossesComplete : Prop :=
  (∀ s : State, s.dev.state = .discover → s.dev.discStep = 8 → s.time.hops = [] → s.chain.relaying = [] → smWf Cell.reset s.cells = true →
    (∀ c < 192, (Eff.start s).installed c = true → c ∈ s.chain.answered) →
    (∀ n < 24, smGet 0 s.chain.found n ≤ s.cv oChainLen n ∨ s.cv oChainLen n = 0) →
    ∃ t, exec (.discoveryEnd [] []) s = .next t ∧
      t.dev = { s.dev with discStep := 9, auxTodo := List.range 16, bootStage := 8 } ∧ (smGet Aux.reset t.aux 0).testing = true ∧
      t.chain = { s.chain with joins := s.chain.joins ++ allCells.filter fun c => s.chain.answered.contains c } ∧
      (∀ c < 192, smGet Cell.reset t.cells c =
        if c ∈ s.chain.answered then smGet Cell.reset s.cells c else { smGet Cell.reset s.cells c with termId := 0 }) ∧
      t = { s with dev := t.dev, aux := t.aux, chain := t.chain, cells := t.cells, faults := t.faults }) ∧
  (∀ (s : State) (c : Nat), s.chain.joins = [c] → s.dev.state = .discover →
    (let x := smGet Cell.reset s.cells c
     ((Eff.start s).cellNext c = .absent ∧ (Eff.start s).installed c = true ∧ x.changed = false) ∨
      ((Eff.start s).cellNext c = .bypassed ∧ x.state = .bypassed ∧ (x.cause = 8 ∨ x.cause = 10))) →
    (Eff.start s).cellArrivals.st =
      { s with chain := { s.chain with joins := [], moves := s.chain.moves ++ [(c, .joining, 2)] } }) ∧
  (∀ (s : State) (n : Nat) (l : List (BitVec 64)), 0 < s.cv oChainLen n → l.length = s.cv oChainLen n →
    ((Eff.start s).ownTerms n).length = s.cv oChainLen n → (∀ x ∈ (Eff.start s).ownTerms n, x ≠ 0) → (∀ x ∈ l, x ≠ 0) →
    ((Eff.start s).miswired n l = true ↔ (Eff.start s).ownTerms n ≠ (l.map (·.toNat)).reverse)) ∧
  (∀ s : State, s.dev.state = .discover → s.dev.discStep = 10 → s.dev.discAt + 1000000000 ≤ s.time.up →
    ∃ t, exec .discoverRetry s = .next t ∧
      t.dev = { s.dev with discStep := 8, discAt := s.time.up, discFaults := [], bootStage := 7 } ∧
      t.chain.found = [] ∧ t.chain.terms = [] ∧ t.chain.answered = [] ∧ t.chain.asked = [] ∧
      t = { s with dev := t.dev, chain := t.chain, sent := t.sent }) ∧
  (∀ s : State, s.dev.state = .run ∨ s.dev.state = .derated → s.frame.k % 1000 = 0 → s.chain.asked = [] →
    ∃ t, exec .repeatedDiscovery s = .next t ∧ t.chain.answered = [] ∧
      t.chain.asked = (allCells.filter fun c => let st := (smGet Cell.reset s.cells c).state
        c % 8 < s.cv oChainLen (c / 8) && (st == .absent || st == .bypassed || st == .retired) && (Eff.start s).locked (c / 8)) ∧
      t = { s with chain := t.chain, sent := t.sent }) ∧
  (∀ (s : State) (c : Fin 192), 4 ≤ (smGet Cell.reset s.cells c.val).miss →
    (smGet Cell.reset s.cells c.val).state ∈ [.joining, .idle, .active] → (∀ d ∈ s.chain.departs, d.1 ≠ c.val) → s.Quiet kCellLost c.val →
    exec (.cellLost c) s = .next { s with
      faults := s.noted 0x040 kCellLost c.val, chain := { s.chain with departs := s.chain.departs ++ [(c.val, 3)] } }) ∧
  (∀ (s : State) (c : Fin 192), 8 ≤ (smGet Cell.reset s.cells c.val).disagreeRun → s.Quiet kCellSuspect c.val →
    exec (.cellSuspect c) s = .next { s with
      faults := s.noted 0x040 kCellSuspect c.val
      chain := { s.chain with departs := s.chain.departs.map fun d => if d = (c.val, 4) then (c.val, 5) else d } }) ∧
  (∀ (s : State) (c : Fin 192), (smGet Cell.reset s.cells c.val).state = .joining → s.dev.state ∈ [.charge, .sync, .run, .derated] →
    exec (.joinTimeout c) s = .next (if (smGet Cell.reset s.cells c.val).joinAt + 10000000000 < s.time.up then
      { s with chain := { s.chain with departs := s.chain.departs ++ [(c.val, 9)] } } else s)) ∧
  (∀ (s : State) (c : Fin 192) (a : Nat), (smGet Cell.reset s.cells c.val).orderAt = some a →
    exec (.bypassOpenTimeout c) s = .next (if a + 100000000 ≤ s.time.up then
      { s with chain := { s.chain with departs := s.chain.departs ++ [(c.val, 9)] } } else s))

/-- A frame start on a device whose frames run, with no shadow waiting and no joining device's beacon to follow, begins frame k + 1, or
frame 0 where none ran, not yet snapshot, with DEADLINE and SAMPLE_OFFSET as committed at its start. The deadline of a running frame on
a device out of OFF and BOOT, by INPUT_DEADLINE or by OVERRUN with any unfinished slots, makes the snapshot once and keeps the frame
number; on an ACTIVE device it is the snapshot of that frame; a second deadline changes nothing. A CANARY goes out on each LOCKED peer
lane, at t_k + 200 ns on a device that is not ACTIVE. After the deadline, from t_k + DEADLINE + 100 ns and before the schedules, a
BEACON with a free instant goes out once on every LOCKED used chain of an ACTIVE device. A completed checkpoint becomes CKPT_LAST and,
taken clean, clears NONDET. -/
def Obligations.FramesComplete : Prop :=
  (∀ s : State, (Eff.start s).framesRun = true → s.frame.boundaryDue = false → (s.pair.role ≠ .joining ∨ s.time.beaconFrame = 0) →
    ∃ t, exec .frameStart s = .next t ∧ t.frame.k = (if s.frame.running = true then s.frame.k + 1 else 0) ∧ t.frame.running = true ∧
      t.frame.snapped = false ∧ t.frame.dl = s.cv oDeadline 0 ∧ t.frame.so = s.cv oSampleOffset 0) ∧
  (∀ s : State, s.frame.running = true → s.frame.snapped = false → s.frame.boundaryDue = false → s.dev.state ≠ .off → s.dev.state ≠ .boot →
    (∃ t, exec .inputDeadline s = .next t ∧ t.frame.snapped = true ∧ t.frame.k = s.frame.k ∧ t.frame.running = true ∧
      (s.pair.role = .active → t.frame.snapK = s.frame.k)) ∧
    ∀ slots : List (Fin 512), ∃ t, exec (.overrun slots) s = .next t ∧ t.frame.snapped = true ∧ t.frame.k = s.frame.k ∧
      t.frame.running = true ∧ (s.pair.role = .active → t.frame.snapK = s.frame.k)) ∧
  (∀ s : State, s.frame.snapped = true ∨ s.frame.running = false →
    exec .inputDeadline s = .next s ∧ ∀ slots, exec (.overrun slots) s = .next s) ∧
  (∀ s : State, s.frame.running = true → s.dev.state ≠ .off → s.dev.state ≠ .boot →
    ∃ t, exec .canarySend s = .next t ∧
      (∀ m < 2, s.locked (24 + m) → ∃ a, Out.canary (24 + m) a (frameBlocks (Eff.start s).canary) ∈ t.sent ∧
        (s.pair.role ≠ .active → a = s.frame.tk / 65536 + canaryC)) ∧
      t = { s with sent := t.sent }) ∧
  (∀ s : State, s.frame.running = true → s.pair.role = .active → s.frame.snapped = true → s.chain.beaconK ≠ some s.frame.k →
    s.frame.tk + ((s.frame.dl : Int) + 100) * nsq ≤ s.time.clock → s.time.clock < (Eff.start s).schedAt →
    ∃ t, exec .beaconSend s = .next t ∧
      (∀ n ∈ (Eff.start s).usedChains, s.locked n → ∃ j < (Eff.start s).usedChains.length,
        Out.wynlink n (frameBlocks ((Eff.start { s with free := s.free + j }).beacon n)) ∈ t.sent) ∧
      t = { s with
        sent := t.sent, free := s.free + (Eff.start s).usedChains.length, chain := { s.chain with beaconK := some s.frame.k } }) ∧
  (∀ s : State, s.frame.snapped = false ∨ s.chain.beaconK = some s.frame.k → exec .beaconSend s = .next s) ∧
  (∀ (s : State) (c : Ckpt), s.jrnl.slotA = some c → c.done = false →
    exec .checkpointComplete s = .next { s with
      jrnl := { s.jrnl with ckptLast := c.frame, slotA := some { c with done := true } }
      trouble := if c.clean = true ∧ bitOf s.trouble 0 = true then s.trouble - 1 else s.trouble })

/-- On an ACTIVE device, when due: CHARGE_TIMEOUT makes every IDLE cell out of tolerance depart with cause 6, and orders STOPPING with
STATE_CAUSE 3 where a used phase then has fewer than NMIN charged cells; SYNC_TIMEOUT orders STOPPING with cause 4; BRK_FAIL (its
report only recorded) orders STOPPING with cause 7; STOP_TIMEOUT trips the cascade and orders SAFE with cause 6; DERATE_CLEAR_TIMEOUT
orders RUN. DERATE_HOLD_EXPIRY clears bit 0 of DERATE_CAUSES in every role. The transitions themselves take effect at the next frame
boundary. Nothing else changes. -/
def Obligations.StateTimersComplete : Prop :=
  (∀ s : State, s.dev.state = .charge → s.pair.role = .active → s.dev.chargeAt + s.cv oChargeTimeout 0 * 1000000 ≤ s.time.up →
    ∃ t, exec .chargeTimeout s = .next t ∧
      t.chain = { s.chain with departs := s.chain.departs ++
        ((Eff.start s).idleCells.filter fun c => !(Eff.start s).linkInTol c).map fun c => (c, 6) } ∧
      t.dev = { s.dev with events := s.dev.events ++
        (if ((Eff.start s).usedPhases.any fun p => decide (((Eff.start s).idleCells.filter fun c =>
            (Eff.start s).phase c == p && (Eff.start s).linkInTol c).length < (Eff.start s).nmin p)) = true
          then [⟨.stopping, 3, .nobody⟩] else []) } ∧
      t = { s with chain := t.chain, dev := t.dev }) ∧
  (∀ s : State, s.dev.state = .sync → s.pair.role = .active →
    exec .syncTimeout s = .next (if s.dev.syncAt + s.cv oSyncTimeout 0 * 1000000 ≤ s.time.up then
      { s with dev := { s.dev with events := s.dev.events ++ [⟨.stopping, 4, .nobody⟩] } } else s)) ∧
  (∀ (s : State) (a : Nat), s.dev.brkAt = some a → s.dev.state = .sync → s.pair.role = .active → s.cv oBrkAux 0 ≠ 0xFF →
    (Eff.start s).brkClosed = false → (∀ v ∈ s.dev.events, v.cause ≠ 7) → a + s.cv oBrkTime 0 * 1000000 ≤ s.time.up → s.Quiet kBrkFail 0 →
    exec .brkFail s = .next { s with
      faults := s.noted 0x0F0 kBrkFail 0, dev := { s.dev with events := s.dev.events ++ [⟨.stopping, 7, .nobody⟩] } }) ∧
  (∀ s : State, s.dev.state = .stopping → s.pair.role = .active → s.cv oBrkAux 0 ≠ 0xFF →
    s.dev.stopAt + (s.cv oStopRamp 0 + 1000) * 1000000 ≤ s.time.up →
    ∃ t, exec .stopTimeout s = .next t ∧ s.Tripped t 5 ∧ (∀ u < 12, (smGet HubLeg.reset t.hub.legs u).safeHeld = true) ∧
      t.dev = { s.dev with
        tripRepeat := some (tripBlock 5 s.pair.epoch s.frame.k, s.time.up), events := s.dev.events ++ [⟨.safe, 6, .nobody⟩] } ∧
      t = { s with sent := t.sent, dev := t.dev, hub := t.hub, gate := t.gate }) ∧
  (∀ (s : State) (a : Nat), s.dev.derateClear = some a → s.dev.state = .derated → s.pair.role = .active → s.dev.derate = 0 →
    s.cv oDerateAuto 0 = 1 →
    exec .derateClearTimeout s = .next (if a + 1000000000 ≤ s.time.up then { s with
      dev := { s.dev with derateClear := none, events := s.dev.events ++ [⟨.run, 0, .nobody⟩] } } else s)) ∧
  (∀ s : State, bitOf s.dev.derate 0 = true →
    exec .derateHoldExpiry s = .next (if s.dev.derateSince + s.cv oDerateHold 0 * 1000000000 ≤ s.time.up then { s with
      dev := { s.dev with
        derate := s.dev.derate - 1, derateClear := if s.dev.derate = 1 then some s.time.up else s.dev.derateClear } } else s))

/-- A lane whose loops have settled goes from WAKE to a cold ACQUIRE with its equaliser preset; adaptation that is quiet, or 90 ms old,
ends with the equaliser reached, and goes on past ACQUIRE where it is continuous; with LOS and LOL clear and adaptation done or not
needed the lane goes to HUNT. There an invalid header shifts the boundary by a bit and restarts the count; the 128th valid one in a row
(an Ethernet lane: its own rule, at the position it found) makes it LOCKED, with free latencies of which the receive latency follows
the slip position. LOCKED, an invalid header is counted, and the 24th among 256 sends the lane to HUNT as lost. An amplitude below 60
mV for 100 ns, a clock more than 1,000 ppm off for 1 us, send HUNT or LOCKED to a warm ACQUIRE, their clearing is noted, and a warm
ACQUIRE of 10 ms becomes cold. LANE_DOWN is raised once after 100 ms. Reports are assumed of a class that only records, and start-up
step 7 and J1 not to wait for the lane. -/
def Obligations.LaneStatesComplete : Prop :=
  (∀ (s : State) (l : Fin 28), (smGet Lane.reset s.lanes l.val).state = .wake →
    ∃ t, exec (.laneWakeDone l) s = .next t ∧ t.lanes = smMod Lane.reset s.lanes l.val (fun x => { x with
        state := .acquire, warm := false, adaptDone := false, eq := s.cv oRxCtle l.val % 16, acquireAt := s.time.up }) ∧
      t = { s with lanes := t.lanes, faults := t.faults }) ∧
  (∀ (s : State) (l : Fin 28) (quiet : Bool) (eq : BitVec 64) (x : Lane), smGet Lane.reset s.lanes l.val = x → x.state = .acquire →
    x.warm = false → x.los = false → x.lol = false → x.adaptDone = false → s.cv oRxAdapt l.val ≠ 2 →
    (quiet = true ∨ x.acquireAt + 90000000 ≤ s.time.up) →
    exec (.adaptationEnd l quiet eq) s = .next { s with lanes := smMod Lane.reset s.lanes l.val fun x =>
      { x with
        adaptDone := true, eq := eq.toNat % 16 + field eq.toNat 8 40 * 256
        trouble := x.trouble ||| (if adaptLimit (eq.toNat % 16 + field eq.toNat 8 40 * 256) = true then 16 else 0) } }) ∧
  (∀ (s : State) (l : Fin 28) (x : Lane), smGet Lane.reset s.lanes l.val = x → x.state = .acquire → x.los = false → x.lol = false →
    (x.warm = true ∨ x.adaptDone = true ∨ s.cv oRxAdapt l.val = 2) →
    ∃ t, exec (.laneAcquireDone l) s = .next t ∧
      t.lanes = smMod Lane.reset s.lanes l.val (fun x => { x with state := .hunt, warm := false, good := 0, lockLostAt := none }) ∧
      t = { s with lanes := t.lanes, faults := t.faults }) ∧
  (∀ (s : State) (l : Fin 28) (eq : BitVec 64) (quiet : Bool) (x : Lane), smGet Lane.reset s.lanes l.val = x →
    (x.state = .hunt ∨ x.state = .locked) → x.adaptDone = true → s.cv oRxAdapt l.val = 0 →
    exec (.adaptationEnd l quiet eq) s = .next { s with lanes := smMod Lane.reset s.lanes l.val fun x =>
      { x with
        adaptDone := true, eq := eq.toNat % 16 + field eq.toNat 8 40 * 256
        trouble := x.trouble ||| (if adaptLimit (eq.toNat % 16 + field eq.toNat 8 40 * 256) = true then 16 else 0) } }) ∧
  (∀ (s : State) (l : Fin 28) (hs : List (BitVec 2)) (p : Fin 66) (x : Lane) (slip : Nat), smGet Lane.reset s.lanes l.val = x →
    x.state = .hunt → x.good < 128 → (∀ h ∈ hs, h = 1 ∨ h = 2) → (128 ≤ x.good + hs.length ∨ 26 ≤ l.val) →
    slip = (if l.val < 26 then x.slip else p.val) → s.dev.state ≠ .discover → s.pair.role ≠ .joining →
    ∃ t base, exec (.blockLock l hs p) s = .next t ∧ base = x.rxBase.getD ((Config.freeWord (s.free + 1)).toNat % 43698) ∧
      smGet Lane.reset t.lanes l.val = { x with
        state := .locked, good := 0, window := 0, windowBad := 0, rx := none, downRaised := false, lockLostAt := none
        txLat := (Config.freeWord s.free).toNat % 40001, rxBase := some base, slip := slip, rxLat := base + (3200 * slip + 16) / 33 } ∧
      t = { s with lanes := t.lanes, faults := t.faults, free := s.free + 2 }) ∧
  (∀ (s : State) (l : Fin 28) (h : BitVec 2) (p : Fin 66) (x : Lane), smGet Lane.reset s.lanes l.val = x → x.state = .hunt →
    l.val < 26 → x.good < 127 →
    exec (.blockLock l [h] p) s = .next { s with lanes := smMod Lane.reset s.lanes l.val fun x =>
      if h = 1 ∨ h = 2 then { x with good := x.good + 1 } else { x with good := 0, slip := (x.slip + 1) % 66 } }) ∧
  (∀ (s : State) (l : Fin 28) (b : Block) (x : Lane) (bad n : Nat), smGet Lane.reset s.lanes l.val = x → x.state = .locked → l.val < 26 →
    x.rx = none → bad = (if b.sync = 1 ∨ b.sync = 2 then 0 else 1) → n = x.windowBad + bad - (if x.window.testBit 255 = true then 1 else 0) →
    (bad = 0 ∨ n < 24 → ∃ t y, exec (.lockLoss l [b]) s = .next t ∧ smGet Lane.reset t.lanes l.val = y ∧ y.state = .locked ∧
      y.windowBad = n ∧ y.window = (2 * x.window + bad) % 2 ^ 256 ∧ y.lockLosses = x.lockLosses ∧
      (bad = 0 → y.errBlocks = x.errBlocks) ∧ (bad = 1 → y.errBlocks = (x.errBlocks + 1) % 2 ^ 32) ∧ t = { s with lanes := t.lanes }) ∧
    (bad = 1 → 24 ≤ n → s.Quiet kLaneLost l.val → (Eff.start s).laneDropped l.val = false →
      ∃ t y, exec (.lockLoss l [b]) s = .next t ∧ smGet Lane.reset t.lanes l.val = y ∧ y.state = .hunt ∧ bitOf y.trouble 2 = true ∧
        y.errBlocks = (x.errBlocks + 1) % 2 ^ 32 ∧ y.lockLosses = min (x.lockLosses + 1) 65535 ∧ y.downSince = s.time.up ∧
        t = { s with lanes := t.lanes, faults := t.faults })) ∧
  (∀ (s : State) (l : Fin 28) (x : Lane), smGet Lane.reset s.lanes l.val = x → x.state = .locked → 26 ≤ l.val →
    s.Quiet kLaneLost l.val → (Eff.start s).laneDropped l.val = false →
    ∃ t y, exec (.lockLoss l []) s = .next t ∧ smGet Lane.reset t.lanes l.val = y ∧ y.state = .hunt ∧ bitOf y.trouble 2 = true ∧
      y.lockLosses = min (x.lockLosses + 1) 65535 ∧ t = { s with lanes := t.lanes, faults := t.faults }) ∧
  (∀ (s : State) (l : Fin 28) (mv ppm ns : Nat) (out : Bool) (x : Lane) (c : Instr), smGet Lane.reset s.lanes l.val = x →
    x.state ≠ .off → (c = .losAssert l mv ns ∧ mv < 60 ∧ 100 ≤ ns ∨ c = .lolAssert l ppm ns out ∧ (1000 < ppm ∨ out = true) ∧ 1000 ≤ ns) →
    (x.state = .locked → s.Quiet kLaneLost l.val ∧ (Eff.start s).laneDropped l.val = false) →
    ∃ t y, exec c s = .next t ∧ smGet Lane.reset t.lanes l.val = y ∧ y.lol = true ∧ (c = .losAssert l mv ns → y.los = true) ∧
      (x.state = .hunt ∨ x.state = .locked → y.state = .acquire ∧ y.warm = true ∧ y.acquireAt = s.time.up) ∧
      (x.state = .wake ∨ x.state = .acquire → y.state = x.state) ∧
      (x.state = .locked → y.lockLosses = min (x.lockLosses + 1) 65535) ∧ t = { s with lanes := t.lanes, faults := t.faults }) ∧
  (∀ (s : State) (l : Fin 28) (mv ns ppm : Nat) (out : Bool), (smGet Lane.reset s.lanes l.val).state = .off →
    smWf Lane.reset s.lanes = true →
    (mv < 60 → 100 ≤ ns → ∃ t y, exec (.losAssert l mv ns) s = .next t ∧ smGet Lane.reset t.lanes l.val = y ∧ y.los = true ∧ y.lol = true ∧
      y.trouble = (smGet Lane.reset s.lanes l.val).trouble ∧ y.state = .off) ∧
    exec (.lolAssert l ppm ns out) s = .next s ∧ exec (.lolClear l ppm ns) s = .next s) ∧
  (∀ (s : State) (l : Fin 28) (mv ppm ns : Nat), (smGet Lane.reset s.lanes l.val).state ≠ .off →
    (120 < mv → 1000 ≤ ns → exec (.losClear l mv ns) s = .next { s with
      lanes := smMod Lane.reset s.lanes l.val fun x => { x with los := false } }) ∧
    ((smGet Lane.reset s.lanes l.val).los = false → ppm ≤ 300 → 10000 ≤ ns → exec (.lolClear l ppm ns) s = .next { s with
      lanes := smMod Lane.reset s.lanes l.val fun x => { x with lol := false } })) ∧
  (∀ (s : State) (l : Fin 28) (x : Lane), smGet Lane.reset s.lanes l.val = x → x.state = .acquire → x.warm = true →
    exec (.warmAcquireTimeout l) s = .next (if x.acquireAt + 10000000 ≤ s.time.up then { s with
      lanes := smMod Lane.reset s.lanes l.val fun x => { x with
        state := .acquire, warm := false, adaptDone := false, eq := s.cv oRxCtle l.val % 16, acquireAt := s.time.up } } else s)) ∧
  (∀ (s : State) (l : Fin 28) (x : Lane), smGet Lane.reset s.lanes l.val = x → x.enabled = true → x.state ≠ .locked → x.downRaised = false →
    x.downSince + 100000000 ≤ s.time.up → s.Quiet kLaneDown l.val → s.dev.state ≠ .discover → s.pair.role ≠ .joining →
    exec (.laneDown l) s = .next { s with
      lanes := smMod Lane.reset s.lanes l.val fun x => { x with downRaised := true }, faults := s.noted (0x020 + l.val) kLaneDown l.val })

/-- A LANE_STOP that passes with right 2 on a lane that is not stopped, on whose chain every JOINING, IDLE or ACTIVE cell has reached the
other device in the last 8 frames (for a peer lane: with the other peer lane LOCKED; Ethernet lanes freely), is answered RESULT 0 with
frame k + 1 and orders the stop; on a stopped lane RESULT 1; where the cells or the other peer lane need it RESULT 2. LANE_START on a
stopped lane that is enabled by LANE_MODE is answered RESULT 0 and orders the start, else RESULT 1. The order takes the lane to OFF, or
to WAKE, at the next frame start. Nothing else changes. -/
def Obligations.LaneActionsComplete : Prop :=
  (∀ (s : State) (q : Req) (b : Byte) (x : Lane) (lvl sid : Nat), s.Invoked q oLaneStop [b] 2 false lvl sid → b.toNat < 28 →
    smGet Lane.reset s.lanes b.toNat = x →
    (x.stopReq.getD x.stopped = false →
      (b.toNat < 24 → (Eff.start s).chainNeedsLane b.toNat = false) → (b.toNat = 24 ∨ b.toNat = 25 → s.locked (49 - b.toNat)) →
      ∃ t, exec (.laneStop q [b]) s = .next t ∧ t.Replied q 3 (ansResultFrame 0 (s.frame.k + 1)) ∧
        t = { s with sess := t.sess, sent := t.sent, lanes := smMod Lane.reset s.lanes b.toNat fun x => { x with stopReq := some true } }) ∧
    (x.stopReq.getD x.stopped = true →
      ∃ t, exec (.laneStop q [b]) s = .next t ∧ t.Replied q 3 (ansResultFrame 1 0) ∧ t = { s with sess := t.sess, sent := t.sent }) ∧
    (x.stopReq.getD x.stopped = false → (b.toNat < 24 ∧ (Eff.start s).chainNeedsLane b.toNat = true ∨
        (b.toNat = 24 ∨ b.toNat = 25) ∧ ¬ s.locked (49 - b.toNat)) →
      ∃ t, exec (.laneStop q [b]) s = .next t ∧ t.Replied q 3 (ansResultFrame 2 0) ∧ t = { s with sess := t.sess, sent := t.sent })) ∧
  (∀ (s : State) (q : Req) (b : Byte) (x : Lane) (lvl sid : Nat), s.Invoked q oLaneStart [b] 2 false lvl sid → b.toNat < 28 →
    smGet Lane.reset s.lanes b.toNat = x →
    (x.stopReq.getD x.stopped = true → s.cv oLaneMode b.toNat ≠ 1 →
      ∃ t, exec (.laneStart q [b]) s = .next t ∧ t.Replied q 3 (ansResultFrame 0 (s.frame.k + 1)) ∧
        t = { s with sess := t.sess, sent := t.sent, lanes := smMod Lane.reset s.lanes b.toNat fun x => { x with stopReq := some false } }) ∧
    (x.stopReq.getD x.stopped = false ∨ s.cv oLaneMode b.toNat = 1 →
      ∃ t, exec (.laneStart q [b]) s = .next t ∧ t.Replied q 3 (ansResultFrame 1 0) ∧ t = { s with sess := t.sess, sent := t.sent })) ∧
  (∀ (s : State) (l : Nat) (x : Lane), smGet Lane.reset s.lanes l = x → x.stopReq = some true →
    (smGet Lane.reset ((Eff.start s).laneFrame l).st.lanes l).state = .off) ∧
  (∀ (s : State) (l : Nat) (x : Lane), smGet Lane.reset s.lanes l = x → x.stopReq = some false → x.state = .off →
    smWf Lane.reset s.lanes = true → s.cv oLaneMode l = 0 →
    (24 ≤ l ∨ 0 < s.cv oChainLen l) → (smGet Lane.reset ((Eff.start s).laneFrame l).st.lanes l).state = .wake)

/-- A MEASURE of the running frame whose record passes its RCRC (its FCRC may fail, which is counted), before its deadline, without faults,
on an ACTIVE device without a digest of the cell, leaves the cell's record, its ACC_EPOCH and HOPS, its battery segment where that is
intact, and marks the cell direct. An answer to ASSIGN, or one with a bad STATUS, only ends its command; an answer to DISCOVER for an
installed position with no earlier terminal records TERM_ID and interface version and gives the terminal its cell; the first ECHO of a
hop is kept with the delay of R503. A SCHEDULE frame of the peer whose header passes is noted as its path over the chains; a failed
FCRC is counted. A JOINING device takes t_k from a BEACON. A TRIP block on a peer lane goes out on every LOCKED chain port. The blocks
in which a sender sends a frame are heard as exactly that frame, on a lane that has lost none. -/
def Obligations.TerminalFramesComplete : Prop :=
  (∀ (s : State) (n : Fin 24) (bl : List Block) (bs : List Byte) (c : Nat) (x : Cell), s.locked n.val → (s.hears n.val bl).2 = [.frame bs] →
    wynLen n.val bs = true → measFrame bs = true → rcrcOk bs = true → octet (measRec bs) 0 = c → c < 192 → fieldLe (measRec bs) 4 4 = s.frame.k % 2 ^ 32 → s.frame.snapped = false →
    smGet Cell.reset s.cells c = x → x.meas = none → x.dig = none → (x.state ≠ .absent ∨ fieldLe (measRec bs) 10 2 ≠ 0xFFFF) →
    fieldLe (measRec bs) 84 2 = 0 → fieldLe (measRec bs) 86 2 = 0 → fieldLe (measRec bs) 88 2 = 0 →
    s.pair.role = .active → (fieldLe (measRec bs) 8 2 = 0xFFFF ∨ newerThan (fieldLe (measRec bs) 8 2) s.pair.epoch = false) →
    ∃ t y, exec (.measureReceive n bl) s = .next t ∧ smGet Cell.reset t.cells c = y ∧ y.meas = some ⟨measRec bs, false⟩ ∧ y.direct = true ∧
      y.accEpoch = fieldLe (measRec bs) 8 2 ∧ y.hops = fieldLe (measRec bs) 10 2 ∧ y.state = x.state ∧
      (scrcOk bs = true → x.batt = none → y.batt = some (battSeg bs)) ∧ (fcrcOk bs = true → t.lanes = (s.took n.val bl).lanes) ∧
      t = { s with lanes := t.lanes, cells := t.cells, chain := t.chain }) ∧
  (∀ (s : State) (n : Fin 24) (bl : List Block) (bs : List Byte) (rt : Nat) (x : ChainCmd), s.Intact n.val 0x12 bl bs →
    s.chain.cmds.find? (fun x => x.chain == n.val && x.tag == octet bs 6 && x.cmd == octet bs 4 && (x.hop == octet bs 5 || x.hop == 255)) = some x →
    x.hop ≠ 255 →
    (octet bs 7 ≠ 0 ∨ octet bs 4 = 2 → exec (.responseReceive n bl rt) s = .next { s with
      lanes := (s.took n.val bl).lanes
      chain := { s.chain with cmds := s.chain.cmds.filter (· != x) } }) ∧
    (octet bs 7 = 0 → octet bs 4 = 1 → fieldLe bs 8 2 = 12 → ∀ p, (Eff.start s).hopPos n.val (octet bs 5) = some p →
      p < s.cv oChainLen n.val → (Eff.start s).installed (8 * n.val + p) = true →
      (smGet Cell.reset s.cells (8 * n.val + p)).lastTerm = 0 → fieldLe bs 10 8 ≠ 0 →
      ∃ t y, exec (.responseReceive n bl rt) s = .next t ∧ smGet Cell.reset t.cells (8 * n.val + p) = y ∧ y.termId = fieldLe bs 10 8 ∧
        y.ifver = fieldLe bs 18 2 ∧ (n.val, octet bs 5, fieldLe bs 10 8) ∈ t.chain.terms ∧ 8 * n.val + p ∈ t.chain.answered ∧
        t = { s with lanes := (s.took n.val bl).lanes, cells := t.cells, chain := t.chain, sent := t.sent }) ∧
    (octet bs 7 = 0 → octet bs 4 = 3 → fieldLe bs 8 2 = 4 → octet bs 5 < 8 → ∀ h, smGet Hop.reset s.time.hops (8 * n.val + octet bs 5) = h →
      h.rts = [] → h.measured = 0 → h.samples = [] →
      exec (.responseReceive n bl rt) s = .next { s with
        lanes := (s.took n.val bl).lanes
        chain := { s.chain with cmds := s.chain.cmds.filter (· != x) }
        time := { s.time with hops := smSet Hop.reset s.time.hops (8 * n.val + octet bs 5) { h with
          rts := [(rt : Int)], measured := 1
          samples := [(125 * ((rt : Int) - 256 * fieldLe bs 10 4) + 16384 * (Eff.start s).hopAsym n.val (octet bs 5) + 32000) / 64000] } } })) ∧
  (∀ (s : State) (n : Fin 24) (bl : List Block) (bs : List Byte), s.locked n.val → (s.hears n.val bl).2 = [.frame bs] →
    wynLen n.val bs = true → octet bs 0 = 1 → 28 ≤ bs.length →
    (fieldLe bs 20 4 ≠ (crc32c (bs.take 20)).toNat →
      (fcrcOk bs = true → exec (.scheduleReceive n bl) s = .next { s with lanes := (s.took n.val bl).lanes }) ∧
      (fcrcOk bs = false → exec (.scheduleReceive n bl) s = .next { s with
        lanes := smMod Lane.reset (s.took n.val bl).lanes n.val fun x => { x with frameErr := (x.frameErr + 1) % 2 ^ 32 } })) ∧
    (fieldLe bs 20 4 = (crc32c (bs.take 20)).toNat → s.pair.role ≠ .active → bitOf (octet bs 1) 4 = false → s.pair.peerSerial ≠ 0 →
      fieldLe bs 12 4 = s.pair.peerSerial % 2 ^ 32 → s.frame.k % 65536 = fieldLe bs 18 2 →
      ∃ t, exec (.scheduleReceive n bl) s = .next t ∧ (fcrcOk bs = true → t.lanes = (s.took n.val bl).lanes) ∧ t = { s with
        lanes := t.lanes
        pair := { s.pair with
          lastC := (s.frame.k :: s.pair.lastC).take 4, peerWord := fieldLe bs 16 2 + s.pair.peerWord / 65536 * 65536 } })) ∧
  (∀ (s : State) (n : Fin 24) (bl : List Block) (bs : List Byte), s.Intact n.val 0x02 bl bs → bs.length = 76 →
    (s.pair.role = .joining → exec (.beaconReceive n bl) s = .next { s with
      lanes := (s.took n.val bl).lanes
      time := { s.time with
        beaconFrame := fieldLe bs 4 8, beaconTk := (untime96 (bs.drop 24) - (fieldLe bs 36 4 : Nat) * 65536) * 65536 } }) ∧
    (s.pair.role ≠ .joining → exec (.beaconReceive n bl) s = .next { s with lanes := (s.took n.val bl).lanes })) ∧
  (∀ (s : State) (m : Fin 2) (b : Block), b.sync = 2 → octet (blockOctets b) 0 = 0xAA → octet (blockOctets b) 6 = 0x5A →
    octet (blockOctets b) 7 = 0xA5 → s.locked (24 + m.val) →
    ∃ t, exec (.tripBlockReceive m b) s = .next t ∧ (∀ l < 24, s.locked l → Out.trip l b ∈ t.sent) ∧ t = { s with sent := t.sent }) ∧
  (∀ (x : Lane) (sec : Nat) (bs : List Byte), x.state = .locked → x.rx = none → x.window = 0 → x.windowBad = 0 → bs ≠ [] →
    x.takes false sec (frameBlocks bs) = (x, [.frame bs]))

/-- The first copy of an intact CANARY of a STANDBY strapped differently makes an ACTIVE device know that standby, with its status word,
serial and instant. AVAIL of a frame whose shadow does not wait is kept with its relay requests. DIGEST values are kept for the records
not yet there, and counted late after the deadline. A relayed SCHEDULE goes out on its chain, marked RELAYED with its header checksum
anew; a relayed MEASURE is taken as a direct one but for its mark. A fill request is answered from the snapshot, or changes the
standing list; a fill completes the waiting snapshot. -/
def Obligations.PeerFramesComplete : Prop :=
  (∀ (s : State) (m : Fin 2) (bl : List Block) (bs : List Byte) (at1 : Int) (f word : Nat), s.Intact (24 + m.val) 0x21 bl bs → bs.length = 32 → s.pair.role = .active →
    fieldLe bs 4 8 = f → fieldLe bs 24 4 = word → word % 16 = 1 → bitOf word 11 = !s.pair.strapB →
    (if m.val = 0 then f ∉ s.pair.lastP1 else f ∉ s.pair.lastP0) →
    ∃ t, exec (.canaryReceive m bl at1) s = .next t ∧ t.pair.standby = true ∧ t.pair.peerMiss = 0 ∧ t.pair.peerWord = word ∧
      t.pair.peerSerial = fieldLe bs 12 8 ∧ t.pair.peerAt = s.time.up ∧ f ∈ (if m.val = 0 then t.pair.lastP0 else t.pair.lastP1) ∧
      t = { s with lanes := (s.took (24 + m.val) bl).lanes, pair := t.pair, time := t.time, dev := { s.dev with conds := s.dev.conds.filter (· != (kRoleConflict, 1)) } }) ∧
  (∀ (s : State) (m : Fin 2) (bl : List Block) (bs : List Byte), s.Intact (24 + m.val) 0x22 bl bs → bs.length = 104 → s.pair.role ≠ .active →
    (∀ a, s.pair.avail = some a → a.1 ≠ fieldLe bs 4 8) → (Eff.start s).shadowDue = false →
    exec (.availReceive m bl) s = .next { s with
      lanes := (s.took (24 + m.val) bl).lanes
      pair := { s.pair with avail := some (fieldLe bs 4 8, (bs.drop 12).take 64) }
      chain := { s.chain with
        relayReq := octetBits ((bs.drop 76).take 24)
        peerNow := s.chain.peerNow ++ (octetBits ((bs.drop 12).take 64)).filter fun c =>
          decide (c < 192) && !(octetBits ((bs.drop 76).take 24)).contains c } }) ∧
  (∀ (s : State) (m : Fin 2) (bl : List Block) (bs : List Byte) (n : Nat) (valid : List Nat), s.Intact (24 + m.val) 0x23 bl bs → bs.length = 80 →
    s.pair.role = .active → octet bs 4 = n → n < 24 → valid = (List.range 8).filter (bitOf (octet bs 5)) →
    (∀ p < 8, p ∉ valid → fieldLe bs (16 + 8 * p) 4 = 0) →
    (s.frame.snapped = true → exec (.digestReceive m bl) s = .next { s with lanes := (s.took (24 + m.val) bl).lanes, chain := { s.chain with
      peerNow := s.chain.peerNow ++ valid.map (8 * n + ·), digestLate := (s.chain.digestLate + valid.length) % 2 ^ 32 } }) ∧
    (s.frame.snapped = false → fieldLe bs 8 4 = s.frame.k % 2 ^ 32 →
      (∀ p < 8, (smGet Cell.reset s.cells (8 * n + p)).meas = none ∧ (smGet Cell.reset s.cells (8 * n + p)).batt = none) →
      ∃ t, exec (.digestReceive m bl) s = .next t ∧
        (∀ p ∈ valid, (smGet Cell.reset t.cells (8 * n + p)).dig = some (some (fieldLe bs (12 + 8 * p) 4), fieldLe bs (16 + 8 * p) 4)) ∧
        t = { s with lanes := (s.took (24 + m.val) bl).lanes, chain := { s.chain with peerNow := s.chain.peerNow ++ valid.map (8 * n + ·) }, cells := t.cells })) ∧
  (∀ (s : State) (m : Fin 2) (bl : List Block) (bs hd f : List Byte), s.Intact (24 + m.val) 0x24 bl bs → 36 ≤ bs.length → octet bs 4 < 24 →
    (s.pair.role = .standby ∨ s.pair.role = .joining) → s.locked (octet bs 4) →
    hd = [0x01#8] ++ le 1 (17 + (Eff.start s).devb) ++ le 2 (28 + (bs.length - 36)) ++ (bs.drop 12).take 16 →
    f = hd ++ le 4 (crc32c hd).toNat ++ (bs.drop 32).take (bs.length - 36) →
    exec (.relayDnReceive m bl) s = .next { s with lanes := (s.took (24 + m.val) bl).lanes, sent := .wynlink (octet bs 4) (frameBlocks (f ++ le 4 (crc32c f).toNat)) :: s.sent }) ∧
  (∀ (s : State) (m : Fin 2) (bl : List Block) (out bs : List Byte) (c : Nat) (x : Cell), s.locked (24 + m.val) →
    (s.hears (24 + m.val) bl).2 = [.frame out] → wynLen (24 + m.val) out = true → octet out 0 = 0x25 →
    bs = (out.drop 8).take (out.length - 12) → s.pair.role = .active → measFrame bs = true → fieldLe bs 2 2 = bs.length →
    rcrcOk bs = true → octet (measRec bs) 0 = c → c < 192 → fieldLe (measRec bs) 4 4 = s.frame.k % 2 ^ 32 →
    s.frame.snapped = false → smGet Cell.reset s.cells c = x → x.meas = none → x.dig = none →
    (x.state ≠ .absent ∨ fieldLe (measRec bs) 10 2 ≠ 0xFFFF) → fieldLe (measRec bs) 84 2 = 0 → fieldLe (measRec bs) 86 2 = 0 →
    fieldLe (measRec bs) 88 2 = 0 → (fieldLe (measRec bs) 8 2 = 0xFFFF ∨ newerThan (fieldLe (measRec bs) 8 2) s.pair.epoch = false) →
    ∃ t y, exec (.relayUpReceive m bl) s = .next t ∧ smGet Cell.reset t.cells c = y ∧ y.meas = some ⟨measRec bs, true⟩ ∧
      y.direct = x.direct ∧ y.state = x.state ∧ (scrcOk bs = true → x.batt = none → y.batt = some (battSeg bs)) ∧
      (fcrcOk out = true → t.lanes = (s.took (24 + m.val) bl).lanes) ∧ t = { s with lanes := t.lanes, cells := t.cells }) ∧
  (∀ (s : State) (m : Fin 2) (bl : List Block) (bs : List Byte) (cells : List Nat), s.Intact (24 + m.val) 0x26 bl bs → bs.length = 44 → s.pair.role = .active →
    cells = (octetBits ((bs.drop 16).take 24)).filter (· < 192) →
    (octet bs 12 = 1 → exec (.fillReqReceive m bl) s = .next { s with
      lanes := (s.took (24 + m.val) bl).lanes
      pair := { s.pair with peerStanding := s.pair.peerStanding ++ cells.filter fun c => !s.pair.peerStanding.contains c } }) ∧
    (octet bs 12 = 2 → exec (.fillReqReceive m bl) s = .next { s with
      lanes := (s.took (24 + m.val) bl).lanes
      pair := { s.pair with peerStanding := s.pair.peerStanding.filter fun c => !cells.contains c } }) ∧
    (octet bs 12 = 0 → s.frame.snapK = fieldLe bs 4 8 → ∃ t, exec (.fillReqReceive m bl) s = .next t ∧
      (∀ c ∈ cells, ∀ r, smGet none s.frame.snapMeas c = some r → s.locked (24 + c / 8 % 2) →
        Out.wynlink (24 + c / 8 % 2) (frameBlocks (wynFrame 0x27 0 (le 1 (c / 8) ++ zeros 3 ++ wynFrame 0x11 0 (r.octets ++
          (smGet none s.frame.snapBatt c).getD (zeros 4 ++ le 4 (crc32c (zeros 4)).toNat))))) ∈ t.sent) ∧
      t = { s with lanes := (s.took (24 + m.val) bl).lanes, sent := t.sent })) ∧
  (∀ (s : State) (m : Fin 2) (bl : List Block) (out bs : List Byte) (c : Nat), s.Intact (24 + m.val) 0x27 bl out → bs = (out.drop 8).take (out.length - 12) →
    measFrame bs = true → fieldLe bs 2 2 = bs.length → (Eff.start s).shadowDue = true → rcrcOk bs = true → octet (measRec bs) 0 = c → c < 192 →
    fieldLe (measRec bs) 4 4 = s.frame.snapK % 2 ^ 32 → smGet none s.frame.snapMeas c = none →
    exec (.fillReceive m bl) s = .next { s with
      lanes := (s.took (24 + m.val) bl).lanes
      frame := { s.frame with
        snapMeas := smSet none s.frame.snapMeas c (some ⟨measRec bs, true⟩)
        snapBatt := if scrcOk bs = true ∧ smGet none s.frame.snapBatt c = none then
          smSet none s.frame.snapBatt c (some (battSeg bs)) else s.frame.snapBatt }
      pair := { s.pair with onceWait := s.pair.onceWait.filter (· != c) } })

/-- An OUTDIG for a shadow still to come is kept; one of the last shadow that agrees in all three digests, in a complete frame without
overrun, counts a clean frame. CONV values stand in for the device's own at their points and are journalled. A first checkpoint segment
that does not complete the image is kept. Once AVAIL and fills are there, and at the limit without them, the waiting shadow runs with
the active device's vector where AVAIL has come, else its own, and only the vector, its mark and the waiting boundary of the frame
counter change; with no shadow waiting nothing changes. A resynchronisation that has reached the live frame ends at the next frame
start. -/
def Obligations.ShadowFramesComplete : Prop :=
  (∀ (s : State) (m : Fin 2) (bl : List Block) (bs : List Byte), s.Intact (24 + m.val) 0x28 bl bs → bs.length = 96 → s.pair.role = .standby →
    (s.pair.shadowDone ≠ fieldLe bs 4 8 + 1 → exec (.outdigReceive m bl) s = .next { s with lanes := (s.took (24 + m.val) bl).lanes, pair := { s.pair with outdig := some bs } }) ∧
    (s.pair.shadowDone = fieldLe bs 4 8 + 1 → bitOf (octet bs 24) 0 = false → s.pair.incomplete = false →
      ((Eff.start s).digestsOf (fieldLe bs 4 8)).sched = fieldLe bs 12 4 → ((Eff.start s).digestsOf (fieldLe bs 4 8)).point = fieldLe bs 16 4 →
      ((Eff.start s).digestsOf (fieldLe bs 4 8)).hub = fieldLe bs 20 4 →
      exec (.outdigReceive m bl) s = .next { s with
        lanes := (s.took (24 + m.val) bl).lanes
        pair := { s.pair with outdig := none, cleanRun := (s.pair.cleanRun + 1) % 2 ^ 32 } })) ∧
  (∀ (s : State) (m : Fin 2) (bl : List Block) (bs : List Byte) (n : Nat), s.Intact (24 + m.val) 0x29 bl bs → s.pair.role ≠ .active → fieldLe bs 14 2 = n → 1 ≤ n →
    n ≤ 100 → bs.length = 24 + 12 * n → fieldLe bs 16 4 = 0 →
    ∃ t, exec (.convFrameReceive m bl) s = .next t ∧
      t.pts = (List.range n).foldl (fun p i => if 0x1000 ≤ fieldLe bs (20 + 12 * i) 4 ∧ fieldLe bs (20 + 12 * i) 4 < 0x1050 then
        smSet pointReset p (fieldLe bs (20 + 12 * i) 4) (BitVec.ofNat 64 (fieldLe bs (24 + 12 * i) 8)) else p) s.pts ∧
      (s.frame.running = false → t.jrnl = s.jrnl) ∧
      (s.frame.running = true → t.jrnl = { s.jrnl with items := s.jrnl.items ++ [if fieldLe bs 12 2 = 0xFFFF then
        ⟨3, 0, (bs.drop 20).take (12 * n)⟩ else ⟨4, fieldLe bs 12 2 % 256, le 4 0 ++ (bs.drop 20).take (12 * n)⟩] }) ∧
      t = { s with lanes := (s.took (24 + m.val) bl).lanes, pts := t.pts, jrnl := t.jrnl }) ∧
  (∀ (s : State) (m : Fin 2) (bl : List Block) (bs : List Byte), s.Intact (24 + m.val) 0x2B bl bs → s.pair.role = .joining → s.pair.joinStep = 4 →
    s.pair.ckpt = none → 28 ≤ bs.length → s.pair.frFrame < fieldLe bs 4 8 → bs.length - 28 < fieldLe bs 16 4 →
    exec (.ckptReceive m bl) s = .next { s with lanes := (s.took (24 + m.val) bl).lanes, pair := { s.pair with ckpt := (some ⟨fieldLe bs 4 8, fieldLe bs 16 4, fieldLe bs 20 4, [(fieldLe bs 12 4, (bs.drop 24).take (bs.length - 28))]⟩) } }) ∧
  (∀ s : State, (Eff.start s).shadowDue = true → (∃ k bs, s.pair.avail = some (k, bs) ∧ k = s.frame.snapK) → s.pair.onceWait = [] →
    ∃ t vec, exec .shadowStart s = .next t ∧ (Eff.start s).availOf s.frame.snapK = some vec ∧
      t.frame = { s.frame with vector := vec, peerVec := true, boundaryDue := false }) ∧
  (∀ s : State, (Eff.start s).shadowDue = true → s.frame.boundaryDue = true →
    ∃ t, exec .shadowLimit s = .next t ∧
      t.frame = { s.frame with
        vector := ((Eff.start s).availOf s.frame.snapK).getD s.frame.vector
        peerVec := ((Eff.start s).availOf s.frame.snapK).isSome, boundaryDue := false }) ∧
  (∀ s : State, (Eff.start s).shadowDue = false → exec .shadowStart s = .next s ∧ exec .shadowLimit s = .next s) ∧
  (∀ s : State, s.pair.role = .standby → s.pair.resync = true → s.pair.image.isSome = true →
    exec .resyncDone s = .next { s with pair := { s.pair with resyncNext := true } })

/-- CONFIG during J1 keeps the set of its domain; COMMIT on a STANDBY makes the set wait for its boundary, confirmed (LINK, SCHED, LOOP,
CASC, ASSAY, GATE, FAULT, TIME, PAIR); ACTION for a coming frame waits for it; ACK ends a message that waits for nothing more,
acknowledges a waiting commit of those domains, or answers a waiting action; LATCH latches its leg, or the stage, unless a later
clearing toggle was seen (its report names a free gate of the leg, assumption 122, and is assumed of a class that only records); METER
keeps the signed record and ends its close; REPLAY_RESULT, HANDOVER, CKPT_REQ set what they name; RETIRING only counts as received.
CONTROL_REPEAT sends every unacknowledged message of a frame before once more. Nothing else changes but the known CSEQ and the
acknowledgement. -/
def Obligations.ControlMessagesComplete : Prop :=
  (∀ (s : State) (m : Fin 2) (bl : List Block) (bs p : List Byte) (fr : Nat), s.Whole m 1 bl bs fr p → s.pair.role = .joining → s.pair.joinStep = 1 →
    1 ≤ octet p 0 → octet p 0 < 15 →
    ∃ t, exec (.controlConfig m bl) s = .next t ∧
      t.doms = smMod Domain.reset s.doms (octet p 0) (fun x => { x with
        pend := some ⟨imageValues (p.drop 4), .nobody, true, s.frame.k, 0, 0⟩ }) ∧
      t.pair = { s.pair.took bs true with joinConfig := (octet p 0 :: s.pair.joinConfig).dedup } ∧
      t = { s with lanes := (s.took (24 + m.val) bl).lanes, pair := t.pair, doms := t.doms, sent := t.sent }) ∧
  (∀ (s : State) (m : Fin 2) (bl : List Block) (bs p : List Byte) (fr : Nat), s.Whole m 2 bl bs fr p → s.pair.role = .standby →
    octet p 0 ∈ [dLink, dSched, dLoop, dCasc, dAssay, dGate, dFault, dTime, dPair] →
    ∃ t, exec (.controlCommit m bl) s = .next t ∧ (smGet Domain.reset t.doms (octet p 0)).pend = some ⟨imageValues (p.drop 12), .nobody, false,
        s.frame.k, fieldLe p 4 8, s.frame.tk + 2 * s.cv oFramePeriod 0 * nsq⟩ ∧
      t = { s with lanes := (s.took (24 + m.val) bl).lanes, pair := s.pair.took bs true, doms := t.doms, sent := t.sent }) ∧
  (∀ (s : State) (m : Fin 2) (bl : List Block) (bs p : List Byte) (fr : Nat), s.Whole m 3 bl bs fr p → s.pair.role = .standby → fieldLe p 0 3 ≠ selfReplay →
    fieldLe p 0 3 ≠ oTimedCancel → s.frame.k < fr →
    ∃ t, exec (.controlAction m bl) s = .next t ∧
      t.pair = { s.pair.took bs true with
        timed := s.pair.timed ++ [(fr, fieldLe p 0 3, (p.drop 6).take (fieldLe p 4 2))] } ∧
      t = { s with lanes := (s.took (24 + m.val) bl).lanes, pair := t.pair, sent := t.sent }) ∧
  (∀ (s : State) (m : Fin 2) (bl : List Block) (bs p : List Byte) (fr : Nat) (x : CtrlMsg), s.Whole m 4 bl bs fr p →
    s.pair.outbox.find? (·.cseq == fieldLe p 0 4) = some x →
    (x.type ≠ 2 → x.type ≠ 3 → exec (.controlAck m bl) s = .next { s with
      lanes := (s.took (24 + m.val) bl).lanes
      pair := { s.pair.took bs false with outbox := s.pair.outbox.filter (·.cseq != fieldLe p 0 4) } }) ∧
    (∀ w q, x.type = 3 → s.pair.waitActs.find? (·.cseq == fieldLe p 0 4) = some w → w.ret = .req q → w.obj ≠ oTimedAction →
      ∃ t, exec (.controlAck m bl) s = .next t ∧ t.Replied q 3 (if w.result = true then ansResultFrame 0 w.frame else ansOk) ∧
        t.pair = { s.pair.took bs false with
          outbox := s.pair.outbox.filter (·.cseq != fieldLe p 0 4), waitActs := s.pair.waitActs.filter (·.cseq != fieldLe p 0 4)
          timed := s.pair.timed ++ [(w.frame, w.obj, w.args)] } ∧
        t = { s with lanes := (s.took (24 + m.val) bl).lanes, pair := t.pair, sess := t.sess, sent := t.sent }) ∧
    (∀ d pc q, x.type = 2 → octet x.payload 0 = d → d ∈ [dLink, dSched, dLoop, dCasc, dAssay, dGate, dFault, dTime, dPair] →
      (smGet Domain.reset s.doms d).pend = some pc → pc.waitPeer = true → pc.answer = .req q →
      ∃ t y, exec (.controlAck m bl) s = .next t ∧ smGet Domain.reset t.doms d = y ∧
        y.pend = some { pc with waitPeer := false, answer := .nobody } ∧
        t.Replied q 3 (commitAns 0 0 d 0xFF_FFFF 0 pc.actAt (y.seq + 1)) ∧
        t = { s with lanes := (s.took (24 + m.val) bl).lanes, pair := t.pair, sess := t.sess, sent := t.sent, doms := t.doms })) ∧
  (∀ (s : State) (m : Fin 2) (bl : List Block) (bs p : List Byte) (fr u : Nat) (x : Leg), s.Whole m 5 bl bs fr p → octet p 0 = u →
    ((∃ a, s.gate.lastToggle = some a ∧ untime96 (p.drop 2) < a) →
      ∃ t, exec (.controlLatch m bl) s = .next t ∧
        t = { s with lanes := (s.took (24 + m.val) bl).lanes, pair := s.pair.took bs true, sent := t.sent }) ∧
    (u < 12 → bitOf (octet p 1) 3 = false → smGet Leg.reset s.gate.legs u = x → (bitOf (octet p 1) 0 = true ∨ bitOf (octet p 1) 1 = true) →
      (∀ a, s.gate.lastToggle = some a → a ≤ untime96 (p.drop 2)) →
      (∀ b < 2, s.Quiet kGateTrip (0x8000 + 2 * u + b) ∧ s.Quiet kGateUvlo (0x8000 + 2 * u + b)) →
      ∃ t y, exec (.controlLatch m bl) s = .next t ∧ smGet Leg.reset t.gate.legs u = y ∧
        y.trip = (x.trip || bitOf (octet p 1) 0) ∧ y.uv = (x.uv || bitOf (octet p 1) 1) ∧ y.tripAt = some (untime96 (p.drop 2)) ∧
        t = { s with
          lanes := (s.took (24 + m.val) bl).lanes, pair := s.pair.took bs true, gate := t.gate, sent := t.sent, faults := t.faults
          free := s.free + 1 }) ∧
    (u = 0xFF → (∀ a, s.gate.lastToggle = some a → a ≤ untime96 (p.drop 2)) → s.Quiet kGateEscalate 0xFFFF →
      ∃ t, exec (.controlLatch m bl) s = .next t ∧ t.gate.stage = true ∧ bitOf t.dev.derate 1 = true ∧ t = { s with
        lanes := (s.took (24 + m.val) bl).lanes, pair := s.pair.took bs true, gate := t.gate, sent := t.sent, faults := t.faults
        dev := t.dev })) ∧
  (∀ (s : State) (m : Fin 2) (bl : List Block) (bs p : List Byte) (fr n : Nat), s.Whole m 6 bl bs fr p → s.pair.role ≠ .active → p.length = 208 →
    octet p 5 = n → n < 192 → (smGet MPort.reset s.meter.ports n).recs.length < 96 →
    exec (.controlMeter m bl) s = .next { s with
      lanes := (s.took (24 + m.val) bl).lanes
      pair := s.pair.took bs false
      meter := { s.meter with
        closes := s.meter.closes.filter fun c => !(c.port == n && c.seq == fieldLe p 16 4)
        ports := smMod MPort.reset s.meter.ports n fun x => { x with recs := (fieldLe p 16 4, p, false) :: x.recs } } }) ∧
  (∀ (s : State) (m : Fin 2) (bl : List Block) (bs p : List Byte) (fr : Nat), s.Whole m 7 bl bs fr p → s.pair.replay = true → fieldLe p 0 8 = s.pair.kd →
    s.pair.ownPass = none →
    exec (.replayResult m bl) s = .next { s with lanes := (s.took (24 + m.val) bl).lanes, pair := { s.pair.took bs false with peerPass := some (octet p 8 == 0) } }) ∧
  (∀ (s : State) (m : Fin 2) (bl : List Block) (bs p : List Byte) (fr : Nat), s.Whole m 8 bl bs fr p → s.pair.role = .standby →
    ∃ t, exec (.handover m bl) s = .next t ∧ t = { s with
      lanes := (s.took (24 + m.val) bl).lanes
      pair := { s.pair.took bs true with handoverAt := some fr }, sent := t.sent }) ∧
  (∀ (s : State) (m : Fin 2) (bl : List Block) (bs p : List Byte) (fr : Nat), s.Whole m 9 bl bs fr p → s.pair.role = .active →
    exec (.ckptReq m bl) s = .next { s with lanes := (s.took (24 + m.val) bl).lanes, pair := { s.pair.took bs false with ckptReq := some (fieldLe p 0 8) } }) ∧
  (∀ (s : State) (m : Fin 2) (bl : List Block) (bs p : List Byte) (fr : Nat), s.Whole m 0x0A bl bs fr p →
    exec (.retiring m bl) s = .next { s with lanes := (s.took (24 + m.val) bl).lanes, pair := s.pair.took bs false }) ∧
  (∀ s : State, ∃ t, exec .controlRepeat s = .next t ∧
    (∀ x ∈ s.pair.outbox, x.repeated = false → x.sentAt + 1 ≤ s.frame.k → x.payload.length ≤ 1508 → s.locked 24 →
      Out.wynlink 24 (frameBlocks (controlFrame x.type 0 x.cseq x.frame true x.payload)) ∈ t.sent) ∧
    t = { s with sent := t.sent, pair := { s.pair with outbox := s.pair.outbox.map fun x =>
      { x with repeated := x.repeated || decide (x.sentAt + 1 ≤ s.frame.k) } } })

/-- An ACTIVE device whose standby has sent no CANARY for 2 frames, with no commit or action waiting for it, goes on alone and forgets what
waited for an ACK; one single action that waited is answered and acts at its frame. ROLE_OK high for less than 1 µs only shows in
PAIR_STATUS; qualified, an ACTIVE device without a claim claims the hub, and a STANDBY whose peer last reported ACTIVE and whose shadow
is complete takes over with the next epoch and the claim. A claim not refreshed for 1.5 frame periods is released with every gate off.
A JOINING device without a CANARY for 2 s, ROLE_OK high, restarts start-up at step 6. PRESENT_N only shows. A replay without results
after 1 s is DIVERGENCE with address 3 on the ACTIVE device (its report only recorded). A joining step 1 to 4 beyond its maximum fails
the attempt: back to step 4, RETIRED after the third. -/
def Obligations.PairTimersComplete : Prop :=
  (∀ s : State, s.pair.role = .active → s.pair.standby = true → 2 ≤ s.pair.peerMiss →
    (∀ d < 15, (smGet Domain.reset s.doms d).pend.any (·.waitPeer) = false) →
    (s.pair.waitActs = [] → exec .standbyAbsent s = .next { s with
      pair := { s.pair with standby := false, outbox := [], waitActs := [], peerStanding := [] } }) ∧
    ∀ (w : PendAct) (q : Req), s.pair.waitActs = [w] → w.obj ≠ oTimedAction → w.ret = .req q →
      ∃ t, exec .standbyAbsent s = .next t ∧ t.Replied q 3 (if w.result = true then ansResultFrame 0 w.frame else ansOk) ∧
        t = { s with
          sess := t.sess, sent := t.sent
          pair := { s.pair with
            standby := false, outbox := [], waitActs := [], peerStanding := [], timed := s.pair.timed ++ [(w.frame, w.obj, w.args)] } }) ∧
  (∀ (s : State) (ns : Nat), ns < 1000 → exec (.roleOkHigh ns) s = .next { s with pair := { s.pair with roleOk := true } }) ∧
  (∀ (s : State) (ns : Nat), 1000 ≤ ns → s.pair.role = .active → s.pair.claim = false → s.pair.newerSeen = false → s.dev.state ≠ .off →
    s.dev.state ≠ .boot → ∃ t, exec (.roleOkHigh ns) s = .next t ∧ t.gate.hiZ = false ∧
      t = { s with
        gate := t.gate, hub := t.hub, conv := t.conv, clk := { s.clk with clkouts := t.clk.clkouts }
        pair := { s.pair with claim := true, roleOk := false, roleQual := false, refreshAt := s.time.up, schedSent := true } }) ∧
  (∀ (s : State) (ns : Nat), 1000 ≤ ns → s.pair.role = .standby → s.pair.peerSerial ≠ 0 → s.pair.peerWord % 16 = 0 → s.dev.state ≠ .off →
    s.dev.state ≠ .boot → (Eff.start s).shadowDue = false → ∃ t, exec (.roleOkHigh ns) s = .next t ∧ t.pair.role = .active ∧
      t.pair.claim = true ∧ t.gate.hiZ = false ∧ t.pair.epoch = (s.pair.epoch + 1) % 65536 ∧ t.pair.takeovers = (s.pair.takeovers + 1) % 65536) ∧
  (∀ s : State, s.pair.claim = true → 2 * s.pair.refreshAt + 3 * s.cv oFramePeriod 0 ≤ 2 * s.time.up →
    ∃ t, exec .claimRelease s = .next t ∧ t.gate.hiZ = true ∧
      t.gate.gates = (List.range 24).foldl (fun m k => smMod Gate.reset m k (Gate.shut s.time.up)) s.gate.gates ∧
      t = { s with
        pair := { s.pair with claim := false }, gate := t.gate, conv := t.conv, clk := { s.clk with clkouts := t.clk.clkouts } }) ∧
  (∀ s : State, s.pair.claim = false ∨ 2 * s.time.up < 2 * s.pair.refreshAt + 3 * s.cv oFramePeriod 0 →
    exec .claimRelease s = .next s) ∧
  (∀ (s : State) (high : Bool), exec (.presentNChange high) s = .next { s with pair := { s.pair with presentN := high } }) ∧
  (∀ s : State, s.pair.role = .joining → s.pair.roleOk = true → max s.pair.peerAt s.pair.joinAt + 2000000000 ≤ s.time.up →
    ∃ t, exec .joinNoCanary s = .next t ∧ t.pair.role = .unset ∧ t.pair.claim = false ∧ t.gate.hiZ = true ∧ t.dev.state = .boot ∧
      t.dev.bootStage = 5 ∧ t.frame = { s.frame with running := false }) ∧
  (∀ s : State, s.pair.replay = true → s.pair.ownPass = none → s.pair.peerPass = none → s.pair.role = .active →
    s.pair.replayAt + 1000000000 ≤ s.time.up → s.Quiet kDivergence 3 →
    exec .replayResultTimeout s = .next { s with
      faults := s.noted 0x050 kDivergence 3, pair := { s.pair with replay := false, ownPass := some false, peerPass := some false } }) ∧
  (∀ (s : State) (step ms : Nat), (step, ms) ∈ [(1, 100), (2, 50), (3, 100), (4, 60)] → s.pair.role = .joining → s.pair.joinStep = step →
    (s.time.up ≤ s.pair.joinAt + ms * 1000000 → exec .joinStepTimeout s = .next s) ∧
    (s.pair.joinAt + ms * 1000000 < s.time.up → s.pair.joinAttempts < 2 → ∃ t, exec .joinStepTimeout s = .next t ∧
      t = { s with
        sent := t.sent
        pair := { s.pair with
          joinAttempts := s.pair.joinAttempts + 1, ckpt := none, image := none, synced := false, cleanRun := 0, joinStep := 4
          joinAt := s.time.up, frFrame := s.frame.k, nextCseq := (s.pair.nextCseq + 1) % 2 ^ 32 } }) ∧
    (s.pair.joinAt + ms * 1000000 < s.time.up → 2 ≤ s.pair.joinAttempts → ∃ t, exec .joinStepTimeout s = .next t ∧
      t.pair.role = .retired ∧ t.pair.joinStep = 0 ∧ t.pair.claim = false ∧ t.gate.hiZ = true))

/-- PAIR_HANDOVER that passes on an ACTIVE device with a STANDBY peer and no handover running answers, where the standby is ready (a free
truth value, as no message tells), RESULT 0 and frame m, sends HANDOVER and hands over at m, k + 3, or k + 2 exactly at t_k; where it
is not ready RESULT 2; without a standby, with one running or on another role RESULT 1. PAIR_REJOIN of a RETIRED device not barred is
answered RESULT 0, then the device is JOINING with no attempts counted, in READY; any other is answered RESULT 1. The own result of a
self-replay is kept and sent. The replay of a joining device for which the journal lacks input fails the attempt; otherwise its core
state and the sets of every domain but DEVICE become those of the replay, what the device has itself read of its cells stays, and the
live compare, step 6, begins. -/
def Obligations.PairActionsComplete : Prop :=
  (∀ (s : State) (q : Req) (lvl sid : Nat), s.Invoked q oPairHandover [] 2 false lvl sid →
    (s.pair.role = .active → s.pair.standby = true → s.pair.peerWord % 16 = 1 → s.pair.handoverAt = none →
      ∀ m, m = s.frame.k + (if s.time.clock = s.frame.tk then 2 else 3) → ∃ t, exec (.pairHandover q []) s = .next t ∧
        t.Replied q 3 (if Config.freeBool s.free = true then ansResultFrame 0 m else ansResultFrame 2 0) ∧
        t = { s with
          sess := t.sess, sent := t.sent, free := s.free + 1
          pair := if Config.freeBool s.free = true then { s.pair with
              handoverAt := some m, nextCseq := (s.pair.nextCseq + 1) % 2 ^ 32
              outbox := s.pair.outbox ++ [⟨8, s.pair.nextCseq, m, [], s.frame.k, false⟩] } else s.pair }) ∧
    (s.pair.role ≠ .active ∨ s.pair.standby = false ∨ s.pair.peerWord % 16 ≠ 1 ∨ s.pair.handoverAt ≠ none →
      ∃ t, exec (.pairHandover q []) s = .next t ∧ t.Replied q 3 (ansResultFrame 1 0) ∧ t = { s with sess := t.sess, sent := t.sent })) ∧
  (∀ (s : State) (q : Req) (lvl sid : Nat), s.Invoked q oPairRejoin [] 2 false lvl sid → s.pair.role = .retired → s.pair.barred = false →
    s.dev.state ≠ .off → s.dev.state ≠ .boot → ∃ t, exec (.pairRejoin q []) s = .next t ∧ t.Replied q 3 (ansOk (le 1 0)) ∧
      t.pair.role = .joining ∧ t.pair.joinAttempts = 0 ∧ (t.pair.joinStep = 1 ∨ t.pair.joinStep = 2) ∧ t.dev.state = .ready) ∧
  (∀ (s : State) (q : Req) (lvl sid : Nat), s.Invoked q oPairRejoin [] 2 false lvl sid → (s.pair.role ≠ .retired ∨ s.pair.barred = true) →
    ∃ t, exec (.pairRejoin q []) s = .next t ∧ t.Replied q 3 (ansOk (le 1 1)) ∧ t = { s with sess := t.sess, sent := t.sent }) ∧
  (∀ (s : State) (pass : Bool), s.pair.replay = true → s.pair.ownPass = none → s.pair.peerPass = none →
    ∃ t, exec (.selfReplayDone pass) s = .next t ∧
      t = { s with sent := t.sent, pair := { s.pair with ownPass := some pass, nextCseq := (s.pair.nextCseq + 1) % 2 ^ 32 } }) ∧
  (∀ s : State, s.pair.role = .joining → s.pair.joinStep = 5 → s.pair.joinAttempts < 2 →
    ∃ t, exec .joinReplayDone s = .next t ∧
      match (Eff.start s).replayed with
      | none => t.pair.joinStep = 4 ∧ t.pair.joinAttempts = s.pair.joinAttempts + 1 ∧ t = { s with pair := t.pair, sent := t.sent }
      | some c => c.dev ≠ .off → c.dev ≠ .boot →
        t.pair.joinStep = 6 ∧ t.pair.synced = true ∧ t.pair.role = .joining ∧ t.dev = { s.dev with state := c.dev } ∧
        t.faults = { s.faults with forced := c.forced } ∧
        t.pts = c.pts.foldl (fun p x => if x.1 < 2097152 then smSet pointReset p x.1 x.2 else p) [] ∧
        (∀ n < 192, smGet Cell.reset t.cells n = (smGet Cell.reset s.cells n).loaded (smGet Cell.reset c.cells n)) ∧
        (smWf none s.cfg = true → smWf none c.cfg = true → ∀ k, smGet none t.cfg k =
          if 1 ≤ objDomain (k / 65536) ∧ objDomain (k / 65536) < 15 then smGet none c.cfg k else smGet none s.cfg k) ∧
        t = { s with
          pts := t.pts, cfg := t.cfg, loop := c.loop, sched := c.sched, casc := c.casc, assay := c.assay, hub := c.hub, cells := t.cells
          meter := t.meter, faults := t.faults, pair := t.pair, dev := t.dev })

/-- At a period start of a running hub with no HUB commit waiting, an enabled, monitored leg with direct compares takes its CMP words,
counts its period on from 0, starts PER after its last period (the first one PHASE after t_s) and resolves both compares; CLIP and a
refused overlap set their bits, the report of the latter assumed only recorded. A disabled leg counts its periods and reloads nothing
(assumption 110). A leg whose stop is ordered goes to SAFE levels and is held, and the hub stops with the last one; nothing happens on
a stopped hub or a held leg. At mid-period with RELOAD_PEAK a bound single compare takes the lane value that reached the island 28 ns
before the instant at the balls; one later than that keeps the word with LANE_LATE and, once for the tick, FAST_OVERRUN; legs without
RELOAD_PEAK, disabled or not begun do nothing. No EARLY is taken to be latched. Only the hub leg with the reload log, its gates, the
trouble record and the collector (and FAST_LATE) change. -/
def Obligations.HubReloadsComplete : Prop :=
  (∀ (s : State) (leg : Fin 12) (l : HubLeg) (two bad : Bool) (per : Nat) (c0 c1 : Nat × Bool),
    s.hub.running = true → s.hub.stopReq = false → (smGet Domain.reset s.doms 3).pend = none → (∀ k < 24, (smGet Gate.reset s.gate.gates k).early = false ∧ (smGet Gate.reset s.gate.gates k).earlyDue = false) →
    smGet HubLeg.reset s.hub.legs leg.val = l → l.safeHeld = false → (smGet Leg.reset s.gate.legs leg.val).mon = true →
    s.cv oLegEn leg.val ≠ 0 → s.cv oSrc (2 * leg.val) = 0x80000000 → s.cv oSrc (2 * leg.val + 1) = 0x80000000 →
    s.Quiet kSchedRefused leg.val → per = s.cv oPer leg.val → two = bitOf (s.cv oLegMode leg.val) 1 →
    c0 = compareOf (bitOf (s.cv oLegMode leg.val) 2) per (s.cv oCmp (2 * leg.val)) →
    c1 = (if two = true then compareOf (bitOf (s.cv oLegMode leg.val) 2) per (s.cv oCmp (2 * leg.val + 1)) else (0, false)) →
    bad = (two && c0.1 != 0 && c1.1 != 0 && decide (per < c0.1 + c1.1 + 2 * s.cv oDt leg.val)) →
    ∃ t y, exec (.hubPeriodStart leg) s = .next t ∧ y = { l with
        begun := true
        startAt := if l.begun = true then l.startAt + (per : Int) * qE else s.hub.ts + (s.cv oPhase leg.val : Int) * qE
        period := if l.begun = true then l.period + 1 else 0
        word0 := s.cv oCmp (2 * leg.val), lane0 := [], c0 := c0.1, c1 := c1.1, refused := bad
        word1 := if two = true then s.cv oCmp (2 * leg.val + 1) else l.word1, lane1 := if two = true then [] else l.lane1
        trouble := l.trouble ||| ((if (c0.2 || c1.2) = true then 1 else 0) + if bad = true then 4 else 0)
        wantH := y.wantH, wantL := y.wantL, wantAt := y.wantAt } ∧
      t.hub = { s.hub with
        legs := smSet HubLeg.reset s.hub.legs leg.val y
        reloads := s.hub.reloads ++ (le 1 leg.val ++ le 8 y.period ++ le 4 y.c0 ++ le 4 y.c1) } ∧
      t = { s with hub := t.hub, gate := t.gate, trouble := t.trouble, faults := t.faults }) ∧
  (∀ (s : State) (leg : Fin 12) (l : HubLeg), s.hub.running = true → s.hub.stopReq = false → (smGet Domain.reset s.doms 3).pend = none →
    (∀ k < 24, (smGet Gate.reset s.gate.gates k).early = false ∧ (smGet Gate.reset s.gate.gates k).earlyDue = false) → smGet HubLeg.reset s.hub.legs leg.val = l → l.safeHeld = false →
    (smGet Leg.reset s.gate.legs leg.val).mon = false → s.cv oLegEn leg.val = 0 →
    ∃ t y, exec (.hubPeriodStart leg) s = .next t ∧ y = { l with
        begun := true
        startAt := if l.begun = true then l.startAt + (s.cv oPer leg.val : Int) * qE else s.hub.ts + (s.cv oPhase leg.val : Int) * qE
        period := if l.begun = true then l.period + 1 else 0
        wantH := y.wantH, wantL := y.wantL, wantAt := y.wantAt } ∧
      t.hub = { s.hub with legs := smSet HubLeg.reset s.hub.legs leg.val y } ∧ t = { s with hub := t.hub, gate := t.gate }) ∧
  (∀ (s : State) (leg : Fin 12), s.hub.running = true → s.hub.stopReq = true → (smGet HubLeg.reset s.hub.legs leg.val).safeHeld = false →
    (smGet Domain.reset s.doms 3).pend = none → (∀ k < 24, (smGet Gate.reset s.gate.gates k).early = false ∧ (smGet Gate.reset s.gate.gates k).earlyDue = false) →
    ∃ t, exec (.hubPeriodStart leg) s = .next t ∧ (smGet HubLeg.reset t.hub.legs leg.val).safeHeld = true ∧
      ((∀ v < 12, v = leg.val ∨ s.cv oLegEn v = 0 ∨ (smGet HubLeg.reset s.hub.legs v).safeHeld = true) → t.hub.running = false) ∧
      t = { s with hub := t.hub, gate := t.gate }) ∧
  (∀ (s : State) (leg : Fin 12), s.hub.running = false ∨ (smGet HubLeg.reset s.hub.legs leg.val).safeHeld = true →
    exec (.hubPeriodStart leg) s = .next s) ∧
  (∀ (s : State) (leg : Fin 12) (l : HubLeg) (a at1 : Int) (w : Nat), s.hub.running = true → (smGet Domain.reset s.doms 3).pend = none →
    (∀ k < 24, (smGet Gate.reset s.gate.gates k).early = false ∧ (smGet Gate.reset s.gate.gates k).earlyDue = false) → smGet HubLeg.reset s.hub.legs leg.val = l → l.begun = true → l.safeHeld = false → s.cv oLegEn leg.val ≠ 0 →
    bitOf (s.cv oLegMode leg.val) 3 = true → bitOf (s.cv oLegMode leg.val) 1 = false → s.cv oSrc (2 * leg.val) ≠ 0x80000000 →
    l.lane0 = [(a, w)] → at1 = l.startAt + ((s.cv oPer leg.val / 2 : Nat) : Int) * qE →
    (a + 28 * nsq ≤ at1 → ∀ c, c = compareOf (bitOf (s.cv oLegMode leg.val) 2) (s.cv oPer leg.val) w →
      ∃ t y, exec (.hubMidReload leg) s = .next t ∧ y = { l with
          word0 := w, lane0 := [], c0 := c.1, c1 := 0, refused := false, trouble := l.trouble ||| (if c.2 = true then 1 else 0)
          wantH := y.wantH, wantL := y.wantL, wantAt := y.wantAt } ∧
        t.hub = { s.hub with legs := smSet HubLeg.reset s.hub.legs leg.val y, reloads := t.hub.reloads } ∧
        t = { s with hub := t.hub, gate := t.gate, trouble := t.trouble, faults := t.faults }) ∧
    (at1 < a + 28 * nsq → s.hub.lateAt ≠ some at1 → s.Quiet kFastOverrun 0 →
      ∀ c, c = compareOf (bitOf (s.cv oLegMode leg.val) 2) (s.cv oPer leg.val) l.word0 →
      ∃ t y, exec (.hubMidReload leg) s = .next t ∧ y = { l with
          c0 := c.1, c1 := 0, refused := false, trouble := l.trouble ||| 8 ||| (if c.2 = true then 1 else 0)
          wantH := y.wantH, wantL := y.wantL, wantAt := y.wantAt } ∧
        t.hub = { s.hub with
          legs := smSet HubLeg.reset s.hub.legs leg.val y, reloads := t.hub.reloads, late := s.hub.late ||| 2 ^ (2 * leg.val)
          lateAt := some at1 } ∧
        t = { s with
          hub := t.hub, gate := t.gate, trouble := t.trouble, faults := t.faults
          loop := { s.loop with fastLate := (s.loop.fastLate + 1) % 2 ^ 32 } })) ∧
  (∀ (s : State) (leg : Fin 12), (smGet Domain.reset s.doms 3).pend = none →
    s.hub.running = false ∨ (smGet HubLeg.reset s.hub.legs leg.val).begun = false ∨ s.cv oLegEn leg.val = 0 ∨
      bitOf (s.cv oLegMode leg.val) 3 = false ∨ (smGet HubLeg.reset s.hub.legs leg.val).safeHeld = true →
    exec (.hubMidReload leg) s = .next s)

/-- A fast tick of a running hub with FAST clocked counts on, is journalled, and with no slot on the fast lanes changes nothing else; a
single slot on lane 8 with one input, no section, no run point and no limit writes its input, weighted, rounded and clamped, to its
output point. A trigger compare below PER of a leg that has begun, enabled or not, starts the one sequence bound to it at the match,
where its converter is idle and no group selects by events; a disabled compare, or one at or above PER, does nothing. A COMM level
stable for 10 ns is taken over, and a group that selects by COMM then has the pattern that MASK_LUT gives for it; a shorter one is not
seen. No hub update for 64 ns halts all four groups, whatever the hub does. No EARLY is taken to be latched. -/
def Obligations.HubEventsComplete : Prop :=
  (∀ s : State, s.hub.running = true → 1 ∉ s.clk.halted → 1 ∉ s.clk.stopped → (smGet Domain.reset s.doms 3).pend = none →
    (∀ i ∈ (Eff.start s).enabledSlots, slotLane (s.cv oSlotCfg i) < 8) →
    exec .fastTick s = .next { s with
      hub := { s.hub with ticks := s.hub.ticks + 1, late := 0 }
      loop := { s.loop with
        tickAt := s.hub.ts + (s.hub.ticks : Int) * (s.cv oFastTick 0 : Int) * qE, tickOld := [] }
      jrnl := if s.frame.running = true then { s.jrnl with items := s.jrnl.items ++ [⟨4,
        ((s.hub.ts + (s.hub.ticks : Int) * (s.cv oFastTick 0 : Int) * qE - s.frame.tk) / ((s.cv oFastTick 0 : Int) * qE)).toNat % 256,
        le 4 s.hub.late⟩] } else s.jrnl }) ∧
  (∀ (s : State) (i n : Nat) (x mn mx : Int), s.hub.running = true → 1 ∉ s.clk.halted → 1 ∉ s.clk.stopped → i < 512 → n < 0x1000 →
    s.loop.halted = [] → (Eff.start s).enabledSlots = [i] → slotLane (s.cv oSlotCfg i) = 8 → field (s.cv oSlotCfg i) 16 3 = 1 → field (s.cv oSlotCfg i) 19 2 = 0 →
    bitOf (s.cv oSlotCfg i) 21 = false → field (s.cv oBrLen i) 0 4 = 0 → s.cv oRunPt i = 0x80000000 → s.cv oLimPt i = 0x80000000 →
    s.cv oInPt (4 * i) = n → mn = signed 32 (s.cv oOutMin i) → mx = signed 32 (s.cv oOutMax i) → mn ≤ mx →
    x = (signed 32 (s.cv oInW (4 * i)) * ptVal (smGet pointReset s.loop.handed n) * 512 + 2 ^ 29) / 2 ^ 30 →
    ∃ t, exec .fastTick s = .next t ∧ ptVal (t.pt (0x2000 + i)) = (max (mn * 512) (min (mx * 512) x) + 256) / 512) ∧
  (∀ (s : State) (tc : Fin 24) (l : HubLeg) (w per pos f q : Nat), s.hub.running = true → (smGet Domain.reset s.doms 3).pend = none →
    (smGet Domain.reset s.doms 8).pend = none → l = smGet HubLeg.reset s.hub.legs (tc.val / 2) → l.begun = true →
    (∀ k < 24, (smGet Gate.reset s.gate.gates k).earlyDue = false) → w = s.cv oTc tc.val → w ≠ 0xFFFFFFFF → per = s.cv oPer (tc.val / 2) →
    pos = (if bitOf (s.cv oLegMode (tc.val / 2)) 2 = true then w else (w * per + 2 ^ 31) / 2 ^ 32) →
    (per ≤ pos → exec (.triggerCompareMatch tc) s = .next s) ∧
    (pos < per → f < 4 → q < 4 → seqSrc (s.cv oSeqCfg (4 * f + q)) = 3 → field (s.cv oSeqCfg (4 * f + q)) 3 5 = tc.val →
      (∀ i < 16, i ≠ 4 * f + q → seqSrc (s.cv oSeqCfg i) ≠ 3 ∨ field (s.cv oSeqCfg i) 3 5 ≠ tc.val) →
      (∀ g < 4, s.cv oMaskSrc g ≠ 2) → (smGet ConvF.reset s.conv.fs f).running = none →
      exec (.triggerCompareMatch tc) s = .next { s with conv := { s.conv with
        fs := smMod ConvF.reset s.conv.fs f fun x => { x with
          running := some q, lastSeq := q, entry := 0, conv := 0, start := (Eff.start s).edgeAfter (l.startAt + (pos : Int) * qE) } } })) ∧
  (∀ (s : State) (tc : Fin 24), (smGet Domain.reset s.doms 3).pend = none →
    s.hub.running = false ∨ (smGet HubLeg.reset s.hub.legs (tc.val / 2)).begun = false ∨ s.cv oTc tc.val = 0xFFFFFFFF →
    exec (.triggerCompareMatch tc) s = .next s) ∧
  (∀ (s : State) (pin : Fin 4) (level : Bool) (ns : Nat),
    (ns < 10 ∨ bitOf s.hub.comm pin.val = level → exec (.commEdge pin level ns) s = .next s) ∧
    (10 ≤ ns → bitOf s.hub.comm pin.val ≠ level → (smGet Domain.reset s.doms 3).pend = none →
      (∀ k < 24, (smGet Gate.reset s.gate.gates k).early = false ∧ (smGet Gate.reset s.gate.gates k).earlyDue = false) →
      ∃ t, exec (.commEdge pin level ns) s = .next t ∧
        t.hub = { s.hub with
          comm := if level = true then s.hub.comm + 2 ^ pin.val else s.hub.comm - 2 ^ pin.val
          mask := t.hub.mask, maskAt := t.hub.maskAt, legs := t.hub.legs } ∧
        (∀ g < 4, s.cv oMaskSrc g = 1 → (Eff.start t).maskActive g = s.cv oMaskLut (16 * g + t.hub.comm)) ∧
        t = { s with hub := t.hub, gate := t.gate })) ∧
  (∀ (s : State) (ns : Nat),
    (ns < 64 → exec (.hubHaltDetect ns) s = .next s) ∧
    (64 ≤ ns → (∀ k < 24, (smGet Gate.reset s.gate.gates k).early = false ∧ (smGet Gate.reset s.gate.gates k).earlyDue = false) →
      ∃ t, exec (.hubHaltDetect ns) s = .next t ∧ t.hub = { s.hub with halted := [0, 1, 2, 3], legs := t.hub.legs } ∧
        t = { s with hub := t.hub, gate := t.gate }))

/-- A command reaches a leg that the compares decide, else nothing happens. A command off acts at once; a latched EARLY is then reported. A
command on of an enabled, unlatched leg whose partner is not commanded turns the gate on and blanks it, or leaves it in WAIT, with
DT_GUARD while the guard dead time lasts, after which it turns on. With the partner commanded on both go off and SHOOT_GUARD is counted
and reported once. Blanking ends in ON, where the sense input is clear, once the BLANK_HUB of the turn-on has passed, with a latched
EARLY reported; with the input asserted the leg trips. An input asserted at turn-on latches EARLY (assumption 121). A sense input is
seen above 20 ns and not below 10 ns: clear it is only recorded, in BLANK it latches EARLY, in ON it trips the leg, both gates off,
reported at its instant. A supply that fails latches the leg of an asserted enable as UVLO, and only shows in GATE_TROUBLE without the
enable. The reports are assumed only recorded, the device without a standby, and no other leg tripped. -/
def Obligations.GateCommandsComplete : Prop :=
  (∀ (s : State) (k : Fin 24) (on : Bool), (Eff.start s).byCompare (k.val / 2) = false → exec (.gateCommand k on) s = .next s) ∧
  (∀ (s : State) (k : Fin 24) (g : Gate), (Eff.start s).byCompare (k.val / 2) = true → (smGet Leg.reset s.gate.legs (k.val / 2)).overlap = false →
    (∀ j < 24, (smGet Gate.reset s.gate.gates j).earlyDue = false) → g = smGet Gate.reset s.gate.gates k.val →
    (¬ (g.st = .blank ∧ g.early = true) → exec (.gateCommand k false) s = .next { s with gate := { s.gate with
      gates := smMod Gate.reset s.gate.gates k.val fun g => { g.shut s.time.up with cmd := false, early := false } } }) ∧
    (g.st = .blank → g.early = true → s.Quiet kGateEarly (0x8000 + k.val) → ∃ t, exec (.gateCommand k false) s = .next t ∧
      (smGet Gate.reset t.gate.gates k.val).st = .off ∧ (smGet Gate.reset t.gate.gates k.val).cmd = false ∧
      t = { s with gate := { s.gate with gates := t.gate.gates }, faults := s.noted 0x070 kGateEarly (0x8000 + k.val) })) ∧
  (∀ (s : State) (k : Fin 24) (l : Leg) (g p : Gate), l = smGet Leg.reset s.gate.legs (k.val / 2) → g = smGet Gate.reset s.gate.gates k.val →
    p = smGet Gate.reset s.gate.gates (partner k.val) → (Eff.start s).byCompare (k.val / 2) = true → l.mon = true → s.gate.enN = false →
    (Eff.start s).latched (k.val / 2) = false →
    (p.cmd = false → g.st = .off → g.sense = false → (Eff.start s).guardOver k.val = true → ∃ t, exec (.gateCommand k true) s = .next t ∧
      smGet Gate.reset t.gate.gates k.val =
        { g with cmd := true, st := .blank, early := false, onAt := s.time.up, blank := s.cv oBlankHub (k.val / 2) } ∧
      t = { s with gate := { s.gate with gates := t.gate.gates } }) ∧
    (p.cmd = false → g.st = .off → (Eff.start s).guardDead k.val = false → ∃ t, exec (.gateCommand k true) s = .next t ∧
      smGet Gate.reset t.gate.gates k.val = { g with cmd := true, st := .wait } ∧
      t = { s with gate := { s.gate with
        gates := t.gate.gates, legs := smMod Leg.reset s.gate.legs (k.val / 2) fun l => { l with trouble := l.trouble ||| 8 } } }) ∧
    (p.cmd = false → g.st = .off → (Eff.start s).guardDead k.val = true → (Eff.start s).guardOver k.val = false →
      exec (.gateCommand k true) s = .next { s with gate := { s.gate with
        gates := smMod Gate.reset s.gate.gates k.val fun g => { g with cmd := true, st := .wait } } }) ∧
    (p.cmd = true → l.overlap = false → s.Quiet kShootGuard (0x8000 + k.val) →
      ∃ t, exec (.gateCommand k true) s = .next t ∧
        smGet Leg.reset t.gate.legs (k.val / 2) = { l with overlap := true, trouble := l.trouble ||| 4 } ∧
        t.gate.gates = smMod Gate.reset (smMod Gate.reset s.gate.gates k.val fun g => { g.shut s.time.up with cmd := true }) (partner k.val)
          (Gate.shut s.time.up) ∧ t.gate.shoots = (s.gate.shoots + 1) % 2 ^ 32 ∧
        t = { s with gate := t.gate, faults := s.noted 0x070 kShootGuard (0x8000 + k.val) })) ∧
  (∀ (s : State) (k : Fin 24), (smGet Gate.reset s.gate.gates k.val).st = .wait → (Eff.start s).guardOver k.val = true →
    ((smGet Gate.reset s.gate.gates k.val).sense = false → exec (.guardDeadTimeEnd k) s = .next { s with gate := { s.gate with
      gates := smMod Gate.reset s.gate.gates k.val fun g =>
        { g with st := .blank, early := false, onAt := s.time.up, blank := s.cv oBlankHub (k.val / 2) } } }) ∧
    ((smGet Gate.reset s.gate.gates k.val).sense = true → ∃ t, exec (.guardDeadTimeEnd k) s = .next t ∧
      (smGet Gate.reset t.gate.gates k.val).st = .blank ∧ (smGet Gate.reset t.gate.gates k.val).early = true)) ∧
  (∀ (s : State) (k : Fin 24), (smGet Gate.reset s.gate.gates k.val).st ≠ .wait ∨ (Eff.start s).guardOver k.val = false →
    exec (.guardDeadTimeEnd k) s = .next s) ∧
  (∀ (s : State) (k : Fin 24) (g : Gate), g = smGet Gate.reset s.gate.gates k.val → g.st = .blank → g.onAt + g.blank ≤ s.time.up →
    (g.early = false → g.sense = false → exec (.blankingEnd k) s = .next { s with gate := { s.gate with
      gates := smMod Gate.reset s.gate.gates k.val fun g => { g with st := .on, early := false } } }) ∧
    (g.early = true → g.sense = false → s.Quiet kGateEarly (0x8000 + k.val) → exec (.blankingEnd k) s = .next { s with
      faults := s.noted 0x070 kGateEarly (0x8000 + k.val)
      gate := { s.gate with gates := smMod Gate.reset s.gate.gates k.val fun g => { g with st := .on, early := false } } }) ∧
    (g.sense = true → (∀ u < 12, u ≠ k.val / 2 → (smGet Leg.reset s.gate.legs u).trip = false) →
      s.Quiet kGateTrip (0x8000 + k.val) → s.pair.standby = false → ∃ t, exec (.blankingEnd k) s = .next t ∧
        (smGet Leg.reset t.gate.legs (k.val / 2)).trip = true ∧ (smGet Gate.reset t.gate.gates k.val).isOn = false ∧
        t = { s with gate := t.gate, faults := s.noted 0x070 kGateTrip (0x8000 + k.val) })) ∧
  (∀ (s : State) (k : Fin 24), (smGet Gate.reset s.gate.gates k.val).st ≠ .blank → exec (.blankingEnd k) s = .next s) ∧
  (∀ (s : State) (k : Fin 24) (a : Bool) (ns : Nat), ns < 10 → exec (.senseQualified k a ns) s = .next s) ∧
  (∀ (s : State) (k : Fin 24) (ns : Nat) (g : Gate) (l : Leg), 20 < ns → g = smGet Gate.reset s.gate.gates k.val →
    l = smGet Leg.reset s.gate.legs (k.val / 2) →
    exec (.senseQualified k false ns) s = .next { s with gate := { s.gate with
      gates := smMod Gate.reset s.gate.gates k.val fun g => { g with sense := false } } } ∧
    (l.mon = true → g.st = .blank → ∃ t, exec (.senseQualified k true ns) s = .next t ∧
      smGet Gate.reset t.gate.gates k.val = { g with sense := true, early := true } ∧
      t = { s with gate := { s.gate with gates := t.gate.gates, legs := smMod Leg.reset s.gate.legs (k.val / 2) fun l =>
        { l with trouble := l.trouble ||| if k.val % 2 = 0 then 1 else 2 } } }) ∧
    (l.mon = true → l.uv = false → g.st = .on → (∀ u < 12, u ≠ k.val / 2 → (smGet Leg.reset s.gate.legs u).trip = false) →
      s.Quiet kGateTrip (0x8000 + k.val) → s.pair.standby = false → ∃ t, exec (.senseQualified k true ns) s = .next t ∧
        t.gate.gates = smMod Gate.reset (smMod Gate.reset (smMod Gate.reset s.gate.gates k.val fun g => { g with sense := true }) k.val
          (Gate.shut s.time.up)) (partner k.val) (Gate.shut s.time.up) ∧
        t = { s with
          faults := s.noted 0x070 kGateTrip (0x8000 + k.val)
          gate := { s.gate with
            gates := t.gate.gates, trips := (s.gate.trips + 1) % 2 ^ 32
            legs := smMod Leg.reset s.gate.legs (k.val / 2) fun l => { l with
              trip := true, hTrip := l.hTrip || k.val % 2 == 0, lTrip := l.lTrip || k.val % 2 == 1
              tripAt := some (s.time.clock / 65536), rawAt := some (s.time.clock / 65536), trouble := l.trouble ||| 16 } } })) ∧
  (∀ (s : State) (k : Fin 24) (a b : Bool) (ns : Nat), ns < 10 → exec (.supplyFail k a b ns) s = .next s) ∧
  (∀ (s : State) (k : Fin 24) (ns : Nat), 20 < ns →
    exec (.supplyFail k true true ns) s = .next { s with gate := { s.gate with
      gates := smMod Gate.reset s.gate.gates k.val fun g => { g with supPos := true, supNeg := true } } }) ∧
  (∀ (s : State) (k : Fin 24) (a b : Bool) (ns : Nat) (l : Leg), 20 < ns → a = false ∨ b = false →
    l = smGet Leg.reset s.gate.legs (k.val / 2) → l.mon = true →
    (s.gate.enN = true → exec (.supplyFail k a b ns) s = .next { s with gate := { s.gate with
      gates := smMod Gate.reset s.gate.gates k.val fun g => { g with supPos := a, supNeg := b }
      legs := smMod Leg.reset s.gate.legs (k.val / 2) fun l => { l with trouble := l.trouble ||| 32 } } }) ∧
    (s.gate.enN = false → (Eff.start s).latched (k.val / 2) = false → s.Quiet kGateUvlo (0x8000 + k.val) → s.pair.standby = false →
      ∃ t, exec (.supplyFail k a b ns) s = .next t ∧ (smGet Leg.reset t.gate.legs (k.val / 2)).uv = true ∧
        t.gate.gates = smMod Gate.reset (smMod Gate.reset (smMod Gate.reset s.gate.gates k.val fun g => { g with supPos := a, supNeg := b })
          k.val (Gate.shut s.time.up)) (partner k.val) (Gate.shut s.time.up) ∧ t.gate.trips = (s.gate.trips + 1) % 2 ^ 32 ∧
        t = { s with faults := s.noted 0x070 kGateUvlo (0x8000 + k.val), gate := t.gate }))

/-- A rise of GATE_EN_N disables the gates of every monitored leg that is not latched; outside RUN and DERATED nothing is reported. A fall
after at least 5.0 µs high clears every latch and the stage latch, restarts the hub at the next frame start where the stage latch was
set, and with all legs monitored, all supplies good and no gate commanded leaves every gate OFF; after less than 4.5 µs the latches
stay. CELL_EN_TOGGLE of an IDLE, ACTIVE or BYPASSED cell answers frame k + 2, in which the toggle begins; of any other RESULT 1.
SLOT_RESET of an enabled slot acts at the next frame start and says so, or is passed to the standby first; of a disabled one RESULT 1. -/
def Obligations.EnablesAndRequestsOfTheGatesComplete : Prop :=
  (∀ s : State, s.gate.enN = true → exec .gateEnNRise s = .next s) ∧
  (∀ s : State, s.gate.enN = false → s.dev.state ≠ .run → s.dev.state ≠ .derated →
    exec .gateEnNRise s = .next { s with gate := { s.gate with
      enN := true, enRise := s.time.up
      gates := (List.range 12).foldl (fun m u => if (smGet Leg.reset s.gate.legs u).mon = true ∧ (Eff.start s).latched u = false then
        smMod Gate.reset (smMod Gate.reset m (2 * u) fun g => { g.shut s.time.up with st := .disabled }) (2 * u + 1) fun g =>
          { g.shut s.time.up with st := .disabled } else m) s.gate.gates } }) ∧
  (∀ s : State, s.gate.enN = false → exec .gateEnNFall s = .next s) ∧
  (∀ s : State, s.gate.enN = true → (∀ u < 12, (smGet Leg.reset s.gate.legs u).mon = true) →
    (∀ k < 24, (smGet Gate.reset s.gate.gates k).supOk = true ∧ (smGet Gate.reset s.gate.gates k).cmd = false) → s.gate.enRise + 5000 ≤ s.time.up →
    ∃ t, exec .gateEnNFall s = .next t ∧ t.gate.enN = false ∧ t.gate.stage = false ∧ t.gate.lastToggle = some (s.time.clock / 65536) ∧
      (∀ u < 12, smGet Leg.reset t.gate.legs u = { Leg.reset with
        mon := true, trouble := (smGet Leg.reset s.gate.legs u).trouble, overlap := (smGet Leg.reset s.gate.legs u).overlap }) ∧
      (∀ k < 24, (smGet Gate.reset t.gate.gates k).st = .off) ∧
      t.hub = { s.hub with startNext := s.hub.startNext || s.gate.stage } ∧ t = { s with gate := t.gate, hub := t.hub }) ∧
  (∀ s : State, s.gate.enN = true → (∀ u < 12, (smGet Leg.reset s.gate.legs u).mon = false) → s.time.up < s.gate.enRise + 4500 →
    exec .gateEnNFall s = .next { s with gate := { s.gate with enN := false } }) ∧
  (∀ (s : State) (q : Req) (cell : Byte) (lvl sid : Nat), s.Invoked q oCellEnToggle [cell] 2 true lvl sid → cell.toNat < 192 →
    ((smGet Cell.reset s.cells cell.toNat).state ∈ [.idle, .active, .bypassed] → ∃ t, exec (.cellEnToggle q [cell]) s = .next t ∧
      t.Replied q 3 (ansResultFrame 0 (s.frame.k + 2)) ∧
      t = { s with
        sess := t.sess, sent := t.sent, cells := smMod Cell.reset s.cells cell.toNat fun x =>
          { x with enOff := ((s.frame.k + 2) :: x.enOff).dedup } }) ∧
    ((smGet Cell.reset s.cells cell.toNat).state ∉ [.idle, .active, .bypassed] → ∃ t, exec (.cellEnToggle q [cell]) s = .next t ∧
      t.Replied q 3 (ansResultFrame 1 0) ∧ t = { s with sess := t.sess, sent := t.sent })) ∧
  (∀ (s : State) (q : Req) (args : List Byte) (lvl sid i : Nat), s.Invoked q oSlotReset args 2 true lvl sid → args.length = 2 →
    fieldLe args 0 2 = i → i < 512 →
    (bitOf (s.cv oSlotCfg i) 0 = false → ∃ t, exec (.slotReset q args) s = .next t ∧ t.Replied q 3 (ansResultFrame 1 0) ∧
      t = { s with sess := t.sess, sent := t.sent }) ∧
    (bitOf (s.cv oSlotCfg i) 0 = true → s.pair.standby = false → ∃ t, exec (.slotReset q args) s = .next t ∧
      t.Replied q 3 (ansResultFrame 0 (s.frame.k + 1)) ∧
      t = { s with
        sess := t.sess, sent := t.sent, pair := { s.pair with timed := s.pair.timed ++ [(s.frame.k + 1, oSlotReset, args)] } }) ∧
    (bitOf (s.cv oSlotCfg i) 0 = true → s.pair.standby = true → ∃ t, exec (.slotReset q args) s = .next t ∧
      t.pair.waitActs = s.pair.waitActs ++ [⟨oSlotReset, args, s.pair.nextCseq, s.frame.k + 2, true, .req q⟩] ∧
      t = { s with sess := t.sess, sent := t.sent, pair := t.pair }))

/-- For every set of coefficients, exponent, input and states of one section: output and new states lie in Q8.40; where no saturation is
reported each of the three is its exact sum (b0 u 2^BEXP + s1 for the output) rounded to the nearest multiple of 2 to the minus 40, a
half upward; and where all three exact sums lie in the range, but for half a unit of the last place at its ends, no saturation is
reported. -/
def Obligations.SectionsRoundAndSaturate : Prop :=
  ∀ (b0 b1 b2 a1 a2 u s1 s2 : Int) (bexp sec : Nat) (o : SecOut), o = runSection b0 b1 b2 a1 a2 bexp sec u s1 s2 →
    (-2 ^ 47 ≤ o.y ∧ o.y < 2 ^ 47) ∧ (-2 ^ 47 ≤ o.n1 ∧ o.n1 < 2 ^ 47) ∧ (-2 ^ 47 ≤ o.n2 ∧ o.n2 < 2 ^ 47) ∧
    (o.sat = false →
      (2 ^ 30 * o.y - 2 ^ 29 ≤ b0 * u * 2 ^ bexp + s1 * 2 ^ 30 ∧ b0 * u * 2 ^ bexp + s1 * 2 ^ 30 < 2 ^ 30 * o.y + 2 ^ 29) ∧
      (2 ^ 30 * o.n1 - 2 ^ 29 ≤ b1 * u * 2 ^ bexp - a1 * o.y + s2 * 2 ^ 30 ∧ b1 * u * 2 ^ bexp - a1 * o.y + s2 * 2 ^ 30 < 2 ^ 30 * o.n1 + 2 ^ 29) ∧
      (2 ^ 30 * o.n2 - 2 ^ 29 ≤ b2 * u * 2 ^ bexp - a2 * o.y ∧ b2 * u * 2 ^ bexp - a2 * o.y < 2 ^ 30 * o.n2 + 2 ^ 29)) ∧
    (-2 ^ 77 + 2 ^ 29 ≤ b0 * u * 2 ^ bexp + s1 * 2 ^ 30 → b0 * u * 2 ^ bexp + s1 * 2 ^ 30 < 2 ^ 77 - 2 ^ 29 →
      -2 ^ 77 + 2 ^ 29 ≤ b1 * u * 2 ^ bexp - a1 * o.y + s2 * 2 ^ 30 → b1 * u * 2 ^ bexp - a1 * o.y + s2 * 2 ^ 30 < 2 ^ 77 - 2 ^ 29 →
      -2 ^ 77 + 2 ^ 29 ≤ b2 * u * 2 ^ bexp - a2 * o.y → b2 * u * 2 ^ bexp - a2 * o.y < 2 ^ 77 - 2 ^ 29 → o.sat = false)

/-- With no CONV commit waiting: the frame trigger of a FRAME sequence comes once a frame while frames run, the tick trigger of a TICK
sequence once a tick while the hub runs, and any other CONVERSION_TRIGGER does nothing (assumption 120). A trigger that comes starts
its sequence on an idle converter at the next conversion edge, is queued on a running one, and dropped with SEQ_DROPPED and
CONV_OVERRUN (its report only recorded) where one is queued already; of two on one edge the lower sequence comes first. CONV_TRIGGER of
a SOFT sequence on an ACTIVE device without a standby fires at the next frame start and says so; of another RESULT 1. The end of a
sequence frees the converter, or starts the queued sequence at its edge, no earlier than the edge after. A bitstream without a
transition for 128 clocks, or a missing XB clock, is marked and reported once (its report only recorded); 128 clocks of transitions
clear both and restart the filter. Calibration converges with PLL_C locked alone. -/
def Obligations.ConverterSequencesComplete : Prop :=
  (∀ (s : State) (f q : Fin 4) (x : ConvF) (src : Nat), (smGet Domain.reset s.doms 8).pend = none → x = smGet ConvF.reset s.conv.fs f.val →
    src = seqSrc (s.cv oSeqCfg (4 * f.val + q.val)) →
    ¬(src = 1 ∧ s.frame.running = true ∧ 4 * f.val + q.val ∉ s.conv.fired) →
    ¬(src = 2 ∧ s.hub.running = true ∧ x.tickDone ≠ some s.hub.ticks) → exec (.conversionTrigger f q) s = .next s) ∧
  (∀ (s : State) (f q : Fin 4) (x : ConvF) (src : Nat) (edge : Int) (c : ConvSt), (smGet Domain.reset s.doms 8).pend = none →
    x = smGet ConvF.reset s.conv.fs f.val → src = seqSrc (s.cv oSeqCfg (4 * f.val + q.val)) →
    edge = (Eff.start s).edgeAfter ((Eff.start s).trigInstant src) →
    (src = 1 ∧ s.frame.running = true ∧ 4 * f.val + q.val ∉ s.conv.fired ∧ c = { s.conv with fired := (4 * f.val + q.val) :: s.conv.fired }) ∨
    (src = 2 ∧ s.hub.running = true ∧ x.tickDone ≠ some s.hub.ticks ∧ c = { s.conv with
      fs := smMod ConvF.reset s.conv.fs f.val fun x => { x with tickDone := some s.hub.ticks } }) →
    (x.running = none → exec (.conversionTrigger f q) s = .next { s with conv := { c with
      fs := smMod ConvF.reset c.fs f.val fun x => { x with running := some q.val, lastSeq := q.val, entry := 0, conv := 0, start := edge } } }) ∧
    (∀ r, x.running = some r → ¬(x.start = edge ∧ x.entry = 0 ∧ q.val < r) →
      (x.queued = none → exec (.conversionTrigger f q) s = .next { s with conv := { c with
        fs := smMod ConvF.reset c.fs f.val fun x => { x with queued := some (q.val, edge) } } }) ∧
      (∀ n edge', x.queued = some (n, edge') → ¬(edge' = edge ∧ q.val < n) → s.Quiet kConvOverrun f.val →
        ∃ t, exec (.conversionTrigger f q) s = .next t ∧ t = { s with
          trouble := s.trouble ||| 16, faults := t.faults
          conv := { c with
            fs := smMod ConvF.reset c.fs f.val fun x => { x with dropped := (x.dropped + 1) % 2 ^ 32 }
            trouble := smMod 0 c.trouble f.val (· ||| 1) } })) ∧
    (∀ r, x.running = some r → x.start = edge → x.entry = 0 → q.val < r → x.queued = none →
      exec (.conversionTrigger f q) s = .next { s with conv := { c with
        fs := smMod ConvF.reset (smMod ConvF.reset c.fs f.val fun x => { x with
          running := some q.val, lastSeq := q.val, entry := 0, conv := 0, start := edge }) f.val fun x => { x with
            queued := some (r, edge) } } })) ∧
  (∀ (s : State) (q : Req) (f n : Byte) (lvl sid : Nat), s.Invoked q oConvTrigger [f, n] 2 false lvl sid → f.toNat < 4 → n.toNat < 4 →
    (smGet Domain.reset s.doms 8).pend = none → s.pair.role = .active → s.pair.standby = false →
    (seqSrc (s.cv oSeqCfg (4 * f.toNat + n.toNat)) ≠ 4 → ∃ t, exec (.convTrigger q [f, n]) s = .next t ∧ t.Replied q 3 (ansResultFrame 1 0) ∧
      t = { s with sess := t.sess, sent := t.sent }) ∧
    (seqSrc (s.cv oSeqCfg (4 * f.toNat + n.toNat)) = 4 → ∃ t, exec (.convTrigger q [f, n]) s = .next t ∧
      t.Replied q 3 (ansResultFrame 0 (s.frame.k + 1)) ∧
      t = { s with
        sess := t.sess, sent := t.sent
        conv := { s.conv with
          soft := if 4 * f.toNat + n.toNat ∈ s.conv.soft then s.conv.soft else s.conv.soft ++ [4 * f.toNat + n.toNat] } })) ∧
  (∀ (s : State) (f : Fin 4) (x : ConvF) (q : Nat), (smGet Domain.reset s.doms 8).pend = none → x = smGet ConvF.reset s.conv.fs f.val →
    x.running = some q → { x with running := none } ≠ ConvF.reset →
    (x.queued = none → exec (.sequenceEnd f) s = .next { s with conv := { s.conv with
      fs := smMod ConvF.reset s.conv.fs f.val fun x => { x with running := none } } }) ∧
    (∀ n edge, x.queued = some (n, edge) → seqSrc (s.cv oSeqCfg (4 * f.val + n)) ≠ 0 →
      exec (.sequenceEnd f) s = .next { s with conv := { s.conv with
        fs := smMod ConvF.reset (smMod ConvF.reset (smMod ConvF.reset s.conv.fs f.val fun x => { x with running := none }) f.val
            fun x => { x with queued := none }) f.val fun y => { y with
          running := some n, lastSeq := n, entry := 0, conv := 0
          start := max edge (x.start + 2 * halfEdge * (Eff.start s).seqConversions f.val q) } } })) ∧
  (∀ (s : State) (f : Fin 4), (smGet ConvF.reset s.conv.fs f.val).running = none → exec (.sequenceEnd f) s = .next s) ∧
  (∀ (s : State) (c : Fin 24) (n : Nat),
    (n < 128 → exec (.sdStuck c n false) s = .next s) ∧
    (128 ≤ n → (smGet SdCh.reset s.conv.sd c.val).stuck = false → s.Quiet kSdStuck c.val →
      exec (.sdStuck c n false) s = .next { s with
        faults := s.noted 0x064 kSdStuck c.val
        conv := { s.conv with
          sd := smMod SdCh.reset s.conv.sd c.val fun x => { x with stuck := true }, trouble := smMod 0 s.conv.trouble 4 (· ||| 8) } }) ∧
    (16 ≤ c.val → (smGet SdCh.reset s.conv.sd c.val).clkMissing = false → s.Quiet kXbClock c.val →
      exec (.sdStuck c n true) s = .next { s with
        faults := s.noted 0x064 kXbClock c.val
        conv := { s.conv with
          sd := smMod SdCh.reset s.conv.sd c.val fun x => { x with clkMissing := true }
          trouble := smMod 0 s.conv.trouble 4 (· ||| 16) } })) ∧
  (∀ (s : State) (c : Fin 24) (n : Nat) (x : SdCh), x = smGet SdCh.reset s.conv.sd c.val →
    ((x.stuck = true ∨ x.clkMissing = true) → 128 ≤ n → exec (.bitstreamResume c n) s = .next { s with conv := { s.conv with
      sd := smMod SdCh.reset s.conv.sd c.val fun x => { x with
        stuck := false, clkMissing := false, settle := some ((Eff.start s).sdFilt c.val).2.2 } } }) ∧
    ((x.stuck = false ∧ x.clkMissing = false) ∨ n < 128 → exec (.bitstreamResume c n) s = .next s)) ∧
  (∀ (s : State) (f : Fin 4), exec (.calConverged f) s = .next (if 2 ∈ s.dev.pllLocked then { s with conv := { s.conv with
    fs := smMod ConvF.reset s.conv.fs f.val fun x => { x with calOk := true } } } else s))

/-- On a device that is neither STANDBY nor JOINING, without a CONV commit and on a point not forced: an entry of one conversion of an
unpaired, calibrated converter that has not changed channel or gain, PLL_C locked, writes its DATA times gain plus offset, saturated
with SAT, and its TOFF; with a REASON from the field die it keeps VALUE, sets INVALID, copies REASON and counts. The sequence goes on
to its next entry. A settled sigma-delta channel whose modulator runs writes its corrected value likewise; while it settles the output
carries REASON 3 and one output less is to settle. A converter without a running sequence produces nothing. Only points and converter
state change. -/
def Obligations.ConverterResultsComplete : Prop :=
  (∀ (s : State) (f : Fin 4) (d : Sample) (x : ConvF) (q w cfg ch g pt : Nat) (v toff : Int),
    (smGet Domain.reset s.doms 8).pend = none → x = smGet ConvF.reset s.conv.fs f.val → x.running = some q →
    cfg = s.cv oSeqCfg (4 * f.val + q) → x.entry < field cfg 13 6 → w = s.cv oEntry (32 * f.val + (field cfg 8 5 + x.entry)) →
    entryCount w = 1 → ch = field w 0 3 → g = field w 3 2 → x.prev = some (8 * f.val + ch, g) → x.settle = 0 → x.calOk = true → 2 ∈ s.dev.pllLocked →
    (f.val % 2 = 1 ∨ s.cv oPairMode (f.val / 2) = 0) → pt = 0x1000 + 8 * f.val + ch → smGet none s.faults.forced pt = none →
    s.pair.role ≠ .standby → s.pair.role ≠ .joining →
    v = (signed 32 (s.cv oChGain (4 * (8 * f.val + ch) + g)) * sampleValue d + 2 ^ 29) / 2 ^ 30 +
      signed 32 (s.cv oChOfs (4 * (8 * f.val + ch) + g)) →
    toff = (x.start - s.frame.tk + 2 * (x.conv : Int) * halfEdge) / (4 * nsq) →
    (sampleWhy d = 0 → ∃ t, exec (.entryResult f [d] []) s = .next t ∧
      t.pt pt = mkPoint (satQ31 v) toff (if offQ31 v = true then qSat else 0) 0 ∧
      (smGet ConvF.reset t.conv.fs f.val).entry = x.entry + 1 ∧ t = { s with pts := t.pts, conv := t.conv }) ∧
    (sampleWhy d ≠ 0 → ∃ t, exec (.entryResult f [d] []) s = .next t ∧ t.pt pt = mkPoint (ptVal (s.pt pt)) toff qInvalid (sampleWhy d) ∧
      (smGet ConvF.reset t.conv.fs f.val).entry = x.entry + 1 ∧ (smGet ConvF.reset t.conv.fs f.val).invalid = (x.invalid + 1) % 2 ^ 32 ∧
      t = { s with pts := t.pts, conv := t.conv })) ∧
  (∀ (s : State) (f : Fin 4) (l u : List Sample), (smGet ConvF.reset s.conv.fs f.val).running = none →
    exec (.entryResult f l u) s = .next s) ∧
  (∀ (s : State) (c : Fin 24) (d : Sample) (x : SdCh) (n : Nat) (v : Int), (smGet Domain.reset s.doms 8).pend = none →
    x = smGet SdCh.reset s.conv.sd c.val → x.stuck = false → x.clkMissing = false → x.gap = 0 → x.settle = some n → 2 ∈ s.dev.pllLocked →
    smGet none s.faults.forced (0x1020 + c.val) = none → s.pair.role ≠ .standby → s.pair.role ≠ .joining →
    v = (signed 32 (s.cv oSdxGain c.val) * sampleValue d + 2 ^ 29) / 2 ^ 30 + signed 32 (s.cv oSdxOfs c.val) →
    (n = 0 → sampleWhy d = 0 → ∃ t, exec (.sdOutput c d) s = .next t ∧ ptVal (t.pt (0x1020 + c.val)) = satQ31 v ∧
      ptQual (t.pt (0x1020 + c.val)) = (if offQ31 v = true then qSat else 0) ∧ ptFlags (t.pt (0x1020 + c.val)) = 0 ∧
      (smGet SdCh.reset t.conv.sd c.val).settle = some 0 ∧ t = { s with pts := t.pts, conv := t.conv }) ∧
    (0 < n → ∃ t, exec (.sdOutput c d) s = .next t ∧ ptVal (t.pt (0x1020 + c.val)) = ptVal (s.pt (0x1020 + c.val)) ∧
      ptQual (t.pt (0x1020 + c.val)) = qInvalid ∧ ptFlags (t.pt (0x1020 + c.val)) = 3 ∧
      (smGet SdCh.reset t.conv.sd c.val).settle = some (n - 1) ∧ t = { s with pts := t.pts, conv := t.conv }))

/-- AUX_PROSPECT that passes tests an idle output at once where no test runs, and answers RESULT 1 for one energised, under test or
waiting. The last test ends, no earlier than its two waits of AX_SETTLE and 50 µs, with its result and voltages; PASS raises nothing,
nor an open load with AX_LOAD 0 (assumption 58); a short to ground or supply or another open load is noted and reported (only
recorded). An output ordered energised during its test ends it with ABORTED and energises, where no overcurrent or overtemperature
latch and no low VAUX forbids it. On an ACTIVE device an overcurrent above the largest threshold for 100 µs outside the blanking
latches the output off, one at or below the least threshold does nothing; blanking ends when AX_OC_BLANK has passed; a hot output goes
off, a cooled one comes back on as commanded; AUX_CLEAR clears the overcurrent latch. AX_OC_BLANK begins at each change to energised.
Only the outputs, the tests that wait and the collector change. -/
def Obligations.AuxiliaryOutputsComplete : Prop :=
  (∀ (s : State) (q : Req) (n : Byte) (lvl sid : Nat), s.Invoked q oAuxProspect [n] 1 true lvl sid → n.toNat < 16 →
    ((smGet Aux.reset s.aux n.toNat).energised = false → (smGet Aux.reset s.aux n.toNat).testing = false → s.dev.auxTodo = [] →
      ∃ t, exec (.auxProspect q [n]) s = .next t ∧ t.Replied q 3 (ansResult 0) ∧ (smGet Aux.reset t.aux n.toNat).testing = true ∧
        t = { s with sess := t.sess, sent := t.sent, aux := t.aux, faults := t.faults, dev := { s.dev with auxTodo := [n.toNat] } }) ∧
    ((smGet Aux.reset s.aux n.toNat).energised = true ∨ (smGet Aux.reset s.aux n.toNat).testing = true ∨ n.toNat ∈ s.dev.auxTodo →
      ∃ t, exec (.auxProspect q [n]) s = .next t ∧ t.Replied q 3 (ansResult 1) ∧ t = { s with sess := t.sess, sent := t.sent })) ∧
  (∀ (s : State) (n : Fin 16) (va vb vaux r : Nat), (smGet Aux.reset s.aux n.val).testing = true → s.dev.auxTodo = [n.val] →
    s.dev.state ≠ .discover → va < 65536 → vb < 65536 → r = auxResult n.val va vb vaux (s.cv oAxRmin n.val) →
    (smGet Aux.reset s.aux n.val).testAt + 2 * (s.cv oAxSettle 0 * 1000 + 50000) ≤ s.time.up →
    (r = 1 ∨ (r = 2 ∧ s.cv oAxLoad n.val = 0) → ∃ t, exec (.auxTestDone n va vb vaux) s = .next t ∧
      (∃ a, smGet Aux.reset t.aux n.val = a ∧ a.testing = false ∧ a.result = r ∧ a.va = va ∧ a.vb = vb) ∧
      t = { s with aux := t.aux, faults := t.faults, dev := { s.dev with auxTodo := [] } }) ∧
    (∀ kind, (r, kind) ∈ [(2, kAuxOpen), (3, kAuxShortVaux), (4, kAuxShortGnd)] → (r = 2 → s.cv oAxLoad n.val ≠ 0) → s.Quiet kind (0x9000 + n.val) →
      ∃ t, exec (.auxTestDone n va vb vaux) s = .next t ∧ (smGet Aux.reset t.aux n.val).result = r ∧
        t = { s with aux := t.aux, faults := t.faults, dev := { s.dev with auxTodo := [], discFaults := kind :: s.dev.discFaults } })) ∧
  (∀ (s : State) (n : Fin 16) (va vb vaux : Nat), ((smGet Aux.reset s.aux n.val).testing = false ∨
      s.time.up < (smGet Aux.reset s.aux n.val).testAt + 2 * (s.cv oAxSettle 0 * 1000 + 50000)) →
    exec (.auxTestDone n va vb vaux) s = .next s) ∧
  (∀ (s : State) (n : Fin 16), (smGet Aux.reset s.aux n.val).testing = false → exec (.auxTestAbort n) s = .next s) ∧
  (∀ (s : State) (n : Fin 16) (a : Aux), a = smGet Aux.reset s.aux n.val → a.testing = true → s.pair.role = .active →
    (∀ m ∈ s.dev.auxTodo, m = n.val) → ∃ t, exec (.auxTestAbort n) s = .next t ∧
      smGet Aux.reset t.aux n.val = Aux.inrush a.energised s.time.up { a with
        cmd := true, mode2 := false, duty := 0, energised := !a.oc && !a.ot && !(Eff.start s).vauxLow, testing := false, result := 5 } ∧
      t = { s with aux := t.aux, faults := t.faults, dev := { s.dev with auxTodo := [] } }) ∧
  (∀ (s : State) (n : Fin 16) (ma us : Nat) (a : Aux), a = smGet Aux.reset s.aux n.val → s.pair.role = .active →
    (ma ≤ (if n.val < 8 then 2500 else 1250) → exec (.auxOvercurrent n ma us) s = .next s) ∧
    ((if n.val < 8 then 3500 else 1750) < ma → 100 ≤ us → a.energised = true →
      a.blanking = false ∨ a.blankAt + s.cv oAxOcBlank n.val * 1000000 ≤ s.time.up → s.Quiet kAuxOvercurrent (0x9000 + n.val) →
      ∃ t, exec (.auxOvercurrent n ma us) s = .next t ∧ smGet Aux.reset t.aux n.val = { a with oc := true, energised := false } ∧
        t = { s with aux := t.aux, faults := t.faults })) ∧
  (∀ (s : State) (n : Fin 16) (a : Aux), a = smGet Aux.reset s.aux n.val → a.blanking = true → s.pair.role = .active →
    exec (.auxOcBlankEnd n) s = .next (if a.blankAt + s.cv oAxOcBlank n.val * 1000000 ≤ s.time.up then
      { s with aux := smMod Aux.reset s.aux n.val fun a => { a with blanking := false } } else s)) ∧
  (∀ (s : State) (n : Fin 16) (a : Aux), a = smGet Aux.reset s.aux n.val → s.pair.role = .active →
    (a.ot = false → s.Quiet kAuxOvertemp (0x9000 + n.val) → ∃ t, exec (.auxOvertemp n true) s = .next t ∧
      smGet Aux.reset t.aux n.val = { a with ot := true, energised := false } ∧ t = { s with aux := t.aux, faults := t.faults }) ∧
    (∃ t, exec (.auxOvertemp n false) s = .next t ∧
      t = { s with
        faults := t.faults
        aux := smMod Aux.reset s.aux n.val fun a => Aux.inrush a.energised s.time.up { a with
          ot := false, energised := a.cmd && !a.oc && !(Eff.start s).vauxLow } })) ∧
  (∀ (s : State) (q : Req) (n : Byte) (lvl sid : Nat) (a : Aux), s.Invoked q oAuxClear [n] 2 false lvl sid → n.toNat < 16 →
    a = smGet Aux.reset s.aux n.toNat → s.pair.role = .active →
    ∃ t, exec (.auxClear q [n]) s = .next t ∧ t.Replied q 3 ansOk ∧
      t = { s with
        sess := t.sess, sent := t.sent, faults := t.faults
        aux := smMod Aux.reset s.aux n.toNat fun a => Aux.inrush a.energised s.time.up { a with
          oc := false, energised := a.cmd && !a.ot && !(Eff.start s).vauxLow } })

/-- A listed source that reports a listed kind (not one of SRAM), without a journal hold: class 0 or 1 only records. On an ACTIVE device
class 2 sets DERATE_CAUSES bit 0 with its instant, class 3 makes the named cell depart, class 4 latches the hub stage with all gates
off and bit 1 (told to nobody without a standby), class 5 and 7, and class 6 without a STANDBY peer, trip the cascade with that cause
and order SAFE with cause 5 (no gate holding a latched EARLY, the kind not one with a cause of its own), class 6 with a STANDBY peer
retires the device. On a device not ACTIVE classes 2 to 5 only record, marked not acted on, and classes 6 and 7 retire a STANDBY or
JOINING device. A reserved source or kind raises nothing. An uncorrectable error in the point store sets trouble bit 9 and makes the
point INVALID with REASON 15 and the VALUE its reader last consumed, else a free value. The repeat of a TRIP goes out 1 µs after the
first, once, on every LOCKED lane. -/
def Obligations.FaultReactionsComplete : Prop :=
  (∀ (s : State) (src : BitVec 12) (kind : Byte) (addr : BitVec 32) (ms ty : Nat), isSource src.toNat = false ∨ kind? kind.toNat = none →
    exec (.faultReport src kind addr ms ty) s = .next s) ∧
  (∀ (s : State) (src : BitVec 12) (kind : Byte) (addr : BitVec 32) (ms ty cls : Nat), isSource src.toNat = true →
    kind? kind.toNat ≠ none → sramKind kind.toNat = false → kind.toNat ≠ kSramUe → cls = (Eff.start s).classOf kind.toNat addr.toNat →
    cls < s.cv oJrnlHoldClass 0 ∨ s.cv oJrnlHoldClass 0 = 0xFF →
    (cls ≤ 1 → exec (.faultReport src kind addr ms ty) s = .next { s with faults := s.noted src.toNat kind.toNat addr.toNat }) ∧
    (cls = 2 → s.pair.role = .active → exec (.faultReport src kind addr ms ty) s = .next { s with
      faults := s.noted src.toNat kind.toNat addr.toNat
      dev := { s.dev with derate := s.dev.derate ||| 1, derateClear := none, derateSince := s.time.up } }) ∧
    (∀ c, cls = 3 → s.pair.role = .active → scopeCell kind.toNat addr.toNat = some c →
      exec (.faultReport src kind addr ms ty) s = .next { s with
        faults := s.noted src.toNat kind.toNat addr.toNat, chain := { s.chain with departs := s.chain.departs ++ [(c, 4)] } }) ∧
    (cls = 4 → s.pair.role = .active → s.pair.standby = false → ∃ t, exec (.faultReport src kind addr ms ty) s = .next t ∧
      t.gate = { s.gate with
        stage := true, gates := (List.range 24).foldl (fun m k => smMod Gate.reset m k (Gate.shut s.time.up)) s.gate.gates } ∧
      t = { s with
        faults := s.noted src.toNat kind.toNat addr.toNat, gate := t.gate
        dev := { s.dev with derate := s.dev.derate ||| 2, derateClear := none } }) ∧
    (cls = 5 ∨ cls = 7 ∨ (cls = 6 ∧ (Eff.start s).hasStandby = false) → s.pair.role = .active → s.dev.state ∉ [.off, .boot, .safe] →
      (Eff.start s).earlyGates = [] → kind.toNat ∉ [kNminLost, kPwrFail, kTripAction] →
      ∃ t, exec (.faultReport src kind addr ms ty) s = .next t ∧ s.Tripped t cls ∧
        (∀ u < 12, (smGet HubLeg.reset t.hub.legs u).safeHeld = true) ∧
        t.dev = { s.dev with tripRepeat := some (tripBlock cls s.pair.epoch s.frame.k, s.time.up), events := s.dev.events ++ [⟨.safe, 5, .nobody⟩] } ∧
        t = { s with faults := s.noted src.toNat kind.toNat addr.toNat, sent := t.sent, dev := t.dev, hub := t.hub, gate := t.gate }) ∧
    (cls = 6 → s.pair.role = .active → (Eff.start s).hasStandby = true → (Eff.start s).earlyGates = [] →
      ∃ t, exec (.faultReport src kind addr ms ty) s = .next t ∧ t.pair.role = .retired ∧ t.pair.finishing = true ∧ t.pair.claim = false ∧
        t.gate.hiZ = true) ∧
    (2 ≤ cls → cls ≤ 5 → s.pair.role ≠ .active → ∃ t m, exec (.faultReport src kind addr ms ty) s = .next t ∧
      t.faults.last = some m ∧ m = { s.message src.toNat kind.toNat addr.toNat with notActed := true } ∧ t = { s with faults := t.faults }) ∧
    (cls = 6 ∨ cls = 7 → s.pair.role = .standby ∨ s.pair.role = .joining → (Eff.start s).earlyGates = [] →
      ∃ t, exec (.faultReport src kind addr ms ty) s = .next t ∧ t.pair.role = .retired)) ∧
  (∀ (s : State) (src : BitVec 12) (addr : BitVec 32) (ms ty : Nat), isSource src.toNat = true → addr.toNat < 0x1000000 →
    s.Quiet kSramUe addr.toNat → ∃ t, exec (.faultReport src (BitVec.ofNat 8 kSramUe) addr ms ty) s = .next t ∧
      t.trouble = s.trouble ||| 2 ^ 9 ∧
      ptVal (t.pt (addr.toNat / 8)) =
        ((Eff.start s).lastConsumed (ms % 16) (addr.toNat / 8)).getD (Config.freeWord s.free).toInt ∧
      bitOf (ptQual (t.pt (addr.toNat / 8))) 2 = true ∧ ptFlags (t.pt (addr.toNat / 8)) % 16 = 15 ∧
      t = { s with pts := t.pts, trouble := t.trouble, faults := t.faults, jrnl := t.jrnl, free := s.free + 1 }) ∧
  (∀ s : State, s.dev.tripRepeat = none → exec .tripRepeat s = .next s) ∧
  (∀ (s : State) (b : Block) (at0 : Nat), s.dev.tripRepeat = some (b, at0) →
    (s.time.up < at0 + 1000 → exec .tripRepeat s = .next s) ∧
    (at0 + 1000 ≤ s.time.up → ∃ t, exec .tripRepeat s = .next t ∧ (∀ l < 26, s.locked l → Out.trip l b ∈ t.sent) ∧
      t = { s with sent := t.sent, dev := { s.dev with tripRepeat := none } }))

/-- The queue takes the message that has waited longest while it has space, else nothing. A register that has waited through 2 µs of a full
queue is dropped, counted in LOST with its merges and sets OVERFLOW; before, nothing happens. The oldest message of the queue becomes
the newest ring entry with the next SEQ, the ring holding at most 32,766. 10 s after an entry to SAFE, or LEDGER_STORE_MIN after the
last store where entries have been added, a store of FIRST, LAST and the ring starts where none runs, flash suffices and power holds,
in the bank without the newest valid record, whose slot it erases. FIRST_ERR_REARM frees FIRST_ERR. LEDGER_READ answers up to COUNT
entries from SEQ on, oldest first, and FIRST under 0xFFFFFFF0. LEDGER_CLEAR empties the ring and leaves LEDGER_CLEARED as FIRST (its
report only recorded). -/
def Obligations.LedgerPathComplete : Prop :=
  (∀ (s : State) (src : Nat) (m : Entry), s.oldestHeld = some (src, m) →
    (s.queue.length < 256 → exec .queueAccept s = .next { s with
      queue := s.queue ++ [m]
      faults := { s.faults with
        holding := smSet none s.faults.holding src none, heldSince := smSet 0 s.faults.heldSince src 0
        fullAt := if s.queue.length = 255 then s.time.up else s.faults.fullAt } }) ∧
    (256 ≤ s.queue.length → exec .queueAccept s = .next s)) ∧
  (∀ s : State, s.oldestHeld = none → exec .queueAccept s = .next s) ∧
  (∀ (s : State) (src : BitVec 12) (m : Entry), smGet none s.faults.holding src.toNat = some m →
    (s.queue.length ≠ 256 ∨ s.time.up < max s.faults.fullAt (smGet 0 s.faults.heldSince src.toNat) + 2000 →
      exec (.holdingDrop src) s = .next s) ∧
    (s.queue.length = 256 → max s.faults.fullAt (smGet 0 s.faults.heldSince src.toNat) + 2000 ≤ s.time.up → ∃ t, exec (.holdingDrop src) s = .next t ∧ t.trouble = s.trouble ||| 4 ∧
      t.faults.holding = smSet none s.faults.holding src.toNat none ∧
      t.faults.lost = smMod 0 s.faults.lost (m.kind / 32) (fun n => (n + 1 + m.merges) % 2 ^ 32) ∧
      t = { s with trouble := t.trouble, faults := t.faults })) ∧
  (∀ (s : State) (src : BitVec 12), smGet none s.faults.holding src.toNat = none → exec (.holdingDrop src) s = .next s) ∧
  (∀ (s : State) (m : Entry) (r : List Entry), s.queue = m :: r → s.dev.state ≠ .boot ∨ 5 ≤ s.dev.bootStage →
    ∃ t, exec .ledgerDrain s = .next t ∧ t.queue = r ∧
      t.ring = ({ m with seq := (s.faults.ledgerSeq + 1) % 2 ^ 32 } :: s.ring).take 32766 ∧
      t.faults.ledgerSeq = (s.faults.ledgerSeq + 1) % 2 ^ 32 ∧ t = { s with queue := t.queue, ring := t.ring, faults := t.faults }) ∧
  (∀ s : State, s.queue = [] → exec .ledgerDrain s = .next s) ∧
  (∀ (s : State) (safe due : Prop) (bank : Nat) (f : FaultSt), safe = (∃ a, s.faults.safeEntry = some a ∧ a + 10000000000 ≤ s.time.up) →
    due = (s.faults.storedSeq < (s.ring.head?.map (·.seq)).getD 0 ∧ s.faults.lastStore + s.cv oLedgerStoreMin 0 * 60000000000 ≤ s.time.up) →
    bank = (if (Eff.start s).newestSeq 0x20 = 0 then 0 else 1 - (Eff.start s).newestBank 0x20) →
    (safe ∧ f = { s.faults with safeEntry := none }) ∨ (¬safe ∧ f = s.faults) →
    (safe ∨ due → s.persist.job = none → s.persist.small = false → s.dev.pwrFail = false → s.clk.holdup = false →
      exec .ledgerStore s = .next { s with
        faults := f
        persist := { s.persist with
          ledger := smSet none s.persist.ledger bank none, job := some ⟨[0x20], bank, [], s.faults.first, s.faults.last, s.ring⟩ } }) ∧
    (safe ∨ due → s.persist.job = none → s.persist.small = true ∨ s.dev.pwrFail = true ∨ s.clk.holdup = true →
      exec .ledgerStore s = .next { s with faults := f }) ∧
    ((¬safe ∧ ¬due) ∨ s.persist.job ≠ none → exec .ledgerStore s = .next s)) ∧
  (∀ (s : State) (q : Req) (lvl sid : Nat), s.Invoked q oFirstErrRearm [] 2 false lvl sid →
    ∃ t, exec (.firstErrRearm q []) s = .next t ∧ t.Replied q 3 ansOk ∧
      t = { s with sess := t.sess, sent := t.sent, faults := { s.faults with firstErr := none } }) ∧
  (∀ (s : State) (q : Req) (args : List Byte) (lvl sid sq n : Nat), s.Invoked q oLedgerRead args 2 false lvl sid → args.length = 5 →
    fieldLe args 0 4 = sq → octet args 4 = n → 1 ≤ n → n ≤ 40 →
    (∀ m, sq = 0xFFFFFFF0 → s.faults.first = some m → ∃ t, exec (.ledgerRead q args) s = .next t ∧ t.Replied q 3 (ansOk m.octets) ∧
      t = { s with sess := t.sess, sent := t.sent }) ∧
    (∀ l, sq < 0xFFFFFFF0 → l = (s.ring.reverse.filter fun m => decide (sq ≤ m.seq)).take n → l ≠ [] →
      ∃ t, exec (.ledgerRead q args) s = .next t ∧ t.Replied q 3 (ansOk (l.flatMap Entry.octets)) ∧
        t = { s with
          sess := t.sess, sent := t.sent
          faults := { s.faults with readUpTo := max s.faults.readUpTo (l.foldl (fun a m => max a m.seq) 0) } })) ∧
  (∀ (s : State) (q : Req) (lvl sid : Nat), s.Invoked q oLedgerClear [] 2 false lvl sid → s.Quiet kLedgerCleared sid →
    ∃ t, exec (.ledgerClear q []) s = .next t ∧ t.Replied q 3 ansOk ∧ t.ring = [] ∧
      t.faults.first = some (s.message 0x082 kLedgerCleared sid) ∧
      t = { s with sess := t.sess, sent := t.sent, ring := [], faults := t.faults })

/-- INJECT_OPEN with D from 1 to 3,600 s and MODE 0 or 1 opens the session until D has passed, BUSY where one is open and not past its end.
Its holder closes it, with every forced point to be released; of another session the answer is RESULT 1; at its end it closes itself,
before nothing happens. FORCE by the holder raises a message of a class that only records, marked forced; by another RESULT 1.
FORCE_POINT of a snapshot point by the holder acts at the next frame start on a device without a standby. EV_SUBSCRIBE registers and
deregisters a session, OK or NOCHANGE. An event that occurred since the last notification, routed to notifications, is told once to a
session on UDP, with its count, and counted from 0 again; one that did not occur, or is not routed, is not told. -/
def Obligations.InjectionAndEventsComplete : Prop :=
  (∀ (s : State) (q : Req) (args : List Byte) (lvl sid d m : Nat), s.Invoked q oInjectOpen args 2 false lvl sid → args.length = 3 →
    fieldLe args 0 2 = d → octet args 2 = m → 1 ≤ d → d ≤ 3600 → m ≤ 1 →
    (s.faults.inject = none → ∃ t, exec (.injectOpen q args) s = .next t ∧ t.Replied q 3 ansOk ∧
      t = { s with
        sess := t.sess, sent := t.sent, faults := { s.faults with inject := some ⟨sid, m, s.time.up + d * 1000000000⟩ } }) ∧
    (∀ i, s.faults.inject = some i → s.time.up < i.ends → ∃ t, exec (.injectOpen q args) s = .next t ∧ t.Replied q 3 (ansErr stBusy) ∧
      t = { s with sess := t.sess, sent := t.sent })) ∧
  (∀ (s : State) (q : Req) (lvl sid : Nat), s.Invoked q oInjectClose [] 2 false lvl sid →
    (∀ i, s.faults.inject = some i → i.sess = sid → s.time.up < i.ends → ∃ t, exec (.injectClose q []) s = .next t ∧
      t.Replied q 3 (ansResult 0) ∧
      t = { s with sess := t.sess, sent := t.sent, faults := { s.faults with inject := none, releaseAll := true } }) ∧
    ((∀ i, s.faults.inject = some i → i.sess ≠ sid ∨ i.ends ≤ s.time.up) → ∃ t, exec (.injectClose q []) s = .next t ∧ t.Replied q 3 (ansResult 1) ∧
      t = { s with sess := t.sess, sent := t.sent })) ∧
  (∀ (s : State) (i : Inject), s.faults.inject = some i → exec .injectExpiry s = .next (if i.ends ≤ s.time.up then
    { s with faults := { s.faults with inject := none, releaseAll := true } } else s)) ∧
  (∀ (s : State) (q : Req) (args : List Byte) (lvl sid src k a : Nat), s.Invoked q oForce args 2 false lvl sid → args.length = 7 →
    fieldLe args 0 2 = src → octet args 2 = k → fieldLe args 3 4 = a → isSource src = true → kind? k ≠ none →
    (∀ i, s.faults.inject = some i → i.sess = sid → s.time.up < i.ends → s.Quiet k a → ∃ t m, exec (.force q args) s = .next t ∧ t.Replied q 3 (ansResult 0) ∧
      t.faults.last = some m ∧ m = { s.message src k a with forced := true } ∧
      t = { s with sess := t.sess, sent := t.sent, faults := t.faults }) ∧
    ((∀ i, s.faults.inject = some i → i.sess ≠ sid ∨ i.ends ≤ s.time.up) → ∃ t, exec (.force q args) s = .next t ∧ t.Replied q 3 (ansResult 1) ∧
      t = { s with sess := t.sess, sent := t.sent })) ∧
  (∀ (s : State) (q : Req) (args : List Byte) (lvl sid : Nat) (i : Inject), s.Invoked q oForcePoint args 2 true lvl sid → args.length = 9 →
    octet args 4 = 1 → (Eff.start s).inSnapshot (fieldLe args 0 4) = true → s.faults.inject = some i → i.sess = sid → s.time.up < i.ends →
    (Eff.start s).forcedSoon.length < 16 → s.pair.standby = false →
    ∃ t, exec (.forcePoint q args) s = .next t ∧ t.Replied q 3 (ansResultFrame 0 (s.frame.k + 1)) ∧
      t = { s with
        sess := t.sess, sent := t.sent, pair := { s.pair with timed := s.pair.timed ++ [(s.frame.k + 1, oForcePoint, args)] } }) ∧
  (∀ (s : State) (q : Req) (lvl sid : Nat), s.Invoked q oEvSubscribe [1] 0 false lvl sid → sid ≠ 0 →
    (s.faults.subs.any (·.sess == sid) = true → ∃ t, exec (.evSubscribe q [1]) s = .next t ∧ t.Replied q 3 ansNoChange ∧
      t = { s with sess := t.sess, sent := t.sent }) ∧
    (s.faults.subs.any (·.sess == sid) = false → s.faults.subs.length < 4 → ∃ t, exec (.evSubscribe q [1]) s = .next t ∧
      t.Replied q 3 ansOk ∧
      t = { s with sess := t.sess, sent := t.sent, faults := { s.faults with subs := s.faults.subs ++ [⟨sid, [], []⟩] } })) ∧
  (∀ (s : State) (q : Req) (lvl sid : Nat), s.Invoked q oEvSubscribe [0] 0 false lvl sid → sid ≠ 0 →
    s.faults.subs.any (·.sess == sid) = true → ∃ t, exec (.evSubscribe q [0]) s = .next t ∧ t.Replied q 3 ansOk ∧
      t = { s with sess := t.sess, sent := t.sent, faults := { s.faults with subs := s.faults.subs.filter (·.sess != sid) } }) ∧
  (∀ (s : State) (slot : Fin 8) (ev : Fin 128) (x : Session) (b : Sub) (n : Nat), smGet none s.sess.slots slot.val = some x →
    s.faults.subs.find? (·.sess == x.id) = some b → n = smGet 0 b.counts ev.val →
    (n = 0 ∨ bitOf (s.cv oEvRoute ev.val) 2 = false → exec (.eventNotification slot ev) s = .next s) ∧
    (∀ e ip port, n ≠ 0 → bitOf (s.cv oEvRoute ev.val) 2 = true → smGet 0 b.lastAt ev.val + 10000000 ≤ s.time.up → x.src = .udp e ip port →
      ∃ t tag, exec (.eventNotification slot ev) s = .next t ∧
        t.sent = Out.dap x.src (dapOctets 2 0x20 ((Config.freeWord s.free).toNat % 65536) x.id (le 2 ev.val ++ le 2 (n % 65536) ++
          le 8 s.frame.k ++ le 8 (if ev.val < 8 then smGet 0 s.faults.evMsg ev.val else 0)) ++ tag) :: s.sent ∧
        t.faults.subs = (s.faults.subs.map fun b => if b.sess = x.id then { b with
          counts := smSet 0 b.counts ev.val 0, lastAt := smSet 0 b.lastAt ev.val (max s.time.up 1) } else b) ∧
        t = { s with sent := t.sent, free := s.free + 1, faults := t.faults }))

/-- On an ACTIVE device without a standby DISP_EMERG, SOC_SET of a contracted port and METER_ACK act at the next frame start and are
answered at once (SOC_SET with that frame), with a standby they wait for it; SOC_SET of a port without contract is RESULT 1. Their
effects there: SOC_SET sets the state of charge in units of 0.01 % and anchors it, METER_ACK marks every record of the port up to
REC_SEQ. METER_CLOSE acts at the next frame start. METER_READ answers the record with its REC_SEQ, or NO_OBJECT. METER_SIGN takes the
oldest close of a port whose frame's deadline has passed, builds its record with the digest of the record before it (zeros and
CHAIN_BREAK, but on the first, where that is not held), signs and keeps it as the newest of at most 96; without such a close or on a
device not ACTIVE it does nothing. -/
def Obligations.MeterAndDispatcherRequestsComplete : Prop :=
  (∀ (s : State) (q : Req) (lvl sid right obj : Nat) (result : Bool) (args : List Byte) (c : Instr),
    ((∃ b : Byte, b.toNat ≤ 1 ∧ args = [b] ∧ obj = oDispEmerg ∧ right = 1 ∧ result = false ∧ c = Instr.dispEmerg q args) ∨
      (args.length = 3 ∧ octet args 0 < 192 ∧ fieldLe args 1 2 ≤ 10000 ∧ (Eff.start s).contracted (octet args 0) = true ∧ obj = oSocSet ∧
        right = 2 ∧ result = true ∧ c = .socSet q args) ∨
      (args.length = 5 ∧ octet args 0 < 192 ∧ obj = oMeterAck ∧ right = 1 ∧ result = false ∧ c = .meterAck q args)) →
    s.Invoked q obj args right true lvl sid →
    (s.pair.standby = false → ∃ t, exec c s = .next t ∧ t.Replied q 3 (if result = true then ansResultFrame 0 (s.frame.k + 1) else ansOk) ∧
      t = { s with sess := t.sess, sent := t.sent, pair := { s.pair with timed := s.pair.timed ++ [(s.frame.k + 1, obj, args)] } }) ∧
    (s.pair.standby = true → ∃ t, exec c s = .next t ∧
      t.pair.waitActs = s.pair.waitActs ++ [⟨obj, args, s.pair.nextCseq, s.frame.k + 2, result, .req q⟩] ∧
      t = { s with sess := t.sess, sent := t.sent, pair := t.pair })) ∧
  (∀ (s : State) (q : Req) (args : List Byte) (lvl sid : Nat), s.Invoked q oSocSet args 2 true lvl sid → args.length = 3 → octet args 0 < 192 →
    fieldLe args 1 2 ≤ 10000 → s.cv oContractPack (octet args 0) = 0 → ∃ t, exec (.socSet q args) s = .next t ∧
      t.Replied q 3 (ansResultFrame 1 0) ∧ t = { s with sess := t.sess, sent := t.sent }) ∧
  (∀ (s : State) (args : List Byte),
    ((Eff.start s).applyCore oSocSet args).st = { s with meter := { s.meter with
      ports := smMod MPort.reset s.meter.ports (octet args 0) fun m => { m with
        soc := rdiv (fieldLe args 1 2 * 2 ^ 40) 10000, anchored := true } } } ∧
    ((Eff.start s).applyCore oMeterAck args).st = { s with meter := { s.meter with
      ports := smMod MPort.reset s.meter.ports (octet args 0) fun m => { m with
        recs := m.recs.map fun r => if r.1 ≤ fieldLe args 1 4 then (r.1, r.2.1, true) else r } } }) ∧
  (∀ (s : State) (q : Req) (n : Byte) (lvl sid : Nat), s.Invoked q oMeterClose [n] 1 false lvl sid → n.toNat < 192 ∨ n.toNat = 255 →
    s.pair.standby = false → ∃ t, exec (.meterClose q [n]) s = .next t ∧ t.Replied q 3 ansOk ∧
      t = { s with
        sess := t.sess, sent := t.sent, pair := { s.pair with timed := s.pair.timed ++ [(s.frame.k + 1, oMeterClose, [n])] } }) ∧
  (∀ (s : State) (q : Req) (args : List Byte) (lvl sid : Nat) (r : Option (Nat × List Byte × Bool)), s.Invoked q oMeterRead args 1 false lvl sid →
    args.length = 5 → octet args 0 < 192 → r = (smGet MPort.reset s.meter.ports (octet args 0)).recs.find? (·.1 == fieldLe args 1 4) →
    ∃ t, exec (.meterRead q args) s = .next t ∧ t.Replied q 3 (r.elim (ansErr stNoObject) fun r => ansOk r.2.1) ∧
      t = { s with sess := t.sess, sent := t.sent }) ∧
  (∀ (s : State) (n : Fin 192), s.pair.role ≠ .active ∨ (Eff.start s).closeOpen n.val = true ∨ s.meter.closes.find? (·.port == n.val) = none → exec (.meterSign n) s = .next s) ∧
  (∀ (s : State) (n : Fin 192) (c : MClose) (p : MPort) (prev : Option (Nat × List Byte × Bool)) (m sig : List Byte), s.pair.role = .active →
    s.pair.standby = false → s.cv oStreamMeter 0 ≠ 1 → (Eff.start s).closeOpen n.val = false → s.meter.closes.find? (·.port == n.val) = some c →
    p = smGet MPort.reset s.meter.ports n.val → p.recs.length < 96 →
    prev = (p.recs.find? fun r => decide ((r.1 + 1) % 2 ^ 32 = c.seq)) →
    m = [0x47#8, 0x4D#8, 0x52#8, 0x31#8, 1#8] ++ le 1 n.val ++ le 1 c.cause ++
      le 1 (c.flags + 16 * ofBool (c.seq != 0 && prev.isNone)) ++ le 8 Config.serial.toNat ++ le 4 c.seq ++ c.body ++
      prev.elim (zeros 32) (fun r => sha256 r.2.1) →
    sig = meterSignature (sha256 m) →
    exec (.meterSign n) s = .next { s with meter := { s.meter with
      closes := s.meter.closes.filter (· != c)
      ports := smMod MPort.reset s.meter.ports n.val fun p => { p with recs := (c.seq, m ++ sig, false) :: p.recs } } })

/-- On the selected port of a device that is no master a Sync with an interval of 1/16 s to 2 s is kept until its Follow_Up, or yields
PTP_OFFSET = t2 - t1 - path delay - corrections - asymmetry at once (here where PTP does not steer, or for the first sample of a FREE
servo); any other Sync is ignored. Delay_Resp and Pdelay_Resp of the outstanding request yield the path delay (asymmetry placed as in
assumption 123), others nothing. A Pdelay_Req is answered with its turnaround (a free value); a Delay_Req by a master of the end-to-end
profile alone. An Announce joins what its port knows; the best master of two Announces on the port in use gives UTC and leap flags, and
the device is master where it is ACTIVE, not slave only and its own data set better; the timeout empties the port, AUTO going over to
E1. Sync and Announce go out on a master, Delay_Req on an end-to-end slave, Pdelay_Req with the peer mechanism, numbered by kind. -/
def Obligations.PtpMessagesComplete : Prop :=
  (∀ (s : State) (m : Fin 2) (sq : BitVec 16) (two : Bool) (t1 ing cor li : Int),
    m.val ≠ (Eff.start s).ptpSelected ∨ li < -4 ∨ 1 < li ∨ (Eff.start s).ptpMaster = true →
    exec (.ptpSyncReceive m sq two t1 ing cor li) s = .next s) ∧
  (∀ (s : State) (m : Fin 2) (sq : BitVec 16) (t1 ing cor li t2 o : Int), m.val = (Eff.start s).ptpSelected → -4 ≤ li → li ≤ 1 →
    (Eff.start s).ptpMaster = false → t2 = ing - (Eff.start s).ptpConst oPtpIngressLat m.val →
    o = t2 - t1 - (smGet PtpPort.reset s.time.ports m.val).pathDelay - cor - (Eff.start s).ptpConst oPtpAsym m.val →
    li ≠ 0 ∨ smWf PtpPort.reset s.time.ports = true →
    exec (.ptpSyncReceive m sq true t1 ing cor li) s = .next { s with time := { s.time with
      ports := smMod PtpPort.reset s.time.ports m.val fun p => { p with
        syncSeq := sq.toNat, syncT2 := some t2, syncCorr := cor, t1 := t1, t2 := t2, interval := li } } } ∧
    (s.time.source ≠ 1 → exec (.ptpSyncReceive m sq false t1 ing cor li) s = .next { s with time := { s.time with
      ptpOffset := o
      ports := smMod PtpPort.reset s.time.ports m.val fun p => { p with
        syncSeq := sq.toNat, syncT2 := none, syncCorr := cor, t1 := t1, t2 := t2, interval := li } } }) ∧
    (s.time.source = 1 → s.time.servo = .free → s.time.samples = [] → exec (.ptpSyncReceive m sq false t1 ing cor li) s = .next { s with
      time := { s.time with
        ptpOffset := o, samples := [o], lastSample := o, servo := .acquire, lastSampleAt := s.time.up
        ports := smMod PtpPort.reset s.time.ports m.val fun p => { p with
          syncSeq := sq.toNat, syncT2 := none, syncCorr := cor, t1 := t1, t2 := t2, interval := li } } })) ∧
  (∀ (s : State) (m : Fin 2) (sq : BitVec 16) (t1 cor t2 : Int) (p : PtpPort), p = smGet PtpPort.reset s.time.ports m.val →
    (p.syncT2 = none ∨ p.syncSeq ≠ sq.toNat ∨ m.val ≠ (Eff.start s).ptpSelected ∨ (Eff.start s).ptpMaster = true →
      exec (.ptpFollowUpReceive m sq t1 cor) s = .next s) ∧
    (p.syncT2 = some t2 → p.syncSeq = sq.toNat → m.val = (Eff.start s).ptpSelected → (Eff.start s).ptpMaster = false → s.time.source ≠ 1 →
      smWf PtpPort.reset s.time.ports = true →
      exec (.ptpFollowUpReceive m sq t1 cor) s = .next { s with time := { s.time with
        ptpOffset := t2 - t1 - p.pathDelay - (p.syncCorr + cor) - (Eff.start s).ptpConst oPtpAsym m.val
        ports := smMod PtpPort.reset s.time.ports m.val fun p => { p with syncT2 := none, t1 := t1, syncCorr := p.syncCorr + cor } } })) ∧
  (∀ (s : State) (m : Fin 2) (sq : BitVec 16) (t4 cor : Int) (p : PtpPort), p = smGet PtpPort.reset s.time.ports m.val →
    ((∀ t3, p.reqT3 ≠ some (sq.toNat, t3)) → exec (.ptpDelayRespReceive m sq t4 cor) s = .next s) ∧
    (∀ t3 d, p.reqT3 = some (sq.toNat, t3) →
      d = ((p.t2 - t3) + (t4 - p.t1) - (p.syncCorr + (Eff.start s).ptpConst oPtpAsym m.val) - cor) / 2 →
      exec (.ptpDelayRespReceive m sq t4 cor) s = .next { s with time := { s.time with
        pathDelay := d, ports := smMod PtpPort.reset s.time.ports m.val fun p => { p with pathDelay := d, reqT3 := none } } })) ∧
  (∀ (s : State) (m : Fin 2) (sq : BitVec 16) (ing tu : Int) (p : PtpPort), p = smGet PtpPort.reset s.time.ports m.val →
    ((∀ t1, p.pdelT1 ≠ some (sq.toNat, t1)) → exec (.ptpPdelayRespReceive m sq ing tu) s = .next s) ∧
    (∀ t1 d, p.pdelT1 = some (sq.toNat, t1) →
      d = (ing - (Eff.start s).ptpConst oPtpIngressLat m.val - t1 - (tu + (Eff.start s).ptpConst oPtpAsym m.val)) / 2 →
      exec (.ptpPdelayRespReceive m sq ing tu) s = .next { s with time := { s.time with
        pathDelay := d, ports := smMod PtpPort.reset s.time.ports m.val fun p => { p with pathDelay := d, pdelT1 := none } } })) ∧
  (∀ (s : State) (m : Fin 2) (sq : BitVec 16) (ing cor : Int), exec (.ptpPdelayReqReceive m sq ing cor) s = .next { s with
    free := s.free + 1
    sent := s.ptpMsg m.val .pdelayResp sq.toNat 0 (cor + ((Config.freeWord s.free).toNat : Int)) none :: s.sent }) ∧
  (∀ (s : State) (m : Fin 2) (sq : BitVec 16) (ing cor t : Int), t = ing - (Eff.start s).ptpConst oPtpIngressLat m.val →
    exec (.ptpDelayReqReceive m sq ing cor) s = .next (
      if (Eff.start s).ptpMaster = true ∧ m.val = (Eff.start s).ptpSelected ∧ s.cv oPtpProfile 0 = 0 then { s with
        sent := s.ptpMsg m.val .delayResp sq.toNat (t - t % 65536) (cor - t % 65536) none :: s.sent } else s)) ∧
  (∀ (s : State) (m : Fin 2) (gm : BitVec 64) (p1 cc ac va p2 utc sr : Nat) (uv l61 l59 : Bool) (p : PtpPort),
    p = (smGet PtpPort.reset s.time.ports m.val).announced ⟨gm.toNat, [p1, cc, ac, va, p2, gm.toNat, sr], utc, uv, l61, l59, 0⟩ →
    s.cv oPtpPort 0 ≠ 2 ∨ m.val = 1 ∨ s.time.selected = 0 → ∃ t, exec (.ptpAnnounceReceive m gm p1 cc ac va p2 utc uv l61 l59 sr) s = .next t ∧
      t.time.ports = smSet PtpPort.reset s.time.ports m.val p ∧
      (m.val ≠ (Eff.start s).ptpSelected ∨ p.best = none → t = { s with time := { s.time with ports := t.time.ports } }) ∧
      (∀ f, m.val = (Eff.start s).ptpSelected → p.best = some f → t = { s with time := { s.time with
        ports := t.time.ports, utc := if f.utcValid = true then f.utc else s.time.utc, utcFromPtp := f.utcValid
        leap := if f.leap61 = true then 1 else if f.leap59 = true then -1 else 0
        leapDay := if s.time.leap = t.time.leap then s.time.leapDay else (Eff.start t).dayEnd
        master := decide (s.cv oPtpSlaveOnly 0 = 0) && s.pair.role == .active && betterSet (Eff.start s).ownSet f.set } })) ∧
  (∀ (s : State) (m : Fin 2) (ps : SMap PtpPort) (used : Nat), smWf PtpPort.reset s.time.ports = true →
    ps = (smMod PtpPort.reset s.time.ports m.val fun p => { p with masters := [], announces := 0 }) →
    used = (if s.cv oPtpPort 0 = 2 ∧ m.val = 0 then 1 else s.time.selected) →
    (m.val ≠ (Eff.start s).ptpSelected → exec (.announceTimeout m) s = .next { s with time := { s.time with ports := ps } }) ∧
    (m.val = (Eff.start s).ptpSelected → (s.cv oPtpPort 0 = 2 → m.val = 0 → (smGet PtpPort.reset s.time.ports 1).best = none) →
      s.time.servo ≠ .locked ∨ s.time.source ≠ 1 → exec (.announceTimeout m) s = .next { s with time := { s.time with
        ports := ps, selected := used, utcFromPtp := false, leap := 0, master := decide (s.cv oPtpSlaveOnly 0 = 0) && s.pair.role == .active } }) ∧
    (m.val = (Eff.start s).ptpSelected → (s.cv oPtpPort 0 = 2 → m.val = 0 → (smGet PtpPort.reset s.time.ports 1).best = none) →
      s.time.servo = .locked → s.time.source = 1 → s.Quiet kTimeHold 0 → ∃ t, exec (.announceTimeout m) s = .next t ∧
        t.time.servo = .hold ∧ t.time.master = (decide (s.cv oPtpSlaveOnly 0 = 0) && s.pair.role == .active) ∧
        t = { s with time := t.time, faults := s.noted 0x051 kTimeHold 0 }) ∧
    (∀ f, m.val = (Eff.start s).ptpSelected → s.cv oPtpPort 0 = 2 → m.val = 0 → (smGet PtpPort.reset s.time.ports 1).best = some f →
      ∃ t, exec (.announceTimeout m) s = .next t ∧ t.time.utcFromPtp = f.utcValid ∧ t.time.selected = 1 ∧
        t = { s with time := { s.time with
          ports := ps, selected := 1, utc := t.time.utc, utcFromPtp := t.time.utcFromPtp, leap := t.time.leap, leapDay := t.time.leapDay
          master := decide (s.cv oPtpSlaveOnly 0 = 0) && s.pair.role == .active && betterSet (Eff.start s).ownSet f.set } })) ∧
  (∀ (s : State) (eg t : Int) (m : Nat) (p : PtpPort), m = (Eff.start s).ptpSelected → p = smGet PtpPort.reset s.time.ports m →
    t = eg + (Eff.start s).ptpConst oPtpEgressLat m →
    exec (.ptpSyncSend eg) s = .next (if (Eff.start s).ptpMaster = true then { s with
      sent := s.ptpMsg m .sync (p.nextSeq .sync) (t - t % 65536) (t % 65536) none :: s.sent
      time := { s.time with ports := smMod PtpPort.reset s.time.ports m (·.took .sync) } } else s) ∧
    exec .ptpAnnounceSend s = .next (if (Eff.start s).ptpMaster = true then { s with
      sent := s.ptpMsg m .announce (p.nextSeq .announce) 0 0
        (some ⟨s.cv oPtpPriority 0, 248, 0xFE, s.cv oPtpPriority 1, 0xA0⟩) :: s.sent
      time := { s.time with ports := smMod PtpPort.reset s.time.ports m (·.took .announce) } } else s) ∧
    exec (.ptpDelayReqSend eg) s = .next (if s.cv oPtpProfile 0 = 0 ∧ (Eff.start s).ptpMaster = false then { s with
      sent := s.ptpMsg m .delayReq (p.nextSeq .delayReq) 0 (-((Eff.start s).ptpConst oPtpAsym m)) none :: s.sent
      time := { s.time with
        ports := smMod PtpPort.reset (smMod PtpPort.reset s.time.ports m (·.took .delayReq)) m fun x => { x with
          reqT3 := some (p.nextSeq .delayReq, t) } } } else s) ∧
    exec (.ptpPdelayReqSend eg) s = .next (if s.cv oPtpProfile 0 = 1 then { s with
      sent := s.ptpMsg m .pdelayReq (p.nextSeq .pdelayReq) 0 (-((Eff.start s).ptpConst oPtpAsym m)) none :: s.sent
      time := { s.time with
        ports := smMod PtpPort.reset (smMod PtpPort.reset s.time.ports m (·.took .pdelayReq)) m fun x => { x with
          pdelT1 := some (p.nextSeq .pdelayReq, t) } } } else s))

/-- An offset sample takes a FREE servo to ACQUIRE; in ACQUIRE eight samples within LOCK_TOL of a mean within STEP_THRESHOLD lock it, and a
larger mean steps once, on the first lock in a state that allows it; in LOCKED a sample beyond STEP_THRESHOLD leads to HOLD and
TIME_DISC, never to a step (reports only recorded). TIME_HOLD after 4 intervals without a sample holds the mean rate of the last 64
samples. STEP_AUTHORISE on an ACTIVE device in READY, DISCOVER or SAFE waits with minus the mean for the next frame start, or for the
standby, RESULT 2 where the samples do not agree and 1 elsewhere. A leap second at the end of its UTC day changes the UTC offset alone.
The calendar is compared every 60 s with CAL_AUTO while LOCKED to PTP, set where more than 1 ms off, and trimmed once an hour; it is
set by CAL_SET, RESULT 1 while it follows PTP. Tamper, low battery and a stopped oscillator are recorded, the latter two clear
CAL_VALID; VBAT at 0 V with VDD_FD lost resets what BACKUP holds (assumption 124). -/
def Obligations.ServoAndCalendarComplete : Prop :=
  (∀ (s : State) (o : Int) (t : State), t = ((Eff.start s).offsetSample o).st →
    (s.time.servo = .free → s.time.samples = [] → t = { s with time := { s.time with
      samples := [o], lastSample := o, servo := .acquire, lastSampleAt := s.time.up } }) ∧
    (∀ m, s.time.servo = .acquire → (Eff.start { s with time := { s.time with samples := (o :: s.time.samples).take 8 } }).lockMean = some m →
      ((-(Eff.start s).stepThr ≤ m ∧ m ≤ (Eff.start s).stepThr) → t = { s with time := { s.time with
        samples := (o :: s.time.samples).take 8, lastSample := o, servo := .locked, valid := true, everLocked := true, lastSampleAt := s.time.up } }) ∧
      ((m < -(Eff.start s).stepThr ∨ (Eff.start s).stepThr < m) → s.time.everLocked = false → s.time.stepUsed = false →
        (Eff.start s).mayStep = true → t = { s with time := { s.time with
          samples := [], lastSample := o, servo := .locked, valid := true, everLocked := true, stepAt := some (-m)
          lastSampleAt := s.time.up } })) ∧
    (s.time.servo = .locked → s.time.stepAt = none → (o < -(Eff.start s).stepThr ∨ (Eff.start s).stepThr < o) → s.Quiet kTimeHold 0 →
      s.Quiet kTimeDiscontinuity 0 → t.time.servo = .hold ∧ t.time.stepAt = none ∧ t.time.clock = s.time.clock ∧ t.trouble = s.trouble ||| 2 ∧
        t = { s with
          time := t.time, trouble := t.trouble, faults := t.faults
          meter := { s.meter with ports := s.meter.ports.map fun p => (p.1, { p.2 with disc := p.2.disc || p.2.started }) } })) ∧
  (∀ s : State, s.time.servo ≠ .locked → exec .timeHold s = .next s) ∧
  (∀ s : State, s.time.servo = .locked → s.time.source = 2 → s.Quiet kTimeHold 0 → exec .timeHold s = .next (
    if s.time.lastSampleAt + 4 * s.cv oFramePeriod 0 ≤ s.time.up then { s with
      faults := s.noted 0x051 kTimeHold 0
      time := { s.time with
        servo := .hold, holdGood := 0
        incr := if s.time.incrs = [] then s.time.incr else s.time.incrs.foldl (· + ·) 0 / s.time.incrs.length } } else s)) ∧
  (∀ (s : State) (q : Req) (lvl sid : Nat), s.Invoked q oStepAuthorise [] 2 false lvl sid →
    (s.pair.role ≠ .active ∨ s.dev.state ∉ [.ready, .discover, .safe] → ∃ t, exec (.stepAuthorise q []) s = .next t ∧
      t.Replied q 3 (ansResultFrame 1 0) ∧ t = { s with sess := t.sess, sent := t.sent }) ∧
    (s.pair.role = .active → s.dev.state ∈ [.ready, .discover, .safe] → (Eff.start s).lockMean = none →
      ∃ t, exec (.stepAuthorise q []) s = .next t ∧ t.Replied q 3 (ansResultFrame 2 0) ∧ t = { s with sess := t.sess, sent := t.sent }) ∧
    (∀ m, s.pair.role = .active → s.dev.state ∈ [.ready, .discover, .safe] → (Eff.start s).lockMean = some m → s.pair.standby = false →
      ∃ t, exec (.stepAuthorise q []) s = .next t ∧ t.Replied q 3 (ansResultFrame 0 (s.frame.k + 1)) ∧
        t = { s with
          sess := t.sess, sent := t.sent
          pair := { s.pair with timed := s.pair.timed ++ [(s.frame.k + 1, oStepAuthorise, le 8 (rawBits 64 (-m)))] } }) ∧
    (∀ m, s.pair.role = .active → s.dev.state ∈ [.ready, .discover, .safe] → (Eff.start s).lockMean = some m → s.pair.standby = true →
      ∃ t, exec (.stepAuthorise q []) s = .next t ∧
        t.pair.waitActs = s.pair.waitActs ++
          [⟨oStepAuthorise, le 8 (rawBits 64 (-m)), s.pair.nextCseq, s.frame.k + 2, true, .req q⟩] ∧
        t = { s with sess := t.sess, sent := t.sent, pair := t.pair })) ∧
  (∀ s : State, exec .leapSecond s = .next (
    if s.time.leap ≠ 0 ∧ s.time.leapDay + s.time.leap ≤ (Eff.start s).utcSec then
      { s with time := { s.time with utc := (s.time.utc + s.time.leap).toNat, leap := 0 } } else s)) ∧
  (∀ s : State, s.cv oCalAuto 0 = 0 ∨ (Eff.start s).ptpLocked = false ∨ s.time.up < s.time.lastCompare + 60000000000 →
    exec .calendarCompare s = .next s) ∧
  (∀ (s : State) (d : Int), s.cv oCalAuto 0 ≠ 0 → (Eff.start s).ptpLocked = true → s.time.lastCompare + 60000000000 ≤ s.time.up →
    d = ((Eff.start s).calNow : Int) - (Eff.start s).utcCal → s.time.up / 3600000000000 = s.time.lastCompare / 3600000000000 →
    exec .calendarCompare s = .next { s with time := { s.time with
      lastCompare := s.time.up, drift := s.time.drift + (d - s.time.calErr), calErr := if 32 < d ∨ d < -32 then 0 else d
      calBase := if 32 < d ∨ d < -32 then (Eff.start s).utcCal.toNat else s.time.calBase
      calAt := if 32 < d ∨ d < -32 then s.time.up else s.time.calAt
      calValid := if 32 < d ∨ d < -32 then true else s.time.calValid } }) ∧
  (∀ (s : State) (d : Int), s.cv oCalAuto 0 ≠ 0 → (Eff.start s).ptpLocked = true → s.time.lastCompare + 60000000000 ≤ s.time.up →
    d = ((Eff.start s).calNow : Int) - (Eff.start s).utcCal → s.time.lastCompare / 3600000000000 < s.time.up / 3600000000000 →
    ∃ t, exec .calendarCompare s = .next t ∧ t.time.drift = 0 ∧ t.time.lastCompare = s.time.up ∧
      t.cfg = smSet none s.cfg (key oCalTrim 0) (some (rawBits 16 (max (-500) (min 500
        (signed 16 (s.cv oCalTrim 0) - (s.time.drift + (d - s.time.calErr)) * 10000000 / (32768 * 3600)))))) ∧ t = { s with cfg := t.cfg, time := t.time }) ∧
  (∀ (s : State) (q : Req) (args : List Byte) (lvl sid : Nat), s.Invoked q oCalSet args 2 false lvl sid → args.length = 8 →
    ((Eff.start s).ptpLocked = true → s.cv oCalAuto 0 = 1 → ∃ t, exec (.calSet q args) s = .next t ∧ t.Replied q 3 (ansOk (le 1 1)) ∧
      t = { s with sess := t.sess, sent := t.sent }) ∧
    ((Eff.start s).ptpLocked = false ∨ s.cv oCalAuto 0 ≠ 1 → ∃ t, exec (.calSet q args) s = .next t ∧ t.Replied q 3 (ansOk (le 1 0)) ∧
      t = { s with
        sess := t.sess, sent := t.sent
        time := { s.time with
          calBase := fieldLe args 0 8, calAt := s.time.up, calValid := true, calErr := 0, valid := true
          tamper := ((4, (Eff.start s).calNow) :: s.time.tamper).take 8 } })) ∧
  (∀ (s : State) (q : Req) (lvl sid : Nat), s.Invoked q oCalTamperClear [] 2 false lvl sid → s.Quiet kTroubleClear sid →
    ∃ t, exec (.calTamperClear q []) s = .next t ∧ t.Replied q 3 ansOk ∧
      t = { s with
        sess := t.sess, sent := t.sent, faults := s.noted 0x082 kTroubleClear sid, time := { s.time with tamper := [] } }) ∧
  (∀ (s : State) (us : Nat), exec (.tamperNFall us) s = .next (
    if us < 1000 then { s with time := { s.time with tamperLow := false } } else { s with time := { s.time with
      tamperLow := true, tamper := ((1, (Eff.start s).calNow) :: s.time.tamper).take 8 } })) ∧
  (∀ (s : State) (mv : Nat) (c : ClkSt) (lost : Prop), smWf 0 s.clk.railMv = true →
    c = { s.clk with
      railMv := smSet 0 s.clk.railMv 9 mv
      notOk := if 2000 ≤ mv ∧ mv ≤ 3600 then s.clk.notOk.filter (· != 9) else (9 :: s.clk.notOk).dedup } →
    lost = (mv = 0 ∧ 7 ∈ s.clk.notOk ∧ smGet 0 s.clk.railMv 7 < 1620) →
    (¬lost → exec (.vbatLow mv) s = .next { s with
      clk := c
      time := { s.time with
        vbatLow := decide (mv < 2200), calValid := s.time.calValid && decide (1800 ≤ mv)
        tamper := if mv < 2200 ∧ s.time.vbatLow = false then ((2, (Eff.start s).calNow) :: s.time.tamper).take 8 else s.time.tamper } }) ∧
    (lost → exec (.vbatLow mv) s = .next { s with
      clk := c, cfg := smSet none s.cfg (key oCalTrim 0) none
      time := { s.time with
        vbatLow := true, calValid := false, tamper := [], calBase := 0, calAt := s.time.up, calErr := 0 } })) ∧
  (∀ (s : State) (us : Nat), exec (.oscillatorStop us) s = .next (
    if us < 1000 then { s with time := { s.time with calBase := (Eff.start s).calNow, calAt := s.time.up, oscOk := true } }
    else { s with time := { s.time with
      calBase := (Eff.start s).calNow, calAt := s.time.up, oscOk := false, calValid := false
      tamper := if s.time.oscOk = true then ((3, (Eff.start s).calNow) :: s.time.tamper).take 8 else s.time.tamper } }))

/-- TIMED_ACTION that passes, of an action that can be scheduled, with a target below 10^9 ns and arguments of at most 64 octets, the right
of that action and a free slot (the first empty one, else the first that is DONE), on a device without a standby: a target whose frame,
the first to start at or after it, is still to come takes the slot with that frame and is answered with slot and frame; a target that
has passed takes frame k + 1 where LATE_OK allows it, marked late, and is answered LATE otherwise. Without a slot the answer is BUSY.
TIMED_CANCEL frees the slot of a pending action for a session with the right that scheduled it, RESULT 0; an empty or DONE slot is
RESULT 1, a lower right RIGHTS. -/
def Obligations.ScheduledActionsComplete : Prop :=
  (∀ (s : State) (q : Req) (args sub : List Byte) (lvl sid obj : Nat) (r : ActRow ⟨s, false⟩) (fx : Int),
    s.Invoked q oTimedAction args 0 false lvl sid → 18 ≤ args.length → sub = args.drop 18 → sub.length = fieldLe args 16 2 → sub.length ≤ 64 →
    fieldLe args 6 4 < 1000000000 → obj = fieldLe args 12 3 → obj ≠ oTimedAction → obj ≠ oTimedCancel → obj ≠ oStepAuthorise → obj / 65536 ≠ 4 →
    actRow? ⟨s, false⟩ obj = some r → (Eff.start s).actRight r sub ≤ lvl → fx = (Eff.start s).frameOf (untime96 args) →
    ((Eff.start s).timedSlot = none → ∃ t, exec (.timedAction q args) s = .next t ∧ t.Replied q 3 (ansErr stBusy) ∧
      t = { s with sess := t.sess, sent := t.sent }) ∧
    (∀ i, (Eff.start s).timedSlot = some i → fx < s.frame.k + 1 → bitOf (octet args 15) 0 = false →
      ∃ t, exec (.timedAction q args) s = .next t ∧ t.Replied q 3 (ansErr stLate) ∧ t = { s with sess := t.sess, sent := t.sent }) ∧
    (∀ i late f, (Eff.start s).timedSlot = some i → late = decide (fx < s.frame.k + 1) → late = false ∨ bitOf (octet args 15) 0 = true →
      f = (if late = true then s.frame.k + 1 else fx.toNat) →
      s.pair.standby = false ∨ s.pair.role ≠ .active →
      ∃ t, exec (.timedAction q args) s = .next t ∧ t.Replied q 3 (ansOk (le 4 i ++ le 8 f)) ∧
        t = { s with
          sess := t.sess, sent := t.sent
          time := { s.time with
            timed := smSet none s.time.timed i (some ⟨untime96 args, f, obj, bitOf (octet args 15) 0, late, false, 0, 0, sid, (Eff.start s).actRight r sub, sub⟩) } })) ∧
  (∀ (s : State) (q : Req) (i : Byte) (lvl sid : Nat), s.Invoked q oTimedCancel [i] 0 false lvl sid → i.toNat < 32 →
    (smGet none s.time.timed i.toNat = none → ∃ t, exec (.timedCancel q [i]) s = .next t ∧ t.Replied q 3 (ansOk (le 1 1)) ∧
      t = { s with sess := t.sess, sent := t.sent }) ∧
    (∀ x, smGet none s.time.timed i.toNat = some x →
      (x.isDone = true → ∃ t, exec (.timedCancel q [i]) s = .next t ∧ t.Replied q 3 (ansOk (le 1 1)) ∧
        t = { s with sess := t.sess, sent := t.sent }) ∧
      (x.isDone = false → lvl < x.level → ∃ t, exec (.timedCancel q [i]) s = .next t ∧ t.Replied q 3 (ansErr stRights) ∧
        t = { s with sess := t.sess, sent := t.sent }) ∧
      (x.isDone = false → x.level ≤ lvl → s.pair.standby = false → ∃ t, exec (.timedCancel q [i]) s = .next t ∧
        t.Replied q 3 (ansOk (le 1 0)) ∧
        t = { s with
          sess := t.sess, sent := t.sent, time := { s.time with timed := smSet none s.time.timed i.toNat none } })))

/-- A burst of 1 to 16 lines of the bank, with 8 words each for a write, is posted where the requester has none there, nor a transfer held;
any other is not. In a cycle of a running STORE island with no STORE commit waiting the slot counter and the cycle move on; a transfer
held that completes, its requester's island running, writes exactly the points of its mask, or delivers its line for a read, one that
does not complete is held one cycle longer; otherwise the granted requester's burst advances by one transfer, its grant is counted, and
it is done at once where it completes. Whoever is granted was waiting, and as long as anyone waits someone is granted. A transfer held
for 4,096 cycles is aborted with its burst and counted, the report assumed only recorded; before that nothing happens. -/
def Obligations.BanksComplete : Prop :=
  (∀ (s : State) (r : Fin 16) (b : Fin 8) (wr good : Bool) (lines : List (Nat × Byte × List PointWord)),
    good = (!lines.isEmpty && decide (lines.length ≤ 16) && lines.all fun l =>
      decide (l.1 < 262144) && decide (l.1 % 8 = b.val) && (!wr || decide (l.2.2.length = 8))) →
    exec (.transferPost r b wr lines) s = .next (
      if good = true ∧ smGet none (smGet Bank.reset s.banks b.val).bursts r.val = none ∧
          (∀ h, (smGet Bank.reset s.banks b.val).held = some h → h.1 ≠ r.val) then { s with
        banks := smMod Bank.reset s.banks b.val fun k => { k with
          bursts := smSet none k.bursts r.val (some ⟨wr, lines.map fun l => ⟨l.1, l.2.1, l.2.2⟩, 0, k.cycle⟩) } } else s)) ∧
  (∀ (s : State) (b : Fin 8) (c : Bool), s.islandOn 3 = false → exec (.storeCycle b c) s = .next s) ∧
  (∀ (s : State) (b : Fin 8) (r : Nat) (wr c : Bool) (x : Xfer), (smGet Domain.reset s.doms 13).pend = none → s.islandOn 3 = true →
    (smGet Bank.reset s.banks b.val).held = some (r, wr, x) →
    (c = false ∨ s.requesterOn r = false → exec (.storeCycle b c) s = .next { s with
      banks := smMod Bank.reset (smMod Bank.reset s.banks b.val fun k => { k with heldFor := k.heldFor + 1 }) b.val fun k => { k with
        slot := (k.slot + 1) % 128, cycle := k.cycle + 1 } }) ∧
    (s.requesterOn r = true → exec (.storeCycle b true) s = .next { s with
      faults := if wr = true then s.faults else s.delivered r x.line
      pts := if wr = true then (List.range 8).foldl (fun p i => if bitOf x.mask.toNat i = true ∧ i < x.words.length ∧ 8 * x.line + i < 2097152 then
        smSet pointReset p (8 * x.line + i) (x.words.getD i 0) else p) s.pts else s.pts
      banks := smMod Bank.reset (smMod Bank.reset s.banks b.val fun k => { k with held := none, heldFor := 0 }) b.val fun k => { k with
        slot := (k.slot + 1) % 128, cycle := k.cycle + 1 } })) ∧
  (∀ (s : State) (b : Fin 8) (c : Bool), (smGet Domain.reset s.doms 13).pend = none → s.islandOn 3 = true → (smGet Bank.reset s.banks b.val).held = none →
    ((Eff.start s).waiting b.val = [] → exec (.storeCycle b c) s = .next { s with
      banks := smMod Bank.reset s.banks b.val fun k => { k with slot := (k.slot + 1) % 128, cycle := k.cycle + 1 } }) ∧
    (∀ r u x rest, (Eff.start s).grantee b.val = some (r, false) → smGet none (smGet Bank.reset s.banks b.val).bursts r = some u →
      u.todo = x :: rest → u.write = false → exec (.storeCycle b c) s = .next { s with
        faults := if c = true ∧ s.requesterOn r = true then s.delivered r x.line else s.faults
        banks := smMod Bank.reset (smMod Bank.reset s.banks b.val fun k => { k with
            bursts := smSet none k.bursts r (if rest = [] then none else
              some { u with todo := rest, progress := u.progress + 1, since := k.cycle })
            grants := smMod 0 k.grants r fun n => (n + 1) % 2 ^ 32
            held := if c = true ∧ s.requesterOn r = true then none else some (r, false, x), heldFor := 0 }) b.val fun k => { k with
          slot := (k.slot + 1) % 128, cycle := k.cycle + 1 } })) ∧
  (∀ (s : State) (b : Nat), (∀ r bg, (Eff.start s).grantee b = some (r, bg) → ∃ c, (r, c) ∈ (Eff.start s).waiting b) ∧
    ((Eff.start s).waiting b ≠ [] → (Eff.start s).grantee b ≠ none)) ∧
  (∀ (s : State) (b : Fin 8), (smGet Bank.reset s.banks b.val).held = none ∨ (smGet Bank.reset s.banks b.val).heldFor < 4096 →
    exec (.bankWatchdog b) s = .next s) ∧
  (∀ (s : State) (b : Fin 8) (r : Nat) (wr : Bool) (x : Xfer), (smGet Bank.reset s.banks b.val).held = some (r, wr, x) →
    4096 ≤ (smGet Bank.reset s.banks b.val).heldFor → s.Quiet kBankWatchdog (x.line * 64) →
    ∃ t m, exec (.bankWatchdog b) s = .next t ∧ t.faults.last = some m ∧
      m = { s.message (1 + b.val) kBankWatchdog (x.line * 64) with access := some (r, if wr = true then 1 else 0) } ∧
      t = { s with
        faults := t.faults
        banks := smMod Bank.reset s.banks b.val fun k => { k with
          held := none, heldFor := 0, bursts := smSet none k.bursts r none, wdog := min (k.wdog + 1) 65535 } })

/-- A unit OFF, lent, past the line, before its first pass, or with the line not due reads nothing; a RUN unit records a new entry with its
point, frame, RPOS, word and KIND 1 in an image pass, else 0. WU_ARM of a CONTINUOUS unit starts RUN with the next pass, of a TRIGGERED
one ARMING in the lowest free slot, where the Archive is not lent; WU_DISARM stops a unit, a RUN one with its records kept; WU_TRIGGER
fires a running TRIGGERED unit at its next read; WU_RELEASE frees a slot, and re-arms a FULL unit; ACQ_EXPORT sends a closed capture,
RESULT 1 for a slot that is not closed. WU_POST frames after the trigger a capture closes into HOLDOFF, which ends when its frames or
triggers have come, with the unit armed again where a slot is free. -/
def Obligations.WatchUnitsComplete : Prop :=
  (∀ (s : State) (u : Fin 32) (line : Fin 262144) (w : WUnit), w = smGet WUnit.reset s.watch u.val →
    w.state = .off ∨ (Eff.start s).lent = true ∨ (Eff.start s).lineDue u.val line.val = false ∨ line.val ∈ w.passLines ∨
      (Eff.start s).wuPass u.val < w.armPass → exec (.watchRead u line) s = .next s) ∧
  (∀ (s : State) (u : Fin 32) (line : Fin 262144) (w : WUnit) (i p : Nat), w = smGet WUnit.reset s.watch u.val → w.state = .run →
    (Eff.start s).lent = false → (Eff.start s).lineDue u.val line.val = true → line.val ∉ w.passLines → w.armPass ≤ (Eff.start s).wuPass u.val →
    (Eff.start s).wuMode u.val = 1 → ((Eff.start s).wuList u.val).filter (fun p => p.2 / 8 == line.val) = [(i, p)] →
    smGet none w.last i = none → w.recs.length < (Eff.start s).wuRoom u.val →
    ∃ t, exec (.watchRead u line) s = .next t ∧
      smGet WUnit.reset t.watch u.val = { w with
        passLines := line.val :: w.passLines, last := smSet none w.last i (some (s.pt p))
        recs := ⟨p, if (Eff.start s).imagePass u.val = true then 1 else 0,
          min 255 ((s.time.clock - s.frame.tk) / (256 * nsq)).toNat, s.frame.k, s.pt p⟩ :: w.recs } ∧
      t = { s with
        watch := t.watch
        faults := { s.faults with
          consumed := smSet none s.faults.consumed (8 * pointCount + p) (some (rawBits 32 (ptVal (s.pt p)))) } }) ∧
  (∀ (s : State) (q : Req) (u : Byte) (lvl sid : Nat) (w : WUnit), s.Invoked q oWuArm [u] 1 false lvl sid → u.toNat < 32 →
    w = smGet WUnit.reset s.watch u.toNat →
    (w.state ≠ .off ∨ (Eff.start s).lent = true ∨ (Eff.start s).wuMode u.toNat ∉ [1, 2] → ∃ t, exec (.wuArm q [u]) s = .next t ∧ t.Replied q 3 ansOk ∧
      t = { s with sess := t.sess, sent := t.sent }) ∧
    (w.state = .off → (Eff.start s).lent = false → (Eff.start s).wuMode u.toNat = 1 → ∃ t, exec (.wuArm q [u]) s = .next t ∧ t.Replied q 3 ansOk ∧
      (smGet WUnit.reset t.watch u.toNat).state = .run ∧ (smGet WUnit.reset t.watch u.toNat).armPass = (Eff.start s).wuPass u.toNat + 1 ∧
      (smGet WUnit.reset t.watch u.toNat).recs = [] ∧ t = { s with sess := t.sess, sent := t.sent, watch := t.watch }) ∧
    (∀ i, w.state = .off → (Eff.start s).lent = false → (Eff.start s).wuMode u.toNat = 2 → (Eff.start s).takeSlot u.toNat = some i →
      ∃ t, exec (.wuArm q [u]) s = .next t ∧ t.Replied q 3 ansOk ∧
        (smGet WUnit.reset t.watch u.toNat).state = .arming ∧ (smGet WUnit.reset t.watch u.toNat).slot = i ∧
        (smGet WUnit.reset t.watch u.toNat).armPass = (Eff.start s).wuPass u.toNat + 1 ∧
        t = { s with sess := t.sess, sent := t.sent, watch := t.watch })) ∧
  (∀ (s : State) (q : Req) (u : Byte) (lvl sid : Nat), s.Invoked q oWuDisarm [u] 1 false lvl sid → u.toNat < 32 →
    (smGet WUnit.reset s.watch u.toNat).state ≠ .post → ∃ t, exec (.wuDisarm q [u]) s = .next t ∧ t.Replied q 3 ansOk ∧
      t = { s with
        sess := t.sess, sent := t.sent
        watch := if (smGet WUnit.reset s.watch u.toNat).state = .off then s.watch else smMod WUnit.reset s.watch u.toNat fun w => { w with
          state := .off, recs := if w.state = .run then w.recs else [] } }) ∧
  (∀ (s : State) (q : Req) (u : Byte) (lvl sid : Nat), s.Invoked q oWuTrigger [u] 2 false lvl sid → u.toNat < 32 →
    ∃ t, exec (.wuTrigger q [u]) s = .next t ∧ t.Replied q 3 ansOk ∧
      t = { s with
        sess := t.sess, sent := t.sent
        watch := if (Eff.start s).wuMode u.toNat = 2 ∧ (smGet WUnit.reset s.watch u.toNat).state ≠ .off then
          smMod WUnit.reset s.watch u.toNat fun w => { w with manual := true } else s.watch }) ∧
  (∀ (s : State) (q : Req) (u i : Byte) (lvl sid : Nat) (w : WUnit), s.Invoked q oWuRelease [u, i] 2 false lvl sid → u.toNat < 32 →
    i.toNat < 16 → w = smGet WUnit.reset s.watch u.toNat →
    (w.state ≠ .full → ∃ t, exec (.wuRelease q [u, i]) s = .next t ∧ t.Replied q 3 ansOk ∧
      t = { s with
        sess := t.sess, sent := t.sent
        watch := smMod WUnit.reset s.watch u.toNat fun w => { w with closed := smSet none w.closed i.toNat none } }) ∧
    (w.state = .full → i.toNat < (Eff.start s).wuSlots u.toNat → smWf none w.closed = true → ∃ t, exec (.wuRelease q [u, i]) s = .next t ∧
      t.Replied q 3 ansOk ∧ (smGet WUnit.reset t.watch u.toNat).state = .arming ∧
      t = { s with sess := t.sess, sent := t.sent, watch := t.watch })) ∧
  (∀ (s : State) (q : Req) (u i a b c d : Byte) (lvl sid : Nat), s.Invoked q oAcqExport [u, i, a, b, c, d] 1 false lvl sid →
    u.toNat < 32 → i.toNat < 16 →
    (smGet none (smGet WUnit.reset s.watch u.toNat).closed i.toNat = none → ∃ t, exec (.acqExport q [u, i, a, b, c, d]) s = .next t ∧
      t.Replied q 3 (ansResult 1) ∧ t = { s with sess := t.sess, sent := t.sent }) ∧
    (∀ x, smGet none (smGet WUnit.reset s.watch u.toNat).closed i.toNat = some x → ∃ t, exec (.acqExport q [u, i, a, b, c, d]) s = .next t ∧
      t.Replied q 3 (ansResult 0) ∧
      t = { s with
        sess := t.sess, sent := t.sent
        jrnl := { s.jrnl with
          jobs := s.jrnl.jobs ++ [⟨1, u.toNat * 256 + i.toNat, x.header ++ x.recs.flatMap ARec.octets, fieldLe [a, b, c, d] 0 4, false⟩] } })) ∧
  (∀ (s : State) (u : Fin 32) (w : WUnit), w = smGet WUnit.reset s.watch u.val →
    (w.state ≠ .post ∨ s.frame.k < w.trigFrame + s.cv oWuPost u.val → exec (.postEnd u) s = .next s) ∧
    (w.state = .post → w.trigFrame + s.cv oWuPost u.val ≤ s.frame.k → ∃ t x, exec (.postEnd u) s = .next t ∧
      smGet none (smGet WUnit.reset t.watch u.val).closed w.slot = some x ∧ x.seq = w.capseq + 1 ∧ x.header.length = 64 ∧
      (∀ r ∈ x.recs, r ∈ w.recs) ∧ (smGet WUnit.reset t.watch u.val).state = .holdoff ∧
      (smGet WUnit.reset t.watch u.val).capseq = w.capseq + 1 ∧ (smGet WUnit.reset t.watch u.val).closeFrame = s.frame.k ∧
      t = { s with watch := t.watch, faults := t.faults })) ∧
  (∀ (s : State) (u : Fin 32) (w : WUnit) (due : Bool), w = smGet WUnit.reset s.watch u.val →
    due = ((s.cv oWuHoldFr u.val == 0 && s.cv oWuHoldTrig u.val == 0) ||
      (s.cv oWuHoldFr u.val != 0 && decide (w.closeFrame + s.cv oWuHoldFr u.val ≤ s.frame.k)) ||
      (s.cv oWuHoldTrig u.val != 0 && decide (s.cv oWuHoldTrig u.val ≤ w.holdTrigs))) →
    (w.state ≠ .holdoff ∨ due = false → exec (.holdoffEnd u) s = .next s) ∧
    (∀ i, w.state = .holdoff → due = true → (Eff.start s).takeSlot u.val = some i → ∃ t, exec (.holdoffEnd u) s = .next t ∧
      (smGet WUnit.reset t.watch u.val).state = .arming ∧ (smGet WUnit.reset t.watch u.val).slot = i ∧ t = { s with watch := t.watch }))

/-- JRNL_HOLD starts a hold at this frame, from no checkpoint older than needed, to JRNL_POST frames on unless 6 MiB are full before, or
counts one missed while a hold exists; JRNL_RELEASE returns it; JRNL_EXPORT sends a complete one, RESULT 1 otherwise. The stream sends
the next 1,436 octets of the object in turn, meter records first, with its sequence number and offset, unless STREAM_IP is 0 or the
rate forbids it. RR_START of a source that fits, with no run and RR_UNIT OFF, begins a run from the source's checkpoint, its mask cut
to domains the caller stages; with a run it is RESULT 1. RR_STOP ends a run, NOCHANGE without one. RR_IMPORT in READY or SAFE
overwrites the source, elsewhere RESULT 1. A replayed frame counts an unequal digest and the first such frame, goes on or ends the run
with status 3; while a replay of the pair runs it does nothing. -/
def Obligations.JournalStreamAndReplaysComplete : Prop :=
  (∀ (s : State) (q : Req) (lvl sid : Nat), s.Invoked q oJrnlHold [] 2 false lvl sid →
    (s.jrnl.hold = none → ∃ t h, exec (.jrnlHold q []) s = .next t ∧ t.Replied q 3 ansOk ∧ h.num = s.jrnl.holdNum + 1 ∧ h.fh = s.frame.k ∧
      h.first ≤ s.frame.k ∧ h.octets ≤ holdOctets ∧ (∀ x ∈ h.entries, x ∈ s.jrnl.entries ∧ h.first ≤ x.1) ∧
      (∀ c, s.jrnl.slotA = some c ∨ s.jrnl.slotB = some c → c.done = true → c.frame ≤ s.frame.k - s.cv oJrnlPre 0 → c.frame ≤ h.first) ∧
      ((s.jrnl.entries.map (·.2.length)).sum ≤ holdOctets → (∀ x ∈ s.jrnl.entries, x.1 < s.frame.k + s.cv oJrnlPost 0) →
        h.complete = false ∧ h.last = s.frame.k + s.cv oJrnlPost 0) ∧
      t = { s with sess := t.sess, sent := t.sent, jrnl := { s.jrnl with holdNum := s.jrnl.holdNum + 1, hold := some h } }) ∧
    (s.jrnl.hold ≠ none → ∃ t, exec (.jrnlHold q []) s = .next t ∧ t.Replied q 3 ansOk ∧
      t = { s with sess := t.sess, sent := t.sent, jrnl := { s.jrnl with holdsMissed := (s.jrnl.holdsMissed + 1) % 2 ^ 32 } })) ∧
  (∀ (s : State) (q : Req) (lvl sid : Nat), s.Invoked q oJrnlRelease [] 2 false lvl sid →
    ∃ t, exec (.jrnlRelease q []) s = .next t ∧ t.Replied q 3 (if s.jrnl.hold = none then ansNoChange else ansOk) ∧
      t = { s with sess := t.sess, sent := t.sent, jrnl := { s.jrnl with hold := none } }) ∧
  (∀ (s : State) (q : Req) (args : List Byte) (lvl sid : Nat), s.Invoked q oJrnlExport args 1 false lvl sid → args.length = 4 →
    (∀ h, s.jrnl.hold = some h → h.complete = true → ∃ t, exec (.jrnlExport q args) s = .next t ∧ t.Replied q 3 (ansResult 0) ∧
      t = { s with
        sess := t.sess, sent := t.sent
        jrnl := { s.jrnl with jobs := s.jrnl.jobs ++ [⟨2, h.num, h.image s.dev.fwVer, fieldLe args 0 4, false⟩] } }) ∧
    ((∀ h, s.jrnl.hold = some h → h.complete = false) → ∃ t, exec (.jrnlExport q args) s = .next t ∧ t.Replied q 3 (ansResult 1) ∧
      t = { s with sess := t.sess, sent := t.sent })) ∧
  (∀ s : State, s.jrnl.jobs = [] ∨ ((∃ x ∈ s.jrnl.jobs, x.ready = true) ∧ (s.cv oStreamIp 0 = 0 ∨ s.time.up < s.jrnl.nextAt)) →
    exec .streamDatagram s = .next s) ∧
  (∀ (s : State) (x : SJob) (r : List SJob) (p m : List Byte) (last : Bool), s.jrnl.jobs = x :: r → x.ready = true →
    x.kind = 3 ∨ (∀ y ∈ r, y.kind ≠ 3) → (∀ y ∈ r, y.growing = true ∨ y.ready = true) →
    s.cv oStreamIp 0 ≠ 0 → s.jrnl.nextAt ≤ s.time.up → p = (x.octets.drop x.offset).take 1436 →
    last = (!x.growing && decide (x.octets.length ≤ x.offset + p.length)) →
    m = le 4 0x31535256 ++ le 1 x.kind ++ le 1 (ofBool last) ++ zeros 2 ++ le 8 Config.serial.toNat ++ le 4 s.jrnl.seq ++ le 4 x.id ++
      le 4 x.offset ++ le 2 p.length ++ zeros 2 ++ p →
    exec .streamDatagram s = .next { s with
      sent := .stream (.udp (if s.cv oStreamE 0 = 0 then 0 else 1) (BitVec.ofNat 32 (s.cv oStreamIp 0)) (BitVec.ofNat 16 (s.cv oStreamUdp 0)))
        (m ++ le 4 (crc32c m).toNat) :: s.sent
      jrnl := { s.jrnl with
        jobs := (if last = true then [] else [{ x with offset := x.offset + p.length }]) ++ r, seq := (s.jrnl.seq + 1) % 2 ^ 32
        nextAt := s.time.up + ((m.length + 4) * 8000 + s.cv oStreamRateNet 0 - 1) / s.cv oStreamRateNet 0 } }) ∧
  (∀ (s : State) (q : Req) (args : List Byte) (lvl sid : Nat), s.Invoked q oRrStart args 2 false lvl sid → args.length = 20 →
    octet args 0 ≤ 1 → octet args 1 ≤ 1 → fieldLe args 2 2 < 2 ^ 15 → fieldLe args 4 8 ≤ fieldLe args 12 8 →
    (s.jrnl.run ≠ none ∨ 31 < s.cv oRrUnit 0 ∨ (smGet WUnit.reset s.watch (s.cv oRrUnit 0)).state ≠ .off → ∃ t, exec (.rrStart q args) s = .next t ∧ t.Replied q 3 (ansResult 1) ∧
      t = { s with sess := t.sess, sent := t.sent }) ∧
    (s.jrnl.run = none → s.cv oRrUnit 0 ≤ 31 → (smGet WUnit.reset s.watch (s.cv oRrUnit 0)).state = .off → octet args 1 = 1 →
      badImport s.jrnl.image = true → ∃ t, exec (.rrStart q args) s = .next t ∧ t.Replied q 3 (ansResult 1) ∧
      t = { s with sess := t.sess, sent := t.sent, jrnl := { s.jrnl with status := 4 } }) ∧
    (s.jrnl.run = none → s.cv oRrUnit 0 ≤ 31 → (smGet WUnit.reset s.watch (s.cv oRrUnit 0)).state = .off → (octet args 1 = 1 → badImport s.jrnl.image = false) →
      (Eff.start s).sourceFits (octet args 1 == 1) (fieldLe args 4 8) (fieldLe args 12 8) = true →
      ∃ t r, exec (.rrStart q args) s = .next t ∧ t.Replied q 3 (ansResult 0) ∧ r.trial = (octet args 0 == 1) ∧ r.imported = (octet args 1 == 1) ∧
        r.first = fieldLe args 4 8 ∧ r.last = fieldLe args 12 8 ∧ r.next = (Eff.start s).sourceCkpt (octet args 1 == 1) ∧
        r.num = s.jrnl.runs + 1 ∧ (∀ d < 15, bitOf r.mask d = true ↔ bitOf (fieldLe args 2 2) d = true ∧
          (smGet Domain.reset s.doms d).owner = sid ∧ sid ≠ 0) ∧
        t = { s with
          sess := t.sess, sent := t.sent
          jrnl := { s.jrnl with run := some r, runs := s.jrnl.runs + 1, status := 1, firstDiff := none, diffs := 0, words := [] } })) ∧
  (∀ (s : State) (q : Req) (lvl sid : Nat), s.Invoked q oRrStop [] 2 false lvl sid →
    (s.jrnl.run = none → ∃ t, exec (.rrStop q []) s = .next t ∧ t.Replied q 3 ansNoChange ∧ t = { s with sess := t.sess, sent := t.sent }) ∧
    (s.jrnl.run ≠ none → ∃ t, exec (.rrStop q []) s = .next t ∧ t.Replied q 3 ansOk ∧
      t = { s with sess := t.sess, sent := t.sent, jrnl := { s.jrnl with run := none, status := 0, jobs := endObject s.jrnl.jobs } })) ∧
  (∀ (s : State) (q : Req) (args : List Byte) (lvl sid off n : Nat), s.Invoked q oRrImport args 2 false lvl sid → off = fieldLe args 0 4 →
    n = fieldLe args 4 2 → args.length = 6 + n → n ≤ 1024 → off + n ≤ 20971520 →
    (s.devState ≠ .ready ∧ s.devState ≠ .safe → ∃ t, exec (.rrImport q args) s = .next t ∧ t.Replied q 3 (ansResult 1) ∧
      t = { s with sess := t.sess, sent := t.sent }) ∧
    (s.devState = .ready ∨ s.devState = .safe → ∃ t, exec (.rrImport q args) s = .next t ∧ t.Replied q 3 (ansResult 0) ∧
      t = { s with
        sess := t.sess, sent := t.sent
        jrnl := { s.jrnl with image := padTo off s.jrnl.image ++ args.drop 6 ++ s.jrnl.image.drop (off + n) } })) ∧
  (∀ (s : State) (eq : Bool) (ch : List (Fin 2097152 × PointWord)), s.jrnl.run = none → exec (.replayFrame eq ch) s = .next s) ∧
  (∀ (s : State) (eq : Bool) (ch : List (Fin 2097152 × PointWord)) (r : RRun), s.jrnl.run = some r →
    ((Eff.start s).rrPaused = true → exec (.replayFrame eq ch) s = .next s) ∧
    ((Eff.start s).rrPaused = false → ∃ t, exec (.replayFrame eq ch) s = .next t ∧ t = { s with
      watch := t.watch
      jrnl := { s.jrnl with
        run := if r.last ≤ r.next then none else some { r with next := r.next + 1 }, status := if r.last ≤ r.next then 3 else 1
        firstDiff := if eq = true then s.jrnl.firstDiff else some (s.jrnl.firstDiff.getD r.next)
        diffs := if eq = true then s.jrnl.diffs else (s.jrnl.diffs + 1) % 2 ^ 32
        jobs := t.jrnl.jobs, words := t.jrnl.words } }) ∧
    ((Eff.start s).rrPaused = false → exec (.replayFrame eq []) s = .next { s with jrnl := { s.jrnl with
      run := if r.last ≤ r.next then none else some { r with next := r.next + 1 }, status := if r.last ≤ r.next then 3 else 1
      firstDiff := if eq = true then s.jrnl.firstDiff else some (s.jrnl.firstDiff.getD r.next)
      diffs := if eq = true then s.jrnl.diffs else (s.jrnl.diffs + 1) % 2 ^ 32
      jobs := if r.last ≤ r.next then endObject s.jrnl.jobs else s.jrnl.jobs } }))
end

