-- ==== Sys2Proof/Laws/Indexed.lean ====
section
/-! SUPPORT. Indexed state: reading after writing, and the canonical form. -/

namespace Sys2Proof.Machine

variable {β : Type} [DecidableEq β]

/-- Reading what was written, where the value written is no default: in any list. -/
theorem smGet_smSet_self (d : β) (m : SMap β) (n : Nat) (v : β) (hv : v ≠ d) : smGet d (smSet d m n v) n = v := by
  induction m with
  | nil => simp [smSet, smGet, hv]
  | cons p r ih =>
    obtain ⟨k, w⟩ := p
    unfold smSet
    by_cases h1 : n < k
    · simp [h1, hv, smGet]
    · by_cases h2 : n = k
      · simp [h2, hv, smGet]
      · simp [h1, h2, smGet, ih]

/-- Reading what was changed, where the new value is no default. -/
theorem smGet_smMod_self (d : β) (m : SMap β) (n : Nat) (f : β → β) (hv : f (smGet d m n) ≠ d) :
    smGet d (smMod d m n f) n = f (smGet d m n) := smGet_smSet_self d m n _ hv

/-- Below the first index nothing is listed. -/
theorem smGet_above (d : β) (b : Option Nat) (m : SMap β) (h : smAbove d b m = true) (n : Nat) (hn : ∀ c, b = some c → n ≤ c)
    (hb : b ≠ none) : smGet d m n = d := by
  cases m with
  | nil => rfl
  | cons p r =>
    obtain ⟨k, w⟩ := p
    cases b with
    | none => exact absurd rfl hb
    | some c =>
      simp only [smAbove, Bool.and_eq_true, decide_eq_true_eq] at h
      have := hn c rfl
      have : n < k := by omega
      simp [smGet, this]

/-- Reading after writing in canonical form: the place written reads the value, every other place reads as before. -/
theorem smGet_smSet (d : β) (m : SMap β) (n : Nat) (v : β) (b : Option Nat) (h : smAbove d b m = true) (i : Nat) :
    smGet d (smSet d m n v) i = if i = n then v else smGet d m i := by
  induction m generalizing b with
  | nil =>
    by_cases hv : v = d
    · by_cases hi : i = n <;> simp [smSet, smGet, hv, hi]
    · by_cases hi : i = n
      · simp [smSet, smGet, hv, hi]
      · simp [smSet, smGet, hv, hi]
  | cons p r ih =>
    obtain ⟨k, w⟩ := p
    have h' := h
    simp only [smAbove, Bool.and_eq_true] at h'
    unfold smSet
    by_cases h1 : n < k
    · by_cases hv : v = d
      · by_cases hi : i = n
        · subst hi
          simp [h1, hv, smGet]
        · simp [h1, hv, hi]
      · by_cases hi : i = n
        · subst hi; simp [h1, hv, smGet]
        · by_cases h3 : i < n
          · have : i < k := by omega
            simp [h1, hv, smGet, hi, h3, this]
          · simp [h1, hv, smGet, hi, h3]
    · by_cases h2 : n = k
      · subst h2
        by_cases hv : v = d
        · simp only [lt_irrefl, if_false, if_true, hv]
          by_cases hi : i = n
          · subst hi
            simp only [if_true]
            exact smGet_above d (some i) r h'.2 i (by intro c hc; cases hc; exact le_refl _) (by simp)
          · by_cases h3 : i < n
            · simp only [hi, if_false, smGet, h3, if_true]
              exact smGet_above d (some n) r h'.2 i (by intro c hc; cases hc; omega) (by simp)
            · simp [hi, smGet, h3]
        · by_cases hi : i = n
          · subst hi; simp [hv, smGet]
          · simp [hv, smGet, hi]
      · have hr := ih (some k) h'.2
        by_cases hi : i = n
        · subst hi
          simp [h1, h2, smGet] at hr ⊢
          exact hr
        · simp only [hi, if_false] at hr ⊢
          simp [h1, h2, smGet, hr]

/-- A change keeps the canonical form. -/
theorem smWf_mod (d : β) (m : SMap β) (n : Nat) (f : β → β) (h : smWf d m = true) : smWf d (smMod d m n f) = true :=
  smWf_set d m n _ h

end Sys2Proof.Machine
end

