-- ==== Sys2Proof/Laws/State.lean ====
section
/-! SUPPORT. What each operation of the machine makes of the state, once per operation: an equation for the state it leaves. Later proofs rewrite
with these and do not unfold an operation. -/

namespace Sys2Proof.Machine

variable {s0 : Root} {b0 : State}

@[simp] theorem Eff.start_st (s : State) : (Eff.start s).st = s := rfl

@[simp] theorem Eff.when_true (e : Eff s0) (f : Eff s0 → Eff s0) : e.when true f = f e := rfl

@[simp] theorem Eff.when_false (e : Eff s0) (f : Eff s0 → Eff s0) : e.when false f = e := rfl

@[simp] theorem Eff.each_nil {α : Type} (e : Eff s0) (f : Eff s0 → α → Eff s0) : e.each [] f = e := rfl

@[simp] theorem Eff.each_cons {α : Type} (e : Eff s0) (a : α) (l : List α) (f : Eff s0 → α → Eff s0) :
    e.each (a :: l) f = (f e a).each l f := rfl

@[simp] theorem Eff.modDoms_st (e : Eff s0) (f : SMap Domain → SMap Domain) :
    (e.modDoms f).st = { e.st with doms := f e.st.doms } := rfl

@[simp] theorem Eff.modSess_st (e : Eff s0) (f : SessSt → SessSt) :
    (e.modSess f).st = { e.st with sess := f e.st.sess } := rfl

@[simp] theorem Eff.modPersist_st (e : Eff s0) (f : PersistSt → PersistSt) :
    (e.modPersist f).st = { e.st with persist := f e.st.persist } := rfl

@[simp] theorem Eff.modTrouble_st (e : Eff s0) (f : Trouble → Trouble) :
    (e.modTrouble f).st = { e.st with trouble := f e.st.trouble } := rfl

@[simp] theorem Eff.modDev_st (e : Eff s0) (f : DevSt → DevSt) :
    (e.modDev f).st = { e.st with dev := { f e.st.dev with state := e.st.dev.state } } := rfl

@[simp] theorem Eff.modFaults_st (e : Eff s0) (f : FaultSt → FaultSt) :
    (e.modFaults f).st = { e.st with faults := f e.st.faults } := rfl

@[simp] theorem Eff.modLanes_st (e : Eff s0) (f : SMap Lane → SMap Lane) :
    (e.modLanes f).st = { e.st with lanes := f e.st.lanes } := rfl

@[simp] theorem Eff.modCells_st (e : Eff s0) (f : SMap Cell → SMap Cell) :
    (e.modCells f).st = { e.st with cells := f e.st.cells } := rfl

@[simp] theorem Eff.modChain_st (e : Eff s0) (f : ChainSt → ChainSt) :
    (e.modChain f).st = { e.st with chain := f e.st.chain } := rfl

@[simp] theorem Eff.modGate_st (e : Eff s0) (f : GateSt → GateSt) :
    (e.modGate f).st = { e.st with gate := { f e.st.gate with hiZ := e.st.gate.hiZ } } := rfl

@[simp] theorem Eff.modOut_st (e : Eff s0) (n : Nat) (f : Aux → Aux) :
    (e.modOut n f).st = { e.st with aux := smMod Aux.reset e.st.aux n fun a => { f a with energised := (f a).energised && e.st.pair.role == .active } } := rfl

@[simp] theorem Eff.clearAux_st (e : Eff s0) :
    (e.clearAux).st = { e.st with aux := [] } := rfl

@[simp] theorem Eff.dropClaim_st (e : Eff s0) :
    (e.dropClaim).st = { e.st with pair := { e.st.pair with claim := false }, gate := { e.st.gate with hiZ := true } } := rfl

@[simp] theorem Eff.modPair_st (e : Eff s0) (f : PairSt → PairSt) :
    (e.modPair f).st = { e.st with pair := { f e.st.pair with role := e.st.pair.role, claim := e.st.pair.claim } } := rfl

@[simp] theorem Eff.modFrame_st (e : Act b0) (f : FrameSt → FrameSt) :
    (e.modFrame f).st = { e.st with frame := f e.st.frame } := rfl

@[simp] theorem Eff.modHub_st (e : Eff s0) (f : HubSt → HubSt) :
    (e.modHub f).st = { e.st with hub := f e.st.hub } := rfl

@[simp] theorem Eff.modBanks_st (e : Eff s0) (f : SMap Bank → SMap Bank) :
    (e.modBanks f).st = { e.st with banks := f e.st.banks } := rfl

@[simp] theorem Eff.modConv_st (e : Eff s0) (f : ConvSt → ConvSt) :
    (e.modConv f).st = { e.st with conv := f e.st.conv } := rfl

@[simp] theorem Eff.modClk_st (e : Eff s0) (f : ClkSt → ClkSt) :
    (e.modClk f).st = { e.st with clk := f e.st.clk } := rfl

@[simp] theorem Eff.modLoop_st (e : Eff s0) (f : LoopSt → LoopSt) :
    (e.modLoop f).st = { e.st with loop := f e.st.loop } := rfl

@[simp] theorem Eff.modSched_st (e : Eff s0) (f : SchedSt → SchedSt) :
    (e.modSched f).st = { e.st with sched := f e.st.sched } := rfl

@[simp] theorem Eff.modCasc_st (e : Eff s0) (f : CascSt → CascSt) :
    (e.modCasc f).st = { e.st with casc := f e.st.casc } := rfl

@[simp] theorem Eff.modMeter_st (e : Eff s0) (f : MeterSt → MeterSt) :
    (e.modMeter f).st = { e.st with meter := f e.st.meter } := rfl

@[simp] theorem Eff.modAssay_st (e : Eff s0) (f : AssaySt → AssaySt) :
    (e.modAssay f).st = { e.st with assay := f e.st.assay } := rfl

@[simp] theorem Eff.modWatch_st (e : Eff s0) (f : SMap WUnit → SMap WUnit) :
    (e.modWatch f).st = { e.st with watch := f e.st.watch } := rfl

@[simp] theorem Eff.modJrnl_st (e : Eff s0) (f : JrnlSt → JrnlSt) :
    (e.modJrnl f).st = { e.st with jrnl := f e.st.jrnl } := rfl

@[simp] theorem Eff.modTime_st (e : Eff s0) (f : TimeSt → TimeSt) :
    (e.modTime f).st = { e.st with time := { f e.st.time with up := e.st.time.up } } := rfl

@[simp] theorem Eff.pass_st (e : Eff s0) (ns : Nat) :
    (e.pass ns).st = { e.st with time := { e.st.time with up := e.st.time.up + ns } } := rfl

@[simp] theorem Eff.clearPoints_st (e : Eff s0) :
    (e.clearPoints).st = { e.st with pts := [] } := rfl

@[simp] theorem Eff.setCfg_st (e : Eff s0) (k : Nat) (v : Option Nat) :
    (e.setCfg k v).st = { e.st with cfg := smSet none e.st.cfg k v } := rfl

@[simp] theorem Eff.clearCfg_st (e : Eff s0) :
    (e.clearCfg).st = { e.st with cfg := [] } := rfl

@[simp] theorem Eff.setStg_st (e : Eff s0) (k : Nat) (v : Option Nat) :
    (e.setStg k v).st = { e.st with stg := smSet none e.st.stg k v } := rfl

@[simp] theorem Eff.clearStg_st (e : Eff s0) :
    (e.clearStg).st = { e.st with stg := [] } := rfl

@[simp] theorem Eff.emit_st (e : Eff s0) (o : Out) :
    (e.emit o).st = { e.st with sent := o :: e.st.sent } := rfl

@[simp] theorem Eff.tick_st (e : Eff s0) :
    (e.tick).st = { e.st with free := e.st.free + 1 } := rfl

@[simp] theorem Eff.pushQueue_st (e : Eff s0) (m : Entry) :
    (e.pushQueue m).st = { e.st with queue := (e.st.queue ++ [m]).take 256 } := rfl

@[simp] theorem Eff.popQueue_st (e : Eff s0) :
    (e.popQueue).st = { e.st with queue := e.st.queue.drop 1 } := rfl

@[simp] theorem Eff.clearQueue_st (e : Eff s0) :
    (e.clearQueue).st = { e.st with queue := [] } := rfl

@[simp] theorem Eff.pushRing_st (e : Eff s0) (m : Entry) :
    (e.pushRing m).st = { e.st with ring := (m :: e.st.ring).take 32766 } := rfl

@[simp] theorem Eff.setRing_st (e : Eff s0) (l : List Entry) :
    (e.setRing l).st = { e.st with ring := l.take 32766 } := rfl

/-- Writing a point changes the point store alone, and nothing where there is no such point. -/
@[simp] theorem Eff.setPoint_st (e : Eff s0) (n : Nat) (w : PointWord) :
    (e.setPoint n w).st = { e.st with pts := if n < pointCount then smSet pointReset e.st.pts n w else e.st.pts } := by
  unfold Eff.setPoint
  split <;> simp [*]

/-- An ACTIVE device takes the claim and drives the hub. -/
theorem Eff.takeClaim_st (e : Eff s0) (h : e.st.pair.role = .active) :
    e.takeClaim.st = { e.st with pair := { e.st.pair with claim := true }, gate := { e.st.gate with hiZ := false } } := by
  unfold Eff.takeClaim
  simp [h]

/-- A state other than OFF and BOOT. -/
theorem Eff.putState_st (e : Eff s0) (d : DevState) (c : Nat) (h : ¬(d = .off ∨ d = .boot)) :
    (e.putState d c).st = { e.st with dev := { e.st.dev with state := d, cause := c } } := by
  unfold Eff.putState
  simp [h]

/-- A role other than ACTIVE. -/
theorem Eff.setRole_st (e : Eff s0) (r : Role) (h : r ≠ .active) :
    (e.setRole r).st = { e.st with
      pair := { e.st.pair with role := r, claim := false }, gate := { e.st.gate with hiZ := true }, aux := deadAux e.st.aux } := by
  unfold Eff.setRole
  simp [h]

end Sys2Proof.Machine
end

