-- ==== Sys2Proof/Laws/Frames.lean ====
section
/-! SUPPORT. What the blocks of a received frame make of the state. -/

namespace Sys2Proof.Machine

variable {s0 : Root}

/-- A block leaves the lane in its state unless block lock is lost with it. -/
theorem Lane.take_state (x : Lane) (eth : Bool) (sec : Nat) (b : Block) :
    (x.take eth sec b).1.state = x.state ∨ Heard.lost ∈ (x.take eth sec b).2 := by
  have hb : ∀ ok, (x.header eth sec ok).state = x.state ∨ (x.header eth sec ok).state = .hunt := by
    intro ok
    unfold Lane.header Lane.countBad
    cases ok <;> simp
    split <;> simp
  unfold Lane.take
  by_cases h : x.state = .locked
  · rcases hb (validSync b.sync) with h' | h' <;> simp [h, h']
  · simp [h]

/-- The rest of the blocks are heard on the lane as the first leaves it. -/
theorem Lane.takes_cons (x : Lane) (eth : Bool) (sec : Nat) (b : Block) (bl : List Block) :
    x.takes eth sec (b :: bl) =
      (((x.take eth sec b).1.takes eth sec bl).1, (x.take eth sec b).2 ++ ((x.take eth sec b).1.takes eth sec bl).2) := by
  have h : ∀ (bl : List Block) (y : Lane) (l : List Heard),
      bl.foldl (fun a b => let r := a.1.take eth sec b; (r.1, a.2 ++ r.2)) (y, l) =
        ((y.takes eth sec bl).1, l ++ (y.takes eth sec bl).2) := by
    intro bl
    induction bl with
    | nil => intro y l; simp [Lane.takes]
    | cons c r ih =>
      intro y l
      unfold Lane.takes
      simp only [List.foldl_cons]
      rw [ih, ih _ ([] ++ _)]
      simp
  unfold Lane.takes
  simp only [List.foldl_cons]
  rw [h]
  simp [Lane.takes]

/-- Blocks leave the lane in its state unless block lock is lost with one of them. -/
theorem Lane.takes_state (x : Lane) (eth : Bool) (sec : Nat) (bl : List Block) :
    (x.takes eth sec bl).1.state = x.state ∨ Heard.lost ∈ (x.takes eth sec bl).2 := by
  induction bl generalizing x with
  | nil => simp [Lane.takes]
  | cons b r ih =>
    rw [Lane.takes_cons]
    rcases x.take_state eth sec b with h | h
    · rcases ih (x.take eth sec b).1 with h' | h' <;> simp [h, h']
    · simp [h]

/-- A lane that is not LOCKED hears nothing. -/
theorem Lane.takes_unlocked (x : Lane) (eth : Bool) (sec : Nat) (bl : List Block) (h : x.state ≠ .locked) :
    x.takes eth sec bl = (x, []) := by
  induction bl with
  | nil => rfl
  | cons b r ih => rw [Lane.takes_cons]; simp [Lane.take, h, ih]

/-- A change of a lane that keeps its state raises no event. -/
theorem Eff.modLane_st (e : Eff s0) (l : Nat) (f : Lane → Lane) (h : (f (e.lane l)).state = (e.lane l).state)
    (hd : f (e.lane l) ≠ Lane.reset) :
    (e.modLane l f).st = { e.st with lanes := smMod Lane.reset e.st.lanes l f } := by
  unfold Eff.modLane
  simp only [Eff.lane] at *
  simp [smGet_smMod_self, h, hd]

/-- Blocks in which one frame ends are heard as that frame, on the state with the lane's receiver moved on. -/
theorem Eff.heard_frame (e : Eff s0) (l : Nat) (bl : List Block) (bs : List Byte) (f : List Byte → Eff s0 → Eff s0)
    (h : (e.st.hears l bl).2 = [.frame bs]) : ∃ e' : Eff s0, e'.st = e.st.took l bl ∧ e.heard l bl f = f bs e' := by
  have h' : ((e.lane l).takes (26 ≤ l) (e.time.clock / (1000000000 * nsq)).toNat bl).2 = [.frame bs] := h
  have hs := (e.lane l).takes_state (26 ≤ l) (e.time.clock / (1000000000 * nsq)).toNat bl
  simp only [h', List.mem_singleton, reduceCtorEq, or_false] at hs
  unfold Eff.heard State.took State.hears
  simp only [h', Eff.each_cons, Eff.each_nil]
  refine ⟨_, ?_, rfl⟩
  split
  · rfl
  · rw [Eff.modLane_st _ _ _ hs]
    · rfl
    · intro hd
      rw [hd] at hs
      rw [Lane.takes_unlocked _ _ _ _ (by rw [← hs]; decide)] at h'
      simp at h'

/-- Blocks that carry an intact frame of the kind are received as that frame. -/
theorem Eff.received_intact (e : Eff s0) (l kind : Nat) (bl : List Block) (bs : List Byte) (f : List Byte → Eff s0 → Eff s0)
    (h : e.st.Intact l kind bl bs) : ∃ e' : Eff s0, e'.st = e.st.took l bl ∧ e.received l kind bl f = f bs e' := by
  obtain ⟨_, hh, hl, hf, hk⟩ := h
  obtain ⟨e', hs, he⟩ := e.heard_frame l bl bs (fun bs e => e.intact l kind bs f) hh
  exact ⟨e', hs, by unfold Eff.received; rw [he]; unfold Eff.intact; simp [hl, hf, hk]⟩

end Sys2Proof.Machine
end

