-- ==== Sys2Proof/Laws/Reports.lean ====
section
/-! SUPPORT. What events, the trouble record and reports that are only recorded make of the state. -/

namespace Sys2Proof.Machine

variable {s0 : Root}

/-- An event changes the events alone. -/
theorem Eff.event_st (e : Eff s0) (n : Nat) : (e.event n).st = { e.st with faults := (e.event n).st.faults } := rfl

/-- A bit of the trouble record: the record, and the events. -/
theorem Eff.setTrouble_st (e : Eff s0) (b : Nat) :
    (e.setTrouble b).st = { e.st with trouble := e.st.trouble ||| 2 ^ b, faults := (e.setTrouble b).st.faults } := by
  unfold Eff.setTrouble
  cases b == 2 <;> simp [Eff.event]

/-- A report that is only recorded changes the collector alone. -/
theorem Eff.fault_quiet (e : Eff s0) (source kind addr : Nat) (h : e.st.Quiet kind addr) :
    (e.fault source kind addr).st = { e.st with faults := e.st.noted source kind addr } := by
  obtain ⟨h1, h2⟩ := h
  have c1 : e.classOf kind addr = (Eff.start e.st).classOf kind addr := rfl
  have n2 : ¬(2 ≤ e.classOf kind addr) := by omega
  have n5 : ¬(5 ≤ e.classOf kind addr) := by omega
  have nh : ¬(e.st.cv oJrnlHoldClass 0 ≤ e.classOf kind addr) := by omega
  have r : ∀ (x : Eff s0) (t : Int), x.react (e.classOf kind addr) kind addr t = x := by
    intro x t
    have q2 : e.classOf kind addr ≠ 2 := by omega
    have q3 : e.classOf kind addr ≠ 3 := by omega
    have q4 : e.classOf kind addr ≠ 4 := by omega
    have q5 : e.classOf kind addr ≠ 5 := by omega
    have q6 : e.classOf kind addr ≠ 6 := by omega
    have q7 : e.classOf kind addr ≠ 7 := by omega
    simp [Eff.react, q2, q3, q4, q5, q6, q7]
  unfold Eff.fault Eff.report Eff.reportN
  have nh' : ∀ m : Entry, ¬(((e.record m).event (e.classOf kind addr)).cv oJrnlHoldClass ≤ e.classOf kind addr) := fun _ => nh
  simp only [r, n2, n5, nh', false_and, decide_false, Bool.and_false, Bool.false_and, Bool.or_false, Bool.false_eq_true, if_false,
    List.filter_false, List.foldl_nil, Eff.when_false]
  simp only [Eff.record, Eff.event, State.noted, State.message, Eff.modFaults_st, Eff.start_st, ite_self]
  rfl

end Sys2Proof.Machine
end

