-- ==== Sys2Proof/Laws/Requests.lean ====
section
/-! SUPPORT. What sessions, answers and the checks of a request make of the state. -/

namespace Sys2Proof.Machine

variable {s0 : Root}

/-- Changing a session changes the sessions alone. -/
theorem Eff.modSession_st (e : Eff s0) (id : Nat) (f : Session → Session) :
    (e.modSession id f).st = { e.st with sess := (e.modSession id f).st.sess } := by
  unfold Eff.modSession
  split <;> rfl

theorem Eff.emitAll_st {α : Type} (e : Eff s0) (f : α → Out) (l : List α) :
    (l.foldl (fun (e : Eff s0) x => e.emit (f x)) e).st = { e.st with sent := (l.map f).reverse ++ e.st.sent } := by
  induction l generalizing e with
  | nil => rfl
  | cons a r ih => simp [ih]

/-- Sending a message changes the sessions and what was sent alone. -/
theorem Eff.transmit_st (e : Eff s0) (d : Src) (note : Bool) (m : List Byte) :
    (e.transmit d note m).st = { e.st with sess := (e.transmit d note m).st.sess, sent := (e.transmit d note m).st.sent } := by
  cases d with
  | udp a b c => rfl
  | can c =>
    cases note <;> simp only [Eff.transmit, Eff.emitAll_st, Eff.modSess_st, if_true, if_false, Bool.false_eq_true]
  | spi => cases note <;> rfl

/-- An answer changes the sessions and what was sent alone. -/
theorem Eff.answer_st (e : Eff s0) (q : Req) (op : Nat) (a : Ans) :
    (e.answer q op a).st = { e.st with sess := (e.answer q op a).st.sess, sent := (e.answer q op a).st.sent } := by
  unfold Eff.answer
  simp only
  rw [Eff.transmit_st, Eff.modSession_st]

/-- An answer has been sent. -/
theorem Eff.answer_replied (e : Eff s0) (q : Req) (op : Nat) (a : Ans) : (e.answer q op a).st.Replied q op a := by
  have hm : answers q op a (e.st.sealed 1 op q.seq.toNat q.session.toNat a.payload) := by
    unfold State.sealed answers
    simp only
    split
    · split
      · exact ⟨_, rfl⟩
      · exact ⟨[], by simp⟩
    · exact ⟨[], by simp⟩
  refine ⟨_, hm, ?_⟩
  unfold Eff.answer Eff.response
  simp only
  generalize e.st.sealed 1 op q.seq.toNat q.session.toNat a.payload = m
  generalize e.modSession q.session.toNat _ = e
  cases hq : q.src with
  | udp x y z => exact ⟨_, rfl⟩
  | can c =>
    refine ⟨e.st.sent, ?_⟩
    simp only [Eff.transmit, Eff.emitAll_st, Eff.modSess_st, if_false, Bool.false_eq_true]
    rfl
  | spi => exact ⟨e.st.sess.spiResp, rfl⟩

/-- A request that passes is admitted with its right and session; only the sessions change. -/
theorem Eff.admit_go (e : Eff s0) (q : Req) (op : Nat) (p : List Byte) (lvl sid : Nat) (h : e.st.Accepts q op p lvl sid) :
    ∃ e' : Eff s0, e.vet q op p = .go e' lvl sid ∧ e'.st = { e.st with sess := e'.st.sess } := by
  obtain ⟨hs, hl, h | ⟨hq, hop, slot, x, hf, hsrc, hp, ho, ht, hc, hw, rfl, rfl⟩⟩ := h
  · obtain ⟨hq, ho, rfl, rfl⟩ := h
    refine ⟨e, ?_, rfl⟩
    unfold Eff.vet
    simp [hs, hq, ho, Nat.not_lt.mpr hl]
  · refine ⟨e.modSession x.id (·.takes q.seq.toNat e.time.up), ?_, Eff.modSession_st _ _ _⟩
    have ho : e.overdue x = false := ho
    have hl' := Nat.not_lt.mpr hl
    unfold Eff.vet
    simp [hs, hf, hsrc, hp, ho, ht, hc, hw, hop, hl']
    exact fun h => absurd h hq

/-- An ACTION request that passes runs its action, whose answer goes out unless it is still to come. -/
theorem Eff.invoke_go (e : Eff s0) (q : Req) (obj : Nat) (args : List Byte) (right : Nat) (active : Bool) (lvl sid : Nat)
    (run : Eff s0 → Ctx → List Byte → ActRes s0) (h : e.st.Invoked q obj args right active lvl sid) :
    ∃ e' : Eff s0, e'.st = { e.st with sess := e'.st.sess } ∧
      e.invoke q obj args right active run = (match run e' ⟨lvl, sid, .req q⟩ args with
        | (x, some a) => x.answer q 3 a
        | (x, none) => x) := by
  obtain ⟨ha, hr, hact⟩ := h
  obtain ⟨e', he, hst⟩ := e.admit_go q 3 _ lvl sid ha
  refine ⟨e', hst, ?_⟩
  unfold Eff.invoke
  rw [he]
  unfold Eff.actOn
  have h1 : ¬ lvl < right := by omega
  have h2 : (active && !e'.isActive) = false := by
    cases active with
    | false => rfl
    | true =>
      have := hact rfl
      have h : e'.st.pair.role = .active := by rw [hst]; exact this
      simp [Eff.isActive, h]
  simp only [h1, h2, if_false]
  rcases run e' ⟨lvl, sid, .req q⟩ args with ⟨x, _ | a⟩ <;> rfl

/-- A relation between states that every round keeps holds over a loop. -/
theorem Eff.foldl_rel {α : Type} (R : State → State → Prop) (refl : ∀ a, R a a) (trans : ∀ a b c, R a b → R b c → R a c)
    (f : Eff s0 → α → Eff s0) (h : ∀ e x, R e.st (f e x).st) (l : List α) (e : Eff s0) : R e.st (l.foldl f e).st := by
  induction l generalizing e with
  | nil => exact refl _
  | cons a r ih => exact trans _ _ _ (h e a) (ih (f e a))

/-- Discarding a staged set changes the staged values and the domains alone. -/
theorem Eff.unstage_st (e : Eff s0) (d : Nat) :
    (e.unstage d).st = { e.st with stg := (e.unstage d).st.stg, doms := (e.unstage d).st.doms } := by
  have h := Eff.foldl_rel (s0 := s0) (fun a b => b = { a with stg := b.stg }) (fun _ => rfl)
    (fun a b c h1 h2 => by rw [h2, h1]) (fun (e : Eff s0) (p : Nat × Nat) => e.setStg p.1 none) (fun _ _ => rfl)
    (e.st.stagedOf d) e
  unfold Eff.unstage Eff.modDom
  simp only [Eff.modDoms_st]
  rw [h]

theorem Eff.unlockAll_st (e : Eff s0) (id : Nat) :
    (e.unlockAll id).st = { e.st with stg := (e.unlockAll id).st.stg, doms := (e.unlockAll id).st.doms } := by
  have h := fun l => Eff.foldl_rel (s0 := s0) (fun a b => b = { a with stg := b.stg, doms := b.doms }) (fun _ => rfl)
    (fun a b c h1 h2 => by rw [h2, h1]) (fun (e : Eff s0) d => if (e.dom d).owner = id then e.unstage d else e)
    (fun e d => by
      split
      · exact Eff.unstage_st e d
      · rfl) l e
  unfold Eff.unlockAll Eff.each
  generalize List.range 15 = l
  exact h l

theorem Eff.dropFaults_st (e : Eff s0) (id : Nat) :
    (e.dropFaults id).st = { e.st with faults := (e.dropFaults id).st.faults } ∧
      (∀ b ∈ (e.dropFaults id).st.faults.subs, b.sess ≠ id) ∧ ∀ i, (e.dropFaults id).st.faults.inject = some i → i.sess ≠ id := by
  unfold Eff.dropFaults
  cases hi : e.st.faults.inject with
  | none =>
    refine ⟨by simp [hi], ?_, ?_⟩ <;> simp [hi]
  | some i =>
    by_cases hs : i.sess = id
    · refine ⟨by simp [hs, Eff.endInjection], ?_, ?_⟩ <;> simp [hs, Eff.endInjection]
    · refine ⟨by simp [hi, hs], ?_, ?_⟩ <;> simp [hi, hs]

theorem Eff.dropSlot_st (e : Eff s0) (id : Nat) : (e.dropSlot id).st = { e.st with sess := (e.dropSlot id).st.sess } := by
  unfold Eff.dropSlot
  split <;> rfl

/-- The end of a session changes the staged values, the domains, the collector's sessions and the sessions alone; its registration and its
injection session are gone. -/
theorem Eff.endSession_st (e : Eff s0) (id : Nat) :
    (e.endSession id).st = { e.st with
      stg := (e.endSession id).st.stg, doms := (e.endSession id).st.doms, faults := (e.endSession id).st.faults
      sess := (e.endSession id).st.sess } ∧
    (∀ b ∈ (e.endSession id).st.faults.subs, b.sess ≠ id) ∧
    ∀ i, (e.endSession id).st.faults.inject = some i → i.sess ≠ id := by
  unfold Eff.endSession
  have h1 := Eff.unlockAll_st e id
  obtain ⟨h2, h2a, h2b⟩ := Eff.dropFaults_st (e.unlockAll id) id
  have h3 := Eff.dropSlot_st ((e.unlockAll id).dropFaults id) id
  refine ⟨?_, ?_, ?_⟩
  · rw [h3, h2, h1]
  · rw [h3]; exact h2a
  · rw [h3]; exact h2b

end Sys2Proof.Machine
end

