-- ==== Sys2Proof/Laws/Resets.lean ====
section
/-! SUPPORT. What a reset of the DEVICE domain makes of the state. -/

namespace Sys2Proof.Machine

/-- A reset leaves the state that `State.afterReset` describes. -/
theorem Eff.deviceReset_st {b0 : State} (e : Act b0) (cause : Nat) : (e.deviceReset cause).st = e.st.afterReset cause := by
  have off : ∀ {s0 : Root} (e : Eff s0), (e.putState .off 0).st = { e.st with
      dev := { e.st.dev with state := .off, cause := 0 }, pair := { e.st.pair with role := .unset, claim := false }
      gate := { e.st.gate with hiZ := true }, aux := deadAux e.st.aux } := fun e => by simp [Eff.putState]
  unfold Eff.deviceReset Eff.resetOuter State.afterReset
  simp only [Eff.modClk_st, Eff.modTime_st, Eff.modHub_st, Eff.modGate_st, Eff.modPair_st, Eff.modMeter_st, Eff.modPersist_st,
    Eff.modJrnl_st, Eff.modWatch_st, Eff.modAssay_st, Eff.modCasc_st, Eff.modSched_st, Eff.modLoop_st, Eff.modConv_st,
    Eff.modBanks_st, Eff.modFrame_st, Eff.clearAux_st, Eff.modChain_st, Eff.modCells_st, Eff.modLanes_st, Eff.modFaults_st,
    Eff.modDev_st, Eff.modTrouble_st, off, Eff.clearPoints_st, Eff.clearCfg_st, Eff.clearStg_st, Eff.clearQueue_st,
    Eff.setRing_st, Eff.setCfg_st, Eff.modDoms_st, Eff.modSess_st, Eff.cfg]
  simp [State.reset, GateSt.inputs, GateSt.reset, DevSt.reset, PairSt.reset, TimeSt.backup]

end Sys2Proof.Machine
end

