-- ==== Sys2Proof/Machine/Package.lean ====
section
/-! DEFINITION. Names and balls: how the manual numbers cells, remote gates and hub channels (R2, R6, R7), the balls of the signal
groups (R590, R591), and the operating range of each rail (R594) beside its monitor window. -/

namespace Sys2Proof.Machine

/-! ### Cells and gates -/

/-- The cell at a position of a chain; position 0 is nearest end 1 (R2). -/
def cellAt (chain pos : Nat) : Nat := 8 * chain + pos

/-- The four bridges of a cell, in the order of its gate index (R6). -/
inductive Bridge
  | h | p | s | b
  deriving DecidableEq, Repr

/-- The place of a bridge in the gate index. -/
def Bridge.index : Bridge → Nat
  | .h => 0 | .p => 1 | .s => 2 | .b => 3

/-- The gate index g, 0 to 15, of the high or low gate of leg 1 or 2 of a bridge (R6): C17.P2H is .p, leg 2, high. -/
def gateIndex (bridge : Bridge) (leg : Nat) (high : Bool) : Nat :=
  4 * bridge.index + 2 * (leg - 1) + if high then 0 else 1

/-- The global remote gate index (R6). -/
def remoteGate (cell g : Nat) : Nat := 16 * cell + g

/-- The channel DG of the high or low gate of hub leg u (R7). -/
def hubChannel (u : Nat) (high : Bool) : Nat := if high then 2 * u else 2 * u + 1

/-! ### Balls -/

/-- A ball by its row, counted by index from A = 1, and its column (R590). -/
structure Ball where
  row : Nat
  col : Nat
  deriving DecidableEq, Repr

/-- The 19 row letters. -/
def rowLetters : List Char := "ABCDEFGHJKLMNPTUVWY".toList

/-- The letters of a row index, 1 to 46: A to Y, AA to AY, BA to BH. -/
def rowName (r : Nat) : String :=
  let l := rowLetters.getD ((r - 1) % 19) 'A'
  if r ≤ 19 then String.ofList [l] else if r ≤ 38 then String.ofList ['A', l] else String.ofList ['B', l]

/-- The name of a ball, row then column. -/
def Ball.name (b : Ball) : String := rowName b.row ++ toString b.col

/-- The transmit pair (P, N) and the receive pair (P, N) of lane l (R591): rows B and E, or BG and BD from lane 14. -/
def laneBalls (l : Nat) : List Ball :=
  let c := 3 + 3 * (l % 14)
  let (tx, rx) := if l < 14 then (2, 5) else (45, 42)
  [⟨tx, c⟩, ⟨tx, c + 1⟩, ⟨rx, c⟩, ⟨rx, c + 1⟩]

/-- The pair of gate command k (R590). -/
def gateBalls (k : Nat) : List Ball := [⟨7 + k, 45⟩, ⟨7 + k, 46⟩]

/-- The short-circuit sense input k, and its two supply status inputs (R590). -/
def senseBalls (k : Nat) : List Ball := [⟨7 + k, 44⟩, ⟨7 + k, 42⟩, ⟨7 + k, 43⟩]

/-- The two balls of auxiliary output a: rows AT and AU, or AW and AY from output 8 (R590). -/
def auxBalls (a : Nat) : List Ball :=
  if a < 8 then [⟨34, 35 + a⟩, ⟨35, 35 + a⟩] else [⟨37, 27 + a⟩, ⟨38, 27 + a⟩]

/-- The pair of fast input j = 8f + i, of sigma-delta input s, and of bitstream input x (R590). -/
def fastBalls (j : Nat) : List Ball := [⟨7 + j, 33⟩, ⟨7 + j, 34⟩]
def sdBalls (s : Nat) : List Ball := [⟨7 + s, 36⟩, ⟨7 + s, 37⟩]
def xbBalls (x : Nat) : List Ball := [⟨23 + x, 36⟩, ⟨23 + x, 37⟩]

/-! ### Rails -/

/-- The operating range of rail r in units of 0.1 mV, noise included (R594). -/
def railOperating (r : Nat) : Nat × Nat :=
  match r with
  | 0 => (7275, 7725) | 1 => (7760, 8240) | 2 => (8730, 9270) | 3 => (11520, 12480) | 4 => (17280, 18720)
  | 5 => (31680, 34320) | 6 => (48000, 52000) | 7 => (17280, 18720) | 8 => (90000, 320000) | _ => (20000, 36000)

end Sys2Proof.Machine
end

