-- ==== Sys2Proof/WellFormed.lean ====
section
/-! DEFINITION. Well-formed commands: operands that can physically reach the device. `exec` gives every command its effect,
well-formed or not; the checks say which operands a transport, a link or a converter can carry. -/

namespace Sys2Proof

/-- The header of a request as a transport delivers it (R81): a TAG of 16 octets, or none. -/
def Req.wf (q : Req) : Bool := q.tag.length == 0 || q.tag.length == 16

/-- Octets whose count a field of 16 bits carries: LEN of DAP (R81), LEN16 of host SPI (R89), LEN of a Wynlink frame (R172). -/
def fitsLen (bs : List Byte) : Bool := decide (bs.length < 65536)

/-- A sample word (R370): VALID is 0 where REASON is not. -/
def sampleWf (x : Sample) : Bool := field x.word.toNat 3 4 == 0 || !bitOf x.word.toNat 7

/-- The sample words of one entry of a fast converter (R370, R386): at most 16 conversions, DATA filling bits [31:12]. -/
def samplesWf (l : List Sample) : Bool := decide (l.length ≤ 16) && l.all fun x => sampleWf x && field x.word.toNat 8 4 == 0

/-- A burst that a requester can post to a bank (R521, R526): 1 to 16 lines of the bank, with the 8 words of each for a write. -/
def burstWf (bank : Nat) (write : Bool) (lines : List (Nat × Byte × List PointWord)) : Bool :=
  decide (1 ≤ lines.length) && decide (lines.length ≤ 16) && lines.all fun l =>
    decide (l.1 < 262144) && l.1 % 8 == bank && (if write then l.2.2.length == 8 else l.2.2.length == 0)

/-- Whether the operands of a command can reach the device: requests with a tag or none and a payload that LEN can carry, CAN FD
segments of 1 to 64 octets (R88), lists that name nothing twice, sample words with DATA in
its bits (R370), voltages and currents in the ranges of their words, and PTP fields in their widths. -/
def Instr.wf (i : Instr) : Bool :=
  match i with
  | .dapRead q _ _ _ _ => q.wf
  | .dapWrite q _ _ _ _ vals => q.wf && fitsLen vals
  | .dapOpen q _ nonce => q.wf && fitsLen nonce
  | .dapProve q proof => q.wf && fitsLen proof
  | .dapClose q | .keepalive q => q.wf
  | .proveTimeout _ | .sessionTimeout _ | .authLockoutEnd _ => true
  | .dapcSegment _ octets => decide (1 ≤ octets.length) && decide (octets.length ≤ 64)
  | .dapcMessageTimeout _ => true
  | .spiPut _ msg _ => fitsLen msg
  | .spiGet | .spiStatus => true
  | .commit q args | .abandon q args => q.wf && fitsLen args
  | .commitActivation _ | .peerCommitMissed _ => true
  | .store q args => q.wf && fitsLen args
  | .storeComplete _ => true
  | .troubleW1c q vals | .stickyClear q _ _ _ vals => q.wf && fitsLen vals
  | .resetNRise _ | .resetNLow _ | .jtagSysreset | .suppliesInRange | .pllLock _ _ | .pllLockFail | .sramSelfTestDone _ _
  | .firmwareVerifyDone _ _ | .dictionaryRestore _ | .roleNegotiation _ _ | .roleWaitExpiry => true
  | .start q args | .stop q args | .trip q args | .safeExit q args => q.wf && fitsLen args
  | .discoveryEnd ids vers => decide (ids.map (·.1)).Nodup && decide (vers.map (·.1)).Nodup && (ids.all fun t => decide (t.2.length ≤ 255)) &&
      vers.all fun t => decide (t.2.length ≤ 255)
  | .discoverRetry | .repeatedDiscovery | .frameStart | .checkpointComplete | .canarySend | .inputDeadline | .beaconSend => true
  | .overrun unfinished => decide unfinished.Nodup
  | .chargeTimeout | .syncTimeout | .brkFail | .stopTimeout | .derateClearTimeout | .derateHoldExpiry | .pwrFailNAssert _
  | .pwrFailNRelease _ => true
  | .reqIdle q _ | .reqActive q _ | .reqBypass q _ | .reqRejoin q _ | .reqRetire q _ => q.wf
  | .cellLost _ | .cellSuspect _ | .joinTimeout _ | .bypassOpenTimeout _ | .laneWakeDone _ | .adaptationEnd _ _ _
  | .laneAcquireDone _ | .blockLock _ _ _ | .lockLoss _ _ | .losAssert _ _ _ | .losClear _ _ _ | .lolAssert _ _ _ _
  | .lolClear _ _ _ | .warmAcquireTimeout _ | .laneDown _ => true
  | .laneStop q args | .laneStart q args => q.wf && fitsLen args
  | .measureReceive _ _ | .responseReceive _ _ _ | .scheduleReceive _ _ | .beaconReceive _ _ | .tripBlockReceive _ _
  | .canaryReceive _ _ _ | .availReceive _ _ | .digestReceive _ _ | .relayDnReceive _ _ | .relayUpReceive _ _ | .fillReqReceive _ _
  | .fillReceive _ _ | .outdigReceive _ _ | .convFrameReceive _ _ | .ckptReceive _ _ | .controlConfig _ _ | .controlCommit _ _
  | .controlAction _ _ | .controlAck _ _ | .controlLatch _ _ | .controlMeter _ _ | .replayResult _ _ | .handover _ _ | .ckptReq _ _
  | .retiring _ _ | .controlRepeat | .standbyAbsent | .roleOkHigh _ | .claimRelease | .joinNoCanary | .presentNChange _ => true
  | .pairHandover q args | .pairRejoin q args => q.wf && fitsLen args
  | .shadowStart | .shadowLimit | .resyncDone | .selfReplayDone _ | .replayResultTimeout | .joinReplayDone | .joinStepTimeout
  | .hubPeriodStart _ | .hubMidReload _ | .fastTick | .triggerCompareMatch _ | .commEdge _ _ _ | .hubHaltDetect _
  | .gateCommand _ _ | .guardDeadTimeEnd _ | .blankingEnd _ | .senseQualified _ _ _ | .supplyFail _ _ _ _ | .gateEnNRise
  | .gateEnNFall => true
  | .cellEnToggle q args | .slotReset q args => q.wf && fitsLen args
  | .conversionTrigger _ _ => true
  | .convTrigger q args => q.wf && fitsLen args
  | .entryResult _ lower upper => samplesWf lower && samplesWf upper
  | .sequenceEnd _ => true
  | .sdOutput _ sample => sampleWf sample
  | .sdStuck _ _ _ | .bitstreamResume _ _ | .calConverged _ => true
  | .auxProspect q args => q.wf && fitsLen args
  | .auxTestDone _ va vb vaux => decide (va < 65536) && decide (vb < 65536) && decide (vaux < 65536)
  | .auxTestAbort _ | .auxOvercurrent _ _ _ | .auxOcBlankEnd _ | .auxOvertemp _ _ => true
  | .auxClear q args => q.wf && fitsLen args
  | .faultReport _ _ _ master atype => decide (master < 16) && decide (atype < 4)
  | .tripRepeat | .queueAccept | .holdingDrop _ | .ledgerDrain | .ledgerStore => true
  | .firstErrRearm q args | .ledgerRead q args | .ledgerClear q args | .injectOpen q args | .injectClose q args => q.wf && fitsLen args
  | .injectExpiry => true
  | .force q args | .forcePoint q args | .evSubscribe q args => q.wf && fitsLen args
  | .eventNotification _ _ => true
  | .dispEmerg q args | .socSet q args | .meterClose q args | .meterRead q args | .meterAck q args => q.wf && fitsLen args
  | .meterSign _ => true
  | .ptpSyncReceive _ _ _ _ _ _ logInterval => decide (-128 ≤ logInterval) && decide (logInterval ≤ 127)
  | .ptpFollowUpReceive _ _ _ _ | .ptpDelayRespReceive _ _ _ _ | .ptpPdelayReqReceive _ _ _ _ | .ptpPdelayRespReceive _ _ _ _ => true
  | .ptpAnnounceReceive _ _ p1 cc ac va p2 utc _ _ _ sr => decide (p1 < 256) && decide (cc < 256) && decide (ac < 256) && decide (va < 65536) && decide (p2 < 256) &&
      decide (utc < 65536) && decide (sr < 65536)
  | .announceTimeout _ | .timeHold => true
  | .stepAuthorise q args => q.wf && fitsLen args
  | .leapSecond | .calendarCompare => true
  | .calSet q args | .calTamperClear q args => q.wf && fitsLen args
  | .tamperNFall _ | .vbatLow _ | .oscillatorStop _ => true
  | .timedAction q args | .timedCancel q args => q.wf && fitsLen args
  | .transferPost _ bank write lines => burstWf bank.val write lines
  | .storeCycle _ _ | .bankWatchdog _ | .watchRead _ _ => true
  | .wuArm q args | .wuDisarm q args | .wuTrigger q args | .wuRelease q args => q.wf && fitsLen args
  | .postEnd _ | .holdoffEnd _ => true
  | .acqExport q args | .jrnlHold q args | .jrnlRelease q args | .jrnlExport q args => q.wf && fitsLen args
  | .streamDatagram => true
  | .rrStart q args | .rrStop q args | .rrImport q args => q.wf && fitsLen args
  | .replayFrame _ changes => decide (changes.map (·.1)).Nodup
  | .pllUnlock _ | .refclkLoss _ _ | .islandClockFault _ | .debugHalt _ | .bootstat => true
  | .supplyOor _ mv _ | .supplyReset _ mv _ => decide (mv < 65536)
  | .junctionHot deciC => decide (-32768 ≤ deciC) && decide (deciC ≤ 32767)
  | .roleOkFall | .refclkReturn _ | .islandClockRestore _ | .debugHaltRelease _ => true
  | .railReturn _ mv => decide (mv < 65536)
  | .ptpDelayReqReceive _ _ _ _ | .ptpSyncSend _ | .ptpAnnounceSend | .ptpDelayReqSend _ | .ptpPdelayReqSend _ => true

end Sys2Proof
end

