-- ==== Sys2Proof/Tests/Slice0.lean ====
section
/-! SUPPORT. The model's own tests: one witness for every clause of the obligations that has hypotheses, the smoke tests of
WellFormed, and the worked examples of the spec. -/

set_option linter.unusedVariables false
set_option Elab.async false

namespace Sys2Proof.Tests
open Sys2Proof.Machine

/-! ### States and requests the witnesses are made from -/

/-- A proved session: number 7 with right 3, from one UDP source. -/
def wX : Session :=
  { id := 7, level := 3, src := .udp 0 0x0A000001#32 5000#16, cn := zeros 16, dn := zeros 16, proved := true, ks := zeros 16, hiSeq := none
    cache := [], opened := 0, lastValid := 100000000000 }

/-- Session 7 alone, in slot 0. -/
def wSess : SessSt := { SessSt.reset with slots := [(0, some wX)] }

/-- A request of session 7 with its tag. -/
def wQ (op : Nat) (p : List Byte) : Req :=
  { src := .udp 0 0x0A000001#32 5000#16, seq := 1, session := 7, tag := dapTag (zeros 16) (dapOctets 0 op 1 7 p 0), rsv := 0 }

/-- An action request of session 7. -/
abbrev wA (obj : Nat) (args : List Byte) : Req := wQ 3 (actionPayload obj args)

/-- A device in a state and a role, 100 s after power-up, in frame 1000, with PLLs locked and session 7. -/
def wS (st : DevState) (role : Role) : State :=
  { State.reset with
    sess := wSess, dev := { DevSt.reset with state := st, bootStage := 6, pllLocked := [0, 1, 2] }
    pair := { PairSt.reset with role := role, epoch := 1 }, clk := { ClkSt.reset with resetN := true }
    frame := { FrameSt.reset with running := true, k := 1000, tk := 100000000000 * nsq, tkPrev := 99999950000 * nsq }
    time := { TimeSt.reset with up := 100000000000, clock := 100000000000 * nsq + 1000 * nsq } }

/-- An ACTIVE device in RUN. -/
def wRun : State := wS .run .active

/-- A standby in RUN. -/
def wStb : State := wS .run .standby

/-- The class of a kind and address committed as "record only". -/
def quiet (s : State) (kind addr : Nat) : State :=
  { s with cfg := smSet none s.cfg (key oReaction (2 * kind + (if (scopeCell kind addr).isSome then 1 else 0))) (some 1) }

/-- An element committed. -/
def cfgd (s : State) (obj elem v : Nat) : State := { s with cfg := smSet none s.cfg (key obj elem) (some v) }

theorem wAccepts (s : State) (op : Nat) (p : List Byte) (hs : s.serving = true) (hx : s.sess = wSess) (hp : p.length ≤ 1444)
    (ho : op ≠ 0x11) (hv : (Eff.start s).overdue wX = false) : s.Accepts (wQ op p) op p 3 7 :=
  ⟨hs, hp, .inr ⟨(by decide : (7 : BitVec 32) ≠ 0), ho, 0, wX, by simp only [State.findSession, hx]; rfl, rfl, rfl, hv, rfl, rfl, rfl, rfl, rfl⟩⟩

theorem wInvoked (s : State) (obj : Nat) (args : List Byte) (right : Nat) (active : Bool) (hs : s.serving = true) (hx : s.sess = wSess)
    (hp : (actionPayload obj args).length ≤ 1444) (hr : right ≤ 3) (ha : active = true → s.pair.role = .active) (hv : (Eff.start s).overdue wX = false) :
    s.Invoked (wA obj args) obj args right active 3 7 :=
  ⟨wAccepts s 3 _ hs hx hp (by decide) hv, hr, ha⟩

/-- A device with session 7 opened but not proved, for right 1 under key 5. -/
def wUnproved : State :=
  { wRun with sess := { wSess with slots := [(0, some { wX with proved := false, level := 1 })] }, cfg := [(key oKOperator 0, some 5)] }

/-- Session 7 opened 1 s ago for right 1, not proved. -/
def wXu : Session := { wX with proved := false, level := 1, opened := 99000000000 }

/-- A device with that session, under key 5. -/
def wFresh : State := { wRun with sess := { wSess with slots := [(0, some wXu)] }, cfg := [(key oKOperator 0, some 5)] }

/-- A KEEPALIVE without a session, SEQ 1. -/
def wKeep : List Byte := [0x10, 0x13, 1, 0, 0, 0, 0, 0, 0, 0, 0, 0]

/-- The row of an object the dictionary has. -/
def wRow (obj : Nat) : ObjRow := (objRow? obj).getD ⟨0, 0, .u8, .ro, 0, 0, .con 0, .any, none⟩

/-- A device in BOOT after a step of start-up. -/
def wBoot (stage : Nat) : State := { wS .boot .unset with dev := { DevSt.reset with state := .boot, bootStage := stage } }

/-- Changes the device state machine, the pair unit, the frame record, the time unit, the clocks. -/
def dv (s : State) (f : DevSt → DevSt) : State := { s with dev := f s.dev }
def pr (s : State) (f : PairSt → PairSt) : State := { s with pair := f s.pair }
def fr (s : State) (f : FrameSt → FrameSt) : State := { s with frame := f s.frame }
def tm (s : State) (f : TimeSt → TimeSt) : State := { s with time := f s.time }
def ck (s : State) (f : ClkSt → ClkSt) : State := { s with clk := f s.clk }
def ch (s : State) (f : ChainSt → ChainSt) : State := { s with chain := f s.chain }

/-- `n` cells installed on phases 0, 1, 2 in turn, all in one state, with their terminals answering. -/
def cas (s : State) (n : Nat) (st : CellState) : State :=
  { s with
    cfg := (List.range n).map fun c => (key oCellPhase c, some (c % 3))
    cells := (List.range n).map fun c => (c, { Cell.reset with state := st, termId := c + 1, bypClosed := st != .active }) }

/-- Every lane LOCKED. -/
def lk (s : State) : State :=
  { s with lanes := (List.range 28).map fun l => (l, { Lane.reset with state := .locked, enabled := true, los := false, lol := false }) }

/-- A checkpoint of frame 900 that still misses lines. -/
def wCkpt : Ckpt :=
  { frame := 900, done := false, clean := true, cfg := [], timed := [], forced := [], pts := [], loop := LoopSt.reset, sched := SchedSt.reset
    casc := CascSt.reset, meter := MeterSt.reset, assay := AssaySt.reset, hub := HubSt.reset, cells := [], dev := .run }

/-- A Wynlink frame of a kind, intact, with the octets behind its length field. -/
def wF (kind : Nat) (body : List Byte) : List Byte :=
  let h := [BitVec.ofNat 8 kind, 1] ++ le 2 (8 + body.length) ++ body
  h ++ le 4 (crc32c h).toNat

/-- A MEASURE record of cell c for frame 1000 that acknowledges no epoch, with its RCRC. -/
def wRec (c : Nat) : List Byte :=
  let r := le 4 c ++ le 4 1000 ++ le 2 0xFFFF ++ zeros 82
  r ++ le 4 (crc32c r).toNat

/-- An empty battery segment with its SCRC. -/
def wSeg : List Byte := zeros 4 ++ le 4 (crc32c (zeros 4)).toNat

/-- A CONTROL message of a type in one segment, CSEQ 5. -/
def wC (type frame : Nat) (p : List Byte) : List Byte :=
  wF 0x2A (le 1 type ++ [128] ++ zeros 2 ++ le 4 5 ++ le 8 frame ++ le 2 p.length ++ zeros 2 ++ p)

/-- The first 20 octets of a SCHEDULE of device B, whose SERIAL ends in 7, for frame 1000, with HCRC. -/
def wHdr : List Byte :=
  let h : List Byte := [1, 1] ++ le 2 28 ++ zeros 8 ++ le 4 7 ++ zeros 2 ++ le 2 1000
  h ++ le 4 (crc32c h).toNat

/-- That SCHEDULE without a record, with a right or a wrong FCRC. -/
def wSch (ok : Bool) : List Byte := wHdr ++ (if ok then le 4 (crc32c wHdr).toNat else zeros 4)

/-- The header of a SCHEDULE as device A relays it to a chain: 32 octets in all, marked RELAYED. -/
def wHd : List Byte := [1, 17] ++ le 2 32 ++ List.replicate 16 3

/-- A METER message: the signed record of port 191 with REC_SEQ 7. -/
def wMeter : List Byte := zeros 5 ++ [191] ++ zeros 10 ++ le 4 7 ++ zeros 188

/-- A running hub whose leg 3 is enabled and monitored. -/
def wHub : State :=
  { wRun with
    cfg := [(key oLegEn 3, some 1)], hub := { HubSt.reset with running := true, ts := 99000000000 * nsq }
    gate := { GateSt.reset with hiZ := false, legs := [(3, { Leg.reset with mon := true })] } }

/-- A hub state changed. -/
def hb (s : State) (f : HubSt → HubSt) : State := { s with hub := f s.hub }

/-- A device with a VENDOR session open, which enables debug halts. -/
def wDbg : State := { wRun with sess := { wSess with slots := [(0, some { wX with level := 3 })] } }

/-- An ACTIVE device with GATE_EN_N low, with gates and legs. -/
def gt (gates : SMap Gate) (legs : SMap Leg) : State :=
  { wRun with gate := { GateSt.reset with hiZ := false, enN := false, gates := gates, legs := legs } }

/-- A monitored leg. -/
def wLeg : Leg := { Leg.reset with mon := true }

/-- A slot on lane 8 with one input, point 5 weighted by 1, and its clamp. -/
def wFast : State :=
  cfgd (cfgd (cfgd (cfgd (cfgd (cfgd { wHub with loop := { LoopSt.reset with handed := [(5, 0x700#64)] } } oSlotCfg 9 0x10011) oInPt 36 5)
    oInW 36 0x40000000) oOutMax 9 1000) oOutMin 9 0xFFFFFFFB) oBrLen 9 0

/-- Leg 3 with a trigger compare at 7000 of 20000 counts, which starts sequence 1 of converter 2. -/
def wTrig : State :=
  cfgd (cfgd (cfgd (cfgd (hb wHub fun h => { h with legs := [(3, { HubLeg.reset with begun := true, startAt := 99000000000 * nsq })] })
    oLegMode 3 4) oPer 3 20000) oTc 7 7000) oSeqCfg 9 0x3B

/-- A device whose fast converter 2 is in some state. -/
def wFa (x : ConvF) : State := { wRun with conv := { ConvSt.reset with fs := [(2, x)] } }

/-- Converter 2 in sequence 1, calibrated, settled on channel 3 with gain 1, 500 ns after the frame start. -/
def wX2 : ConvF := { ConvF.reset with running := some 1, prev := some (19, 1), calOk := true, start := 100000000500 * nsq }

/-- Sequence 1 of converter 2: FRAME, two entries from entry 4, the first one conversion of channel 3 with gain 1. -/
def wConv : State := cfgd (cfgd (wFa wX2) oSeqCfg 9 0x4401) oEntry 68 0xB

/-- A device whose sigma-delta channel 7 is in some state. -/
def wSd (x : SdCh) : State := { wRun with conv := { ConvSt.reset with sd := [(7, x)] } }

/-- A device whose auxiliary output n is in some state. -/
def wAux (n : Nat) (a : Aux) : State := { wRun with aux := [(n, a)] }

/-- The class of a kind and address committed, with journal holds off. -/
def rx (s : State) (kind addr cls : Nat) : State :=
  { s with cfg := smSet none (cfgd s oJrnlHoldClass 0 0xFF).cfg (key oReaction (2 * kind + (if (scopeCell kind addr).isSome then 1 else 0))) (some cls) }

/-- The collector changed. -/
def ft (s : State) (f : FaultSt → FaultSt) : State := { s with faults := f s.faults }

/-- A message. -/
def wMsg (kind merges seq : Nat) : Entry :=
  { addr := 5, kind := kind, sev := 1, source := 0x80, time := 7, frame := 900, merges := merges, access := none, forced := false
    notActed := false, peer := false, pfTail := false, seq := seq, rid := 1 }

/-- Session 7 holds an injection session of MODE 0 that ends 9 s later. -/
def wInj : State := ft wRun fun f => { f with inject := some ⟨7, 0, 109000000000⟩ }

/-- Session 7 is registered, and event 30 occurred 3 times for it. -/
def wSub : State := ft wRun fun f => { f with subs := [⟨7, [(30, 3)], []⟩] }

/-- An interval of port 5 that waits for its signature. -/
def wClose : MClose := { port := 5, seq := 3, cause := 2, flags := 1, body := zeros 96 }

/-- The record that is signed, with the record before it. -/
def wSigned (prev : Option (Nat × List Byte × Bool)) : List Byte :=
  [0x47#8, 0x4D#8, 0x52#8, 0x31#8, 1#8] ++ le 1 5 ++ le 1 wClose.cause ++
    le 1 (wClose.flags + 16 * ofBool (wClose.seq != 0 && prev.isNone)) ++ le 8 Config.serial.toNat ++ le 4 wClose.seq ++ wClose.body ++
    prev.elim (zeros 32) (fun r => sha256 r.2.1)

/-- A meter whose port 5 has a close to sign and some records. -/
def wMet (recs : List (Nat × List Byte × Bool)) : State :=
  { wRun with meter := { MeterSt.reset with closes := [wClose], ports := [(5, { MPort.reset with seq := 4, recs := recs })] } }

/-- A scheduled action with FLAGS 0x01 for 100.0001 s or another instant in ns after 100 s. -/
def wTimed (ns flags : Nat) : List Byte := le 6 100 ++ le 4 ns ++ le 2 0 ++ le 3 oStop ++ le 1 flags ++ le 2 0

/-- What slot 4 then holds. -/
def wSlot (done : Bool) (level : Nat) : Timed := ⟨6553606553600, 1010, oStop, false, false, done, 0, 0, 7, level, []⟩

/-- Bank 3 in some state. -/
def wBank (b : Bank) : State := { wRun with banks := [(3, b)] }

/-- A transfer of line 11 that writes its points 1 and 7. -/
def wXf (line : Nat) : Xfer := ⟨line, 0x82, List.replicate 8 0x77#64⟩

/-- Watch unit 5 in some state with a WU_CFG word. -/
def wWu (w : WUnit) (c : Nat) : State := cfgd { wRun with watch := [(5, w)] } oWuCfg 5 c

/-- A closed capture. -/
def wCap : Capture := ⟨zeros 64, 1, []⟩

/-- The journal changed. -/
def jr (s : State) (f : JrnlSt → JrnlSt) : State := { s with jrnl := f s.jrnl }

/-- A complete hold of frames 900 to 902 with its checkpoint. -/
def wHold : Hold := ⟨1, 900, 901, 902, [(902, [3]), (901, [2]), (900, [1])], 3, true, false, some { wCkpt with done := true }⟩

/-- A Reading Room run over frames 900 to 902. -/
def wRR : RRun := ⟨false, false, 0, 900, 902, 901, 1⟩

/-- An ACTIVE device with GATE_EN_N low and a running hub, whose leg 3 the compares decide, with gates and legs. -/
def gh (gates : SMap Gate) (legs : SMap Leg) : State :=
  cfgd (hb (gt gates legs) fun h => { h with running := true, legs := [(3, { HubLeg.reset with begun := true })] }) oLegEn 3 1

/-- STOP in the table of the actions. -/
theorem wStop (s : State) : actRow? ⟨s, false⟩ oStop = some ⟨oStop, 1, false, actStop⟩ := by
  simp only [actRow?, actRows1, List.cons_append, List.find?]
  rfl

/-- Witnesses of the hypotheses of StepRunsTheFrontCommand. -/
theorem witness_StepRunsTheFrontCommand :
    (∃ (c : Instr) (rest : List Instr) (s : State), s.pending = c :: rest) :=
  ⟨.spiStatus, [], { wRun with pending := [.spiStatus] }, by decide +kernel⟩

/-- Witnesses of the hypotheses of EmptyQueueLetsOneTickPass. -/
theorem witness_EmptyQueueLetsOneTickPass :
    (∃ (s : State), s.pending = [] ∧ s.dev.state = .off) ∧
    (∃ (s : State), s.pending = [] ∧ s.dev.state ≠ .off ∧ s.chain.held = [] ∧ (∀ k < 24, (smGet Gate.reset s.gate.gates k).early = false
      ∧ (smGet Gate.reset s.gate.gates k).earlyDue = false)) ∧
    (∃ (s : State), s.pending = [] ∧ s.dev.state ≠ .off ∧ s.chain.held = [] ∧ (∀ k < 24, (smGet Gate.reset s.gate.gates k).early = false
      ∧ (smGet Gate.reset s.gate.gates k).earlyDue = false)) ∧
    (∃ (s : State), s.pending = [] ∧ s.dev.state ≠ .off ∧ s.gate.hiZ = true ∧ s.chain.held ≠ [] ∧ (∀ k < 24, (smGet Gate.reset
      s.gate.gates k).earlyDue = false)) ∧
    (∃ (s : State), s.pending = [] ∧ s.dev.state ≠ .off ∧ s.gate.hiZ = true ∧ s.chain.held ≠ [] ∧ (∀ k < 24, (smGet Gate.reset
      s.gate.gates k).earlyDue = false)) :=
  ⟨⟨wS .off .unset, by decide +kernel⟩,
   ⟨wRun, by decide +kernel⟩,
   ⟨{ wS .run .active with gate := { GateSt.reset with hiZ := false } }, by decide +kernel⟩,
   ⟨ch wRun fun h => { h with held := [(3, [1, 2])] }, by decide +kernel⟩,
   ⟨tm (ch wRun fun h => { h with held := [(25, [1, 2])] }) fun t => { t with clock := 100100000000 * nsq }, by decide +kernel⟩⟩

/-- Witnesses of the hypotheses of EveryStepKeepsTheInvariant. -/
theorem witness_EveryStepKeepsTheInvariant :
    (∃ (s : State) (t : State), s.Inv ∧ step s = .next t) :=
  ⟨wRun, idle wRun, by unfold State.Inv State.OutputsOk; decide +kernel, rfl⟩

/-- Witnesses of the hypotheses of HubIsDrivenOnlyUnderTheClaimOfAnActiveDevice. -/
theorem witness_HubIsDrivenOnlyUnderTheClaimOfAnActiveDevice :
    (∃ (s : State) (t : State), s.OutputsOk ∧ step s = .next t) ∧
    (∃ (s : State), ∃ n a, s.OutputsOk ∧ s.pair.role ≠ .active ∧ (n, a) ∈ s.aux) ∧
    (∃ (s : State), s.OutputsOk ∧ s.pair.role ≠ .active) ∧
    (∃ (s : State), s.OutputsOk ∧ (s.dev.state = .off ∨ s.dev.state = .boot)) :=
  ⟨⟨wRun, idle wRun, by unfold State.OutputsOk; decide +kernel, rfl⟩,
   ⟨{ wStb with aux := [(0, { Aux.reset with cmd := true })] }, 0, { Aux.reset with cmd := true },
     by unfold State.OutputsOk; decide +kernel, by decide +kernel, .head _⟩,
   ⟨wStb, by unfold State.OutputsOk; decide +kernel, by decide +kernel⟩,
   ⟨wS .off .unset, by unfold State.OutputsOk; decide +kernel, by decide +kernel⟩⟩

/-- Witnesses of the hypotheses of StepsNeverTakeBackWhatWasSent. -/
theorem witness_StepsNeverTakeBackWhatWasSent :
    (∃ (s : State) (t : State), step s = .next t) :=
  ⟨wRun, idle wRun, rfl⟩

/-- Witnesses of the hypotheses of PointStoreReadsWhatWasWritten. -/
theorem witness_PointStoreReadsWhatWasWritten :
    (∃ (s : State), Memory.wf s.pts = true) ∧
    (∃ (s : State), Memory.wf s.pts = true) ∧
    (∃ (s : State), Memory.wf s.pts = true) :=
  ⟨⟨{ wRun with pts := [(5, 1)] }, by decide +kernel⟩,
   ⟨{ wRun with pts := [(5, 1)] }, by decide +kernel⟩,
   ⟨{ wRun with pts := [(5, 1)] }, by decide +kernel⟩⟩

/-- Witnesses of the hypotheses of PointWordsHoldTheirFields. -/
theorem witness_PointWordsHoldTheirFields :
    (∃ (v : Int) (toff : Int) (q : Nat) (f : Nat), -2 ^ 31 ≤ v ∧ v < 2 ^ 31 ∧ -2 ^ 15 ≤ toff ∧ toff < 2 ^ 15 ∧ q < 256 ∧ f < 256) ∧
    (∃ (v : Int) (toff : Int) (q : Nat) (f : Nat), -2 ^ 31 ≤ v ∧ v < 2 ^ 31 ∧ -2 ^ 15 ≤ toff ∧ toff < 2 ^ 15 ∧ q < 256 ∧ f < 256) :=
  ⟨⟨-2147483648, 32767, 255, 128, by decide +kernel⟩,
   ⟨2147483647, -32768, 0, 255, by decide +kernel⟩⟩

/-- Witnesses of the hypotheses of Time96RoundTrips. -/
theorem witness_Time96RoundTrips :
    (∃ (t : Int), 0 ≤ t ∧ t < 2 ^ 48 * 1000000000 * 65536) :=
  ⟨2 ^ 48 * 1000000000 * 65536 - 1, by decide +kernel⟩

/-- Witnesses of the hypotheses of CanSegmentsCarryTheWholeMessage. -/
theorem witness_CanSegmentsCarryTheWholeMessage :
    (∃ (m : List Byte) (i : Nat) (seg : List Byte), m.length ≤ 4032 ∧ (canSegments 64 0 m)[i]? = some seg ∧ i + 1 < (canSegments 64 0
      m).length) ∧
    (∃ (m : List Byte) (i : Nat) (seg : List Byte), m.length ≤ 4032 ∧ (canSegments 64 0 m)[i]? = some seg) ∧
    (∃ (m : List Byte), m.length ≤ 4032) :=
  ⟨⟨List.replicate 4032 5, 0, ((canSegments 64 0 (List.replicate 4032 5))[0]?).getD [], by decide +kernel⟩,
   ⟨List.replicate 65 5, 1, ((canSegments 64 0 (List.replicate 65 5))[1]?).getD [], by decide +kernel⟩,
   ⟨List.replicate 4032 5, by decide +kernel⟩⟩

/-- Witnesses of the hypotheses of SetImagesRoundTrip. -/
theorem witness_SetImagesRoundTrip :
    (∃ (l : List (Nat × Nat)), (∀ p ∈ l, p.1 < 2 ^ 40 ∧ p.2 < 2 ^ 64)) :=
  ⟨[(2 ^ 40 - 1, 2 ^ 64 - 1), (0, 0)], by decide +kernel⟩

/-- Witnesses of the hypotheses of SessionRequestsComplete. -/
theorem witness_SessionRequestsComplete :
    (∃ (s : State) (q : Req) (lvl : Nat) (sid : Nat), s.Accepts q 0x13 [] lvl sid) ∧
    (∃ (s : State) (q : Req) (lvl : Nat) (sid : Nat), s.Accepts q 0x12 [] lvl sid) ∧
    (∃ (s : State) (q : Req) (level : Byte) (nonce : List Byte) (slot : Nat), s.serving = true ∧ (Eff.start s).lockedOut q.src = false ∧
      nonce.length = 16 ∧ level.toNat ≤ 3 ∧ (Eff.start s).freeSlot = some slot) ∧
    (∃ (s : State) (q : Req) (proof : List Byte) (k : List Byte) (slot : Nat) (x : Session), s.serving = true ∧ q.session ≠ 0 ∧
      s.findSession q.session.toNat = some (slot, x) ∧ x.src = q.src ∧ x.proved = false ∧ x.cache.find? (·.1 == q.seq.toNat) = none ∧
      x.outside q.seq.toNat = false ∧ (Eff.start s).overdue x = false ∧ (Eff.start s).levelKey x.level = some k ∧ proof.length = 32 ∧
      proof = hmac k (ascii "GBX-OPEN" ++ le 4 x.id ++ le 1 x.level ++ x.cn ++ x.dn)) :=
  ⟨⟨wRun, wQ 0x13 [], 3, 7, wAccepts _ _ _ (by decide +kernel) rfl (by decide) (by decide) (by decide +kernel)⟩,
   ⟨{ wRun with faults := { FaultSt.reset with inject := some ⟨7, 0, 0⟩, subs := [⟨7, [], []⟩, ⟨8, [], []⟩] } }, wQ 0x12 [], 3, 7,
     wAccepts _ _ _ (by decide +kernel) rfl (by decide) (by decide) (by decide +kernel)⟩,
   ⟨wRun, { wQ 0x10 [] with session := 0 }, 3, zeros 16, 1, by decide +kernel⟩,
   ⟨wFresh, { wQ 0x11 [] with tag := [] }, hmac (le 16 5) (ascii "GBX-OPEN" ++ le 4 7 ++ le 1 1 ++ zeros 16 ++ zeros 16), le 16 5, 0,
     wXu, by decide +kernel, by decide +kernel, by decide +kernel, by decide +kernel, by decide +kernel, by decide +kernel,
     by decide +kernel, by decide +kernel, by decide +kernel, by decide +kernel, rfl⟩⟩

/-- Witnesses of the hypotheses of SessionTimersEndSessions. -/
theorem witness_SessionTimersEndSessions :
    (∃ (s : State) (slot : Fin 8) (x : Session), smGet none s.sess.slots slot.val = some x ∧ x.proved = false ∧ x.opened + 5000000000 ≤
      s.time.up) ∧
    (∃ (s : State) (slot : Fin 8) (x : Session), smGet none s.sess.slots slot.val = some x ∧ x.proved = false ∧ x.opened + 5000000000 ≤
      s.time.up) ∧
    (∃ (s : State) (slot : Fin 8) (x : Session), smGet none s.sess.slots slot.val = some x ∧ (x.proved = true ∨ s.time.up < x.opened +
      5000000000)) ∧
    (∃ (s : State) (slot : Fin 8) (x : Session), smGet none s.sess.slots slot.val = some x ∧ (x.proved = true ∨ s.time.up < x.opened +
      5000000000)) ∧
    (∃ (s : State) (slot : Fin 8) (x : Session), smGet none s.sess.slots slot.val = some x ∧ x.lastValid + s.cv oSessionTimeout 0 *
      1000000000 ≤ s.time.up) ∧
    (∃ (s : State) (slot : Fin 8) (x : Session), smGet none s.sess.slots slot.val = some x ∧ s.time.up < x.lastValid + s.cv
      oSessionTimeout 0 * 1000000000) :=
  ⟨⟨{ wUnproved with faults := { FaultSt.reset with subs := [⟨7, [], []⟩, ⟨8, [], []⟩] }, doms := [(1, { Domain.reset with owner := 7 })] },
     0, { wX with proved := false, level := 1 }, by decide +kernel⟩,
   ⟨{ wUnproved with time := { wUnproved.time with up := 5000000000 } }, 0, { wX with proved := false, level := 1 }, by decide +kernel⟩,
   ⟨wRun, 0, wX, by decide +kernel⟩,
   ⟨{ wUnproved with time := { wUnproved.time with up := 4999999999 } }, 0, { wX with proved := false, level := 1 }, by decide +kernel⟩,
   ⟨{ wRun with time := { wRun.time with up := 160000000000 } }, 0, wX, by decide +kernel⟩,
   ⟨{ wRun with time := { wRun.time with up := 159999999999 } }, 0, wX, by decide +kernel⟩⟩

/-- Witnesses of the hypotheses of HostTransportsComplete. -/
theorem witness_HostTransportsComplete :
    (∃ (s : State), ∃ m r, s.serving = true ∧ s.sess.spiResp = m :: r) ∧
    (∃ (s : State), ∃ m r, s.serving = true ∧ s.sess.spiResp = [] ∧ s.sess.spiNote = m :: r) ∧
    (∃ (s : State), s.serving = true ∧ s.sess.spiResp = [] ∧ s.sess.spiNote = []) ∧
    (∃ (s : State), s.serving = true) ∧
    (∃ (s : State) (len : BitVec 16) (msg : List Byte) (crc : BitVec 32), s.serving = true ∧ (s.sess.spiBusy = true ∨ msg.length ≠
      len.toNat ∨ crc32c msg ≠ crc)) ∧
    (∃ (s : State) (len : BitVec 16) (msg : List Byte) (crc : BitVec 32), s.serving = true ∧ (s.sess.spiBusy = true ∨ msg.length ≠
      len.toNat ∨ crc32c msg ≠ crc)) ∧
    (∃ (s : State) (len : BitVec 16) (msg : List Byte) (crc : BitVec 32), s.serving = true ∧ (s.sess.spiBusy = true ∨ msg.length ≠
      len.toNat ∨ crc32c msg ≠ crc)) ∧
    (∃ (s : State) (msg : List Byte) (q : Req) (lvl : Nat) (sid : Nat), s.serving = true ∧ s.sess.spiBusy = false ∧ 12 ≤ msg.length ∧
      msg.length < 65536 ∧ octet msg 0 = 0x10 ∧ octet msg 1 = 0x13 ∧ fieldLe msg 8 2 = 0 ∧ q =
      { src := .spi, seq := BitVec.ofNat 16 (fieldLe msg 2 2), session := BitVec.ofNat 32 (fieldLe msg 4 4), tag := (msg.drop 12).take 16, rsv := BitVec.ofNat 16 (fieldLe msg 10 2) }
      ∧ State.Accepts { s with sess := { s.sess with spiBusy := true } } q 0x13 [] lvl sid) ∧
    (∃ (s : State) (c : Fin 2) (p : Partial), smGet none s.sess.canPart c.val = some p) ∧
    (∃ (s : State) (c : Fin 2) (p : Partial), smGet none s.sess.canPart c.val = some p) ∧
    (∃ (s : State) (c : Fin 2) (bs : List Byte), s.serving = true ∧ s.cv oDapcRate c.val ≠ 2 ∧ bs.length = 63) ∧
    (∃ (s : State) (c : Fin 2) (p : Partial) (bs : List Byte), s.serving = true ∧ s.cv oDapcRate c.val ≠ 2 ∧ bs.length = 63 ∧ p.next < 64
      ∧ smGet none s.sess.canPart c.val = some p ∧ s.time.up < p.started + 100000000) ∧
    (∃ (s : State) (c : Fin 2) (msg : List Byte) (q : Req) (lvl : Nat) (sid : Nat), s.serving = true ∧ s.cv oDapcRate c.val ≠ 2 ∧ c.val ∉
      s.sess.canBusy ∧ 12 ≤ msg.length ∧ msg.length ≤ 63 ∧ octet msg 0 = 0x10 ∧ octet msg 1 = 0x13 ∧ fieldLe msg 8 2 = 0 ∧ q =
      { src := .can c, seq := BitVec.ofNat 16 (fieldLe msg 2 2), session := BitVec.ofNat 32 (fieldLe msg 4 4), tag := (msg.drop 12).take 16, rsv := BitVec.ofNat 16 (fieldLe msg 10 2) }
      ∧ State.Accepts
      { s with sess := { s.sess with canPart := smSet none s.sess.canPart c.val none, canBusy := c.val :: s.sess.canBusy } } q 0x13 []
      lvl sid) ∧
    (∃ (s : State), s.serving = true) ∧
    (∃ (s : State), s.serving = true) ∧
    (∃ (s : State), s.serving = true) :=
  ⟨⟨{ wRun with sess := { wSess with spiResp := [[1], [2]], spiNote := [[3]] } }, [1], [[2]], by decide +kernel⟩,
   ⟨{ wRun with sess := { wSess with spiNote := [[3], [4]] } }, [3], [[4]], by decide +kernel⟩,
   ⟨wRun, by decide +kernel⟩,
   ⟨{ wRun with sess := { wSess with spiRejected := true } }, by decide +kernel⟩,
   ⟨{ wRun with sess := { wSess with spiBusy := true } }, 1, [5], crc32c [5], by decide +kernel⟩,
   ⟨wRun, 2, [5], crc32c [5], by decide +kernel⟩,
   ⟨wRun, 1, [5], 0, by decide +kernel⟩,
   ⟨wRun, wKeep, { src := .spi, seq := 1, session := 0, tag := [], rsv := 0 }, 0, 0, by decide +kernel, by decide +kernel,
     by decide +kernel, by decide +kernel, by decide +kernel, by decide +kernel, by decide +kernel, by decide +kernel,
     ⟨by decide +kernel, by decide, .inl ⟨rfl, by decide +kernel, rfl, rfl⟩⟩⟩,
   ⟨{ wRun with sess := { wSess with canPart := [(1, some ⟨[1], 1, 99900000000⟩)] } }, 1, ⟨[1], 1, 99900000000⟩, by decide +kernel⟩,
   ⟨{ wRun with sess := { wSess with canPart := [(1, some ⟨[1], 1, 99900000001⟩)] } }, 1, ⟨[1], 1, 99900000001⟩, by decide +kernel⟩,
   ⟨{ wRun with sess := { wSess with canPart := [(1, some ⟨[1], 1, 99900000001⟩)] } }, 1, List.replicate 63 4, by decide +kernel⟩,
   ⟨{ wRun with sess := { wSess with canPart := [(1, some ⟨[1], 63, 99900000001⟩)] } }, 1, ⟨[1], 63, 99900000001⟩, List.replicate 63 4,
     by decide +kernel⟩,
   ⟨wRun, 1, wKeep, { src := .can 1, seq := 1, session := 0, tag := [], rsv := 0 }, 0, 0, by decide +kernel, by decide +kernel,
     by decide +kernel, by decide +kernel, by decide +kernel, by decide +kernel, by decide +kernel, by decide +kernel, by decide +kernel,
     ⟨by decide +kernel, by decide, .inl ⟨rfl, by decide +kernel, rfl, rfl⟩⟩⟩,
   ⟨wRun, by decide +kernel⟩,
   ⟨{ wRun with sess := { wSess with spiNote := [[1], [2]] } }, by decide +kernel⟩,
   ⟨wRun, by decide +kernel⟩⟩

/-- Witnesses of the hypotheses of DictionaryRequestsComplete. -/
theorem witness_DictionaryRequestsComplete :
    (∃ (s : State) (q : Req) (obj : ObjNo) (flags : Byte) (count : BitVec 16) (n : Nat) (lvl : Nat) (sid : Nat), obj.toNat = 0x80_0000 +
      n ∧ 1 ≤ count.toNat ∧ count.toNat ≤ 179 ∧ n + count.toNat ≤ 2097152 ∧ (Eff.start s).islandOff 3 = false ∧ s.Accepts q 1 (le 3
      obj.toNat ++ [flags] ++ le 2 0 ++ le 2 count.toNat) lvl sid) ∧
    (∃ (s : State) (q : Req) (obj : ObjNo) (flags : Byte) (count : BitVec 16) (n : Nat) (lvl : Nat) (sid : Nat), obj.toNat = 0x80_0000 +
      n ∧ 1 ≤ count.toNat ∧ count.toNat ≤ 179 ∧ n + count.toNat ≤ 2097152 ∧ (Eff.start s).islandOff 3 = false ∧ s.Accepts q 1 (le 3
      obj.toNat ++ [flags] ++ le 2 0 ++ le 2 count.toNat) lvl sid) ∧
    (∃ (s : State) (q : Req) (obj : ObjNo) (flags : Byte) (first : BitVec 16) (count : BitVec 16) (r : ObjRow) (lvl : Nat) (sid : Nat),
      objRow? obj.toNat = some r ∧ (r.acc = .rw ∨ r.acc = .rws) ∧ mirrored obj.toNat = false ∧ isKey obj.toNat = false ∧ 1 ≤ count.toNat
      ∧ first.toNat + count.toNat ≤ r.n ∧ count.toNat ≤ 1444 ∧ 10 + count.toNat * r.ty.width ≤ 1444 ∧ (∀ i < count.toNat, ∀ j, islandOf
      obj.toNat (first.toNat + i) = some j → (Eff.start s).islandOff j = false) ∧ s.Accepts q 1 (le 3 obj.toNat ++ [flags] ++ le 2
      first.toNat ++ le 2 count.toNat) lvl sid) ∧
    (∃ (s : State) (q : Req) (obj : ObjNo) (flags : Byte) (first : BitVec 16) (count : BitVec 16) (vals : List Byte) (r : ObjRow) (vs :
      List Nat) (lvl : Nat) (sid : Nat), objRow? obj.toNat = some r ∧ (r.acc = .rw ∨ r.acc = .rws) ∧ mirrored obj.toNat = false ∧
      s.pair.role = .active ∧ 1 ≤ count.toNat ∧ first.toNat + count.toNat ≤ r.n ∧ (obj.toNat / 65536 = 1 ∨ r.right ≤ lvl) ∧ writtenValues
      r obj.toNat count.toNat vals = some vs ∧ ((smGet Domain.reset s.doms r.dom).owner = 0 ∨ (smGet Domain.reset s.doms r.dom).owner =
      sid) ∧ (r.acc = .rws → ∀ i < vs.length, (Eff.start s).idleFor obj.toNat (first.toNat + i) = true) ∧ s.Accepts q 2 (le 3 obj.toNat
      ++ [flags] ++ le 2 first.toNat ++ le 2 count.toNat ++ vals) lvl sid) ∧
    (∃ (s : State) (q : Req) (obj : ObjNo) (flags : Byte) (first : BitVec 16) (count : BitVec 16) (vals : List Byte) (r : ObjRow) (vs :
      List Nat) (lvl : Nat) (sid : Nat), objRow? obj.toNat = some r ∧ (r.acc = .rw ∨ r.acc = .rws) ∧ mirrored obj.toNat = false ∧
      s.pair.role = .active ∧ 1 ≤ count.toNat ∧ first.toNat + count.toNat ≤ r.n ∧ (obj.toNat / 65536 = 1 ∨ r.right ≤ lvl) ∧ writtenValues
      r obj.toNat count.toNat vals = some vs ∧ ((smGet Domain.reset s.doms r.dom).owner = 0 ∨ (smGet Domain.reset s.doms r.dom).owner =
      sid) ∧ (r.acc = .rws → ∀ i < vs.length, (Eff.start s).idleFor obj.toNat (first.toNat + i) = true) ∧ s.Accepts q 2 (le 3 obj.toNat
      ++ [flags] ++ le 2 first.toNat ++ le 2 count.toNat ++ vals) lvl sid) ∧
    (∃ (s : State) (q : Req) (vals : List Byte) (lvl : Nat) (sid : Nat), vals.length = 4 ∧ 2 ≤ lvl ∧ s.Quiet kTroubleClear sid ∧
      s.Accepts q 2 (le 3 oTrouble ++ [0] ++ le 2 0 ++ le 2 1 ++ vals) lvl sid) ∧
    (∃ (s : State) (q : Req) (obj : ObjNo) (first : BitVec 16) (vals : List Byte) (r : ObjRow) (v : Nat) (lvl : Nat) (sid : Nat),
      obj.toNat ∈ [oPairTrouble, oLaneTrouble, oLegTrouble, oConvTrouble, oGateTrouble, oEvPending] ∧ objRow? obj.toNat = some r ∧
      first.toNat < r.n ∧ vals.length = 4 ∧ v = maskedValue r (fieldLe vals 0 4) ∧ r.right ≤ lvl ∧ s.Quiet kTroubleClear sid ∧ s.Accepts
      q 2 (le 3 obj.toNat ++ [0] ++ le 2 first.toNat ++ le 2 1 ++ vals) lvl sid) ∧
    (∃ (s : State) (q : Req) (obj : ObjNo) (first : BitVec 16) (vals : List Byte) (r : ObjRow) (v : Nat) (lvl : Nat) (sid : Nat),
      obj.toNat ∈ [oPairTrouble, oLaneTrouble, oLegTrouble, oConvTrouble, oGateTrouble, oEvPending] ∧ objRow? obj.toNat = some r ∧
      first.toNat < r.n ∧ vals.length = 4 ∧ v = maskedValue r (fieldLe vals 0 4) ∧ r.right ≤ lvl ∧ s.Quiet kTroubleClear sid ∧ s.Accepts
      q 2 (le 3 obj.toNat ++ [0] ++ le 2 first.toNat ++ le 2 1 ++ vals) lvl sid) ∧
    (∃ (s : State) (q : Req) (obj : ObjNo) (first : BitVec 16) (vals : List Byte) (r : ObjRow) (v : Nat) (lvl : Nat) (sid : Nat),
      obj.toNat ∈ [oPairTrouble, oLaneTrouble, oLegTrouble, oConvTrouble, oGateTrouble, oEvPending] ∧ objRow? obj.toNat = some r ∧
      first.toNat < r.n ∧ vals.length = 4 ∧ v = maskedValue r (fieldLe vals 0 4) ∧ r.right ≤ lvl ∧ s.Quiet kTroubleClear sid ∧ s.Accepts
      q 2 (le 3 obj.toNat ++ [0] ++ le 2 first.toNat ++ le 2 1 ++ vals) lvl sid) ∧
    (∃ (s : State) (q : Req) (obj : ObjNo) (first : BitVec 16) (vals : List Byte) (r : ObjRow) (v : Nat) (lvl : Nat) (sid : Nat),
      obj.toNat ∈ [oPairTrouble, oLaneTrouble, oLegTrouble, oConvTrouble, oGateTrouble, oEvPending] ∧ objRow? obj.toNat = some r ∧
      first.toNat < r.n ∧ vals.length = 4 ∧ v = maskedValue r (fieldLe vals 0 4) ∧ r.right ≤ lvl ∧ s.Quiet kTroubleClear sid ∧ s.Accepts
      q 2 (le 3 obj.toNat ++ [0] ++ le 2 first.toNat ++ le 2 1 ++ vals) lvl sid) ∧
    (∃ (s : State) (q : Req) (obj : ObjNo) (first : BitVec 16) (vals : List Byte) (r : ObjRow) (v : Nat) (lvl : Nat) (sid : Nat),
      obj.toNat ∈ [oPairTrouble, oLaneTrouble, oLegTrouble, oConvTrouble, oGateTrouble, oEvPending] ∧ objRow? obj.toNat = some r ∧
      first.toNat < r.n ∧ vals.length = 4 ∧ v = maskedValue r (fieldLe vals 0 4) ∧ r.right ≤ lvl ∧ s.Quiet kTroubleClear sid ∧ s.Accepts
      q 2 (le 3 obj.toNat ++ [0] ++ le 2 first.toNat ++ le 2 1 ++ vals) lvl sid) ∧
    (∃ (s : State) (q : Req) (obj : ObjNo) (first : BitVec 16) (vals : List Byte) (r : ObjRow) (v : Nat) (lvl : Nat) (sid : Nat),
      obj.toNat ∈ [oPairTrouble, oLaneTrouble, oLegTrouble, oConvTrouble, oGateTrouble, oEvPending] ∧ objRow? obj.toNat = some r ∧
      first.toNat < r.n ∧ vals.length = 4 ∧ v = maskedValue r (fieldLe vals 0 4) ∧ r.right ≤ lvl ∧ s.Quiet kTroubleClear sid ∧ s.Accepts
      q 2 (le 3 obj.toNat ++ [0] ++ le 2 first.toNat ++ le 2 1 ++ vals) lvl sid) :=
  ⟨⟨{ wRun with pts := [(2097151, 5)] }, wQ 1 (le 3 0x9FFFFF ++ [0] ++ le 2 0 ++ le 2 1), 0x9FFFFF, 0, 1, 2097151, 3, 7,
     by decide +kernel, by decide +kernel, by decide +kernel, by decide +kernel, by decide +kernel, wAccepts _ _ _ (by decide +kernel)
     rfl (by decide) (by decide) (by decide +kernel)⟩,
   ⟨wRun, wQ 1 (le 3 0x800000 ++ [0] ++ le 2 0 ++ le 2 179), 0x800000, 0, 179, 0, 3, 7, by decide +kernel, by decide +kernel,
     by decide +kernel, by decide +kernel, by decide +kernel, wAccepts _ _ _ (by decide +kernel) rfl (by decide) (by decide)
     (by decide +kernel)⟩,
   ⟨cfgd { wRun with stg := [(key oLegEn 3, some 5)] } oLegEn 2 1, wQ 1 (le 3 oLegEn ++ [1] ++ le 2 2 ++ le 2 2), BitVec.ofNat 24 oLegEn,
     1, 2, 2, wRow oLegEn, 3, 7, by decide +kernel, by decide +kernel, by decide +kernel, by decide +kernel, by decide +kernel,
     by decide +kernel, by decide +kernel, by decide +kernel, by decide +kernel, wAccepts _ _ _ (by decide +kernel) rfl (by decide) (by
     decide) (by decide +kernel)⟩,
   ⟨wRun, wQ 2 (le 3 oLegEn ++ [0] ++ le 2 10 ++ le 2 2 ++ [1, 0]), BitVec.ofNat 24 oLegEn, 0, 10, 2, [1, 0], wRow oLegEn, [1, 0], 3, 7,
     by decide +kernel, by decide +kernel, by decide +kernel, by decide +kernel, by decide +kernel, by decide +kernel, by decide +kernel,
     by decide +kernel, by decide +kernel, by decide +kernel, wAccepts _ _ _ (by decide +kernel) rfl (by decide) (by decide)
     (by decide +kernel)⟩,
   ⟨wS .ready .active, wQ 2 (le 3 oFramePeriod ++ [0] ++ le 2 0 ++ le 2 1 ++ le 4 20000), BitVec.ofNat 24 oFramePeriod, 0, 0, 1, le 4
     20000, wRow oFramePeriod, [20000], 3, 7, by decide +kernel, by decide +kernel, by decide +kernel, by decide +kernel,
     by decide +kernel, by decide +kernel, by decide +kernel, by decide +kernel, by decide +kernel, by decide +kernel, wAccepts _ _ _
     (by decide +kernel) rfl (by decide) (by decide) (by decide +kernel)⟩,
   ⟨quiet { wRun with trouble := 0xFF } kTroubleClear 7, wQ 2 (le 3 oTrouble ++ [0] ++ le 2 0 ++ le 2 1 ++ le 4 0x101), le 4 0x101, 3, 7,
     by decide +kernel, by decide +kernel, by unfold State.Quiet; decide +kernel, wAccepts _ _ _ (by decide +kernel) rfl (by decide) (by
     decide) (by decide +kernel)⟩,
   ⟨quiet { wRun with pair := { wRun.pair with trouble := 15 } } kTroubleClear 7, wQ 2 (le 3 oPairTrouble ++ [0] ++ le 2 0 ++ le 2 1 ++
     le 4 9), BitVec.ofNat 24 oPairTrouble, 0, le 4 9, wRow oPairTrouble, 9, 3, 7, by decide +kernel, by decide +kernel,
     by decide +kernel, by decide +kernel, by decide +kernel, by decide +kernel, by unfold State.Quiet; decide +kernel, wAccepts _ _ _
     (by decide +kernel) rfl (by decide) (by decide) (by decide +kernel)⟩,
   ⟨quiet { wRun with lanes := [(27, { Lane.reset with trouble := 7 })] } kTroubleClear 7, wQ 2 (le 3 oLaneTrouble ++ [0] ++ le 2 27 ++
     le 2 1 ++ le 4 9), BitVec.ofNat 24 oLaneTrouble, 27, le 4 9, wRow oLaneTrouble, 9, 3, 7, by decide +kernel, by decide +kernel,
     by decide +kernel, by decide +kernel, by decide +kernel, by decide +kernel, by unfold State.Quiet; decide +kernel, wAccepts _ _ _
     (by decide +kernel) rfl (by decide) (by decide) (by decide +kernel)⟩,
   ⟨quiet { wRun with hub := { HubSt.reset with legs := [(11, { HubLeg.reset with trouble := 7 })] } } kTroubleClear 7, wQ 2 (le 3
     oLegTrouble ++ [0] ++ le 2 11 ++ le 2 1 ++ le 4 9), BitVec.ofNat 24 oLegTrouble, 11, le 4 9, wRow oLegTrouble, 9, 3, 7,
     by decide +kernel, by decide +kernel, by decide +kernel, by decide +kernel, by decide +kernel, by decide +kernel,
     by unfold State.Quiet; decide +kernel, wAccepts _ _ _ (by decide +kernel) rfl (by decide) (by decide) (by decide +kernel)⟩,
   ⟨quiet { wRun with conv := { ConvSt.reset with trouble := [(1, 7)] } } kTroubleClear 7, wQ 2 (le 3 oConvTrouble ++ [0] ++ le 2 1 ++ le
     2 1 ++ le 4 9), BitVec.ofNat 24 oConvTrouble, 1, le 4 9, wRow oConvTrouble, 9, 3, 7, by decide +kernel, by decide +kernel,
     by decide +kernel, by decide +kernel, by decide +kernel, by decide +kernel, by unfold State.Quiet; decide +kernel, wAccepts _ _ _
     (by decide +kernel) rfl (by decide) (by decide) (by decide +kernel)⟩,
   ⟨quiet { wRun with gate := { GateSt.reset with legs := [(11, { Leg.reset with trouble := 7 })] } } kTroubleClear 7, wQ 2 (le 3
     oGateTrouble ++ [0] ++ le 2 11 ++ le 2 1 ++ le 4 9), BitVec.ofNat 24 oGateTrouble, 11, le 4 9, wRow oGateTrouble, 9, 3, 7,
     by decide +kernel, by decide +kernel, by decide +kernel, by decide +kernel, by decide +kernel, by decide +kernel,
     by unfold State.Quiet; decide +kernel, wAccepts _ _ _ (by decide +kernel) rfl (by decide) (by decide) (by decide +kernel)⟩,
   ⟨quiet { wRun with faults := { FaultSt.reset with evPend := 2 ^ 127 + 2 ^ 99 + 7 } } kTroubleClear 7, wQ 2 (le 3 oEvPending ++ [0] ++
     le 2 3 ++ le 2 1 ++ le 4 9), BitVec.ofNat 24 oEvPending, 3, le 4 9, wRow oEvPending, 9, 3, 7, by decide +kernel, by decide +kernel,
     by decide +kernel, by decide +kernel, by decide +kernel, by decide +kernel, by unfold State.Quiet; decide +kernel, wAccepts _ _ _
     (by decide +kernel) rfl (by decide) (by decide) (by decide +kernel)⟩⟩

/-- Witnesses of the hypotheses of CommitsComplete. -/
theorem witness_CommitsComplete :
    (∃ (s : State) (q : Req) (b : Byte) (l : List (Nat × Nat)) (lvl : Nat) (sid : Nat), s.Invoked q oCommit [b] 0 false lvl sid ∧ b.toNat
      ∈ [dLink, dSched, dLoop, dCasc, dAssay, dGate, dFault, dTime, dPair] ∧ (Eff.start s).commitGate ⟨lvl, sid, .req q⟩ b.toNat = none ∧
      s.stagedOf b.toNat = l ∧ l ≠ [] ∧ (smGet Domain.reset s.doms b.toNat).pend = none ∧ (Eff.start s).checkSet b.toNat l [] true = none
      ∧ s.pair.standby = false) ∧
    (∃ (s : State) (q : Req) (b : Byte) (lvl : Nat) (sid : Nat), s.Inv ∧ s.Invoked q oAbandon [b] 0 false lvl sid ∧ b.toNat < 15 ∧
      (Eff.start s).commitGate ⟨lvl, sid, .req q⟩ b.toNat = none) ∧
    (∃ (s : State) (d : Fin 15) (p : PendCommit), d.val ∈ [dLink, dGate, dFault, dPair] ∧ (smGet Domain.reset s.doms d.val).pend = some p
      ∧ p.waitPeer = false ∧ p.actAt ≤ s.frame.k) ∧
    (∃ (s : State) (d : Fin 15) (p : PendCommit), (smGet Domain.reset s.doms d.val).pend = some p ∧ (p.waitPeer = true ∨ (d.val ∈ [dLink,
      dGate, dFault, dPair] ∧ s.frame.k < p.actAt))) ∧
    (∃ (s : State) (d : Fin 15) (p : PendCommit), (smGet Domain.reset s.doms d.val).pend = some p ∧ (p.waitPeer = true ∨ (d.val ∈ [dLink,
      dGate, dFault, dPair] ∧ s.frame.k < p.actAt))) ∧
    (∃ (s : State) (d : Fin 15) (p : PendCommit) (q : Req), d.val ∈ [dLink, dSched, dLoop, dCasc, dAssay, dGate, dFault, dTime, dPair] ∧
      (smGet Domain.reset s.doms d.val).pend = some p ∧ p.waitPeer = true ∧ p.sentFrame + 2 ≤ s.frame.k ∧ p.answer = .req q ∧ s.Quiet
      kPeerCommitMissed 0) :=
  ⟨⟨{ wS .ready .active with stg := [(key oLaneMode 3, some 1)] }, wA oCommit [1], 1, [(key oLaneMode 3, 1)], 3, 7, wInvoked _ _ _ _ _
     (by decide +kernel) rfl (by decide +kernel) (by decide +kernel) (by decide +kernel) (by decide +kernel), by decide +kernel⟩,
   ⟨{ wRun with stg := [(key oLaneMode 3, some 1)], doms := [(1, { Domain.reset with owner := 7 })] }, wA oAbandon [1], 1, 3, 7,
     by unfold State.Inv State.OutputsOk; decide +kernel, wInvoked _ _ _ _ _ (by decide +kernel) rfl (by decide +kernel)
     (by decide +kernel) (by decide +kernel) (by decide +kernel), by decide +kernel⟩,

     ⟨{ wRun with doms := [(1, { Domain.reset with pend := some ⟨[(key oLaneMode 3, 1), (key oLaneMode 5, 0)], .nobody, false, 998, 1000, 0⟩ })] },
     1, ⟨[(key oLaneMode 3, 1), (key oLaneMode 5, 0)], .nobody, false, 998, 1000, 0⟩, by decide +kernel⟩,
   ⟨{ wRun with doms := [(1, { Domain.reset with pend := some ⟨[(key oLaneMode 3, 1)], .nobody, false, 999, 1001, 0⟩ })] }, 1, ⟨[(key
     oLaneMode 3, 1)], .nobody, false, 999, 1001, 0⟩, by decide +kernel⟩,
   ⟨{ wRun with doms := [(2, { Domain.reset with pend := some ⟨[], .nobody, true, 998, 1000, 0⟩ })] }, 2, ⟨[], .nobody, true, 998, 1000,
     0⟩, by decide +kernel⟩,
   ⟨quiet
     { wRun with doms := [(1, { Domain.reset with pend := some ⟨[(key oLaneMode 3, 1)], .req (wA oCommit [1]), true, 998, 0, 0⟩ })] }
     kPeerCommitMissed 0, 1, ⟨[(key oLaneMode 3, 1)], .req (wA oCommit [1]), true, 998, 0, 0⟩, wA oCommit [1], by decide +kernel, rfl,
     by decide +kernel, by decide +kernel, rfl, by unfold State.Quiet; decide +kernel⟩⟩

/-- Witnesses of the hypotheses of StoresComplete. -/
theorem witness_StoresComplete :
    (∃ (s : State) (q : Req) (b : Byte) (d : Nat) (r : List Nat) (bank : Nat) (lvl : Nat) (sid : Nat), s.Invoked q oStore [b] 2 false lvl
      sid ∧ (b.toNat < 15 ∨ b.toNat = 0x20 ∨ b.toNat = 0xFF) ∧ d :: r = (if b.toNat = 0xFF then restoreOrder else [b.toNat]) ∧ (∀ x ∈ d
      :: r, (smGet Domain.reset s.doms x).pend = none) ∧ s.persist.job = none ∧ s.dev.pwrFail = false ∧ s.clk.holdup = false ∧
      s.persist.small = false ∧ bank = (if (Eff.start s).newestSeq d = 0 then 0 else 1 - (Eff.start s).newestBank d)) ∧
    (∃ (s : State) (q : Req) (b : Byte) (d : Nat) (r : List Nat) (bank : Nat) (lvl : Nat) (sid : Nat), s.Invoked q oStore [b] 2 false lvl
      sid ∧ (b.toNat < 15 ∨ b.toNat = 0x20 ∨ b.toNat = 0xFF) ∧ d :: r = (if b.toNat = 0xFF then restoreOrder else [b.toNat]) ∧ (∀ x ∈ d
      :: r, (smGet Domain.reset s.doms x).pend = none) ∧ s.persist.job = none ∧ s.dev.pwrFail = false ∧ s.clk.holdup = false ∧
      s.persist.small = false ∧ bank = (if (Eff.start s).newestSeq d = 0 then 0 else 1 - (Eff.start s).newestBank d)) ∧
    (∃ (s : State) (q : Req) (b : Byte) (d : Nat) (r : List Nat) (bank : Nat) (lvl : Nat) (sid : Nat), s.Invoked q oStore [b] 2 false lvl
      sid ∧ (b.toNat < 15 ∨ b.toNat = 0x20 ∨ b.toNat = 0xFF) ∧ d :: r = (if b.toNat = 0xFF then restoreOrder else [b.toNat]) ∧ (∀ x ∈ d
      :: r, (smGet Domain.reset s.doms x).pend = none) ∧ s.persist.job = none ∧ s.dev.pwrFail = false ∧ s.clk.holdup = false ∧
      s.persist.small = false ∧ bank = (if (Eff.start s).newestSeq d = 0 then 0 else 1 - (Eff.start s).newestBank d)) ∧
    (∃ (s : State) (j : StoreJob) (d : Nat) (rest : List Nat) (i : Image), s.persist.job = some j ∧ j.todo = d :: rest ∧ d ≠ 0x20 ∧ d ≠
      0x21 ∧ 0x21 ∉ rest ∧ i = ⟨commitRecord ((Eff.start s).newestSeq d + 1) d (imageOctets j.values), j.values⟩) ∧
    (∃ (s : State) (j : StoreJob) (d : Nat) (rest : List Nat) (i : Image), s.persist.job = some j ∧ j.todo = d :: rest ∧ d ≠ 0x20 ∧ d ≠
      0x21 ∧ 0x21 ∉ rest ∧ i = ⟨commitRecord ((Eff.start s).newestSeq d + 1) d (imageOctets j.values), j.values⟩) ∧
    (∃ (s : State) (j : StoreJob), s.persist.job = some j ∧ j.todo = [0x20]) ∧
    (∃ (s : State) (j : StoreJob), s.persist.job = some j ∧ j.todo = [0x21]) ∧
    (∃ (s : State) (j : StoreJob), s.persist.job = some j ∧ s.Quiet kStoreFail 0) ∧
    (∃ (s : State), s.persist.job = none) :=
  ⟨⟨wRun, wA oStore [1], 1, 1, [], 0, 3, 7, wInvoked _ _ _ _ _ (by decide +kernel) rfl (by decide +kernel) (by decide +kernel)
     (by decide +kernel) (by decide +kernel), by decide +kernel⟩,
   ⟨{ wRun with ring := [wMsg 5 0 9] }, wA oStore [0x20], 0x20, 0x20, [], 0, 3, 7, wInvoked _ _ _ _ _ (by decide +kernel) rfl
     (by decide +kernel) (by decide +kernel) (by decide +kernel) (by decide +kernel), by decide +kernel⟩,
   ⟨wRun, wA oStore [0xFF], 0xFF, dDevice, restoreOrder.tail, 0, 3, 7, wInvoked _ _ _ _ _ (by decide +kernel) rfl (by decide +kernel)
     (by decide +kernel) (by decide +kernel) (by decide +kernel), by decide +kernel⟩,
   ⟨{ wRun with persist := { PersistSt.reset with job := some ⟨[1, 2], 1, [(5, 6)], none, none, []⟩ } }, ⟨[1, 2], 1, [(5, 6)], none,
     none, []⟩, 1, [2], ⟨commitRecord ((Eff.start
     { wRun with persist := { PersistSt.reset with job := some ⟨[1, 2], 1, [(5, 6)], none, none, []⟩ } }).newestSeq 1 + 1) 1 (imageOctets
     [(5, 6)]), [(5, 6)]⟩, by decide +kernel, by decide +kernel, by decide +kernel, by decide +kernel, by decide +kernel, rfl⟩,
   ⟨{ wRun with persist := { PersistSt.reset with job := some ⟨[1], 1, [(5, 6)], none, none, []⟩ } }, ⟨[1], 1, [(5, 6)], none, none, []⟩,
     1, [], ⟨commitRecord ((Eff.start
     { wRun with persist := { PersistSt.reset with job := some ⟨[1], 1, [(5, 6)], none, none, []⟩ } }).newestSeq 1 + 1) 1 (imageOctets
     [(5, 6)]), [(5, 6)]⟩, by decide +kernel, by decide +kernel, by decide +kernel, by decide +kernel, by decide +kernel, rfl⟩,
   ⟨{ wRun with persist := { PersistSt.reset with job := some ⟨[0x20], 1, [], none, some (wMsg 5 0 9), [wMsg 5 0 9]⟩ } }, ⟨[0x20], 1, [],
     none, some (wMsg 5 0 9), [wMsg 5 0 9]⟩, by decide +kernel⟩,
   ⟨{ wRun with persist := { PersistSt.reset with job := some ⟨[0x21], 1, [], none, none, []⟩ } }, ⟨[0x21], 1, [], none, none, []⟩,
     by decide +kernel⟩,
   ⟨quiet { wRun with persist := { PersistSt.reset with job := some ⟨[1], 1, [(5, 6)], none, none, []⟩ } } kStoreFail 0, ⟨[1], 1, [(5,
     6)], none, none, []⟩, by decide +kernel, by unfold State.Quiet; decide +kernel⟩,
   ⟨wRun, by decide +kernel⟩⟩

/-- Witnesses of the hypotheses of ResetsReturnTheDeviceToOff. -/
theorem witness_ResetsReturnTheDeviceToOff :
    (∃ (s : State) (ns : Nat), s.dev.state ≠ .off ∧ 1000 ≤ ns) ∧
    (∃ (s : State) (ns : Nat), s.dev.state ≠ .off ∧ 1000 ≤ ns) ∧
    (∃ (s : State) (ns : Nat), s.dev.state = .off ∧ 1000 ≤ ns) ∧
    (∃ (ns : Nat), ns < 100) ∧
    (∃ (s : State) (ns : Nat), s.dev.state ≠ .off ∧ 100 ≤ ns ∧ ns < 1000) ∧
    (∃ (s : State) (ns : Nat), s.dev.state ≠ .off ∧ 100 ≤ ns ∧ ns < 1000) ∧
    (∃ (s : State), s.dev.state ≠ .off ∧ (s.clk.resetN = false ∨ ∃ r ∈ s.clk.notOk, r ≠ 9)) ∧
    (∃ (s : State), s.dev.state ≠ .off ∧ (s.clk.resetN = false ∨ ∃ r ∈ s.clk.notOk, r ≠ 9)) ∧
    (∃ (s : State), s.dev.state ≠ .off ∧ s.clk.resetN = true ∧ (∀ r ∈ s.clk.notOk, r = 9)) ∧
    (∃ (s : State) (rail : Fin 10) (mv : Nat) (ns : Nat), s.dev.state ≠ .off ∧ mv < (railWindow rail.val).2.2 ∧ 1000 ≤ ns ∧ (9 ∉
      s.clk.notOk ∨ smGet 0 s.clk.railMv 9 ≠ 0)) ∧
    (∃ (s : State) (rail : Fin 10) (mv : Nat) (ns : Nat), s.dev.state ≠ .off ∧ mv < (railWindow rail.val).2.2 ∧ 1000 ≤ ns ∧ (9 ∉
      s.clk.notOk ∨ smGet 0 s.clk.railMv 9 ≠ 0)) ∧
    (∃ (s : State) (mv : Nat) (ns : Nat), s.dev.state ≠ .off ∧ mv < 1620 ∧ 1000 ≤ ns ∧ 9 ∈ s.clk.notOk ∧ smGet 0 s.clk.railMv 9 = 0) :=
  ⟨⟨{ wRun with pts := [(5, 1)], cfg := [(key oCalTrim 0, some 4), (key oLegEn 0, some 1)], persist := { PersistSt.reset with job := some ⟨[1], 0, [], none, none, []⟩ }, gate := { GateSt.reset with hiZ := false } },
     1000, by decide +kernel⟩,
   ⟨wS .boot .unset, 5000, by decide +kernel⟩,
   ⟨wS .off .unset, 1000, by decide +kernel⟩,
   ⟨99, by decide +kernel⟩,
   ⟨wRun, 100, by decide +kernel⟩,
   ⟨wRun, 999, by decide +kernel⟩,
   ⟨ck wRun fun c => { c with resetN := false }, by decide +kernel⟩,
   ⟨ck wRun fun c => { c with notOk := [9, 3] }, by decide +kernel⟩,
   ⟨ck wRun fun c => { c with notOk := [9] }, by decide +kernel⟩,
   ⟨wRun, 0, 674, 1000, by decide +kernel⟩,
   ⟨ck wRun (fun c => { c with notOk := [9], railMv := [(9, 1)] }), 7, 1619, 1000, by decide +kernel⟩,
   ⟨ck wRun (fun c => { c with notOk := [9] }), 1619, 1000, by decide +kernel⟩⟩

/-- Witnesses of the hypotheses of StartUpStepsComplete. -/
theorem witness_StartUpStepsComplete :
    (∃ (s : State), s.dev.state = .off ∧ s.clk.resetN = false) ∧
    (∃ (s : State), s.dev.state = .boot ∧ s.dev.bootStage = 0 ∧ s.dev.bootFail = false ∧ s.clk.resetN = true ∧ s.dev.releasedAt +
      10000000 ≤ s.time.up) ∧
    (∃ (s : State) (pll : Fin 3) (us : Nat), s.dev.state = .boot ∧ s.dev.bootStage = 1 ∧ s.dev.bootFail = false ∧ pll.val ∉
      s.dev.pllLocked ∧ (if pll.val = 1 then s.clk.refLaneLost else s.clk.refSysLost) = false ∧ 1200 ≤ us ∧ us ≤ 5000 ∧ s.time.up ≤
      s.clk.stepAt + 20000000) ∧
    (∃ (s : State) (pll : Fin 3) (us : Nat), s.dev.state = .boot ∧ s.dev.bootStage = 1 ∧ s.dev.bootFail = false ∧ pll.val ∉
      s.dev.pllLocked ∧ (if pll.val = 1 then s.clk.refLaneLost else s.clk.refSysLost) = false ∧ 1200 ≤ us ∧ us ≤ 5000 ∧ s.time.up ≤
      s.clk.stepAt + 20000000) ∧
    (∃ (s : State) (pll : Fin 3) (us : Nat), s.dev.state = .boot ∧ s.dev.bootStage = 1 ∧ s.dev.bootFail = false ∧ pll.val ∉
      s.dev.pllLocked ∧ (if pll.val = 1 then s.clk.refLaneLost else s.clk.refSysLost) = false ∧ 1200 ≤ us ∧ us ≤ 5000 ∧ s.time.up ≤
      s.clk.stepAt + 20000000) ∧
    (∃ (s : State), s.dev.state = .boot ∧ s.dev.bootStage = 1 ∧ s.dev.bootFail = false ∧ s.clk.stepAt + 20000000 ≤ s.time.up ∧ (∃ x < 3,
      x ∉ s.dev.pllLocked)) ∧
    (∃ (s : State), s.dev.state = .boot ∧ s.dev.bootStage = 2 ∧ s.dev.bootFail = false) ∧
    (∃ (s : State), s.dev.state = .boot ∧ s.dev.bootStage = 2 ∧ s.dev.bootFail = false) ∧
    (∃ (s : State), s.dev.state = .boot ∧ s.dev.bootStage = 2 ∧ s.dev.bootFail = false) ∧
    (∃ (s : State) (f : FlashRead) (c : Nat) (count : Nat), s.dev.state = .boot ∧ s.dev.bootStage = 3 ∧ s.dev.bootFail = false ∧ count =
      (if f.density0 ≠ 0 ∧ f.density1 = f.density0 then 2 else 1) ∧ c < 2 ∧ c ∉ s.dev.fwTried ∧ (1 - c ∈ s.dev.fwTried ∨ if c = 0 then
      f.version1 ≤ f.version0 else f.version0 < f.version1)) ∧
    (∃ (s : State) (f : FlashRead) (c : Nat) (count : Nat), s.dev.state = .boot ∧ s.dev.bootStage = 3 ∧ s.dev.bootFail = false ∧ count =
      (if f.density0 ≠ 0 ∧ f.density1 = f.density0 then 2 else 1) ∧ c < 2 ∧ c ∉ s.dev.fwTried ∧ (1 - c ∈ s.dev.fwTried ∨ if c = 0 then
      f.version1 ≤ f.version0 else f.version0 < f.version1)) ∧
    (∃ (s : State) (f : FlashRead) (c : Nat) (count : Nat), s.dev.state = .boot ∧ s.dev.bootStage = 3 ∧ s.dev.bootFail = false ∧ count =
      (if f.density0 ≠ 0 ∧ f.density1 = f.density0 then 2 else 1) ∧ c < 2 ∧ c ∉ s.dev.fwTried ∧ (1 - c ∈ s.dev.fwTried ∨ if c = 0 then
      f.version1 ≤ f.version0 else f.version0 < f.version1)) ∧
    (∃ (s : State), s.dev.state = .boot ∧ s.dev.bootStage = 4 ∧ s.dev.bootFail = false) ∧
    (∃ (s : State), s.dev.state = .boot ∧ s.dev.bootStage = 4 ∧ s.dev.bootFail = false) ∧
    (∃ (s : State), 7 ∉ s.clk.notOk ∧ 4 ∉ s.clk.notOk) :=
  ⟨⟨State.reset, by decide +kernel⟩,
   ⟨tm (wBoot 0) fun t => { t with up := 10000000 }, by decide +kernel⟩,
   ⟨ck (wBoot 1) fun c => { c with stepAt := 99990000000 }, 0, 1200, by decide +kernel⟩,
   ⟨ck (dv (wBoot 1) fun d => { d with pllLocked := [1, 0] }) fun c => { c with stepAt := 99980000000 }, 2, 5000, by decide +kernel⟩,
   ⟨ck (wBoot 1) fun c => { c with stepAt := 100000000000 }, 1, 1200, by decide +kernel⟩,
   ⟨ck (dv (wBoot 1) fun d => { d with pllLocked := [1] }) fun c => { c with stepAt := 99980000000 }, by decide +kernel⟩,
   ⟨wBoot 2, by decide +kernel⟩,
   ⟨wBoot 2, by decide +kernel⟩,
   ⟨wBoot 2, by decide +kernel⟩,
   ⟨wBoot 3, ⟨32, 32, 3, 3⟩, 0, 2, by decide +kernel⟩,
   ⟨dv (wBoot 3) (fun d => { d with fwTried := [0] }), ⟨63, 64, 5, 3⟩, 1, 1, by decide +kernel⟩,
   ⟨wBoot 3, ⟨0, 0, 2, 3⟩, 1, 1, by decide +kernel⟩,
   ⟨wBoot 4, by decide +kernel⟩,
   ⟨tm
     { wBoot 4 with persist := { PersistSt.reset with slots := [(2, some ⟨commitRecord 1 1 (imageOctets [(key oLaneMode 3, 1)]), [(key oLaneMode 3, 1)]⟩)] } }
     fun t => { t with calValid := true, oscOk := true, calBase := 32768 * 1000000000 }, by decide +kernel⟩,
   ⟨wRun, by decide +kernel⟩⟩

/-- Witnesses of the hypotheses of RolesAreDecidedAtStepSix. -/
theorem witness_RolesAreDecidedAtStepSix :
    (∃ (s : State) (a : Bool) (b : Bool), s.dev.state = .boot ∧ s.dev.bootStage = 5 ∧ s.dev.bootFail = false ∧ s.pair.waitAt = none ∧ b =
      true ∧ (a = true ∨ s.pair.strapB = false) ∧ s.cv oAutostart 0 ≠ 1) ∧
    (∃ (s : State) (a : Bool) (b : Bool), s.dev.state = .boot ∧ s.dev.bootStage = 5 ∧ s.dev.bootFail = false ∧ s.pair.waitAt = none ∧ b =
      true ∧ (a = true ∨ s.pair.strapB = false) ∧ s.cv oAutostart 0 ≠ 1) ∧
    (∃ (s : State) (a : Bool) (b : Bool), s.dev.state = .boot ∧ s.dev.bootStage = 5 ∧ s.dev.bootFail = false ∧ s.pair.waitAt = none ∧ b =
      true ∧ (a = true ∨ s.pair.strapB = false) ∧ s.cv oAutostart 0 = 1) ∧
    (∃ (s : State), s.dev.state = .boot ∧ s.dev.bootStage = 5 ∧ s.dev.bootFail = false ∧ s.pair.waitAt = none ∧ s.pair.strapB = true) ∧
    (∃ (s : State), s.dev.state = .boot ∧ s.dev.bootStage = 5 ∧ s.dev.bootFail = false ∧ s.pair.waitAt = none ∧ s.Quiet kRoleLine 0) ∧
    (∃ (s : State), s.dev.state = .boot ∧ s.dev.bootStage = 5 ∧ s.dev.bootFail = false ∧ s.pair.waitAt = none) ∧
    (∃ (s : State) (w : Nat), s.dev.state = .boot ∧ s.dev.bootStage = 5 ∧ s.dev.bootFail = false ∧ s.pair.waitAt = some w ∧ s.pair.roleOk
      = true ∧ w + 2000000000 ≤ s.time.up ∧ s.cv oAutostart 0 ≠ 1) ∧
    (∃ (s : State) (w : Nat), s.dev.state = .boot ∧ s.dev.bootStage = 5 ∧ s.dev.bootFail = false ∧ s.pair.waitAt = some w ∧ s.time.up < w
      + 2000000000) ∧
    (∃ (s : State) (w : Nat), s.dev.state = .boot ∧ s.dev.bootStage = 5 ∧ s.dev.bootFail = false ∧ s.pair.waitAt = some w) ∧
    (∃ (s : State), s.pair.waitAt = none) :=
  ⟨⟨wBoot 5, true, true, by decide +kernel⟩,
   ⟨wBoot 5, false, true, by decide +kernel⟩,
   ⟨cfgd (wBoot 5) oAutostart 0 1, true, true, by decide +kernel⟩,
   ⟨pr (wBoot 5) fun p => { p with strapB := true }, by decide +kernel⟩,
   ⟨quiet (wBoot 5) kRoleLine 0, by decide +kernel, by decide +kernel, by decide +kernel, by decide +kernel,
     by unfold State.Quiet; decide +kernel⟩,
   ⟨wBoot 5, by decide +kernel⟩,
   ⟨pr (wBoot 5) (fun p => { p with waitAt := some 98000000000, strapB := true, roleOk := true }), 98000000000, by decide +kernel⟩,
   ⟨pr (wBoot 5) (fun p => { p with waitAt := some 98000000001, strapB := true }), 98000000001, by decide +kernel⟩,
   ⟨pr (wBoot 5) (fun p => { p with waitAt := some 99000000000, strapB := true }), 99000000000, by decide +kernel⟩,
   ⟨wRun, by decide +kernel⟩⟩

/-- Witnesses of the hypotheses of ClocksAndSuppliesComplete. -/
theorem witness_ClocksAndSuppliesComplete :
    (∃ (s : State) (pll : Fin 3), pll.val ∈ s.dev.pllLocked ∧ s.Quiet kPllUnlock 0 ∧ pll.val ≠ 1) ∧
    (∃ (s : State) (pll : Fin 3), pll.val ∈ s.dev.pllLocked ∧ s.Quiet kPllUnlock 0 ∧ pll.val ≠ 1) ∧
    (∃ (s : State) (pll : Fin 3), pll.val ∈ s.dev.pllLocked ∧ s.Quiet kPllUnlock 0 ∧ pll.val = 1) ∧
    (∃ (s : State) (lane : Bool) (ns : Nat), 200 ≤ ns ∧ (∀ x ∈ s.dev.pllLocked, x = if lane = true then 0 else 1)) ∧
    (∃ (s : State) (lane : Bool) (ns : Nat), 200 ≤ ns ∧ (∀ x ∈ s.dev.pllLocked, x = if lane = true then 0 else 1)) ∧
    (∃ (s : State) (i : Fin 38), i.val ≠ 2 ∧ s.dev.state ≠ .off ∧ i.val ∉ s.clk.stopped ∧ (Eff.start s).stopIntended i.val = false ∧
      s.Quiet kPllUnlock 0) ∧
    (∃ (s : State) (i : Fin 38), i.val ≠ 2 ∧ s.dev.state ≠ .off ∧ i.val ∉ s.clk.stopped ∧ (Eff.start s).stopIntended i.val = false ∧
      s.Quiet kPllUnlock 0) ∧
    (∃ (s : State), (Eff.start s).debugEnabled = false) ∧
    (∃ (s : State), (Eff.start s).debugEnabled = false) ∧
    (∃ (s : State), s.dev.state ≠ .off ∧ (Eff.start s).debugEnabled = true ∧ 0 ∉ s.clk.halted) ∧
    (∃ (s : State) (i : Fin 38), s.dev.state ≠ .off ∧ (Eff.start s).debugEnabled = true ∧ i.val ∉ s.clk.halted ∧ i.val ≠ 1 ∧ i.val ≠ 2) ∧
    (∃ (s : State) (i : Fin 38), s.dev.state ≠ .off ∧ (Eff.start s).debugEnabled = true ∧ i.val ∉ s.clk.halted ∧ i.val ≠ 1 ∧ i.val ≠ 2) ∧
    (∃ (s : State) (i : Fin 38), s.dev.state ≠ .off ∧ (Eff.start s).debugEnabled = true ∧ i.val ∉ s.clk.halted ∧ i.val ≠ 1 ∧ i.val ≠ 2) ∧
    (∃ (s : State) (i : Fin 38), s.dev.state ≠ .off ∧ (Eff.start s).debugEnabled = true ∧ i.val ∉ s.clk.halted ∧ i.val ≠ 1 ∧ i.val ≠ 2) ∧
    (∃ (s : State), (∀ i ∈ s.clk.halted, i < 38)) ∧
    (∃ (s : State) (r : Fin 10) (mv : Nat) (ns : Nat), r.val ≠ 8 ∧ r.val ≠ 9 ∧ Machine.inWindow r.val mv = false ∧ 2000 ≤ ns ∧ r.val ∉
      s.clk.notOk ∧ s.dev.state ≠ .off ∧ s.dev.state ≠ .boot ∧ 9 ∉ s.clk.notOk ∧ s.Quiet kSupplyOor r.val) ∧
    (∃ (s : State) (r : Fin 10) (mv : Nat) (ns : Nat), r.val ≠ 8 ∧ r.val ≠ 9 ∧ Machine.inWindow r.val mv = false ∧ 2000 ≤ ns ∧ r.val ∉
      s.clk.notOk ∧ s.dev.state ≠ .off ∧ s.dev.state ≠ .boot ∧ 9 ∉ s.clk.notOk ∧ s.Quiet kSupplyOor r.val) ∧
    (∃ (s : State) (mv : Nat) (ns : Nat), mv < 8000 ∧ 2000 ≤ ns ∧ smWf Aux.reset s.aux = true ∧ 9 ∉ s.clk.notOk ∧ s.Quiet kSupplyOor 8) ∧
    (∃ (mv : Nat) (ns : Nat), (mv < 2000 ∨ 3600 < mv) ∧ 0 < mv ∧ 2000 ≤ ns) ∧
    (∃ (mv : Nat) (ns : Nat), (mv < 2000 ∨ 3600 < mv) ∧ 0 < mv ∧ 2000 ≤ ns) ∧
    (∃ (mv : Nat) (ns : Nat), (mv < 2000 ∨ 3600 < mv) ∧ 0 < mv ∧ 2000 ≤ ns) ∧
    (∃ (mv : Nat), 2000 ≤ mv ∧ mv ≤ 3600) ∧
    (∃ (mv : Nat), 2000 ≤ mv ∧ mv ≤ 3600) ∧
    (∃ (mv : Nat), 8000 ≤ mv ∧ mv ≤ 34000) ∧
    (∃ (r : Fin 10) (mv : Nat), r.val ≠ 8 ∧ r.val ≠ 9 ∧ Machine.inWindow r.val mv = true) ∧
    (∃ (s : State) (c : Int), s.dev.state ≠ .off ∧ s.clk.hot = false ∧ signed 16 (s.cv oTjHot 0) < c ∧ s.Quiet kJunctionHot 0) ∧
    (∃ (s : State) (ns : Nat), 10000 ≤ ns ∧ s.dev.state ≠ .off ∧ s.dev.state ≠ .boot ∧ s.clk.holdup = false ∧ s.pair.standby = false ∧
      s.Quiet kPwrFail 0) ∧
    (∃ (ns : Nat), 10000000 ≤ ns) :=
  ⟨⟨quiet
     { wRun with conv := { ConvSt.reset with fs := [(1, { ConvF.reset with running := some 2, dropped := 3 })], sd := [(3, { SdCh.reset with stuck := true, gap := 2 })] } }
     kPllUnlock 0, 2, by decide +kernel, by unfold State.Quiet; decide +kernel, by decide +kernel⟩,
   ⟨quiet wRun kPllUnlock 0, 0, by decide +kernel, by unfold State.Quiet; decide +kernel, by decide +kernel⟩,
   ⟨quiet { wRun with lanes := [(4, { Lane.reset with state := .locked, enabled := true })] } kPllUnlock 0, 1, by decide +kernel,
     by unfold State.Quiet; decide +kernel, by decide +kernel⟩,
   ⟨dv wRun fun d => { d with pllLocked := [0] }, true, 200, by decide +kernel⟩,
   ⟨dv wRun fun d => { d with pllLocked := [1] }, false, 200, by decide +kernel⟩,
   ⟨quiet wRun kPllUnlock 0, 7, by decide +kernel, by decide +kernel, by decide +kernel, by decide +kernel,
     by unfold State.Quiet; decide +kernel⟩,
   ⟨quiet { wRun with lanes := [(27, { Lane.reset with state := .hunt })] } kPllUnlock 0, 37, by decide +kernel, by decide +kernel,
     by decide +kernel, by decide +kernel, by unfold State.Quiet; decide +kernel⟩,
   ⟨{ wRun with sess := SessSt.reset }, by decide +kernel⟩,
   ⟨{ wRun with sess := SessSt.reset }, by decide +kernel⟩,
   ⟨wDbg, by decide +kernel⟩,
   ⟨wDbg, 4, by decide +kernel⟩,
   ⟨wDbg, 0, by decide +kernel⟩,
   ⟨wDbg, 3, by decide +kernel⟩,
   ⟨wDbg, 37, by decide +kernel⟩,
   ⟨ck wRun (fun c => { c with halted := [4, 37] }), by decide +kernel⟩,
   ⟨quiet wRun kSupplyOor 0, 0, 719, 2000, by decide +kernel, by decide +kernel, by decide +kernel, by decide +kernel, by decide +kernel,
     by decide +kernel, by decide +kernel, by decide +kernel, by unfold State.Quiet; decide +kernel⟩,
   ⟨quiet wRun kSupplyOor 7, 7, 1891, 2000, by decide +kernel, by decide +kernel, by decide +kernel, by decide +kernel,
     by decide +kernel, by decide +kernel, by decide +kernel, by decide +kernel, by unfold State.Quiet; decide +kernel⟩,
   ⟨quiet { wRun with aux := [(3, { Aux.reset with cmd := true, energised := true })] } kSupplyOor 8, 7999, 2000, by decide +kernel,
     by decide +kernel, by decide +kernel, by decide +kernel, by unfold State.Quiet; decide +kernel⟩,
   ⟨1999, 2000, by decide +kernel⟩,
   ⟨3601, 2000, by decide +kernel⟩,
   ⟨1, 2000, by decide +kernel⟩,
   ⟨2000, by decide +kernel⟩,
   ⟨3600, by decide +kernel⟩,
   ⟨8000, by decide +kernel⟩,
   ⟨0, 720, by decide +kernel⟩,
   ⟨quiet wRun kJunctionHot 0, 1500, by decide +kernel, by decide +kernel, by decide +kernel, by unfold State.Quiet; decide +kernel⟩,
   ⟨quiet (dv wRun fun d => { d with derateClear := some 5 }) kPwrFail 0, 10000, by decide +kernel, by decide +kernel, by decide +kernel,
     by decide +kernel, by decide +kernel, by unfold State.Quiet; decide +kernel⟩,
   ⟨10000000, by decide +kernel⟩⟩

/-- Witnesses of the hypotheses of DeviceActionsComplete. -/
theorem witness_DeviceActionsComplete :
    (∃ (s : State) (q : Req) (lvl : Nat) (sid : Nat), s.Invoked q oStart [] 1 true lvl sid ∧ s.dev.state = .ready) ∧
    (∃ (s : State) (q : Req) (lvl : Nat) (sid : Nat), s.Invoked q oStart [] 1 true lvl sid ∧ (s.dev.state = .discover ∨ s.dev.state =
      .run)) ∧
    (∃ (s : State) (q : Req) (lvl : Nat) (sid : Nat), s.Invoked q oStart [] 1 true lvl sid ∧ (s.dev.state = .discover ∨ s.dev.state =
      .run)) ∧
    (∃ (s : State) (q : Req) (lvl : Nat) (sid : Nat), s.Invoked q oStop [] 1 true lvl sid ∧ s.dev.state ∈ [.discover, .charge, .sync,
      .run, .derated]) ∧
    (∃ (s : State) (q : Req) (lvl : Nat) (sid : Nat), s.Invoked q oStop [] 1 true lvl sid ∧ s.dev.state ∈ [.discover, .charge, .sync,
      .run, .derated]) ∧
    (∃ (s : State) (q : Req) (lvl : Nat) (sid : Nat), s.Invoked q oStop [] 1 true lvl sid ∧ (s.dev.state = .ready ∨ s.dev.state =
      .stopping)) ∧
    (∃ (s : State) (q : Req) (lvl : Nat) (sid : Nat), s.Invoked q oStop [] 1 true lvl sid ∧ (s.dev.state = .ready ∨ s.dev.state =
      .stopping)) ∧
    (∃ (s : State) (q : Req) (lvl : Nat) (sid : Nat), s.Invoked q oTrip [] 1 true lvl sid ∧ s.dev.state = .safe) ∧
    (∃ (s : State) (q : Req) (lvl : Nat) (sid : Nat), s.Invoked q oTrip [] 1 true lvl sid ∧ s.dev.state ∉ [.off, .boot, .safe] ∧
      (Eff.start s).classOf kTripAction sid = 5 ∧ (Eff.start s).earlyGates = []) ∧
    (∃ (s : State) (q : Req) (lvl : Nat) (sid : Nat), s.Invoked q oTrip [] 1 true lvl sid ∧ s.dev.state ∉ [.off, .boot, .safe] ∧
      (Eff.start s).classOf kTripAction sid = 5 ∧ (Eff.start s).earlyGates = []) ∧
    (∃ (s : State) (q : Req) (lvl : Nat) (sid : Nat), s.Invoked q oSafeExit [] 2 true lvl sid ∧ s.dev.state = .safe ∧ (Eff.start
      s).condAtLeast 7 = false) ∧
    (∃ (s : State) (q : Req) (lvl : Nat) (sid : Nat), s.Invoked q oSafeExit [] 2 true lvl sid ∧ s.dev.state = .ready) :=
  ⟨⟨wS .ready .active, wA oStart [], 3, 7, wInvoked _ _ _ _ _ (by decide +kernel) rfl (by decide +kernel) (by decide +kernel)
     (by decide +kernel) (by decide +kernel), by decide +kernel⟩,
   ⟨wRun, wA oStart [], 3, 7, wInvoked _ _ _ _ _ (by decide +kernel) rfl (by decide +kernel) (by decide +kernel) (by decide +kernel)
     (by decide +kernel), by decide +kernel⟩,
   ⟨wS .discover .active, wA oStart [], 3, 7, wInvoked _ _ _ _ _ (by decide +kernel) rfl (by decide +kernel) (by decide +kernel)
     (by decide +kernel) (by decide +kernel), by decide +kernel⟩,
   ⟨wRun, wA oStop [], 3, 7, wInvoked _ _ _ _ _ (by decide +kernel) rfl (by decide +kernel) (by decide +kernel) (by decide +kernel)
     (by decide +kernel), by decide +kernel⟩,
   ⟨wS .discover .active, wA oStop [], 3, 7, wInvoked _ _ _ _ _ (by decide +kernel) rfl (by decide +kernel) (by decide +kernel)
     (by decide +kernel) (by decide +kernel), by decide +kernel⟩,
   ⟨wS .stopping .active, wA oStop [], 3, 7, wInvoked _ _ _ _ _ (by decide +kernel) rfl (by decide +kernel) (by decide +kernel)
     (by decide +kernel) (by decide +kernel), by decide +kernel⟩,
   ⟨wS .ready .active, wA oStop [], 3, 7, wInvoked _ _ _ _ _ (by decide +kernel) rfl (by decide +kernel) (by decide +kernel)
     (by decide +kernel) (by decide +kernel), by decide +kernel⟩,
   ⟨wS .safe .active, wA oTrip [], 3, 7, wInvoked _ _ _ _ _ (by decide +kernel) rfl (by decide +kernel) (by decide +kernel)
     (by decide +kernel) (by decide +kernel), by decide +kernel⟩,
   ⟨lk wRun, wA oTrip [], 3, 7, wInvoked _ _ _ _ _ (by decide +kernel) rfl (by decide +kernel) (by decide +kernel) (by decide +kernel)
     (by decide +kernel), by decide +kernel⟩,
   ⟨wS .ready .active, wA oTrip [], 3, 7, wInvoked _ _ _ _ _ (by decide +kernel) rfl (by decide +kernel) (by decide +kernel)
     (by decide +kernel) (by decide +kernel), by decide +kernel⟩,
   ⟨wS .safe .active, wA oSafeExit [], 3, 7, wInvoked _ _ _ _ _ (by decide +kernel) rfl (by decide +kernel) (by decide +kernel)
     (by decide +kernel) (by decide +kernel), by decide +kernel⟩,
   ⟨wS .ready .active, wA oSafeExit [], 3, 7, wInvoked _ _ _ _ _ (by decide +kernel) rfl (by decide +kernel) (by decide +kernel)
     (by decide +kernel) (by decide +kernel), by decide +kernel⟩⟩

/-- Witnesses of the hypotheses of CellRequestsComplete. -/
theorem witness_CellRequestsComplete :
    (∃ (s : State) (q : Req) (cell : Byte) (lvl : Nat) (sid : Nat) (c : Instr) (code : Nat), (c, code) ∈ [(Instr.reqIdle q cell, 1),
      (.reqActive q cell, 2), (.reqBypass q cell, 3), (.reqRejoin q cell, 4), (.reqRetire q cell, 5)] ∧ s.Invoked q oCellReq [cell,
      BitVec.ofNat 8 code] ((Eff.start s).cellRight [cell, BitVec.ofNat 8 code]) true lvl sid ∧ cell.toNat < 192) ∧
    (∃ (s : State) (q : Req) (cell : Byte) (lvl : Nat) (sid : Nat) (c : Instr) (code : Nat), (c, code) ∈ [(Instr.reqIdle q cell, 1),
      (.reqActive q cell, 2), (.reqBypass q cell, 3), (.reqRejoin q cell, 4), (.reqRetire q cell, 5)] ∧ s.Invoked q oCellReq [cell,
      BitVec.ofNat 8 code] ((Eff.start s).cellRight [cell, BitVec.ofNat 8 code]) true lvl sid ∧ cell.toNat < 192) ∧
    (∃ (s : State) (c : Nat), (Eff.start s).installed c = false) ∧
    (∃ (s : State) (c : Nat) (gone : List Nat), (Eff.start s).installed c = true ∧ c ∈ gone) ∧
    (∃ (s : State) (c : Nat) (gone : List Nat) (code : Nat), (Eff.start s).installed c = true ∧ c ∉ gone ∧ (Eff.start s).cellNext c =
      .active ∧ code ∈ [1, 3, 5]) ∧
    (∃ (s : State) (c : Nat) (gone : List Nat) (code : Nat), (Eff.start s).installed c = true ∧ c ∉ gone ∧ (Eff.start s).cellNext c =
      .active ∧ code ∈ [1, 3, 5]) ∧
    (∃ (s : State) (c : Nat) (gone : List Nat), (Eff.start s).installed c = true ∧ c ∉ gone) ∧
    (∃ (s : State) (c : Nat) (gone : List Nat), (Eff.start s).installed c = true ∧ c ∉ gone) ∧
    (∃ (s : State) (c : Nat) (code : Nat) (st : CellState) (gone : List Nat), (code, st) ∈ [(1, CellState.idle), (3, .bypassed), (5,
      .retired)] ∧ s.chain.reqs = [⟨.nobody, c, code⟩] ∧ (Eff.start s).reqResult gone c code = 0 ∧ s.frame.running = false ∧
      s.pair.standby = false) ∧
    (∃ (s : State) (c : Nat) (code : Nat) (st : CellState) (gone : List Nat), (code, st) ∈ [(1, CellState.idle), (3, .bypassed), (5,
      .retired)] ∧ s.chain.reqs = [⟨.nobody, c, code⟩] ∧ (Eff.start s).reqResult gone c code = 0 ∧ s.frame.running = false ∧
      s.pair.standby = false) ∧
    (∃ (s : State) (c : Nat) (code : Nat) (st : CellState) (gone : List Nat), (code, st) ∈ [(1, CellState.idle), (3, .bypassed), (5,
      .retired)] ∧ s.chain.reqs = [⟨.nobody, c, code⟩] ∧ (Eff.start s).reqResult gone c code = 0 ∧ s.frame.running = false ∧
      s.pair.standby = false) :=
  ⟨⟨cas wRun 9 .active, wA oCellReq [5, BitVec.ofNat 8 1], 5, 3, 7, .reqIdle (wA oCellReq [5, BitVec.ofNat 8 1]) 5, 1, .head _, wInvoked
     _ _ _ _ _ (by decide +kernel) rfl (by decide +kernel) (by decide +kernel) (by decide +kernel) (by decide +kernel),
     by decide +kernel⟩,
   ⟨wRun, wA oCellReq [191, BitVec.ofNat 8 5], 191, 3, 7, .reqRetire (wA oCellReq [191, BitVec.ofNat 8 5]) 191, 5, .tail _ (.tail _
     (.tail _ (.tail _ (.head _)))), wInvoked _ _ _ _ _ (by decide +kernel) rfl (by decide +kernel) (by decide +kernel)
     (by decide +kernel) (by decide +kernel), by decide +kernel⟩,
   ⟨wRun, 0, by decide +kernel⟩,
   ⟨cas wRun 9 .idle, 5, [5], by decide +kernel⟩,
   ⟨cas wRun 9 .active, 5, [4], 1, by decide +kernel⟩,
   ⟨cas wRun 60 .active, 5, [], 5, by decide +kernel⟩,
   ⟨cas wRun 9 .idle, 5, [], by decide +kernel⟩,
   ⟨cas (wS .ready .active) 9 .idle, 5, [], by decide +kernel⟩,
   ⟨{ cas wRun 60 .active with chain := { ChainSt.reset with reqs := [⟨.nobody, 5, 1⟩] }, frame := FrameSt.reset }, 5, 1, .idle, [],
     by decide +kernel⟩,
   ⟨{ cas wRun 60 .idle with chain := { ChainSt.reset with reqs := [⟨.nobody, 5, 3⟩] }, frame := FrameSt.reset }, 5, 3, .bypassed, [],
     by decide +kernel⟩,
   ⟨{ cas wRun 60 .idle with chain := { ChainSt.reset with reqs := [⟨.nobody, 5, 5⟩] }, frame := FrameSt.reset }, 5, 5, .retired, [],
     by decide +kernel⟩⟩

/-- Witnesses of the hypotheses of DiscoveryAndLossesComplete. -/
theorem witness_DiscoveryAndLossesComplete :
    (∃ (s : State), s.dev.state = .discover ∧ s.dev.discStep = 8 ∧ s.time.hops = [] ∧ s.chain.relaying = [] ∧ smWf Cell.reset s.cells =
      true ∧ (∀ c < 192, (Eff.start s).installed c = true → c ∈ s.chain.answered) ∧ (∀ n < 24, smGet 0 s.chain.found n ≤ s.cv oChainLen n
      ∨ s.cv oChainLen n = 0)) ∧
    (∃ (s : State), s.dev.state = .discover ∧ s.dev.discStep = 8 ∧ s.time.hops = [] ∧ s.chain.relaying = [] ∧ smWf Cell.reset s.cells =
      true ∧ (∀ c < 192, (Eff.start s).installed c = true → c ∈ s.chain.answered) ∧ (∀ n < 24, smGet 0 s.chain.found n ≤ s.cv oChainLen n
      ∨ s.cv oChainLen n = 0)) ∧
    (∃ (s : State) (c : Nat), s.chain.joins = [c] ∧ s.dev.state = .discover ∧ (let x := smGet Cell.reset s.cells c; ((Eff.start
      s).cellNext c = .absent ∧ (Eff.start s).installed c = true ∧ x.changed = false) ∨ ((Eff.start s).cellNext c = .bypassed ∧ x.state =
      .bypassed ∧ (x.cause = 8 ∨ x.cause = 10)))) ∧
    (∃ (s : State) (c : Nat), s.chain.joins = [c] ∧ s.dev.state = .discover ∧ (let x := smGet Cell.reset s.cells c; ((Eff.start
      s).cellNext c = .absent ∧ (Eff.start s).installed c = true ∧ x.changed = false) ∨ ((Eff.start s).cellNext c = .bypassed ∧ x.state =
      .bypassed ∧ (x.cause = 8 ∨ x.cause = 10)))) ∧
    (∃ (s : State) (n : Nat) (l : List (BitVec 64)), 0 < s.cv oChainLen n ∧ l.length = s.cv oChainLen n ∧ ((Eff.start s).ownTerms
      n).length = s.cv oChainLen n ∧ (∀ x ∈ (Eff.start s).ownTerms n, x ≠ 0) ∧ (∀ x ∈ l, x ≠ 0)) ∧
    (∃ (s : State) (n : Nat) (l : List (BitVec 64)), 0 < s.cv oChainLen n ∧ l.length = s.cv oChainLen n ∧ ((Eff.start s).ownTerms
      n).length = s.cv oChainLen n ∧ (∀ x ∈ (Eff.start s).ownTerms n, x ≠ 0) ∧ (∀ x ∈ l, x ≠ 0)) ∧
    (∃ (s : State), s.dev.state = .discover ∧ s.dev.discStep = 10 ∧ s.dev.discAt + 1000000000 ≤ s.time.up) ∧
    (∃ (s : State), (s.dev.state = .run ∨ s.dev.state = .derated) ∧ s.frame.k % 1000 = 0 ∧ s.chain.asked = []) ∧
    (∃ (s : State) (c : Fin 192), 4 ≤ (smGet Cell.reset s.cells c.val).miss ∧ (smGet Cell.reset s.cells c.val).state ∈ [.joining, .idle,
      .active] ∧ (∀ d ∈ s.chain.departs, d.1 ≠ c.val) ∧ s.Quiet kCellLost c.val) ∧
    (∃ (s : State) (c : Fin 192), 8 ≤ (smGet Cell.reset s.cells c.val).disagreeRun ∧ s.Quiet kCellSuspect c.val) ∧
    (∃ (s : State) (c : Fin 192), (smGet Cell.reset s.cells c.val).state = .joining ∧ s.dev.state ∈ [.charge, .sync, .run, .derated]) ∧
    (∃ (s : State) (c : Fin 192), (smGet Cell.reset s.cells c.val).state = .joining ∧ s.dev.state ∈ [.charge, .sync, .run, .derated]) ∧
    (∃ (s : State) (c : Fin 192) (a : Nat), (smGet Cell.reset s.cells c.val).orderAt = some a) ∧
    (∃ (s : State) (c : Fin 192) (a : Nat), (smGet Cell.reset s.cells c.val).orderAt = some a) :=
  ⟨⟨dv wRun fun d => { d with state := .discover, discStep := 8 }, by decide +kernel⟩,
   ⟨dv (ch { cas wRun 9 .joining with time := { wRun.time with hops := [] } } fun h => { h with answered := List.range 9 }) fun d =>
     { d with state := .discover, discStep := 8 }, by decide +kernel⟩,
   ⟨dv (ch (cas wRun 9 .absent) fun h => { h with joins := [5] }) (fun d => { d with state := .discover }), 5, by decide +kernel⟩,
   ⟨dv (ch { wRun with cells := [(5, { Cell.reset with state := .bypassed, cause := 8 })] } fun h => { h with joins := [5] }) (fun d =>
     { d with state := .discover }), 5, by decide +kernel⟩,
   ⟨cfgd (ch wRun fun h => { h with found := [(3, 2)], terms := [(3, 0, 11), (3, 1, 12)] }) oChainLen 3 2, 3, [12, 11],
     by decide +kernel, by decide +kernel, by decide +kernel, by decide +kernel, by simp⟩,
   ⟨cfgd (ch wRun fun h => { h with found := [(3, 2)], terms := [(3, 0, 11), (3, 1, 12)] }) oChainLen 3 2, 3, [11, 12],
     by decide +kernel, by decide +kernel, by decide +kernel, by decide +kernel, by simp⟩,
   ⟨dv (lk (cas wRun 9 .idle)) fun d => { d with state := .discover, discStep := 10, discAt := 99000000000 }, by decide +kernel⟩,
   ⟨lk (cas wRun 9 .active), by decide +kernel⟩,
   ⟨quiet { wRun with cells := [(5, { Cell.reset with state := .idle, miss := 4 })] } kCellLost 5, 5, by decide +kernel,
     by decide +kernel, by decide +kernel, by unfold State.Quiet; decide +kernel⟩,
   ⟨quiet { wRun with cells := [(5, { Cell.reset with state := .idle, disagreeRun := 8 })] } kCellSuspect 5, 5, by decide +kernel,
     by unfold State.Quiet; decide +kernel⟩,
   ⟨{ wRun with cells := [(191, { Cell.reset with state := .joining, joinAt := 90000000000 })] }, 191, by decide +kernel⟩,
   ⟨{ wRun with cells := [(191, { Cell.reset with state := .joining, joinAt := 90000000001 })] }, 191, by decide +kernel⟩,
   ⟨{ wRun with cells := [(191, { Cell.reset with state := .active, orderAt := some 99900000000 })] }, 191, 99900000000,
     by decide +kernel⟩,
   ⟨{ wRun with cells := [(191, { Cell.reset with state := .active, orderAt := some 99900000001 })] }, 191, 99900000001,
     by decide +kernel⟩⟩

/-- Witnesses of the hypotheses of FramesComplete. -/
theorem witness_FramesComplete :
    (∃ (s : State), (Eff.start s).framesRun = true ∧ s.frame.boundaryDue = false ∧ (s.pair.role ≠ .joining ∨ s.time.beaconFrame = 0)) ∧
    (∃ (s : State), (Eff.start s).framesRun = true ∧ s.frame.boundaryDue = false ∧ (s.pair.role ≠ .joining ∨ s.time.beaconFrame = 0)) ∧
    (∃ (s : State), (Eff.start s).framesRun = true ∧ s.frame.boundaryDue = false ∧ (s.pair.role ≠ .joining ∨ s.time.beaconFrame = 0)) ∧
    (∃ (s : State), s.frame.running = true ∧ s.frame.snapped = false ∧ s.frame.boundaryDue = false ∧ s.dev.state ≠ .off ∧ s.dev.state ≠
      .boot) ∧
    (∃ (s : State), s.frame.running = true ∧ s.frame.snapped = false ∧ s.frame.boundaryDue = false ∧ s.dev.state ≠ .off ∧ s.dev.state ≠
      .boot) ∧
    (∃ (s : State), s.frame.running = true ∧ s.frame.snapped = false ∧ s.frame.boundaryDue = false ∧ s.dev.state ≠ .off ∧ s.dev.state ≠
      .boot) ∧
    (∃ (s : State), s.frame.running = true ∧ s.frame.snapped = false ∧ s.frame.boundaryDue = false ∧ s.dev.state ≠ .off ∧ s.dev.state ≠
      .boot) ∧
    (∃ (s : State), (s.frame.snapped = true ∨ s.frame.running = false)) ∧
    (∃ (s : State), (s.frame.snapped = true ∨ s.frame.running = false)) ∧
    (∃ (s : State), s.frame.running = true ∧ s.dev.state ≠ .off ∧ s.dev.state ≠ .boot) ∧
    (∃ (s : State), s.frame.running = true ∧ s.dev.state ≠ .off ∧ s.dev.state ≠ .boot) ∧
    (∃ (s : State), s.frame.running = true ∧ s.pair.role = .active ∧ s.frame.snapped = true ∧ s.chain.beaconK ≠ some s.frame.k ∧
      s.frame.tk + ((s.frame.dl : Int) + 100) * nsq ≤ s.time.clock ∧ s.time.clock < (Eff.start s).schedAt) ∧
    (∃ (s : State), (s.frame.snapped = false ∨ s.chain.beaconK = some s.frame.k)) ∧
    (∃ (s : State), (s.frame.snapped = false ∨ s.chain.beaconK = some s.frame.k)) ∧
    (∃ (s : State) (c : Ckpt), s.jrnl.slotA = some c ∧ c.done = false) :=
  ⟨⟨lk (cas wRun 9 .active), by decide +kernel⟩,
   ⟨fr (wS .ready .active) fun f => { f with running := false }, by decide +kernel⟩,
   ⟨lk (cas wStb 9 .active), by decide +kernel⟩,
   ⟨lk (cas wRun 9 .active), by decide +kernel⟩,
   ⟨lk (cas wRun 9 .active), by decide +kernel⟩,
   ⟨lk (cas wRun 9 .active), by decide +kernel⟩,
   ⟨lk (cas wStb 9 .active), by decide +kernel⟩,
   ⟨fr wRun fun f => { f with snapped := true }, by decide +kernel⟩,
   ⟨fr wRun fun f => { f with running := false }, by decide +kernel⟩,
   ⟨lk wRun, by decide +kernel⟩,
   ⟨lk wStb, by decide +kernel⟩,
   ⟨tm (fr (cfgd (cfgd (lk (cas wRun 9 .active)) oChainLen 3 2) oChainLen 7 1) fun f => { f with snapped := true }) fun t =>
     { t with clock := 100000000200 * nsq }, by decide +kernel⟩,
   ⟨fr wRun fun f => { f with snapped := false }, by decide +kernel⟩,
   ⟨ch (fr wRun fun f => { f with snapped := true }) fun h => { h with beaconK := some 1000 }, by decide +kernel⟩,
   ⟨{ wRun with trouble := 3, jrnl := { JrnlSt.reset with slotA := some wCkpt } }, wCkpt, by decide +kernel⟩⟩

/-- Witnesses of the hypotheses of StateTimersComplete. -/
theorem witness_StateTimersComplete :
    (∃ (s : State), s.dev.state = .charge ∧ s.pair.role = .active ∧ s.dev.chargeAt + s.cv oChargeTimeout 0 * 1000000 ≤ s.time.up) ∧
    (∃ (s : State), s.dev.state = .sync ∧ s.pair.role = .active) ∧
    (∃ (s : State), s.dev.state = .sync ∧ s.pair.role = .active) ∧
    (∃ (s : State) (a : Nat), s.dev.brkAt = some a ∧ s.dev.state = .sync ∧ s.pair.role = .active ∧ s.cv oBrkAux 0 ≠ 0xFF ∧ (Eff.start
      s).brkClosed = false ∧ (∀ v ∈ s.dev.events, v.cause ≠ 7) ∧ a + s.cv oBrkTime 0 * 1000000 ≤ s.time.up ∧ s.Quiet kBrkFail 0) ∧
    (∃ (s : State), s.dev.state = .stopping ∧ s.pair.role = .active ∧ s.cv oBrkAux 0 ≠ 0xFF ∧ s.dev.stopAt + (s.cv oStopRamp 0 + 1000) *
      1000000 ≤ s.time.up) ∧
    (∃ (s : State) (a : Nat), s.dev.derateClear = some a ∧ s.dev.state = .derated ∧ s.pair.role = .active ∧ s.dev.derate = 0 ∧ s.cv
      oDerateAuto 0 = 1) ∧
    (∃ (s : State) (a : Nat), s.dev.derateClear = some a ∧ s.dev.state = .derated ∧ s.pair.role = .active ∧ s.dev.derate = 0 ∧ s.cv
      oDerateAuto 0 = 1) ∧
    (∃ (s : State), bitOf s.dev.derate 0 = true) ∧
    (∃ (s : State), bitOf s.dev.derate 0 = true) :=
  ⟨⟨dv (cas wRun 9 .idle) fun d => { d with state := .charge, chargeAt := 0 }, by decide +kernel⟩,
   ⟨dv wRun fun d => { d with state := .sync, syncAt := 100000000000 - 60000 * 1000000 }, by decide +kernel⟩,
   ⟨dv wRun fun d => { d with state := .sync, syncAt := 100000000000 }, by decide +kernel⟩,
   ⟨quiet (cfgd (dv wRun fun d => { d with state := .sync, brkAt := some 5 }) oBrkAux 0 3) kBrkFail 0, 5, by decide +kernel,
     by decide +kernel, by decide +kernel, by decide +kernel, by decide +kernel, by decide +kernel, by decide +kernel,
     by unfold State.Quiet; decide +kernel⟩,
   ⟨lk (cfgd (dv wRun fun d => { d with state := .stopping, stopAt := 0 }) oBrkAux 0 3), by decide +kernel⟩,
   ⟨cfgd (dv wRun fun d => { d with state := .derated, derateClear := some 99000000000 }) oDerateAuto 0 1, 99000000000,
     by decide +kernel⟩,
   ⟨cfgd (dv wRun fun d => { d with state := .derated, derateClear := some 99000000001 }) oDerateAuto 0 1, 99000000001,
     by decide +kernel⟩,
   ⟨dv wRun fun d => { d with derate := 1, derateSince := 90000000000 }, by decide +kernel⟩,
   ⟨dv wStb fun d => { d with derate := 9, derateSince := 90000000001 }, by decide +kernel⟩⟩

/-- Witnesses of the hypotheses of LaneStatesComplete. -/
theorem witness_LaneStatesComplete :
    (∃ (s : State) (l : Fin 28), (smGet Lane.reset s.lanes l.val).state = .wake) ∧
    (∃ (s : State) (l : Fin 28) (quiet : Bool) (x : Lane), smGet Lane.reset s.lanes l.val = x ∧ x.state = .acquire ∧ x.warm = false ∧
      x.los = false ∧ x.lol = false ∧ x.adaptDone = false ∧ s.cv oRxAdapt l.val ≠ 2 ∧ (quiet = true ∨ x.acquireAt + 90000000 ≤
      s.time.up)) ∧
    (∃ (s : State) (l : Fin 28) (quiet : Bool) (x : Lane), smGet Lane.reset s.lanes l.val = x ∧ x.state = .acquire ∧ x.warm = false ∧
      x.los = false ∧ x.lol = false ∧ x.adaptDone = false ∧ s.cv oRxAdapt l.val ≠ 2 ∧ (quiet = true ∨ x.acquireAt + 90000000 ≤
      s.time.up)) ∧
    (∃ (s : State) (l : Fin 28) (x : Lane), smGet Lane.reset s.lanes l.val = x ∧ x.state = .acquire ∧ x.los = false ∧ x.lol = false ∧
      (x.warm = true ∨ x.adaptDone = true ∨ s.cv oRxAdapt l.val = 2)) ∧
    (∃ (s : State) (l : Fin 28) (x : Lane), smGet Lane.reset s.lanes l.val = x ∧ x.state = .acquire ∧ x.los = false ∧ x.lol = false ∧
      (x.warm = true ∨ x.adaptDone = true ∨ s.cv oRxAdapt l.val = 2)) ∧
    (∃ (s : State) (l : Fin 28) (x : Lane), smGet Lane.reset s.lanes l.val = x ∧ (x.state = .hunt ∨ x.state = .locked) ∧ x.adaptDone =
      true ∧ s.cv oRxAdapt l.val = 0) ∧
    (∃ (s : State) (l : Fin 28) (x : Lane), smGet Lane.reset s.lanes l.val = x ∧ (x.state = .hunt ∨ x.state = .locked) ∧ x.adaptDone =
      true ∧ s.cv oRxAdapt l.val = 0) ∧
    (∃ (s : State) (l : Fin 28) (hs : List (BitVec 2)) (p : Fin 66) (x : Lane) (slip : Nat), smGet Lane.reset s.lanes l.val = x ∧ x.state
      = .hunt ∧ x.good < 128 ∧ (∀ h ∈ hs, h = 1 ∨ h = 2) ∧ (128 ≤ x.good + hs.length ∨ 26 ≤ l.val) ∧ slip = (if l.val < 26 then x.slip
      else p.val) ∧ s.dev.state ≠ .discover ∧ s.pair.role ≠ .joining) ∧
    (∃ (s : State) (l : Fin 28) (hs : List (BitVec 2)) (p : Fin 66) (x : Lane) (slip : Nat), smGet Lane.reset s.lanes l.val = x ∧ x.state
      = .hunt ∧ x.good < 128 ∧ (∀ h ∈ hs, h = 1 ∨ h = 2) ∧ (128 ≤ x.good + hs.length ∨ 26 ≤ l.val) ∧ slip = (if l.val < 26 then x.slip
      else p.val) ∧ s.dev.state ≠ .discover ∧ s.pair.role ≠ .joining) ∧
    (∃ (s : State) (l : Fin 28) (hs : List (BitVec 2)) (p : Fin 66) (x : Lane) (slip : Nat), smGet Lane.reset s.lanes l.val = x ∧ x.state
      = .hunt ∧ x.good < 128 ∧ (∀ h ∈ hs, h = 1 ∨ h = 2) ∧ (128 ≤ x.good + hs.length ∨ 26 ≤ l.val) ∧ slip = (if l.val < 26 then x.slip
      else p.val) ∧ s.dev.state ≠ .discover ∧ s.pair.role ≠ .joining) ∧
    (∃ (s : State) (l : Fin 28) (x : Lane), smGet Lane.reset s.lanes l.val = x ∧ x.state = .hunt ∧ l.val < 26 ∧ x.good < 127) ∧
    (∃ (s : State) (l : Fin 28) (x : Lane), smGet Lane.reset s.lanes l.val = x ∧ x.state = .hunt ∧ l.val < 26 ∧ x.good < 127) ∧
    (∃ (s : State) (l : Fin 28) (b : Block) (x : Lane) (bad : Nat) (n : Nat), smGet Lane.reset s.lanes l.val = x ∧ x.state = .locked ∧
      l.val < 26 ∧ x.rx = none ∧ (bad = (if b.sync = 1 ∨ b.sync = 2 then 0 else 1)) ∧ n = x.windowBad + bad - (if x.window.testBit 255 =
      true then 1 else 0) ∧ (bad = 0 ∨ n < 24)) ∧
    (∃ (s : State) (l : Fin 28) (b : Block) (x : Lane) (bad : Nat) (n : Nat), smGet Lane.reset s.lanes l.val = x ∧ x.state = .locked ∧
      l.val < 26 ∧ x.rx = none ∧ (bad = (if b.sync = 1 ∨ b.sync = 2 then 0 else 1)) ∧ n = x.windowBad + bad - (if x.window.testBit 255 =
      true then 1 else 0) ∧ (bad = 0 ∨ n < 24)) ∧
    (∃ (s : State) (l : Fin 28) (b : Block) (x : Lane) (bad : Nat) (n : Nat), smGet Lane.reset s.lanes l.val = x ∧ x.state = .locked ∧
      l.val < 26 ∧ x.rx = none ∧ (bad = (if b.sync = 1 ∨ b.sync = 2 then 0 else 1)) ∧ n = x.windowBad + bad - (if x.window.testBit 255 =
      true then 1 else 0) ∧ (bad = 0 ∨ n < 24)) ∧
    (∃ (s : State) (l : Fin 28) (b : Block) (x : Lane) (bad : Nat) (n : Nat), smGet Lane.reset s.lanes l.val = x ∧ x.state = .locked ∧
      l.val < 26 ∧ x.rx = none ∧ (bad = (if b.sync = 1 ∨ b.sync = 2 then 0 else 1)) ∧ n = x.windowBad + bad - (if x.window.testBit 255 =
      true then 1 else 0) ∧ bad = 1 ∧ 24 ≤ n ∧ s.Quiet kLaneLost l.val ∧ (Eff.start s).laneDropped l.val = false) ∧
    (∃ (s : State) (l : Fin 28) (x : Lane), smGet Lane.reset s.lanes l.val = x ∧ x.state = .locked ∧ 26 ≤ l.val ∧ s.Quiet kLaneLost l.val
      ∧ (Eff.start s).laneDropped l.val = false) ∧
    (∃ (s : State) (l : Fin 28) (mv : Nat) (ppm : Nat) (ns : Nat) (out : Bool) (x : Lane) (c : Instr), smGet Lane.reset s.lanes l.val = x
      ∧ x.state ≠ .off ∧ (c = .losAssert l mv ns ∧ mv < 60 ∧ 100 ≤ ns ∨ c = .lolAssert l ppm ns out ∧ (1000 < ppm ∨ out = true) ∧ 1000 ≤
      ns) ∧ (x.state = .locked → s.Quiet kLaneLost l.val ∧ (Eff.start s).laneDropped l.val = false)) ∧
    (∃ (s : State) (l : Fin 28) (mv : Nat) (ppm : Nat) (ns : Nat) (out : Bool) (x : Lane) (c : Instr), smGet Lane.reset s.lanes l.val = x
      ∧ x.state ≠ .off ∧ (c = .losAssert l mv ns ∧ mv < 60 ∧ 100 ≤ ns ∨ c = .lolAssert l ppm ns out ∧ (1000 < ppm ∨ out = true) ∧ 1000 ≤
      ns) ∧ (x.state = .locked → s.Quiet kLaneLost l.val ∧ (Eff.start s).laneDropped l.val = false)) ∧
    (∃ (s : State) (l : Fin 28) (mv : Nat) (ppm : Nat) (ns : Nat) (out : Bool) (x : Lane) (c : Instr), smGet Lane.reset s.lanes l.val = x
      ∧ x.state ≠ .off ∧ (c = .losAssert l mv ns ∧ mv < 60 ∧ 100 ≤ ns ∨ c = .lolAssert l ppm ns out ∧ (1000 < ppm ∨ out = true) ∧ 1000 ≤
      ns) ∧ (x.state = .locked → s.Quiet kLaneLost l.val ∧ (Eff.start s).laneDropped l.val = false)) ∧
    (∃ (s : State) (l : Fin 28) (mv : Nat) (ns : Nat), (smGet Lane.reset s.lanes l.val).state = .off ∧ smWf Lane.reset s.lanes = true ∧
      mv < 60 ∧ 100 ≤ ns) ∧
    (∃ (s : State) (l : Fin 28), (smGet Lane.reset s.lanes l.val).state = .off ∧ smWf Lane.reset s.lanes = true) ∧
    (∃ (s : State) (l : Fin 28) (mv : Nat) (ns : Nat), (smGet Lane.reset s.lanes l.val).state ≠ .off ∧ 120 < mv ∧ 1000 ≤ ns) ∧
    (∃ (s : State) (l : Fin 28) (ppm : Nat) (ns : Nat), (smGet Lane.reset s.lanes l.val).state ≠ .off ∧ (smGet Lane.reset s.lanes
      l.val).los = false ∧ ppm ≤ 300 ∧ 10000 ≤ ns) ∧
    (∃ (s : State) (l : Fin 28) (x : Lane), smGet Lane.reset s.lanes l.val = x ∧ x.state = .acquire ∧ x.warm = true) ∧
    (∃ (s : State) (l : Fin 28) (x : Lane), smGet Lane.reset s.lanes l.val = x ∧ x.state = .acquire ∧ x.warm = true) ∧
    (∃ (s : State) (l : Fin 28) (x : Lane), smGet Lane.reset s.lanes l.val = x ∧ x.enabled = true ∧ x.state ≠ .locked ∧ x.downRaised =
      false ∧ x.downSince + 100000000 ≤ s.time.up ∧ s.Quiet kLaneDown l.val ∧ s.dev.state ≠ .discover ∧ s.pair.role ≠ .joining) :=
  ⟨⟨{ wRun with lanes := [(27, { Lane.reset with state := .wake })] }, 27, by decide +kernel⟩,
   ⟨{ wRun with lanes := [(3, { Lane.reset with state := .acquire, los := false, lol := false, acquireAt := 99910000000 })] }, 3, false,
     { Lane.reset with state := .acquire, los := false, lol := false, acquireAt := 99910000000 }, by decide +kernel⟩,
   ⟨{ wRun with lanes := [(3, { Lane.reset with state := .acquire, los := false, lol := false, acquireAt := 99990000000 })] }, 3, true,
     { Lane.reset with state := .acquire, los := false, lol := false, acquireAt := 99990000000 }, by decide +kernel⟩,
   ⟨{ wRun with lanes := [(3, { Lane.reset with state := .acquire, los := false, lol := false, warm := true })] }, 3,
     { Lane.reset with state := .acquire, los := false, lol := false, warm := true }, by decide +kernel⟩,
   ⟨{ wRun with lanes := [(3, { Lane.reset with state := .acquire, los := false, lol := false, adaptDone := true })] }, 3,
     { Lane.reset with state := .acquire, los := false, lol := false, adaptDone := true }, by decide +kernel⟩,
   ⟨{ wRun with lanes := [(3, { Lane.reset with state := .locked, adaptDone := true })] }, 3,
     { Lane.reset with state := .locked, adaptDone := true }, by decide +kernel⟩,
   ⟨{ wRun with lanes := [(3, { Lane.reset with state := .hunt, adaptDone := true })] }, 3,
     { Lane.reset with state := .hunt, adaptDone := true }, by decide +kernel⟩,
   ⟨{ wRun with lanes := [(3, { Lane.reset with state := .hunt, windowBad := 7, downRaised := true })] }, 3, List.replicate 128 1, 9,
     { Lane.reset with state := .hunt, windowBad := 7, downRaised := true }, 0, by decide +kernel⟩,
   ⟨{ wRun with lanes := [(27, { Lane.reset with state := .hunt })] }, 27, [], 9, { Lane.reset with state := .hunt }, 9,
     by decide +kernel⟩,
   ⟨{ wRun with lanes := [(3, { Lane.reset with state := .hunt, good := 127, rxBase := some 40 })] }, 3, [2], 9,
     { Lane.reset with state := .hunt, good := 127, rxBase := some 40 }, 0, by decide +kernel⟩,
   ⟨{ wRun with lanes := [(3, { Lane.reset with state := .hunt, good := 126 })] }, 3, { Lane.reset with state := .hunt, good := 126 },
     by decide +kernel⟩,
   ⟨{ wRun with lanes := [(3, { Lane.reset with state := .hunt, good := 5, slip := 65 })] }, 3,
     { Lane.reset with state := .hunt, good := 5, slip := 65 }, by decide +kernel⟩,
   ⟨{ wRun with lanes := [(25, { Lane.reset with state := .locked, windowBad := 3, errBlocks := 9 })] }, 25, dataBlock [1],
     { Lane.reset with state := .locked, windowBad := 3, errBlocks := 9 }, 0, 3, by decide +kernel⟩,
   ⟨{ wRun with lanes := [(25, { Lane.reset with state := .locked, windowBad := 3, errBlocks := 9 })] }, 25, ⟨0, 0⟩,
     { Lane.reset with state := .locked, windowBad := 3, errBlocks := 9 }, 1, 4, by decide +kernel⟩,
   ⟨{ wRun with lanes := [(25, { Lane.reset with state := .locked, windowBad := 1, window := 2 ^ 255 })] }, 25, idleBlock,
     { Lane.reset with state := .locked, windowBad := 1, window := 2 ^ 255 }, 0, 0, by decide +kernel⟩,
   ⟨quiet { wRun with lanes := [(25, { Lane.reset with state := .locked, windowBad := 23, lockLosses := 65535 })] } kLaneLost 25, 25, ⟨3,
     0⟩, { Lane.reset with state := .locked, windowBad := 23, lockLosses := 65535 }, 1, 24, by decide +kernel, by decide +kernel,
     by decide +kernel, by decide +kernel, by decide +kernel, by decide +kernel, by decide +kernel, by decide +kernel,
     by unfold State.Quiet; decide +kernel, by decide +kernel⟩,
   ⟨quiet { wRun with lanes := [(26, { Lane.reset with state := .locked })] } kLaneLost 26, 26, { Lane.reset with state := .locked },
     by decide +kernel, by decide +kernel, by decide +kernel, by unfold State.Quiet; decide +kernel, by decide +kernel⟩,
   ⟨quiet { wRun with lanes := [(3, { Lane.reset with state := .locked })] } kLaneLost 3, 3, 59, 0, 100, false,
     { Lane.reset with state := .locked }, .losAssert 3 59 100, by decide +kernel, by decide +kernel, by decide +kernel, fun _ =>
     ⟨by unfold State.Quiet; decide +kernel, by decide +kernel⟩⟩,
   ⟨{ wRun with lanes := [(3, { Lane.reset with state := .hunt })] }, 3, 0, 1001, 1000, false, { Lane.reset with state := .hunt },
     .lolAssert 3 1001 1000 false, by decide +kernel, by decide +kernel, by decide +kernel, fun h => absurd h (by decide)⟩,
   ⟨{ wRun with lanes := [(3, { Lane.reset with state := .wake })] }, 3, 0, 0, 1000, true, { Lane.reset with state := .wake }, .lolAssert
     3 0 1000 true, by decide +kernel, by decide +kernel, by decide +kernel, fun h => absurd h (by decide)⟩,
   ⟨wRun, 3, 59, 100, by decide +kernel⟩,
   ⟨wRun, 3, by decide +kernel⟩,
   ⟨{ wRun with lanes := [(3, { Lane.reset with state := .acquire })] }, 3, 121, 1000, by decide +kernel⟩,
   ⟨{ wRun with lanes := [(3, { Lane.reset with state := .acquire, los := false })] }, 3, 300, 10000, by decide +kernel⟩,
   ⟨{ wRun with lanes := [(3, { Lane.reset with state := .acquire, warm := true, acquireAt := 99990000000 })] }, 3,
     { Lane.reset with state := .acquire, warm := true, acquireAt := 99990000000 }, by decide +kernel⟩,
   ⟨{ wRun with lanes := [(3, { Lane.reset with state := .acquire, warm := true, acquireAt := 99990000001 })] }, 3,
     { Lane.reset with state := .acquire, warm := true, acquireAt := 99990000001 }, by decide +kernel⟩,
   ⟨quiet { wRun with lanes := [(3, { Lane.reset with state := .hunt, enabled := true, downSince := 99900000000 })] } kLaneDown 3, 3,
     { Lane.reset with state := .hunt, enabled := true, downSince := 99900000000 }, by decide +kernel, by decide +kernel,
     by decide +kernel, by decide +kernel, by decide +kernel, by unfold State.Quiet; decide +kernel, by decide +kernel⟩⟩

/-- Witnesses of the hypotheses of LaneActionsComplete. -/
theorem witness_LaneActionsComplete :
    (∃ (s : State) (q : Req) (b : Byte) (x : Lane) (lvl : Nat) (sid : Nat), s.Invoked q oLaneStop [b] 2 false lvl sid ∧ b.toNat < 28 ∧
      smGet Lane.reset s.lanes b.toNat = x ∧ x.stopReq.getD x.stopped = false ∧ (b.toNat < 24 → (Eff.start s).chainNeedsLane b.toNat =
      false) ∧ (b.toNat = 24 ∨ b.toNat = 25 → s.locked (49 - b.toNat))) ∧
    (∃ (s : State) (q : Req) (b : Byte) (x : Lane) (lvl : Nat) (sid : Nat), s.Invoked q oLaneStop [b] 2 false lvl sid ∧ b.toNat < 28 ∧
      smGet Lane.reset s.lanes b.toNat = x ∧ x.stopReq.getD x.stopped = false ∧ (b.toNat < 24 → (Eff.start s).chainNeedsLane b.toNat =
      false) ∧ (b.toNat = 24 ∨ b.toNat = 25 → s.locked (49 - b.toNat))) ∧
    (∃ (s : State) (q : Req) (b : Byte) (x : Lane) (lvl : Nat) (sid : Nat), s.Invoked q oLaneStop [b] 2 false lvl sid ∧ b.toNat < 28 ∧
      smGet Lane.reset s.lanes b.toNat = x ∧ x.stopReq.getD x.stopped = true) ∧
    (∃ (s : State) (q : Req) (b : Byte) (x : Lane) (lvl : Nat) (sid : Nat), s.Invoked q oLaneStop [b] 2 false lvl sid ∧ b.toNat < 28 ∧
      smGet Lane.reset s.lanes b.toNat = x ∧ x.stopReq.getD x.stopped = true) ∧
    (∃ (s : State) (q : Req) (b : Byte) (x : Lane) (lvl : Nat) (sid : Nat), s.Invoked q oLaneStop [b] 2 false lvl sid ∧ b.toNat < 28 ∧
      smGet Lane.reset s.lanes b.toNat = x ∧ x.stopReq.getD x.stopped = false ∧ (b.toNat < 24 ∧ (Eff.start s).chainNeedsLane b.toNat =
      true ∨ (b.toNat = 24 ∨ b.toNat = 25) ∧ ¬ s.locked (49 - b.toNat))) ∧
    (∃ (s : State) (q : Req) (b : Byte) (x : Lane) (lvl : Nat) (sid : Nat), s.Invoked q oLaneStop [b] 2 false lvl sid ∧ b.toNat < 28 ∧
      smGet Lane.reset s.lanes b.toNat = x ∧ x.stopReq.getD x.stopped = false ∧ (b.toNat < 24 ∧ (Eff.start s).chainNeedsLane b.toNat =
      true ∨ (b.toNat = 24 ∨ b.toNat = 25) ∧ ¬ s.locked (49 - b.toNat))) ∧
    (∃ (s : State) (q : Req) (b : Byte) (x : Lane) (lvl : Nat) (sid : Nat), s.Invoked q oLaneStart [b] 2 false lvl sid ∧ b.toNat < 28 ∧
      smGet Lane.reset s.lanes b.toNat = x ∧ x.stopReq.getD x.stopped = true ∧ s.cv oLaneMode b.toNat ≠ 1) ∧
    (∃ (s : State) (q : Req) (b : Byte) (x : Lane) (lvl : Nat) (sid : Nat), s.Invoked q oLaneStart [b] 2 false lvl sid ∧ b.toNat < 28 ∧
      smGet Lane.reset s.lanes b.toNat = x ∧ (x.stopReq.getD x.stopped = false ∨ s.cv oLaneMode b.toNat = 1)) ∧
    (∃ (s : State) (q : Req) (b : Byte) (x : Lane) (lvl : Nat) (sid : Nat), s.Invoked q oLaneStart [b] 2 false lvl sid ∧ b.toNat < 28 ∧
      smGet Lane.reset s.lanes b.toNat = x ∧ (x.stopReq.getD x.stopped = false ∨ s.cv oLaneMode b.toNat = 1)) ∧
    (∃ (s : State) (l : Nat) (x : Lane), smGet Lane.reset s.lanes l = x ∧ x.stopReq = some true) ∧
    (∃ (s : State) (l : Nat) (x : Lane), smGet Lane.reset s.lanes l = x ∧ x.stopReq = some false ∧ x.state = .off ∧ smWf Lane.reset
      s.lanes = true ∧ s.cv oLaneMode l = 0 ∧ (24 ≤ l ∨ 0 < s.cv oChainLen l)) ∧
    (∃ (s : State) (l : Nat) (x : Lane), smGet Lane.reset s.lanes l = x ∧ x.stopReq = some false ∧ x.state = .off ∧ smWf Lane.reset
      s.lanes = true ∧ s.cv oLaneMode l = 0 ∧ (24 ≤ l ∨ 0 < s.cv oChainLen l)) :=
  ⟨⟨lk wRun, wA oLaneStop [25], 25, { Lane.reset with state := .locked, enabled := true, los := false, lol := false }, 3, 7, wInvoked _ _
     _ _ _ (by decide +kernel) rfl (by decide +kernel) (by decide +kernel) (by decide +kernel) (by decide +kernel), by decide +kernel,
     by decide +kernel, by decide +kernel, by decide +kernel, fun _ => by unfold State.locked; decide +kernel⟩,
   ⟨wRun, wA oLaneStop [0], 0, Lane.reset, 3, 7, wInvoked _ _ _ _ _ (by decide +kernel) rfl (by decide +kernel) (by decide +kernel)
     (by decide +kernel) (by decide +kernel), by decide +kernel, by decide +kernel, by decide +kernel, by decide +kernel, fun h => absurd
     h (by decide)⟩,
   ⟨{ wRun with lanes := [(3, { Lane.reset with stopped := true })] }, wA oLaneStop [3], 3, { Lane.reset with stopped := true }, 3, 7,
     wInvoked _ _ _ _ _ (by decide +kernel) rfl (by decide +kernel) (by decide +kernel) (by decide +kernel) (by decide +kernel),
     by decide +kernel⟩,
   ⟨{ wRun with lanes := [(3, { Lane.reset with stopReq := some true })] }, wA oLaneStop [3], 3,
     { Lane.reset with stopReq := some true }, 3, 7, wInvoked _ _ _ _ _ (by decide +kernel) rfl (by decide +kernel) (by decide +kernel)
     (by decide +kernel) (by decide +kernel), by decide +kernel⟩,
   ⟨cas wRun 9 .active, wA oLaneStop [0], 0, Lane.reset, 3, 7, wInvoked _ _ _ _ _ (by decide +kernel) rfl (by decide +kernel)
     (by decide +kernel) (by decide +kernel) (by decide +kernel), by decide +kernel, by decide +kernel, by decide +kernel, .inl
     (by decide +kernel)⟩,
   ⟨wRun, wA oLaneStop [24], 24, Lane.reset, 3, 7, wInvoked _ _ _ _ _ (by decide +kernel) rfl (by decide +kernel) (by decide +kernel)
     (by decide +kernel) (by decide +kernel), by decide +kernel, by decide +kernel, by decide +kernel, .inr
     (by unfold State.locked; decide +kernel)⟩,
   ⟨{ wRun with lanes := [(3, { Lane.reset with stopped := true })] }, wA oLaneStart [3], 3, { Lane.reset with stopped := true }, 3, 7,
     wInvoked _ _ _ _ _ (by decide +kernel) rfl (by decide +kernel) (by decide +kernel) (by decide +kernel) (by decide +kernel),
     by decide +kernel⟩,
   ⟨wRun, wA oLaneStart [3], 3, Lane.reset, 3, 7, wInvoked _ _ _ _ _ (by decide +kernel) rfl (by decide +kernel) (by decide +kernel)
     (by decide +kernel) (by decide +kernel), by decide +kernel⟩,
   ⟨cfgd { wRun with lanes := [(3, { Lane.reset with stopped := true })] } oLaneMode 3 1, wA oLaneStart [3], 3,
     { Lane.reset with stopped := true }, 3, 7, wInvoked _ _ _ _ _ (by decide +kernel) rfl (by decide +kernel) (by decide +kernel)
     (by decide +kernel) (by decide +kernel), by decide +kernel⟩,
   ⟨{ wRun with lanes := [(3, { Lane.reset with state := .locked, stopReq := some true })] }, 3,
     { Lane.reset with state := .locked, stopReq := some true }, by decide +kernel⟩,
   ⟨{ cfgd wRun oChainLen 3 2 with lanes := [(3, { Lane.reset with stopped := true, stopReq := some false })] }, 3,
     { Lane.reset with stopped := true, stopReq := some false }, by decide +kernel⟩,
   ⟨{ wRun with lanes := [(27, { Lane.reset with stopReq := some false })] }, 27, { Lane.reset with stopReq := some false },
     by decide +kernel⟩⟩

set_option maxRecDepth 20000 in
/-- Witnesses of the hypotheses of TerminalFramesComplete. -/
theorem witness_TerminalFramesComplete :
    (∃ (s : State) (n : Fin 24) (bl : List Block) (bs : List Byte) (c : Nat) (x : Cell), s.locked n.val ∧ (s.hears n.val bl).2 = [.frame
      bs] ∧ wynLen n.val bs = true ∧ measFrame bs = true ∧ rcrcOk bs = true ∧ octet (measRec bs) 0 = c ∧ c < 192 ∧ fieldLe (measRec bs) 4
      4 = s.frame.k % 2 ^ 32 ∧ s.frame.snapped = false ∧ smGet Cell.reset s.cells c = x ∧ x.meas = none ∧ x.dig = none ∧ (x.state ≠
      .absent ∨ fieldLe (measRec bs) 10 2 ≠ 0xFFFF) ∧ fieldLe (measRec bs) 84 2 = 0 ∧ fieldLe (measRec bs) 86 2 = 0 ∧ fieldLe (measRec
      bs) 88 2 = 0 ∧ s.pair.role = .active ∧ (fieldLe (measRec bs) 8 2 = 0xFFFF ∨ newerThan (fieldLe (measRec bs) 8 2) s.pair.epoch =
      false)) ∧
    (∃ (s : State) (n : Fin 24) (bl : List Block) (bs : List Byte) (c : Nat) (x : Cell), s.locked n.val ∧ (s.hears n.val bl).2 = [.frame
      bs] ∧ wynLen n.val bs = true ∧ measFrame bs = true ∧ rcrcOk bs = true ∧ octet (measRec bs) 0 = c ∧ c < 192 ∧ fieldLe (measRec bs) 4
      4 = s.frame.k % 2 ^ 32 ∧ s.frame.snapped = false ∧ smGet Cell.reset s.cells c = x ∧ x.meas = none ∧ x.dig = none ∧ (x.state ≠
      .absent ∨ fieldLe (measRec bs) 10 2 ≠ 0xFFFF) ∧ fieldLe (measRec bs) 84 2 = 0 ∧ fieldLe (measRec bs) 86 2 = 0 ∧ fieldLe (measRec
      bs) 88 2 = 0 ∧ s.pair.role = .active ∧ (fieldLe (measRec bs) 8 2 = 0xFFFF ∨ newerThan (fieldLe (measRec bs) 8 2) s.pair.epoch =
      false)) ∧
    (∃ (s : State) (n : Fin 24) (bl : List Block) (bs : List Byte) (x : ChainCmd), s.Intact n.val 0x12 bl bs ∧ s.chain.cmds.find? (fun x
      => x.chain == n.val && x.tag == octet bs 6 && x.cmd == octet bs 4 && (x.hop == octet bs 5 || x.hop == 255)) = some x ∧ x.hop ≠ 255
      ∧ (octet bs 7 ≠ 0 ∨ octet bs 4 = 2)) ∧
    (∃ (s : State) (n : Fin 24) (bl : List Block) (bs : List Byte) (x : ChainCmd), s.Intact n.val 0x12 bl bs ∧ s.chain.cmds.find? (fun x
      => x.chain == n.val && x.tag == octet bs 6 && x.cmd == octet bs 4 && (x.hop == octet bs 5 || x.hop == 255)) = some x ∧ x.hop ≠ 255
      ∧ (octet bs 7 ≠ 0 ∨ octet bs 4 = 2)) ∧
    (∃ (s : State) (n : Fin 24) (bl : List Block) (bs : List Byte) (x : ChainCmd) (p : Nat), s.Intact n.val 0x12 bl bs ∧
      s.chain.cmds.find? (fun x => x.chain == n.val && x.tag == octet bs 6 && x.cmd == octet bs 4 && (x.hop == octet bs 5 || x.hop ==
      255)) = some x ∧ x.hop ≠ 255 ∧ octet bs 7 = 0 ∧ octet bs 4 = 1 ∧ fieldLe bs 8 2 = 12 ∧ (Eff.start s).hopPos n.val (octet bs 5) =
      some p ∧ p < s.cv oChainLen n.val ∧ (Eff.start s).installed (8 * n.val + p) = true ∧ (smGet Cell.reset s.cells (8 * n.val +
      p)).lastTerm = 0 ∧ fieldLe bs 10 8 ≠ 0) ∧
    (∃ (s : State) (n : Fin 24) (bl : List Block) (bs : List Byte) (x : ChainCmd), ∃ h, s.Intact n.val 0x12 bl bs ∧ s.chain.cmds.find?
      (fun x => x.chain == n.val && x.tag == octet bs 6 && x.cmd == octet bs 4 && (x.hop == octet bs 5 || x.hop == 255)) = some x ∧ x.hop
      ≠ 255 ∧ octet bs 7 = 0 ∧ octet bs 4 = 3 ∧ fieldLe bs 8 2 = 4 ∧ octet bs 5 < 8 ∧ smGet Hop.reset s.time.hops (8 * n.val + octet bs
      5) = h ∧ h.rts = [] ∧ h.measured = 0 ∧ h.samples = []) ∧
    (∃ (s : State) (n : Fin 24) (bl : List Block) (bs : List Byte), s.locked n.val ∧ (s.hears n.val bl).2 = [.frame bs] ∧ wynLen n.val bs
      = true ∧ octet bs 0 = 1 ∧ 28 ≤ bs.length ∧ fieldLe bs 20 4 ≠ (crc32c (bs.take 20)).toNat ∧ fcrcOk bs = true) ∧
    (∃ (s : State) (n : Fin 24) (bl : List Block) (bs : List Byte), s.locked n.val ∧ (s.hears n.val bl).2 = [.frame bs] ∧ wynLen n.val bs
      = true ∧ octet bs 0 = 1 ∧ 28 ≤ bs.length ∧ fieldLe bs 20 4 ≠ (crc32c (bs.take 20)).toNat ∧ fcrcOk bs = false) ∧
    (∃ (s : State) (n : Fin 24) (bl : List Block) (bs : List Byte), s.locked n.val ∧ (s.hears n.val bl).2 = [.frame bs] ∧ wynLen n.val bs
      = true ∧ octet bs 0 = 1 ∧ 28 ≤ bs.length ∧ fieldLe bs 20 4 = (crc32c (bs.take 20)).toNat ∧ s.pair.role ≠ .active ∧ bitOf (octet bs
      1) 4 = false ∧ s.pair.peerSerial ≠ 0 ∧ fieldLe bs 12 4 = s.pair.peerSerial % 2 ^ 32 ∧ s.frame.k % 65536 = fieldLe bs 18 2) ∧
    (∃ (s : State) (n : Fin 24) (bl : List Block) (bs : List Byte), s.locked n.val ∧ (s.hears n.val bl).2 = [.frame bs] ∧ wynLen n.val bs
      = true ∧ octet bs 0 = 1 ∧ 28 ≤ bs.length ∧ fieldLe bs 20 4 = (crc32c (bs.take 20)).toNat ∧ s.pair.role ≠ .active ∧ bitOf (octet bs
      1) 4 = false ∧ s.pair.peerSerial ≠ 0 ∧ fieldLe bs 12 4 = s.pair.peerSerial % 2 ^ 32 ∧ s.frame.k % 65536 = fieldLe bs 18 2) ∧
    (∃ (s : State) (n : Fin 24) (bl : List Block) (bs : List Byte), s.Intact n.val 0x02 bl bs ∧ bs.length = 76 ∧ s.pair.role = .joining) ∧
    (∃ (s : State) (n : Fin 24) (bl : List Block) (bs : List Byte), s.Intact n.val 0x02 bl bs ∧ bs.length = 76 ∧ s.pair.role ≠ .joining) ∧
    (∃ (s : State) (m : Fin 2) (b : Block), b.sync = 2 ∧ octet (blockOctets b) 0 = 0xAA ∧ octet (blockOctets b) 6 = 0x5A ∧ octet
      (blockOctets b) 7 = 0xA5 ∧ s.locked (24 + m.val)) ∧
    (∃ (x : Lane) (bs : List Byte), x.state = .locked ∧ x.rx = none ∧ x.window = 0 ∧ x.windowBad = 0 ∧ bs ≠ []) :=
  ⟨⟨lk (cas wRun 9 .active), 0, frameBlocks (wF 0x11 (wRec 5 ++ wSeg)), wF 0x11 (wRec 5 ++ wSeg), 5,
     { Cell.reset with state := .active, termId := 6, bypClosed := false }, by unfold State.locked; decide +kernel, by decide +kernel⟩,
   ⟨lk wRun, 23, frameBlocks (wF 0x11 (wRec 191 ++ wSeg)), wF 0x11 (wRec 191 ++ wSeg), 191, Cell.reset,
     by unfold State.locked; decide +kernel, by decide +kernel⟩,
   ⟨{ lk wRun with chain := { ChainSt.reset with cmds := [⟨0, 3, 9, 1⟩] } }, 0, frameBlocks (wF 0x12 ([1, 3, 9, 1] ++ le 2 0)), wF 0x12
     ([1, 3, 9, 1] ++ le 2 0), ⟨0, 3, 9, 1⟩, by unfold State.Intact State.locked; decide +kernel, by decide +kernel⟩,
   ⟨{ lk wRun with chain := { ChainSt.reset with cmds := [⟨0, 3, 9, 2⟩] } }, 0, frameBlocks (wF 0x12 ([2, 3, 9, 0] ++ le 2 0)), wF 0x12
     ([2, 3, 9, 0] ++ le 2 0), ⟨0, 3, 9, 2⟩, by unfold State.Intact State.locked; decide +kernel, by decide +kernel⟩,
   ⟨cfgd { lk (cas wRun 9 .idle) with chain := { ChainSt.reset with cmds := [⟨0, 3, 9, 1⟩] } } oChainLen 0 8, 0, frameBlocks (wF 0x12
     ([1, 3, 9, 0] ++ le 2 12 ++ le 8 77 ++ le 4 5)), wF 0x12 ([1, 3, 9, 0] ++ le 2 12 ++ le 8 77 ++ le 4 5), ⟨0, 3, 9, 1⟩, 3,
     by unfold State.Intact State.locked; decide +kernel, by decide +kernel⟩,
   ⟨{ lk wRun with chain := { ChainSt.reset with cmds := [⟨23, 7, 9, 3⟩] } }, 23, frameBlocks (wF 0x12 ([3, 7, 9, 0] ++ le 2 4 ++ le 4
     250)), wF 0x12 ([3, 7, 9, 0] ++ le 2 4 ++ le 4 250), ⟨23, 7, 9, 3⟩, Hop.reset, by unfold State.Intact State.locked; decide +kernel,
     by decide +kernel⟩,
   ⟨lk wStb, 23, frameBlocks (wF 1 (zeros 20)), wF 1 (zeros 20), by unfold State.locked; decide +kernel, by decide +kernel⟩,
   ⟨lk wStb, 23, frameBlocks ([1, 1] ++ le 2 28 ++ zeros 24), [1, 1] ++ le 2 28 ++ zeros 24, by unfold State.locked; decide +kernel,
     by decide +kernel⟩,
   ⟨pr (lk wStb) (fun p => { p with peerSerial := 0x500000007 }), 0, frameBlocks (wSch true), wSch true,
     by unfold State.locked; decide +kernel, by decide +kernel⟩,
   ⟨pr (lk wStb) (fun p => { p with peerSerial := 0x500000007 }), 0, frameBlocks (wSch false), wSch false,
     by unfold State.locked; decide +kernel, by decide +kernel⟩,
   ⟨pr (lk wRun) (fun p => { p with role := .joining }), 0, frameBlocks (wF 2 (le 8 4 ++ zeros 60)), wF 2 (le 8 4 ++ zeros 60),
     by unfold State.Intact State.locked; decide +kernel, by decide +kernel⟩,
   ⟨lk wStb, 0, frameBlocks (wF 2 (le 8 4 ++ zeros 60)), wF 2 (le 8 4 ++ zeros 60), by unfold State.Intact State.locked; decide +kernel,
     by decide +kernel⟩,
   ⟨lk wRun, 0, tripBlock 5 1 1000, by decide +kernel, by decide +kernel, by decide +kernel, by decide +kernel,
     by unfold State.locked; decide +kernel⟩,
   ⟨{ Lane.reset with state := .locked }, List.replicate 17 5, by decide +kernel⟩⟩

set_option maxRecDepth 20000 in
/-- Witnesses of the hypotheses of PeerFramesComplete. -/
theorem witness_PeerFramesComplete :
    (∃ (s : State) (m : Fin 2) (bl : List Block) (bs : List Byte) (f : Nat) (word : Nat), s.Intact (24 + m.val) 0x21 bl bs ∧ bs.length =
      32 ∧ s.pair.role = .active ∧ fieldLe bs 4 8 = f ∧ fieldLe bs 24 4 = word ∧ word % 16 = 1 ∧ bitOf word 11 = !s.pair.strapB ∧ (if
      m.val = 0 then f ∉ s.pair.lastP1 else f ∉ s.pair.lastP0)) ∧
    (∃ (s : State) (m : Fin 2) (bl : List Block) (bs : List Byte) (f : Nat) (word : Nat), s.Intact (24 + m.val) 0x21 bl bs ∧ bs.length =
      32 ∧ s.pair.role = .active ∧ fieldLe bs 4 8 = f ∧ fieldLe bs 24 4 = word ∧ word % 16 = 1 ∧ bitOf word 11 = !s.pair.strapB ∧ (if
      m.val = 0 then f ∉ s.pair.lastP1 else f ∉ s.pair.lastP0)) ∧
    (∃ (s : State) (m : Fin 2) (bl : List Block) (bs : List Byte), s.Intact (24 + m.val) 0x22 bl bs ∧ bs.length = 104 ∧ s.pair.role ≠
      .active ∧ (∀ a, s.pair.avail = some a → a.1 ≠ fieldLe bs 4 8) ∧ (Eff.start s).shadowDue = false) ∧
    (∃ (s : State) (m : Fin 2) (bl : List Block) (bs : List Byte) (n : Nat) (valid : List Nat), s.Intact (24 + m.val) 0x23 bl bs ∧
      bs.length = 80 ∧ s.pair.role = .active ∧ octet bs 4 = n ∧ n < 24 ∧ valid = (List.range 8).filter (bitOf (octet bs 5)) ∧ (∀ p < 8, p
      ∉ valid → fieldLe bs (16 + 8 * p) 4 = 0) ∧ s.frame.snapped = true) ∧
    (∃ (s : State) (m : Fin 2) (bl : List Block) (bs : List Byte) (n : Nat) (valid : List Nat), s.Intact (24 + m.val) 0x23 bl bs ∧
      bs.length = 80 ∧ s.pair.role = .active ∧ octet bs 4 = n ∧ n < 24 ∧ valid = (List.range 8).filter (bitOf (octet bs 5)) ∧ (∀ p < 8, p
      ∉ valid → fieldLe bs (16 + 8 * p) 4 = 0) ∧ s.frame.snapped = false ∧ fieldLe bs 8 4 = s.frame.k % 2 ^ 32 ∧ (∀ p < 8, (smGet
      Cell.reset s.cells (8 * n + p)).meas = none ∧ (smGet Cell.reset s.cells (8 * n + p)).batt = none)) ∧
    (∃ (s : State) (m : Fin 2) (bl : List Block) (bs : List Byte) (hd : List Byte) (f : List Byte), s.Intact (24 + m.val) 0x24 bl bs ∧ 36
      ≤ bs.length ∧ octet bs 4 < 24 ∧ (s.pair.role = .standby ∨ s.pair.role = .joining) ∧ s.locked (octet bs 4) ∧ hd = [0x01#8] ++ le 1
      (17 + (Eff.start s).devb) ++ le 2 (28 + (bs.length - 36)) ++ (bs.drop 12).take 16 ∧ f = hd ++ le 4 (crc32c hd).toNat ++ (bs.drop
      32).take (bs.length - 36)) ∧
    (∃ (s : State) (m : Fin 2) (bl : List Block) (out : List Byte) (bs : List Byte) (c : Nat) (x : Cell), s.locked (24 + m.val) ∧
      (s.hears (24 + m.val) bl).2 = [.frame out] ∧ wynLen (24 + m.val) out = true ∧ octet out 0 = 0x25 ∧ bs = (out.drop 8).take
      (out.length - 12) ∧ s.pair.role = .active ∧ measFrame bs = true ∧ fieldLe bs 2 2 = bs.length ∧ rcrcOk bs = true ∧ octet (measRec
      bs) 0 = c ∧ c < 192 ∧ fieldLe (measRec bs) 4 4 = s.frame.k % 2 ^ 32 ∧ s.frame.snapped = false ∧ smGet Cell.reset s.cells c = x ∧
      x.meas = none ∧ x.dig = none ∧ (x.state ≠ .absent ∨ fieldLe (measRec bs) 10 2 ≠ 0xFFFF) ∧ fieldLe (measRec bs) 84 2 = 0 ∧ fieldLe
      (measRec bs) 86 2 = 0 ∧ fieldLe (measRec bs) 88 2 = 0 ∧ (fieldLe (measRec bs) 8 2 = 0xFFFF ∨ newerThan (fieldLe (measRec bs) 8 2)
      s.pair.epoch = false)) ∧
    (∃ (s : State) (m : Fin 2) (bl : List Block) (bs : List Byte) (cells : List Nat), s.Intact (24 + m.val) 0x26 bl bs ∧ bs.length = 44 ∧
      s.pair.role = .active ∧ cells = (octetBits ((bs.drop 16).take 24)).filter (· < 192) ∧ octet bs 12 = 1) ∧
    (∃ (s : State) (m : Fin 2) (bl : List Block) (bs : List Byte) (cells : List Nat), s.Intact (24 + m.val) 0x26 bl bs ∧ bs.length = 44 ∧
      s.pair.role = .active ∧ cells = (octetBits ((bs.drop 16).take 24)).filter (· < 192) ∧ octet bs 12 = 2) ∧
    (∃ (s : State) (m : Fin 2) (bl : List Block) (bs : List Byte) (cells : List Nat), s.Intact (24 + m.val) 0x26 bl bs ∧ bs.length = 44 ∧
      s.pair.role = .active ∧ cells = (octetBits ((bs.drop 16).take 24)).filter (· < 192) ∧ octet bs 12 = 0 ∧ s.frame.snapK = fieldLe bs
      4 8) ∧
    (∃ (s : State) (m : Fin 2) (bl : List Block) (out : List Byte) (bs : List Byte) (c : Nat), s.Intact (24 + m.val) 0x27 bl out ∧ bs =
      (out.drop 8).take (out.length - 12) ∧ measFrame bs = true ∧ fieldLe bs 2 2 = bs.length ∧ (Eff.start s).shadowDue = true ∧ rcrcOk bs
      = true ∧ octet (measRec bs) 0 = c ∧ c < 192 ∧ fieldLe (measRec bs) 4 4 = s.frame.snapK % 2 ^ 32 ∧ smGet none s.frame.snapMeas c =
      none) :=
  ⟨⟨lk wRun, 0, frameBlocks (wF 0x21 (le 8 1000 ++ le 8 77 ++ zeros 4 ++ le 4 0x801)), wF 0x21 (le 8 1000 ++ le 8 77 ++ zeros 4 ++ le 4
     0x801), 1000, 0x801, by unfold State.Intact State.locked; decide +kernel, by decide +kernel⟩,
   ⟨pr (lk wRun) (fun p => { p with strapB := true, lastP1 := [1000], peerMiss := 1 }), 1, frameBlocks (wF 0x21 (le 8 1000 ++ le 8 77 ++
     zeros 4 ++ le 4 1)), wF 0x21 (le 8 1000 ++ le 8 77 ++ zeros 4 ++ le 4 1), 1000, 1,
     by unfold State.Intact State.locked; decide +kernel, by decide +kernel⟩,
   ⟨lk wStb, 1, frameBlocks (wF 0x22 (le 8 1000 ++ List.replicate 88 3)), wF 0x22 (le 8 1000 ++ List.replicate 88 3),
     by unfold State.Intact State.locked; decide +kernel, by decide +kernel, by decide +kernel, nofun, by decide +kernel⟩,
   ⟨fr (lk wRun) (fun f => { f with snapped := true }), 0, frameBlocks (wF 0x23 ([23, 0x81] ++ zeros 2 ++ le 4 1000 ++ List.replicate 8 3
     ++ zeros 48 ++ List.replicate 8 3)), wF 0x23 ([23, 0x81] ++ zeros 2 ++ le 4 1000 ++ List.replicate 8 3 ++ zeros 48 ++ List.replicate
     8 3), 23, [0, 7], by unfold State.Intact State.locked; decide +kernel, by decide +kernel⟩,
   ⟨lk wRun, 0, frameBlocks (wF 0x23 ([23, 0x81] ++ zeros 2 ++ le 4 1000 ++ List.replicate 8 3 ++ zeros 48 ++ List.replicate 8 3)), wF
     0x23 ([23, 0x81] ++ zeros 2 ++ le 4 1000 ++ List.replicate 8 3 ++ zeros 48 ++ List.replicate 8 3), 23, [0, 7],
     by unfold State.Intact State.locked; decide +kernel, by decide +kernel⟩,
   ⟨lk wStb, 0, frameBlocks (wF 0x24 ([23] ++ zeros 3 ++ List.replicate 28 3)), wF 0x24 ([23] ++ zeros 3 ++ List.replicate 28 3), wHd,
     wHd ++ le 4 (crc32c wHd).toNat ++ List.replicate 4 3, by unfold State.Intact State.locked; decide +kernel, by decide +kernel,
     by decide +kernel, by decide +kernel, by unfold State.locked; decide +kernel, by decide +kernel⟩,
   ⟨lk (cas wRun 9 .active), 1, frameBlocks (wF 0x25 (zeros 4 ++ wF 0x11 (wRec 5 ++ wSeg))), wF 0x25 (zeros 4 ++ wF 0x11 (wRec 5 ++
     wSeg)), wF 0x11 (wRec 5 ++ wSeg), 5, { Cell.reset with state := .active, termId := 6, bypClosed := false },
     by unfold State.locked; decide +kernel, by decide +kernel⟩,
   ⟨pr (lk wRun) (fun p => { p with peerStanding := [3] }), 1, frameBlocks (wF 0x26 (le 8 1000 ++ [1] ++ zeros 3 ++ [0x18] ++ zeros 22 ++
     [0x80])), wF 0x26 (le 8 1000 ++ [1] ++ zeros 3 ++ [0x18] ++ zeros 22 ++ [0x80]), [3, 4, 191],
     by unfold State.Intact State.locked; decide +kernel, by decide +kernel⟩,
   ⟨pr (lk wRun) (fun p => { p with peerStanding := [3, 5] }), 1, frameBlocks (wF 0x26 (le 8 1000 ++ [2] ++ zeros 3 ++ [0x18] ++ zeros 22
     ++ [0x80])), wF 0x26 (le 8 1000 ++ [2] ++ zeros 3 ++ [0x18] ++ zeros 22 ++ [0x80]), [3, 4, 191],
     by unfold State.Intact State.locked; decide +kernel, by decide +kernel⟩,
   ⟨fr (lk wRun) (fun f => { f with snapK := 1000, snapMeas := [(4, some ⟨wRec 4, false⟩)] }), 1, frameBlocks (wF 0x26 (le 8 1000 ++ [0]
     ++ zeros 3 ++ [0x18] ++ zeros 22 ++ [0x80])), wF 0x26 (le 8 1000 ++ [0] ++ zeros 3 ++ [0x18] ++ zeros 22 ++ [0x80]), [3, 4, 191],
     by unfold State.Intact State.locked; decide +kernel, by decide +kernel⟩,
   ⟨fr (lk wStb) (fun f => { f with snapK := 1000, snapped := true }), 1, frameBlocks (wF 0x27 (zeros 4 ++ wF 0x11 (wRec 5 ++ wSeg))), wF
     0x27 (zeros 4 ++ wF 0x11 (wRec 5 ++ wSeg)), wF 0x11 (wRec 5 ++ wSeg), 5, by unfold State.Intact State.locked; decide +kernel,
     by decide +kernel⟩⟩

set_option maxRecDepth 20000 in
/-- Witnesses of the hypotheses of ShadowFramesComplete. -/
theorem witness_ShadowFramesComplete :
    (∃ (s : State) (m : Fin 2) (bl : List Block) (bs : List Byte), s.Intact (24 + m.val) 0x28 bl bs ∧ bs.length = 96 ∧ s.pair.role =
      .standby ∧ s.pair.shadowDone ≠ fieldLe bs 4 8 + 1) ∧
    (∃ (s : State) (m : Fin 2) (bl : List Block) (bs : List Byte), s.Intact (24 + m.val) 0x28 bl bs ∧ bs.length = 96 ∧ s.pair.role =
      .standby ∧ s.pair.shadowDone = fieldLe bs 4 8 + 1 ∧ bitOf (octet bs 24) 0 = false ∧ s.pair.incomplete = false ∧ ((Eff.start
      s).digestsOf (fieldLe bs 4 8)).sched = fieldLe bs 12 4 ∧ ((Eff.start s).digestsOf (fieldLe bs 4 8)).point = fieldLe bs 16 4 ∧
      ((Eff.start s).digestsOf (fieldLe bs 4 8)).hub = fieldLe bs 20 4) ∧
    (∃ (s : State) (m : Fin 2) (bl : List Block) (bs : List Byte) (n : Nat), s.Intact (24 + m.val) 0x29 bl bs ∧ s.pair.role ≠ .active ∧
      fieldLe bs 14 2 = n ∧ 1 ≤ n ∧ n ≤ 100 ∧ bs.length = 24 + 12 * n ∧ fieldLe bs 16 4 = 0) ∧
    (∃ (s : State) (m : Fin 2) (bl : List Block) (bs : List Byte) (n : Nat), s.Intact (24 + m.val) 0x29 bl bs ∧ s.pair.role ≠ .active ∧
      fieldLe bs 14 2 = n ∧ 1 ≤ n ∧ n ≤ 100 ∧ bs.length = 24 + 12 * n ∧ fieldLe bs 16 4 = 0) ∧
    (∃ (s : State) (m : Fin 2) (bl : List Block) (bs : List Byte), s.Intact (24 + m.val) 0x2B bl bs ∧ s.pair.role = .joining ∧
      s.pair.joinStep = 4 ∧ s.pair.ckpt = none ∧ 28 ≤ bs.length ∧ s.pair.frFrame < fieldLe bs 4 8 ∧ bs.length - 28 < fieldLe bs 16 4) ∧
    (∃ (s : State), (Eff.start s).shadowDue = true ∧ (∃ k bs, s.pair.avail = some (k, bs) ∧ k = s.frame.snapK) ∧ s.pair.onceWait = []) ∧
    (∃ (s : State), (Eff.start s).shadowDue = true ∧ (∃ k bs, s.pair.avail = some (k, bs) ∧ k = s.frame.snapK) ∧ s.pair.onceWait = []) ∧
    (∃ (s : State), (Eff.start s).shadowDue = true ∧ s.frame.boundaryDue = true) ∧
    (∃ (s : State), (Eff.start s).shadowDue = false) ∧
    (∃ (s : State), s.pair.role = .standby ∧ s.pair.resync = true ∧ s.pair.image.isSome = true) :=
  ⟨⟨lk wStb, 0, frameBlocks (wF 0x28 (le 8 1000 ++ zeros 80)), wF 0x28 (le 8 1000 ++ zeros 80),
     by unfold State.Intact State.locked; decide +kernel, by decide +kernel⟩,
   ⟨pr (lk wStb) (fun p => { p with shadowDone := 1001, digests := [(1000, ⟨5, 6, 7⟩)] }), 0, frameBlocks (wF 0x28 (le 8 1000 ++ le 4 5
     ++ le 4 6 ++ le 4 7 ++ zeros 68)), wF 0x28 (le 8 1000 ++ le 4 5 ++ le 4 6 ++ le 4 7 ++ zeros 68),
     by unfold State.Intact State.locked; decide +kernel, by decide +kernel⟩,
   ⟨lk wStb, 0, frameBlocks (wF 0x29 (le 8 1000 ++ le 2 0xFFFF ++ le 2 2 ++ zeros 4 ++ le 4 0x104F ++ le 8 99 ++ le 4 0x1050 ++ le 8
     98)), wF 0x29 (le 8 1000 ++ le 2 0xFFFF ++ le 2 2 ++ zeros 4 ++ le 4 0x104F ++ le 8 99 ++ le 4 0x1050 ++ le 8 98), 2,
     by unfold State.Intact State.locked; decide +kernel, by decide +kernel⟩,
   ⟨fr (lk wStb) (fun f => { f with running := false }), 0, frameBlocks (wF 0x29 (le 8 1000 ++ le 2 3 ++ le 2 1 ++ zeros 4 ++ le 4 0x1000
     ++ le 8 99)), wF 0x29 (le 8 1000 ++ le 2 3 ++ le 2 1 ++ zeros 4 ++ le 4 0x1000 ++ le 8 99), 1,
     by unfold State.Intact State.locked; decide +kernel, by decide +kernel⟩,
   ⟨pr (lk wStb) (fun p => { p with role := .joining, joinStep := 4, frFrame := 999 }), 0, frameBlocks (wF 0x2B (le 8 1000 ++ le 4 0 ++
     le 4 5 ++ le 4 9 ++ [1, 2, 3, 4])), wF 0x2B (le 8 1000 ++ le 4 0 ++ le 4 5 ++ le 4 9 ++ [1, 2, 3, 4]),
     by unfold State.Intact State.locked; decide +kernel, by decide +kernel⟩,
   ⟨pr (fr (lk (cas wStb 9 .active)) fun f => { f with snapK := 1000, snapped := true }) fun p =>
     { p with avail := some (1000, zeros 64) }, by decide +kernel, ⟨1000, zeros 64, rfl, rfl⟩, by decide +kernel⟩,
   ⟨pr (fr (lk (cas wStb 9 .active)) fun f => { f with snapK := 999, boundaryDue := true }) fun p =>
     { p with avail := some (999, List.replicate 64 255) }, by decide +kernel, ⟨999, List.replicate 64 255, rfl, rfl⟩, by decide +kernel⟩,
   ⟨fr (lk (cas wStb 9 .active)) fun f => { f with snapK := 999, boundaryDue := true }, by decide +kernel⟩,
   ⟨lk wStb, by decide +kernel⟩,
   ⟨pr wStb fun p => { p with resync := true, image := some (900, []) }, by decide +kernel⟩⟩

set_option maxRecDepth 20000 in
/-- Witnesses of the hypotheses of ControlMessagesComplete. -/
theorem witness_ControlMessagesComplete :
    (∃ (s : State) (m : Fin 2) (bl : List Block) (bs : List Byte) (p : List Byte) (fr : Nat), s.Whole m 1 bl bs fr p ∧ s.pair.role =
      .joining ∧ s.pair.joinStep = 1 ∧ 1 ≤ octet p 0 ∧ octet p 0 < 15) ∧
    (∃ (s : State) (m : Fin 2) (bl : List Block) (bs : List Byte) (p : List Byte) (fr : Nat), s.Whole m 2 bl bs fr p ∧ s.pair.role =
      .standby ∧ octet p 0 ∈ [dLink, dSched, dLoop, dCasc, dAssay, dGate, dFault, dTime, dPair]) ∧
    (∃ (s : State) (m : Fin 2) (bl : List Block) (bs : List Byte) (p : List Byte) (fr : Nat), s.Whole m 3 bl bs fr p ∧ s.pair.role =
      .standby ∧ fieldLe p 0 3 ≠ selfReplay ∧ fieldLe p 0 3 ≠ oTimedCancel ∧ s.frame.k < fr) ∧
    (∃ (s : State) (m : Fin 2) (bl : List Block) (bs : List Byte) (p : List Byte) (fr : Nat) (x : CtrlMsg), s.Whole m 4 bl bs fr p ∧
      s.pair.outbox.find? (·.cseq == fieldLe p 0 4) = some x ∧ x.type ≠ 2 ∧ x.type ≠ 3) ∧
    (∃ (s : State) (m : Fin 2) (bl : List Block) (bs : List Byte) (p : List Byte) (fr : Nat) (x : CtrlMsg) (w : PendAct) (q : Req),
      s.Whole m 4 bl bs fr p ∧ s.pair.outbox.find? (·.cseq == fieldLe p 0 4) = some x ∧ x.type = 3 ∧ s.pair.waitActs.find? (·.cseq ==
      fieldLe p 0 4) = some w ∧ w.ret = .req q ∧ w.obj ≠ oTimedAction) ∧
    (∃ (s : State) (m : Fin 2) (bl : List Block) (bs : List Byte) (p : List Byte) (fr : Nat) (x : CtrlMsg) (d : Nat) (pc : PendCommit) (q
      : Req), s.Whole m 4 bl bs fr p ∧ s.pair.outbox.find? (·.cseq == fieldLe p 0 4) = some x ∧ x.type = 2 ∧ octet x.payload 0 = d ∧ d ∈
      [dLink, dSched, dLoop, dCasc, dAssay, dGate, dFault, dTime, dPair] ∧ (smGet Domain.reset s.doms d).pend = some pc ∧ pc.waitPeer =
      true ∧ pc.answer = .req q) ∧
    (∃ (s : State) (m : Fin 2) (bl : List Block) (bs : List Byte) (p : List Byte) (fr : Nat) (u : Nat), s.Whole m 5 bl bs fr p ∧ octet p
      0 = u ∧ (∃ a, s.gate.lastToggle = some a ∧ untime96 (p.drop 2) < a)) ∧
    (∃ (s : State) (m : Fin 2) (bl : List Block) (bs : List Byte) (p : List Byte) (fr : Nat) (u : Nat) (x : Leg), s.Whole m 5 bl bs fr p
      ∧ octet p 0 = u ∧ u < 12 ∧ bitOf (octet p 1) 3 = false ∧ smGet Leg.reset s.gate.legs u = x ∧ (bitOf (octet p 1) 0 = true ∨ bitOf
      (octet p 1) 1 = true) ∧ (∀ a, s.gate.lastToggle = some a → a ≤ untime96 (p.drop 2)) ∧ (∀ b < 2, s.Quiet kGateTrip (0x8000 + 2 * u +
      b) ∧ s.Quiet kGateUvlo (0x8000 + 2 * u + b))) ∧
    (∃ (s : State) (m : Fin 2) (bl : List Block) (bs : List Byte) (p : List Byte) (fr : Nat) (u : Nat), s.Whole m 5 bl bs fr p ∧ octet p
      0 = u ∧ u = 0xFF ∧ (∀ a, s.gate.lastToggle = some a → a ≤ untime96 (p.drop 2)) ∧ s.Quiet kGateEscalate 0xFFFF) ∧
    (∃ (s : State) (m : Fin 2) (bl : List Block) (bs : List Byte) (p : List Byte) (fr : Nat) (n : Nat), s.Whole m 6 bl bs fr p ∧
      s.pair.role ≠ .active ∧ p.length = 208 ∧ octet p 5 = n ∧ n < 192 ∧ (smGet MPort.reset s.meter.ports n).recs.length < 96) ∧
    (∃ (s : State) (m : Fin 2) (bl : List Block) (bs : List Byte) (p : List Byte) (fr : Nat), s.Whole m 7 bl bs fr p ∧ s.pair.replay =
      true ∧ fieldLe p 0 8 = s.pair.kd ∧ s.pair.ownPass = none) ∧
    (∃ (s : State) (m : Fin 2) (bl : List Block) (bs : List Byte) (p : List Byte) (fr : Nat), s.Whole m 8 bl bs fr p ∧ s.pair.role =
      .standby) ∧
    (∃ (s : State) (m : Fin 2) (bl : List Block) (bs : List Byte) (p : List Byte) (fr : Nat), s.Whole m 9 bl bs fr p ∧ s.pair.role =
      .active) ∧
    (∃ (s : State) (m : Fin 2) (bl : List Block) (bs : List Byte) (p : List Byte) (fr : Nat), s.Whole m 0x0A bl bs fr p) :=
  ⟨⟨pr (lk wStb) (fun p => { p with role := .joining, joinStep := 1, joinConfig := [3] }), 0, frameBlocks (wC 1 0 ([14] ++ zeros 3 ++
     imageOctets [(key oLegEn 3, 1)])), wC 1 0 ([14] ++ zeros 3 ++ imageOctets [(key oLegEn 3, 1)]), [14] ++ zeros 3 ++ imageOctets [(key
     oLegEn 3, 1)], 0, by unfold State.Whole State.Intact State.locked; decide +kernel, by decide +kernel⟩,
   ⟨lk wStb, 1, frameBlocks (wC 2 0 ([1] ++ zeros 3 ++ le 8 1002 ++ imageOctets [(key oLaneMode 3, 1)])), wC 2 0 ([1] ++ zeros 3 ++ le 8
     1002 ++ imageOctets [(key oLaneMode 3, 1)]), [1] ++ zeros 3 ++ le 8 1002 ++ imageOctets [(key oLaneMode 3, 1)], 0,
     by unfold State.Whole State.Intact State.locked; decide +kernel, by decide +kernel⟩,
   ⟨lk wStb, 1, frameBlocks (wC 3 1001 (le 3 oDispEmerg ++ [0] ++ le 2 1 ++ [1])), wC 3 1001 (le 3 oDispEmerg ++ [0] ++ le 2 1 ++ [1]),
     le 3 oDispEmerg ++ [0] ++ le 2 1 ++ [1], 1001, by unfold State.Whole State.Intact State.locked; decide +kernel, by decide +kernel⟩,
   ⟨pr (lk wRun) (fun p => { p with outbox := [⟨6, 9, 0, [], 999, false⟩, ⟨5, 8, 0, [], 999, false⟩] }), 1, frameBlocks (wC 4 0 (le 4
     9)), wC 4 0 (le 4 9), le 4 9, 0, ⟨6, 9, 0, [], 999, false⟩, by unfold State.Whole State.Intact State.locked; decide +kernel,
     by decide +kernel⟩,
   ⟨pr (lk wRun) (fun p =>
     { p with outbox := [⟨3, 9, 0, [], 999, false⟩], waitActs := [⟨oSocSet, [1, 0, 0], 9, 1002, true, .req (wA oSocSet [1, 0, 0])⟩] }),
     1, frameBlocks (wC 4 0 (le 4 9)), wC 4 0 (le 4 9), le 4 9, 0, ⟨3, 9, 0, [], 999, false⟩, ⟨oSocSet, [1, 0, 0], 9, 1002, true, .req
     (wA oSocSet [1, 0, 0])⟩, wA oSocSet [1, 0, 0], by unfold State.Whole State.Intact State.locked; decide +kernel, by decide +kernel,
     by decide +kernel, rfl, rfl, by decide +kernel⟩,

     ⟨{ (pr (lk wRun) fun p => { p with outbox := [⟨2, 9, 0, [1], 999, false⟩] }) with doms := [(1, { Domain.reset with pend := some ⟨[(key oLaneMode 3, 1)], .req (wA oCommit [1]), true, 999, 1002, 0⟩ })] },
     1, frameBlocks (wC 4 0 (le 4 9)), wC 4 0 (le 4 9), le 4 9, 0, ⟨2, 9, 0, [1], 999, false⟩, 1, ⟨[(key oLaneMode 3, 1)], .req (wA
     oCommit [1]), true, 999, 1002, 0⟩, wA oCommit [1], by unfold State.Whole State.Intact State.locked; decide +kernel,
     by decide +kernel, by decide +kernel, by decide +kernel, by decide +kernel, rfl, by decide +kernel, rfl⟩,
   ⟨lk { wRun with gate := { GateSt.reset with lastToggle := some 65537 } }, 1, frameBlocks (wC 5 0 ([11, 1] ++ time96 65536)), wC 5 0
     ([11, 1] ++ time96 65536), [11, 1] ++ time96 65536, 0, 11, by unfold State.Whole State.Intact State.locked; decide +kernel,
     by decide +kernel, ⟨65537, rfl, by decide +kernel⟩⟩,
   ⟨quiet (quiet (lk { wRun with gate := { GateSt.reset with lastToggle := some 65536 } }) kGateTrip 0x8016) kGateUvlo 0x8016, 1,
     frameBlocks (wC 5 0 ([11, 3] ++ time96 65536)), wC 5 0 ([11, 3] ++ time96 65536), [11, 3] ++ time96 65536, 0, 11, Leg.reset,
     by unfold State.Whole State.Intact State.locked; decide +kernel, by decide +kernel, by decide +kernel, by decide +kernel,
     by decide +kernel, by decide +kernel, by intro a h; cases h; decide +kernel, by unfold State.Quiet; decide +kernel⟩,
   ⟨quiet (lk wRun) kGateEscalate 0xFFFF, 1, frameBlocks (wC 5 0 ([255, 1] ++ time96 65536)), wC 5 0 ([255, 1] ++ time96 65536), [255, 1]
     ++ time96 65536, 0, 255, by unfold State.Whole State.Intact State.locked; decide +kernel, by decide +kernel, by decide +kernel,
     nofun, by unfold State.Quiet; decide +kernel⟩,
   ⟨lk { wStb with meter := { MeterSt.reset with closes := [⟨191, 7, 1, 0, []⟩, ⟨191, 8, 1, 0, []⟩] } }, 1, frameBlocks (wC 6 0
     (wMeter)), wC 6 0 (wMeter), wMeter, 0, 191, by unfold State.Whole State.Intact State.locked; decide +kernel, by decide +kernel⟩,
   ⟨pr (lk wRun) (fun p => { p with replay := true, kd := 990 }), 1, frameBlocks (wC 7 0 (le 8 990 ++ [0])), wC 7 0 (le 8 990 ++ [0]), le
     8 990 ++ [0], 0, by unfold State.Whole State.Intact State.locked; decide +kernel, by decide +kernel⟩,
   ⟨lk wStb, 1, frameBlocks (wC 8 1003 ([])), wC 8 1003 ([]), [], 1003, by unfold State.Whole State.Intact State.locked; decide +kernel,
     by decide +kernel⟩,
   ⟨lk wRun, 1, frameBlocks (wC 9 0 (le 8 990)), wC 9 0 (le 8 990), le 8 990, 0,
     by unfold State.Whole State.Intact State.locked; decide +kernel, by decide +kernel⟩,
   ⟨lk wRun, 1, frameBlocks (wC 10 0 ([])), wC 10 0 ([]), [], 0, by unfold State.Whole State.Intact State.locked; decide +kernel⟩⟩

/-- Witnesses of the hypotheses of PairTimersComplete. -/
theorem witness_PairTimersComplete :
    (∃ (s : State), s.pair.role = .active ∧ s.pair.standby = true ∧ 2 ≤ s.pair.peerMiss ∧ (∀ d < 15, (smGet Domain.reset s.doms
      d).pend.any (·.waitPeer) = false) ∧ s.pair.waitActs = []) ∧
    (∃ (s : State) (w : PendAct) (q : Req), s.pair.role = .active ∧ s.pair.standby = true ∧ 2 ≤ s.pair.peerMiss ∧ (∀ d < 15, (smGet
      Domain.reset s.doms d).pend.any (·.waitPeer) = false) ∧ s.pair.waitActs = [w] ∧ w.obj ≠ oTimedAction ∧ w.ret = .req q) ∧
    (∃ (ns : Nat), ns < 1000) ∧
    (∃ (s : State) (ns : Nat), 1000 ≤ ns ∧ s.pair.role = .active ∧ s.pair.claim = false ∧ s.pair.newerSeen = false ∧ s.dev.state ≠ .off ∧
      s.dev.state ≠ .boot) ∧
    (∃ (s : State) (ns : Nat), 1000 ≤ ns ∧ s.pair.role = .standby ∧ s.pair.peerSerial ≠ 0 ∧ s.pair.peerWord % 16 = 0 ∧ s.dev.state ≠ .off
      ∧ s.dev.state ≠ .boot ∧ (Eff.start s).shadowDue = false) ∧
    (∃ (s : State), s.pair.claim = true ∧ 2 * s.pair.refreshAt + 3 * s.cv oFramePeriod 0 ≤ 2 * s.time.up) ∧
    (∃ (s : State), (s.pair.claim = false ∨ 2 * s.time.up < 2 * s.pair.refreshAt + 3 * s.cv oFramePeriod 0)) ∧
    (∃ (s : State), (s.pair.claim = false ∨ 2 * s.time.up < 2 * s.pair.refreshAt + 3 * s.cv oFramePeriod 0)) ∧
    (∃ (s : State), s.pair.role = .joining ∧ s.pair.roleOk = true ∧ max s.pair.peerAt s.pair.joinAt + 2000000000 ≤ s.time.up) ∧
    (∃ (s : State), s.pair.replay = true ∧ s.pair.ownPass = none ∧ s.pair.peerPass = none ∧ s.pair.role = .active ∧ s.pair.replayAt +
      1000000000 ≤ s.time.up ∧ s.Quiet kDivergence 3) ∧
    (∃ (s : State) (step : Nat) (ms : Nat), (step, ms) ∈ [(1, 100), (2, 50), (3, 100), (4, 60)] ∧ s.pair.role = .joining ∧
      s.pair.joinStep = step ∧ s.time.up ≤ s.pair.joinAt + ms * 1000000) ∧
    (∃ (s : State) (step : Nat) (ms : Nat), (step, ms) ∈ [(1, 100), (2, 50), (3, 100), (4, 60)] ∧ s.pair.role = .joining ∧
      s.pair.joinStep = step ∧ s.time.up ≤ s.pair.joinAt + ms * 1000000) ∧
    (∃ (s : State) (step : Nat) (ms : Nat), (step, ms) ∈ [(1, 100), (2, 50), (3, 100), (4, 60)] ∧ s.pair.role = .joining ∧
      s.pair.joinStep = step ∧ s.pair.joinAt + ms * 1000000 < s.time.up ∧ s.pair.joinAttempts < 2) ∧
    (∃ (s : State) (step : Nat) (ms : Nat), (step, ms) ∈ [(1, 100), (2, 50), (3, 100), (4, 60)] ∧ s.pair.role = .joining ∧
      s.pair.joinStep = step ∧ s.pair.joinAt + ms * 1000000 < s.time.up ∧ 2 ≤ s.pair.joinAttempts) :=
  ⟨⟨pr wRun fun p => { p with standby := true, peerMiss := 2, outbox := [⟨6, 9, 0, [], 999, false⟩], peerStanding := [4] },
     by decide +kernel⟩,
   ⟨pr wRun fun p =>
     { p with standby := true, peerMiss := 2, waitActs := [⟨oSocSet, [1, 0, 0], 9, 1002, true, .req (wA oSocSet [1, 0, 0])⟩] }, ⟨oSocSet,
     [1, 0, 0], 9, 1002, true, .req (wA oSocSet [1, 0, 0])⟩, wA oSocSet [1, 0, 0], by decide +kernel, by decide +kernel,
     by decide +kernel, by decide +kernel, rfl, by decide +kernel, rfl⟩,
   ⟨999, by decide +kernel⟩,
   ⟨lk wRun, 1000, by decide +kernel⟩,
   ⟨pr (lk (cas wStb 9 .active)) fun p => { p with peerSerial := 77, peerWord := 0x800 }, 1000, by decide +kernel⟩,
   ⟨pr { wRun with gate := { GateSt.reset with hiZ := false, gates := [(5, { Gate.reset with st := .on, cmd := true })] } } fun p =>
     { p with claim := true, refreshAt := 100000000000 - 1000000 }, by decide +kernel⟩,
   ⟨wRun, by decide +kernel⟩,
   ⟨pr wRun fun p => { p with claim := true, refreshAt := 100000000000 }, by decide +kernel⟩,
   ⟨pr wRun fun p => { p with role := .joining, peerAt := 98000000000, joinAt := 97000000000, joinStep := 1 }, by decide +kernel⟩,
   ⟨quiet (pr wRun fun p => { p with replay := true, replayAt := 99000000000 }) kDivergence 3, by decide +kernel, by decide +kernel,
     by decide +kernel, by decide +kernel, by decide +kernel, by unfold State.Quiet; decide +kernel⟩,
   ⟨pr wRun fun p => { p with role := .joining, joinStep := 1, joinAt := 99900000000 }, 1, 100, by decide +kernel⟩,
   ⟨pr wRun fun p => { p with role := .joining, joinStep := 4, joinAt := 99940000000 }, 4, 60, by decide +kernel⟩,
   ⟨pr wRun fun p => { p with role := .joining, joinStep := 2, joinAt := 99949999999, joinAttempts := 1 }, 2, 50, by decide +kernel⟩,
   ⟨pr (lk wRun) fun p => { p with role := .joining, joinStep := 3, joinAt := 99899999999, joinAttempts := 2 }, 3, 100,
     by decide +kernel⟩⟩

/-- Witnesses of the hypotheses of PairActionsComplete. -/
theorem witness_PairActionsComplete :
    (∃ (s : State) (q : Req) (lvl : Nat) (sid : Nat) (m : Nat), s.Invoked q oPairHandover [] 2 false lvl sid ∧ s.pair.role = .active ∧
      s.pair.standby = true ∧ s.pair.peerWord % 16 = 1 ∧ s.pair.handoverAt = none ∧ m = s.frame.k + (if s.time.clock = s.frame.tk then 2
      else 3)) ∧
    (∃ (s : State) (q : Req) (lvl : Nat) (sid : Nat) (m : Nat), s.Invoked q oPairHandover [] 2 false lvl sid ∧ s.pair.role = .active ∧
      s.pair.standby = true ∧ s.pair.peerWord % 16 = 1 ∧ s.pair.handoverAt = none ∧ m = s.frame.k + (if s.time.clock = s.frame.tk then 2
      else 3)) ∧
    (∃ (s : State) (q : Req) (lvl : Nat) (sid : Nat), s.Invoked q oPairHandover [] 2 false lvl sid ∧ (s.pair.role ≠ .active ∨
      s.pair.standby = false ∨ s.pair.peerWord % 16 ≠ 1 ∨ s.pair.handoverAt ≠ none)) ∧
    (∃ (s : State) (q : Req) (lvl : Nat) (sid : Nat), s.Invoked q oPairHandover [] 2 false lvl sid ∧ (s.pair.role ≠ .active ∨
      s.pair.standby = false ∨ s.pair.peerWord % 16 ≠ 1 ∨ s.pair.handoverAt ≠ none)) ∧
    (∃ (s : State) (q : Req) (lvl : Nat) (sid : Nat), s.Invoked q oPairRejoin [] 2 false lvl sid ∧ s.pair.role = .retired ∧ s.pair.barred
      = false ∧ s.dev.state ≠ .off ∧ s.dev.state ≠ .boot) ∧
    (∃ (s : State) (q : Req) (lvl : Nat) (sid : Nat), s.Invoked q oPairRejoin [] 2 false lvl sid ∧ (s.pair.role ≠ .retired ∨
      s.pair.barred = true)) ∧
    (∃ (s : State) (q : Req) (lvl : Nat) (sid : Nat), s.Invoked q oPairRejoin [] 2 false lvl sid ∧ (s.pair.role ≠ .retired ∨
      s.pair.barred = true)) ∧
    (∃ (s : State), s.pair.replay = true ∧ s.pair.ownPass = none ∧ s.pair.peerPass = none) ∧
    (∃ (s : State), s.pair.role = .joining ∧ s.pair.joinStep = 5 ∧ s.pair.joinAttempts < 2) :=
  ⟨⟨pr wRun fun p => { p with standby := true, peerWord := 1 }, wA oPairHandover [], 3, 7, 1003, wInvoked _ _ _ _ _ (by decide +kernel)
     rfl (by decide +kernel) (by decide +kernel) (by decide +kernel) (by decide +kernel), by decide +kernel⟩,
   ⟨tm (pr wRun fun p => { p with standby := true, peerWord := 1 }) fun t => { t with clock := 100000000000 * nsq }, wA oPairHandover [],
     3, 7, 1002, wInvoked _ _ _ _ _ (by decide +kernel) rfl (by decide +kernel) (by decide +kernel) (by decide +kernel)
     (by decide +kernel), by decide +kernel⟩,
   ⟨wStb, wA oPairHandover [], 3, 7, wInvoked _ _ _ _ _ (by decide +kernel) rfl (by decide +kernel) (by decide +kernel)
     (by decide +kernel) (by decide +kernel), by decide +kernel⟩,
   ⟨pr wRun fun p => { p with standby := true, peerWord := 1, handoverAt := some 1001 }, wA oPairHandover [], 3, 7, wInvoked _ _ _ _ _
     (by decide +kernel) rfl (by decide +kernel) (by decide +kernel) (by decide +kernel) (by decide +kernel), by decide +kernel⟩,
   ⟨wS .safe .retired, wA oPairRejoin [], 3, 7, wInvoked _ _ _ _ _ (by decide +kernel) rfl (by decide +kernel) (by decide +kernel)
     (by decide +kernel) (by decide +kernel), by decide +kernel⟩,
   ⟨wStb, wA oPairRejoin [], 3, 7, wInvoked _ _ _ _ _ (by decide +kernel) rfl (by decide +kernel) (by decide +kernel) (by decide +kernel)
     (by decide +kernel), by decide +kernel⟩,
   ⟨pr (wS .safe .retired) (fun p => { p with barred := true }), wA oPairRejoin [], 3, 7, wInvoked _ _ _ _ _ (by decide +kernel) rfl
     (by decide +kernel) (by decide +kernel) (by decide +kernel) (by decide +kernel), by decide +kernel⟩,
   ⟨pr wRun fun p => { p with replay := true }, by decide +kernel⟩,
   ⟨pr wRun fun p => { p with role := .joining, joinStep := 5, joinAttempts := 1 }, by decide +kernel⟩⟩

/-- Witnesses of the hypotheses of HubReloadsComplete. -/
theorem witness_HubReloadsComplete :
    (∃ (s : State) (leg : Fin 12) (l : HubLeg) (two : Bool) (bad : Bool) (per : Nat) (c0 : Nat × Bool) (c1 : Nat × Bool), s.hub.running =
      true ∧ s.hub.stopReq = false ∧ (smGet Domain.reset s.doms 3).pend = none ∧ (∀ k < 24, (smGet Gate.reset s.gate.gates k).early =
      false ∧ (smGet Gate.reset s.gate.gates k).earlyDue = false) ∧ smGet HubLeg.reset s.hub.legs leg.val = l ∧ l.safeHeld = false ∧
      (smGet Leg.reset s.gate.legs leg.val).mon = true ∧ s.cv oLegEn leg.val ≠ 0 ∧ s.cv oSrc (2 * leg.val) = 0x80000000 ∧ s.cv oSrc (2 *
      leg.val + 1) = 0x80000000 ∧ s.Quiet kSchedRefused leg.val ∧ per = s.cv oPer leg.val ∧ two = bitOf (s.cv oLegMode leg.val) 1 ∧ c0 =
      compareOf (bitOf (s.cv oLegMode leg.val) 2) per (s.cv oCmp (2 * leg.val)) ∧ c1 = (if two = true then compareOf (bitOf (s.cv
      oLegMode leg.val) 2) per (s.cv oCmp (2 * leg.val + 1)) else (0, false)) ∧ bad = (two && c0.1 != 0 && c1.1 != 0 && decide (per <
      c0.1 + c1.1 + 2 * s.cv oDt leg.val))) ∧
    (∃ (s : State) (leg : Fin 12) (l : HubLeg) (two : Bool) (bad : Bool) (per : Nat) (c0 : Nat × Bool) (c1 : Nat × Bool), s.hub.running =
      true ∧ s.hub.stopReq = false ∧ (smGet Domain.reset s.doms 3).pend = none ∧ (∀ k < 24, (smGet Gate.reset s.gate.gates k).early =
      false ∧ (smGet Gate.reset s.gate.gates k).earlyDue = false) ∧ smGet HubLeg.reset s.hub.legs leg.val = l ∧ l.safeHeld = false ∧
      (smGet Leg.reset s.gate.legs leg.val).mon = true ∧ s.cv oLegEn leg.val ≠ 0 ∧ s.cv oSrc (2 * leg.val) = 0x80000000 ∧ s.cv oSrc (2 *
      leg.val + 1) = 0x80000000 ∧ s.Quiet kSchedRefused leg.val ∧ per = s.cv oPer leg.val ∧ two = bitOf (s.cv oLegMode leg.val) 1 ∧ c0 =
      compareOf (bitOf (s.cv oLegMode leg.val) 2) per (s.cv oCmp (2 * leg.val)) ∧ c1 = (if two = true then compareOf (bitOf (s.cv
      oLegMode leg.val) 2) per (s.cv oCmp (2 * leg.val + 1)) else (0, false)) ∧ bad = (two && c0.1 != 0 && c1.1 != 0 && decide (per <
      c0.1 + c1.1 + 2 * s.cv oDt leg.val))) ∧
    (∃ (s : State) (leg : Fin 12) (l : HubLeg), s.hub.running = true ∧ s.hub.stopReq = false ∧ (smGet Domain.reset s.doms 3).pend = none
      ∧ (∀ k < 24, (smGet Gate.reset s.gate.gates k).early = false ∧ (smGet Gate.reset s.gate.gates k).earlyDue = false) ∧ smGet
      HubLeg.reset s.hub.legs leg.val = l ∧ l.safeHeld = false ∧ (smGet Leg.reset s.gate.legs leg.val).mon = false ∧ s.cv oLegEn leg.val
      = 0) ∧
    (∃ (s : State) (leg : Fin 12), s.hub.running = true ∧ s.hub.stopReq = true ∧ (smGet HubLeg.reset s.hub.legs leg.val).safeHeld = false
      ∧ (smGet Domain.reset s.doms 3).pend = none ∧ (∀ k < 24, (smGet Gate.reset s.gate.gates k).early = false ∧ (smGet Gate.reset
      s.gate.gates k).earlyDue = false)) ∧
    (∃ (s : State) (leg : Fin 12), (s.hub.running = false ∨ (smGet HubLeg.reset s.hub.legs leg.val).safeHeld = true)) ∧
    (∃ (s : State) (leg : Fin 12), (s.hub.running = false ∨ (smGet HubLeg.reset s.hub.legs leg.val).safeHeld = true)) ∧
    (∃ (s : State) (leg : Fin 12) (l : HubLeg) (a : Int) (at1 : Int) (w : Nat) (c : Nat × Bool), s.hub.running = true ∧ (smGet
      Domain.reset s.doms 3).pend = none ∧ (∀ k < 24, (smGet Gate.reset s.gate.gates k).early = false ∧ (smGet Gate.reset s.gate.gates
      k).earlyDue = false) ∧ smGet HubLeg.reset s.hub.legs leg.val = l ∧ l.begun = true ∧ l.safeHeld = false ∧ s.cv oLegEn leg.val ≠ 0 ∧
      bitOf (s.cv oLegMode leg.val) 3 = true ∧ bitOf (s.cv oLegMode leg.val) 1 = false ∧ s.cv oSrc (2 * leg.val) ≠ 0x80000000 ∧ l.lane0 =
      [(a, w)] ∧ at1 = l.startAt + ((s.cv oPer leg.val / 2 : Nat) : Int) * qE ∧ a + 28 * nsq ≤ at1 ∧ c = compareOf (bitOf (s.cv oLegMode
      leg.val) 2) (s.cv oPer leg.val) w) ∧
    (∃ (s : State) (leg : Fin 12) (l : HubLeg) (a : Int) (at1 : Int) (w : Nat) (c : Nat × Bool), s.hub.running = true ∧ (smGet
      Domain.reset s.doms 3).pend = none ∧ (∀ k < 24, (smGet Gate.reset s.gate.gates k).early = false ∧ (smGet Gate.reset s.gate.gates
      k).earlyDue = false) ∧ smGet HubLeg.reset s.hub.legs leg.val = l ∧ l.begun = true ∧ l.safeHeld = false ∧ s.cv oLegEn leg.val ≠ 0 ∧
      bitOf (s.cv oLegMode leg.val) 3 = true ∧ bitOf (s.cv oLegMode leg.val) 1 = false ∧ s.cv oSrc (2 * leg.val) ≠ 0x80000000 ∧ l.lane0 =
      [(a, w)] ∧ at1 = l.startAt + ((s.cv oPer leg.val / 2 : Nat) : Int) * qE ∧ at1 < a + 28 * nsq ∧ s.hub.lateAt ≠ some at1 ∧ s.Quiet
      kFastOverrun 0 ∧ c = compareOf (bitOf (s.cv oLegMode leg.val) 2) (s.cv oPer leg.val) l.word0) ∧
    (∃ (s : State) (leg : Fin 12), (smGet Domain.reset s.doms 3).pend = none ∧ (s.hub.running = false ∨ (smGet HubLeg.reset s.hub.legs
      leg.val).begun = false ∨ s.cv oLegEn leg.val = 0 ∨ bitOf (s.cv oLegMode leg.val) 3 = false ∨ (smGet HubLeg.reset s.hub.legs
      leg.val).safeHeld = true)) ∧
    (∃ (s : State) (leg : Fin 12), (smGet Domain.reset s.doms 3).pend = none ∧ (s.hub.running = false ∨ (smGet HubLeg.reset s.hub.legs
      leg.val).begun = false ∨ s.cv oLegEn leg.val = 0 ∨ bitOf (s.cv oLegMode leg.val) 3 = false ∨ (smGet HubLeg.reset s.hub.legs
      leg.val).safeHeld = true)) :=
  ⟨⟨cfgd (cfgd (cfgd (cfgd (quiet
     { wHub with hub := { wHub.hub with legs := [(3, { HubLeg.reset with begun := true, startAt := 5, period := 8 })] } } kSchedRefused
     3) oLegMode 3 6) oCmp 6 9000) oCmp 7 20000) oPer 3 20000, 3, { HubLeg.reset with begun := true, startAt := 5, period := 8 }, true,
     true, 20000, compareOf true 20000 9000, compareOf true 20000 20000, by decide +kernel, by decide +kernel, by decide +kernel,
     by decide +kernel, by decide +kernel, by decide +kernel, by decide +kernel, by decide +kernel, by decide +kernel, by decide +kernel,
     by unfold State.Quiet; decide +kernel, by decide +kernel⟩,
   ⟨cfgd (quiet wHub kSchedRefused 3) oPer 3 20000, 3, HubLeg.reset, false, false, 20000, compareOf false 20000 0, (0, false),
     by decide +kernel, by decide +kernel, by decide +kernel, by decide +kernel, by decide +kernel, by decide +kernel, by decide +kernel,
     by decide +kernel, by decide +kernel, by decide +kernel, by unfold State.Quiet; decide +kernel, by decide +kernel⟩,
   ⟨wHub, 5, HubLeg.reset, by decide +kernel⟩,
   ⟨{ wHub with hub := { wHub.hub with stopReq := true, legs := [(3, { HubLeg.reset with begun := true })] } }, 3, by decide +kernel⟩,
   ⟨wRun, 3, by decide +kernel⟩,
   ⟨{ wHub with hub := { wHub.hub with legs := [(3, { HubLeg.reset with safeHeld := true })] } }, 3, by decide +kernel⟩,
   ⟨cfgd (cfgd (cfgd
     { wHub with hub := { wHub.hub with legs := [(3, { HubLeg.reset with begun := true, startAt := 99000000000 * nsq, lane0 := [((99000000000 * nsq + 10000 * qE - 28 * nsq), 0x80000000)] })] } }
     oLegMode 3 8) oSrc 6 0x2000) oPer 3 20000, 3,
     { HubLeg.reset with begun := true, startAt := 99000000000 * nsq, lane0 := [((99000000000 * nsq + 10000 * qE - 28 * nsq), 0x80000000)] },
     (99000000000 * nsq + 10000 * qE - 28 * nsq), 99000000000 * nsq + 10000 * qE, 0x80000000, compareOf false 20000 2147483648,
     by decide +kernel⟩,
   ⟨quiet (cfgd (cfgd (cfgd
     { wHub with hub := { wHub.hub with legs := [(3, { HubLeg.reset with begun := true, startAt := 99000000000 * nsq, word0 := 0xFFFFFFFF, lane0 := [((99000000000 * nsq + 10000 * qE - 28 * nsq + 1), 0x80000000)] })] } }
     oLegMode 3 8) oSrc 6 0x2000) oPer 3 20000) kFastOverrun 0, 3,
     { HubLeg.reset with begun := true, startAt := 99000000000 * nsq, word0 := 0xFFFFFFFF, lane0 := [((99000000000 * nsq + 10000 * qE - 28 * nsq + 1), 0x80000000)] },
     (99000000000 * nsq + 10000 * qE - 28 * nsq + 1), 99000000000 * nsq + 10000 * qE, 0x80000000, compareOf false 20000 0xFFFFFFFF,
     by decide +kernel, by decide +kernel, by decide +kernel, by decide +kernel, by decide +kernel, by decide +kernel, by decide +kernel,
     by decide +kernel, by decide +kernel, by decide +kernel, by decide +kernel, by decide +kernel, by decide +kernel, by decide +kernel,
     by unfold State.Quiet; decide +kernel, by decide +kernel⟩,
   ⟨wHub, 3, by decide +kernel⟩,
   ⟨wRun, 3, by decide +kernel⟩⟩

/-- Witnesses of the hypotheses of HubEventsComplete. -/
theorem witness_HubEventsComplete :
    (∃ (s : State), s.hub.running = true ∧ 1 ∉ s.clk.halted ∧ 1 ∉ s.clk.stopped ∧ (smGet Domain.reset s.doms 3).pend = none ∧ (∀ i ∈
      (Eff.start s).enabledSlots, slotLane (s.cv oSlotCfg i) < 8)) ∧
    (∃ (s : State), s.hub.running = true ∧ 1 ∉ s.clk.halted ∧ 1 ∉ s.clk.stopped ∧ (smGet Domain.reset s.doms 3).pend = none ∧ (∀ i ∈
      (Eff.start s).enabledSlots, slotLane (s.cv oSlotCfg i) < 8)) ∧
    (∃ (s : State) (i : Nat) (n : Nat) (x : Int) (mn : Int) (mx : Int), s.hub.running = true ∧ 1 ∉ s.clk.halted ∧ 1 ∉ s.clk.stopped ∧ i <
      512 ∧ n < 0x1000 ∧ s.loop.halted = [] ∧ (Eff.start s).enabledSlots = [i] ∧ slotLane (s.cv oSlotCfg i) = 8 ∧ field (s.cv oSlotCfg i)
      16 3 = 1 ∧ field (s.cv oSlotCfg i) 19 2 = 0 ∧ bitOf (s.cv oSlotCfg i) 21 = false ∧ field (s.cv oBrLen i) 0 4 = 0 ∧ s.cv oRunPt i =
      0x80000000 ∧ s.cv oLimPt i = 0x80000000 ∧ s.cv oInPt (4 * i) = n ∧ mn = signed 32 (s.cv oOutMin i) ∧ mx = signed 32 (s.cv oOutMax
      i) ∧ mn ≤ mx ∧ x = (signed 32 (s.cv oInW (4 * i)) * ptVal (smGet pointReset s.loop.handed n) * 512 + 2 ^ 29) / 2 ^ 30) ∧
    (∃ (s : State) (tc : Fin 24) (l : HubLeg) (w : Nat) (per : Nat) (pos : Nat), s.hub.running = true ∧ (smGet Domain.reset s.doms
      3).pend = none ∧ (smGet Domain.reset s.doms 8).pend = none ∧ l = smGet HubLeg.reset s.hub.legs (tc.val / 2) ∧ l.begun = true ∧ (∀ k
      < 24, (smGet Gate.reset s.gate.gates k).earlyDue = false) ∧ w = s.cv oTc tc.val ∧ w ≠ 0xFFFFFFFF ∧ per = s.cv oPer (tc.val / 2) ∧
      pos = (if bitOf (s.cv oLegMode (tc.val / 2)) 2 = true then w else (w * per + 2 ^ 31) / 2 ^ 32) ∧ per ≤ pos) ∧
    (∃ (s : State) (tc : Fin 24) (l : HubLeg) (w : Nat) (per : Nat) (pos : Nat) (f : Nat) (q : Nat), s.hub.running = true ∧ (smGet
      Domain.reset s.doms 3).pend = none ∧ (smGet Domain.reset s.doms 8).pend = none ∧ l = smGet HubLeg.reset s.hub.legs (tc.val / 2) ∧
      l.begun = true ∧ (∀ k < 24, (smGet Gate.reset s.gate.gates k).earlyDue = false) ∧ w = s.cv oTc tc.val ∧ w ≠ 0xFFFFFFFF ∧ per = s.cv
      oPer (tc.val / 2) ∧ pos = (if bitOf (s.cv oLegMode (tc.val / 2)) 2 = true then w else (w * per + 2 ^ 31) / 2 ^ 32) ∧ pos < per ∧ f
      < 4 ∧ q < 4 ∧ seqSrc (s.cv oSeqCfg (4 * f + q)) = 3 ∧ field (s.cv oSeqCfg (4 * f + q)) 3 5 = tc.val ∧ (∀ i < 16, i ≠ 4 * f + q →
      seqSrc (s.cv oSeqCfg i) ≠ 3 ∨ field (s.cv oSeqCfg i) 3 5 ≠ tc.val) ∧ (∀ g < 4, s.cv oMaskSrc g ≠ 2) ∧ (smGet ConvF.reset s.conv.fs
      f).running = none) ∧
    (∃ (s : State) (tc : Fin 24), (smGet Domain.reset s.doms 3).pend = none ∧ (s.hub.running = false ∨ (smGet HubLeg.reset s.hub.legs
      (tc.val / 2)).begun = false ∨ s.cv oTc tc.val = 0xFFFFFFFF)) ∧
    (∃ (s : State) (tc : Fin 24), (smGet Domain.reset s.doms 3).pend = none ∧ (s.hub.running = false ∨ (smGet HubLeg.reset s.hub.legs
      (tc.val / 2)).begun = false ∨ s.cv oTc tc.val = 0xFFFFFFFF)) ∧
    (∃ (s : State) (pin : Fin 4) (level : Bool) (ns : Nat), (ns < 10 ∨ bitOf s.hub.comm pin.val = level)) ∧
    (∃ (s : State) (pin : Fin 4) (level : Bool) (ns : Nat), (ns < 10 ∨ bitOf s.hub.comm pin.val = level)) ∧
    (∃ (s : State) (pin : Fin 4) (level : Bool) (ns : Nat), 10 ≤ ns ∧ bitOf s.hub.comm pin.val ≠ level ∧ (smGet Domain.reset s.doms
      3).pend = none ∧ (∀ k < 24, (smGet Gate.reset s.gate.gates k).early = false ∧ (smGet Gate.reset s.gate.gates k).earlyDue = false)) ∧
    (∃ (s : State) (pin : Fin 4) (level : Bool) (ns : Nat), 10 ≤ ns ∧ bitOf s.hub.comm pin.val ≠ level ∧ (smGet Domain.reset s.doms
      3).pend = none ∧ (∀ k < 24, (smGet Gate.reset s.gate.gates k).early = false ∧ (smGet Gate.reset s.gate.gates k).earlyDue = false)) ∧
    (∃ (ns : Nat), ns < 64) ∧
    (∃ (s : State) (ns : Nat), 64 ≤ ns ∧ (∀ k < 24, (smGet Gate.reset s.gate.gates k).early = false ∧ (smGet Gate.reset s.gate.gates
      k).earlyDue = false)) :=
  ⟨⟨wHub, by decide +kernel⟩,
   ⟨cfgd wHub oSlotCfg 9 0x10001, by decide +kernel⟩,
   ⟨wFast, 9, 5, 917504, -5, 1000, by decide +kernel⟩,
   ⟨cfgd wTrig oTc 7 20000, 7, { HubLeg.reset with begun := true, startAt := 99000000000 * nsq }, 20000, 20000, 20000, by decide +kernel⟩,
   ⟨wTrig, 7, { HubLeg.reset with begun := true, startAt := 99000000000 * nsq }, 7000, 20000, 7000, 2, 1, by decide +kernel⟩,
   ⟨wHub, 7, by decide +kernel⟩,
   ⟨wRun, 0, by decide +kernel⟩,
   ⟨wHub, 3, true, 9, by decide +kernel⟩,
   ⟨wHub, 3, false, 900, by decide +kernel⟩,
   ⟨cfgd (cfgd wHub oMaskSrc 2 1) oMaskLut 40 0xF00F, 3, true, 10, by decide +kernel⟩,
   ⟨hb wHub fun h => { h with comm := 9 }, 0, false, 10, by decide +kernel⟩,
   ⟨63, by decide +kernel⟩,
   ⟨wHub, 64, by decide +kernel⟩⟩

/-- Witnesses of the hypotheses of GateCommandsComplete. -/
theorem witness_GateCommandsComplete :
    (∃ (s : State) (k : Fin 24), (Eff.start s).byCompare (k.val / 2) = false) ∧
    (∃ (s : State) (k : Fin 24), (Eff.start s).byCompare (k.val / 2) = false) ∧
    (∃ (s : State) (k : Fin 24) (g : Gate), (Eff.start s).byCompare (k.val / 2) = true ∧ (smGet Leg.reset s.gate.legs (k.val /
      2)).overlap = false ∧ (∀ j < 24, (smGet Gate.reset s.gate.gates j).earlyDue = false) ∧ g = smGet Gate.reset s.gate.gates k.val ∧ ¬
      (g.st = .blank ∧ g.early = true)) ∧
    (∃ (s : State) (k : Fin 24) (g : Gate), (Eff.start s).byCompare (k.val / 2) = true ∧ (smGet Leg.reset s.gate.legs (k.val /
      2)).overlap = false ∧ (∀ j < 24, (smGet Gate.reset s.gate.gates j).earlyDue = false) ∧ g = smGet Gate.reset s.gate.gates k.val ∧ ¬
      (g.st = .blank ∧ g.early = true)) ∧
    (∃ (s : State) (k : Fin 24) (g : Gate), (Eff.start s).byCompare (k.val / 2) = true ∧ (smGet Leg.reset s.gate.legs (k.val /
      2)).overlap = false ∧ (∀ j < 24, (smGet Gate.reset s.gate.gates j).earlyDue = false) ∧ g = smGet Gate.reset s.gate.gates k.val ∧
      g.st = .blank ∧ g.early = true ∧ s.Quiet kGateEarly (0x8000 + k.val)) ∧
    (∃ (s : State) (k : Fin 24) (l : Leg) (g : Gate) (p : Gate), l = smGet Leg.reset s.gate.legs (k.val / 2) ∧ g = smGet Gate.reset
      s.gate.gates k.val ∧ p = smGet Gate.reset s.gate.gates (partner k.val) ∧ (Eff.start s).byCompare (k.val / 2) = true ∧ l.mon = true
      ∧ s.gate.enN = false ∧ (Eff.start s).latched (k.val / 2) = false ∧ p.cmd = false ∧ g.st = .off ∧ g.sense = false ∧ (Eff.start
      s).guardOver k.val = true) ∧
    (∃ (s : State) (k : Fin 24) (l : Leg) (g : Gate) (p : Gate), l = smGet Leg.reset s.gate.legs (k.val / 2) ∧ g = smGet Gate.reset
      s.gate.gates k.val ∧ p = smGet Gate.reset s.gate.gates (partner k.val) ∧ (Eff.start s).byCompare (k.val / 2) = true ∧ l.mon = true
      ∧ s.gate.enN = false ∧ (Eff.start s).latched (k.val / 2) = false ∧ p.cmd = false ∧ g.st = .off ∧ (Eff.start s).guardDead k.val =
      false) ∧
    (∃ (s : State) (k : Fin 24) (l : Leg) (g : Gate) (p : Gate), l = smGet Leg.reset s.gate.legs (k.val / 2) ∧ g = smGet Gate.reset
      s.gate.gates k.val ∧ p = smGet Gate.reset s.gate.gates (partner k.val) ∧ (Eff.start s).byCompare (k.val / 2) = true ∧ l.mon = true
      ∧ s.gate.enN = false ∧ (Eff.start s).latched (k.val / 2) = false ∧ p.cmd = false ∧ g.st = .off ∧ (Eff.start s).guardDead k.val =
      true ∧ (Eff.start s).guardOver k.val = false) ∧
    (∃ (s : State) (k : Fin 24) (l : Leg) (g : Gate) (p : Gate), l = smGet Leg.reset s.gate.legs (k.val / 2) ∧ g = smGet Gate.reset
      s.gate.gates k.val ∧ p = smGet Gate.reset s.gate.gates (partner k.val) ∧ (Eff.start s).byCompare (k.val / 2) = true ∧ l.mon = true
      ∧ s.gate.enN = false ∧ (Eff.start s).latched (k.val / 2) = false ∧ p.cmd = true ∧ l.overlap = false ∧ s.Quiet kShootGuard (0x8000 +
      k.val)) ∧
    (∃ (s : State) (k : Fin 24), (smGet Gate.reset s.gate.gates k.val).st = .wait ∧ (Eff.start s).guardOver k.val = true ∧ (smGet
      Gate.reset s.gate.gates k.val).sense = false) ∧
    (∃ (s : State) (k : Fin 24), (smGet Gate.reset s.gate.gates k.val).st = .wait ∧ (Eff.start s).guardOver k.val = true ∧ (smGet
      Gate.reset s.gate.gates k.val).sense = true) ∧
    (∃ (s : State) (k : Fin 24), ((smGet Gate.reset s.gate.gates k.val).st ≠ .wait ∨ (Eff.start s).guardOver k.val = false)) ∧
    (∃ (s : State) (k : Fin 24) (g : Gate), g = smGet Gate.reset s.gate.gates k.val ∧ g.st = .blank ∧ g.onAt + g.blank ≤ s.time.up ∧
      g.early = false ∧ g.sense = false) ∧
    (∃ (s : State) (k : Fin 24) (g : Gate), g = smGet Gate.reset s.gate.gates k.val ∧ g.st = .blank ∧ g.onAt + g.blank ≤ s.time.up ∧
      g.early = true ∧ g.sense = false ∧ s.Quiet kGateEarly (0x8000 + k.val)) ∧
    (∃ (s : State) (k : Fin 24) (g : Gate), g = smGet Gate.reset s.gate.gates k.val ∧ g.st = .blank ∧ g.onAt + g.blank ≤ s.time.up ∧
      g.sense = true ∧ (∀ u < 12, u ≠ k.val / 2 → (smGet Leg.reset s.gate.legs u).trip = false) ∧ s.Quiet kGateTrip (0x8000 + k.val) ∧
      s.pair.standby = false) ∧
    (∃ (s : State) (k : Fin 24), (smGet Gate.reset s.gate.gates k.val).st ≠ .blank) ∧
    (∃ (ns : Nat), ns < 10) ∧
    (∃ (s : State) (k : Fin 24) (ns : Nat) (g : Gate) (l : Leg), 20 < ns ∧ g = smGet Gate.reset s.gate.gates k.val ∧ l = smGet Leg.reset
      s.gate.legs (k.val / 2) ∧ l.mon = true ∧ g.st = .blank) ∧
    (∃ (s : State) (k : Fin 24) (ns : Nat) (g : Gate) (l : Leg), 20 < ns ∧ g = smGet Gate.reset s.gate.gates k.val ∧ l = smGet Leg.reset
      s.gate.legs (k.val / 2) ∧ l.mon = true ∧ l.uv = false ∧ g.st = .on ∧ (∀ u < 12, u ≠ k.val / 2 → (smGet Leg.reset s.gate.legs
      u).trip = false) ∧ s.Quiet kGateTrip (0x8000 + k.val) ∧ s.pair.standby = false) ∧
    (∃ (s : State) (k : Fin 24) (ns : Nat) (g : Gate) (l : Leg), 20 < ns ∧ g = smGet Gate.reset s.gate.gates k.val ∧ l = smGet Leg.reset
      s.gate.legs (k.val / 2)) ∧
    (∃ (ns : Nat), ns < 10) ∧
    (∃ (ns : Nat), 20 < ns) ∧
    (∃ (s : State) (k : Fin 24) (a : Bool) (b : Bool) (ns : Nat) (l : Leg), 20 < ns ∧ (a = false ∨ b = false) ∧ l = smGet Leg.reset
      s.gate.legs (k.val / 2) ∧ l.mon = true ∧ s.gate.enN = true) ∧
    (∃ (s : State) (k : Fin 24) (a : Bool) (b : Bool) (ns : Nat) (l : Leg), 20 < ns ∧ (a = false ∨ b = false) ∧ l = smGet Leg.reset
      s.gate.legs (k.val / 2) ∧ l.mon = true ∧ s.gate.enN = false ∧ (Eff.start s).latched (k.val / 2) = false ∧ s.Quiet kGateUvlo (0x8000
      + k.val) ∧ s.pair.standby = false) :=
  ⟨⟨wRun, 6, by decide +kernel⟩,
   ⟨gt [(6, { Gate.reset with sense := false, st := .on, cmd := true })] [(3, wLeg)], 6, by decide +kernel⟩,
   ⟨gh [(6, { Gate.reset with sense := false, st := .off }), (7, { Gate.reset with sense := false, st := .on, cmd := true })] [(3,
     wLeg)], 7, { Gate.reset with sense := false, st := .on, cmd := true }, by decide +kernel⟩,
   ⟨gh [(6, { Gate.reset with sense := false, st := .blank, cmd := true, onAt := 5 }), (7,
     { Gate.reset with sense := false, st := .off })] [(3, wLeg)], 6,
     { Gate.reset with sense := false, st := .blank, cmd := true, onAt := 5 }, by decide +kernel⟩,
   ⟨quiet (gh [(6, { Gate.reset with sense := false, st := .blank, cmd := true, early := true, onAt := 5 }), (7,
     { Gate.reset with sense := false, st := .off })] [(3, wLeg)]) kGateEarly 0x8006, 6,
     { Gate.reset with sense := false, st := .blank, cmd := true, early := true, onAt := 5 }, by decide +kernel, by decide +kernel,
     by decide +kernel, by decide +kernel, by decide +kernel, by decide +kernel, by unfold State.Quiet; decide +kernel⟩,
   ⟨cfgd (gh [(6, { Gate.reset with sense := false, st := .off }), (7,
     { Gate.reset with sense := false, st := .off, offAt := some 99999000000 })] [(3, wLeg)]) oBlankHub 3 800, 6, wLeg,
     { Gate.reset with sense := false, st := .off }, { Gate.reset with sense := false, st := .off, offAt := some 99999000000 },
     by decide +kernel⟩,
   ⟨cfgd (gh [(6, { Gate.reset with sense := false, st := .off }), (7,
     { Gate.reset with sense := false, st := .off, offAt := some 99999999999 })] [(3, wLeg)]) oGateDtMin 3 100, 6, wLeg,
     { Gate.reset with sense := false, st := .off }, { Gate.reset with sense := false, st := .off, offAt := some 99999999999 },
     by decide +kernel⟩,
   ⟨cfgd (gh [(6, { Gate.reset with sense := false, st := .off }), (7,
     { Gate.reset with sense := false, st := .off, offAt := some 99999000000 })] [(3, { wLeg with overlapEnd := some 99999999999 })]) oDt
     3 100, 6, { wLeg with overlapEnd := some 99999999999 }, { Gate.reset with sense := false, st := .off },
     { Gate.reset with sense := false, st := .off, offAt := some 99999000000 }, by decide +kernel⟩,
   ⟨quiet (gh [(6, { Gate.reset with sense := false, st := .off }), (7, { Gate.reset with sense := false, st := .on, cmd := true })] [(3,
     wLeg)]) kShootGuard 0x8006, 6, wLeg, { Gate.reset with sense := false, st := .off },
     { Gate.reset with sense := false, st := .on, cmd := true }, by decide +kernel, by decide +kernel, by decide +kernel,
     by decide +kernel, by decide +kernel, by decide +kernel, by decide +kernel, by decide +kernel, by decide +kernel,
     by unfold State.Quiet; decide +kernel⟩,
   ⟨gt [(6, { Gate.reset with sense := false, st := .wait, cmd := true }), (7,
     { Gate.reset with sense := false, st := .off, offAt := some 99 })] [(3, wLeg)], 6, by decide +kernel⟩,
   ⟨gt [(6, { Gate.reset with st := .wait, cmd := true }), (7, { Gate.reset with sense := false, st := .off, offAt := some 99 })] [(3,
     wLeg)], 6, by decide +kernel⟩,
   ⟨wRun, 6, by decide +kernel⟩,
   ⟨gt [(6, { Gate.reset with sense := false, st := .blank, cmd := true, onAt := 99999999500, blank := 500 })] [(3, wLeg)], 6,
     { Gate.reset with sense := false, st := .blank, cmd := true, onAt := 99999999500, blank := 500 }, by decide +kernel⟩,
   ⟨quiet (gt [(6, { Gate.reset with sense := false, st := .blank, cmd := true, early := true, onAt := 99999999500, blank := 500 })] [(3,
     wLeg)]) kGateEarly 0x8006, 6,
     { Gate.reset with sense := false, st := .blank, cmd := true, early := true, onAt := 99999999500, blank := 500 }, by decide +kernel,
     by decide +kernel, by decide +kernel, by decide +kernel, by decide +kernel, by unfold State.Quiet; decide +kernel⟩,
   ⟨quiet (gt [(7, { Gate.reset with st := .blank, cmd := true, early := true, onAt := 99999999500, blank := 500 })] [(3, wLeg)])
     kGateTrip 0x8007, 7, { Gate.reset with st := .blank, cmd := true, early := true, onAt := 99999999500, blank := 500 },
     by decide +kernel, by decide +kernel, by decide +kernel, by decide +kernel, by decide +kernel,
     by unfold State.Quiet; decide +kernel, by decide +kernel⟩,
   ⟨wRun, 6, by decide +kernel⟩,
   ⟨9, by decide +kernel⟩,
   ⟨gt [(6, { Gate.reset with sense := false, st := .blank, cmd := true, onAt := 99999999500 })] [(3, wLeg)], 6, 21,
     { Gate.reset with sense := false, st := .blank, cmd := true, onAt := 99999999500 }, wLeg, by decide +kernel⟩,
   ⟨quiet (gt [(7, { Gate.reset with sense := false, st := .on, cmd := true })] [(3, wLeg)]) kGateTrip 0x8007, 7, 21,
     { Gate.reset with sense := false, st := .on, cmd := true }, wLeg, by decide +kernel, by decide +kernel, by decide +kernel,
     by decide +kernel, by decide +kernel, by decide +kernel, by decide +kernel, by unfold State.Quiet; decide +kernel,
     by decide +kernel⟩,
   ⟨gt [(7, { Gate.reset with st := .on, cmd := true })] [(3, wLeg)], 7, 21, { Gate.reset with st := .on, cmd := true }, wLeg,
     by decide +kernel⟩,
   ⟨9, by decide +kernel⟩,
   ⟨21, by decide +kernel⟩,
   ⟨{ wRun with gate := { GateSt.reset with legs := [(3, wLeg)] } }, 6, false, true, 21, wLeg, by decide +kernel⟩,
   ⟨quiet (gt [(6, { Gate.reset with st := .off, supPos := true, supNeg := true })] [(3, wLeg)]) kGateUvlo 0x8006, 6, true, false, 21,
     wLeg, by decide +kernel, by decide +kernel, by decide +kernel, by decide +kernel, by decide +kernel, by decide +kernel,
     by unfold State.Quiet; decide +kernel, by decide +kernel⟩⟩

/-- Witnesses of the hypotheses of EnablesAndRequestsOfTheGatesComplete. -/
theorem witness_EnablesAndRequestsOfTheGatesComplete :
    (∃ (s : State), s.gate.enN = true) ∧
    (∃ (s : State), s.gate.enN = false ∧ s.dev.state ≠ .run ∧ s.dev.state ≠ .derated) ∧
    (∃ (s : State), s.gate.enN = false) ∧
    (∃ (s : State), s.gate.enN = true ∧ (∀ u < 12, (smGet Leg.reset s.gate.legs u).mon = true) ∧ (∀ k < 24, (smGet Gate.reset
      s.gate.gates k).supOk = true ∧ (smGet Gate.reset s.gate.gates k).cmd = false) ∧ s.gate.enRise + 5000 ≤ s.time.up) ∧
    (∃ (s : State), s.gate.enN = true ∧ (∀ u < 12, (smGet Leg.reset s.gate.legs u).mon = false) ∧ s.time.up < s.gate.enRise + 4500) ∧
    (∃ (s : State) (q : Req) (cell : Byte) (lvl : Nat) (sid : Nat), s.Invoked q oCellEnToggle [cell] 2 true lvl sid ∧ cell.toNat < 192 ∧
      (smGet Cell.reset s.cells cell.toNat).state ∈ [.idle, .active, .bypassed]) ∧
    (∃ (s : State) (q : Req) (cell : Byte) (lvl : Nat) (sid : Nat), s.Invoked q oCellEnToggle [cell] 2 true lvl sid ∧ cell.toNat < 192 ∧
      (smGet Cell.reset s.cells cell.toNat).state ∉ [.idle, .active, .bypassed]) ∧
    (∃ (s : State) (q : Req) (args : List Byte) (lvl : Nat) (sid : Nat) (i : Nat), s.Invoked q oSlotReset args 2 true lvl sid ∧
      args.length = 2 ∧ fieldLe args 0 2 = i ∧ i < 512 ∧ bitOf (s.cv oSlotCfg i) 0 = false) ∧
    (∃ (s : State) (q : Req) (args : List Byte) (lvl : Nat) (sid : Nat) (i : Nat), s.Invoked q oSlotReset args 2 true lvl sid ∧
      args.length = 2 ∧ fieldLe args 0 2 = i ∧ i < 512 ∧ bitOf (s.cv oSlotCfg i) 0 = true ∧ s.pair.standby = false) ∧
    (∃ (s : State) (q : Req) (args : List Byte) (lvl : Nat) (sid : Nat) (i : Nat), s.Invoked q oSlotReset args 2 true lvl sid ∧
      args.length = 2 ∧ fieldLe args 0 2 = i ∧ i < 512 ∧ bitOf (s.cv oSlotCfg i) 0 = true ∧ s.pair.standby = true) :=
  ⟨⟨pr { wRun with gate := GateSt.reset } id, by decide +kernel⟩,
   ⟨dv (gt [(6, { Gate.reset with st := .on, cmd := true })] [(3, wLeg), (4, { wLeg with trip := true })]) fun d =>
     { d with state := .ready }, by decide +kernel⟩,
   ⟨gt [] [], by decide +kernel⟩,

     ⟨{ wRun with gate := { GateSt.reset with hiZ := false, enRise := 99999995000, stage := true, legs := (List.range 12).map fun u => (u, { wLeg with trip := true }), gates := (List.range 24).map fun k => (k, { Gate.reset with supPos := true, supNeg := true }) } },
     by decide +kernel⟩,
   ⟨{ wRun with gate := { GateSt.reset with enRise := 99999995501 } }, by decide +kernel⟩,
   ⟨cas wRun 9 .active, wA oCellEnToggle [5], 5, 3, 7, wInvoked _ _ _ _ _ (by decide +kernel) rfl (by decide +kernel) (by decide +kernel)
     (by decide +kernel) (by decide +kernel), by decide +kernel⟩,
   ⟨cas wRun 9 .active, wA oCellEnToggle [191], 191, 3, 7, wInvoked _ _ _ _ _ (by decide +kernel) rfl (by decide +kernel)
     (by decide +kernel) (by decide +kernel) (by decide +kernel), by decide +kernel⟩,
   ⟨wRun, wA oSlotReset [255, 1], [255, 1], 3, 7, 511, wInvoked _ _ _ _ _ (by decide +kernel) rfl (by decide +kernel) (by decide +kernel)
     (by decide +kernel) (by decide +kernel), by decide +kernel⟩,
   ⟨cfgd wRun oSlotCfg 511 1, wA oSlotReset [255, 1], [255, 1], 3, 7, 511, wInvoked _ _ _ _ _ (by decide +kernel) rfl (by decide +kernel)
     (by decide +kernel) (by decide +kernel) (by decide +kernel), by decide +kernel⟩,
   ⟨cfgd (pr wRun fun p => { p with standby := true }) oSlotCfg 0 1, wA oSlotReset [0, 0], [0, 0], 3, 7, 0, wInvoked _ _ _ _ _
     (by decide +kernel) rfl (by decide +kernel) (by decide +kernel) (by decide +kernel) (by decide +kernel), by decide +kernel⟩⟩

/-- Witnesses of the hypotheses of SectionsRoundAndSaturate. -/
theorem witness_SectionsRoundAndSaturate :
    (∃ (b0 : Int) (b1 : Int) (b2 : Int) (a1 : Int) (a2 : Int) (u : Int) (s1 : Int) (s2 : Int) (bexp : Nat) (sec : Nat) (o : SecOut), o =
      runSection b0 b1 b2 a1 a2 bexp sec u s1 s2 ∧ o.sat = false) ∧
    (∃ (b0 : Int) (b1 : Int) (b2 : Int) (a1 : Int) (a2 : Int) (u : Int) (s1 : Int) (s2 : Int) (bexp : Nat) (sec : Nat) (o : SecOut), o =
      runSection b0 b1 b2 a1 a2 bexp sec u s1 s2 ∧ -2 ^ 77 + 2 ^ 29 ≤ b0 * u * 2 ^ bexp + s1 * 2 ^ 30 ∧ b0 * u * 2 ^ bexp + s1 * 2 ^ 30 <
      2 ^ 77 - 2 ^ 29 ∧ -2 ^ 77 + 2 ^ 29 ≤ b1 * u * 2 ^ bexp - a1 * o.y + s2 * 2 ^ 30 ∧ b1 * u * 2 ^ bexp - a1 * o.y + s2 * 2 ^ 30 < 2 ^
      77 - 2 ^ 29 ∧ -2 ^ 77 + 2 ^ 29 ≤ b2 * u * 2 ^ bexp - a2 * o.y ∧ b2 * u * 2 ^ bexp - a2 * o.y < 2 ^ 77 - 2 ^ 29) ∧
    (∃ (b0 : Int) (b1 : Int) (b2 : Int) (a1 : Int) (a2 : Int) (u : Int) (s1 : Int) (s2 : Int) (bexp : Nat) (sec : Nat) (o : SecOut), o =
      runSection b0 b1 b2 a1 a2 bexp sec u s1 s2) :=
  ⟨⟨0x20000000, 5, -7, 9, 11, -123456789, 1000, -2000, 2, 4, runSection 0x20000000 5 (-7) 9 11 2 4 (-123456789) 1000 (-2000), rfl,
     by decide +kernel⟩,
   ⟨0x20000000, 5, -7, 9, 11, -123456789, 1000, -2000, 2, 4, runSection 0x20000000 5 (-7) 9 11 2 4 (-123456789) 1000 (-2000), rfl,
     by decide +kernel⟩,
   ⟨0x7FFFFFFF, 5, -7, 9, 11, 140737488355327, 1000, -2000, 3, 4, runSection 0x7FFFFFFF 5 (-7) 9 11 3 4 140737488355327 1000 (-2000),
     rfl⟩⟩

/-- Witnesses of the hypotheses of ConverterSequencesComplete. -/
theorem witness_ConverterSequencesComplete :
    (∃ (s : State) (f : Fin 4) (q : Fin 4) (x : ConvF) (src : Nat), (smGet Domain.reset s.doms 8).pend = none ∧ x = smGet ConvF.reset
      s.conv.fs f.val ∧ src = seqSrc (s.cv oSeqCfg (4 * f.val + q.val)) ∧ ¬(src = 1 ∧ s.frame.running = true ∧ 4 * f.val + q.val ∉
      s.conv.fired) ∧ ¬(src = 2 ∧ s.hub.running = true ∧ x.tickDone ≠ some s.hub.ticks)) ∧
    (∃ (s : State) (f : Fin 4) (q : Fin 4) (x : ConvF) (src : Nat), (smGet Domain.reset s.doms 8).pend = none ∧ x = smGet ConvF.reset
      s.conv.fs f.val ∧ src = seqSrc (s.cv oSeqCfg (4 * f.val + q.val)) ∧ ¬(src = 1 ∧ s.frame.running = true ∧ 4 * f.val + q.val ∉
      s.conv.fired) ∧ ¬(src = 2 ∧ s.hub.running = true ∧ x.tickDone ≠ some s.hub.ticks)) ∧
    (∃ (s : State) (f : Fin 4) (q : Fin 4) (x : ConvF) (src : Nat) (edge : Int) (c : ConvSt), (smGet Domain.reset s.doms 8).pend = none ∧
      x = smGet ConvF.reset s.conv.fs f.val ∧ src = seqSrc (s.cv oSeqCfg (4 * f.val + q.val)) ∧ edge = (Eff.start s).edgeAfter
      ((Eff.start s).trigInstant src) ∧ ((src = 1 ∧ s.frame.running = true ∧ 4 * f.val + q.val ∉ s.conv.fired ∧ c =
      { s.conv with fired := (4 * f.val + q.val) :: s.conv.fired }) ∨ (src = 2 ∧ s.hub.running = true ∧ x.tickDone ≠ some s.hub.ticks ∧ c
      = { s.conv with fs := smMod ConvF.reset s.conv.fs f.val fun x => { x with tickDone := some s.hub.ticks } })) ∧ x.running = none) ∧
    (∃ (s : State) (f : Fin 4) (q : Fin 4) (x : ConvF) (src : Nat) (edge : Int) (c : ConvSt), (smGet Domain.reset s.doms 8).pend = none ∧
      x = smGet ConvF.reset s.conv.fs f.val ∧ src = seqSrc (s.cv oSeqCfg (4 * f.val + q.val)) ∧ edge = (Eff.start s).edgeAfter
      ((Eff.start s).trigInstant src) ∧ ((src = 1 ∧ s.frame.running = true ∧ 4 * f.val + q.val ∉ s.conv.fired ∧ c =
      { s.conv with fired := (4 * f.val + q.val) :: s.conv.fired }) ∨ (src = 2 ∧ s.hub.running = true ∧ x.tickDone ≠ some s.hub.ticks ∧ c
      = { s.conv with fs := smMod ConvF.reset s.conv.fs f.val fun x => { x with tickDone := some s.hub.ticks } })) ∧ x.running = none) ∧
    (∃ (s : State) (f : Fin 4) (q : Fin 4) (x : ConvF) (src : Nat) (edge : Int) (c : ConvSt) (r : Nat), (smGet Domain.reset s.doms
      8).pend = none ∧ x = smGet ConvF.reset s.conv.fs f.val ∧ src = seqSrc (s.cv oSeqCfg (4 * f.val + q.val)) ∧ edge = (Eff.start
      s).edgeAfter ((Eff.start s).trigInstant src) ∧ ((src = 1 ∧ s.frame.running = true ∧ 4 * f.val + q.val ∉ s.conv.fired ∧ c =
      { s.conv with fired := (4 * f.val + q.val) :: s.conv.fired }) ∨ (src = 2 ∧ s.hub.running = true ∧ x.tickDone ≠ some s.hub.ticks ∧ c
      = { s.conv with fs := smMod ConvF.reset s.conv.fs f.val fun x => { x with tickDone := some s.hub.ticks } })) ∧ x.running = some r ∧
      ¬(x.start = edge ∧ x.entry = 0 ∧ q.val < r) ∧ x.queued = none) ∧
    (∃ (s : State) (f : Fin 4) (q : Fin 4) (x : ConvF) (src : Nat) (edge : Int) (c : ConvSt) (r : Nat) (n : Nat), ∃ edge', (smGet
      Domain.reset s.doms 8).pend = none ∧ x = smGet ConvF.reset s.conv.fs f.val ∧ src = seqSrc (s.cv oSeqCfg (4 * f.val + q.val)) ∧ edge
      = (Eff.start s).edgeAfter ((Eff.start s).trigInstant src) ∧ ((src = 1 ∧ s.frame.running = true ∧ 4 * f.val + q.val ∉ s.conv.fired ∧
      c = { s.conv with fired := (4 * f.val + q.val) :: s.conv.fired }) ∨ (src = 2 ∧ s.hub.running = true ∧ x.tickDone ≠ some s.hub.ticks
      ∧ c = { s.conv with fs := smMod ConvF.reset s.conv.fs f.val fun x => { x with tickDone := some s.hub.ticks } })) ∧ x.running = some
      r ∧ ¬(x.start = edge ∧ x.entry = 0 ∧ q.val < r) ∧ x.queued = some (n, edge') ∧ ¬(edge' = edge ∧ q.val < n) ∧ s.Quiet kConvOverrun
      f.val) ∧
    (∃ (s : State) (f : Fin 4) (q : Fin 4) (x : ConvF) (src : Nat) (edge : Int) (c : ConvSt) (r : Nat), (smGet Domain.reset s.doms
      8).pend = none ∧ x = smGet ConvF.reset s.conv.fs f.val ∧ src = seqSrc (s.cv oSeqCfg (4 * f.val + q.val)) ∧ edge = (Eff.start
      s).edgeAfter ((Eff.start s).trigInstant src) ∧ ((src = 1 ∧ s.frame.running = true ∧ 4 * f.val + q.val ∉ s.conv.fired ∧ c =
      { s.conv with fired := (4 * f.val + q.val) :: s.conv.fired }) ∨ (src = 2 ∧ s.hub.running = true ∧ x.tickDone ≠ some s.hub.ticks ∧ c
      = { s.conv with fs := smMod ConvF.reset s.conv.fs f.val fun x => { x with tickDone := some s.hub.ticks } })) ∧ x.running = some r ∧
      x.start = edge ∧ x.entry = 0 ∧ q.val < r ∧ x.queued = none) ∧
    (∃ (s : State) (q : Req) (f : Byte) (n : Byte) (lvl : Nat) (sid : Nat), s.Invoked q oConvTrigger [f, n] 2 false lvl sid ∧ f.toNat < 4
      ∧ n.toNat < 4 ∧ (smGet Domain.reset s.doms 8).pend = none ∧ s.pair.role = .active ∧ s.pair.standby = false ∧ seqSrc (s.cv oSeqCfg
      (4 * f.toNat + n.toNat)) ≠ 4) ∧
    (∃ (s : State) (q : Req) (f : Byte) (n : Byte) (lvl : Nat) (sid : Nat), s.Invoked q oConvTrigger [f, n] 2 false lvl sid ∧ f.toNat < 4
      ∧ n.toNat < 4 ∧ (smGet Domain.reset s.doms 8).pend = none ∧ s.pair.role = .active ∧ s.pair.standby = false ∧ seqSrc (s.cv oSeqCfg
      (4 * f.toNat + n.toNat)) = 4) ∧
    (∃ (s : State) (f : Fin 4) (x : ConvF) (q : Nat), (smGet Domain.reset s.doms 8).pend = none ∧ x = smGet ConvF.reset s.conv.fs f.val ∧
      x.running = some q ∧ { x with running := none } ≠ ConvF.reset ∧ x.queued = none) ∧
    (∃ (s : State) (f : Fin 4) (x : ConvF) (q : Nat) (n : Nat) (edge : Int), (smGet Domain.reset s.doms 8).pend = none ∧ x = smGet
      ConvF.reset s.conv.fs f.val ∧ x.running = some q ∧ { x with running := none } ≠ ConvF.reset ∧ x.queued = some (n, edge) ∧ seqSrc
      (s.cv oSeqCfg (4 * f.val + n)) ≠ 0) ∧
    (∃ (s : State) (f : Fin 4) (x : ConvF) (q : Nat) (n : Nat) (edge : Int), (smGet Domain.reset s.doms 8).pend = none ∧ x = smGet
      ConvF.reset s.conv.fs f.val ∧ x.running = some q ∧ { x with running := none } ≠ ConvF.reset ∧ x.queued = some (n, edge) ∧ seqSrc
      (s.cv oSeqCfg (4 * f.val + n)) ≠ 0) ∧
    (∃ (s : State) (f : Fin 4), (smGet ConvF.reset s.conv.fs f.val).running = none) ∧
    (∃ (n : Nat), n < 128) ∧
    (∃ (s : State) (c : Fin 24) (n : Nat), 128 ≤ n ∧ (smGet SdCh.reset s.conv.sd c.val).stuck = false ∧ s.Quiet kSdStuck c.val) ∧
    (∃ (s : State) (c : Fin 24), 16 ≤ c.val ∧ (smGet SdCh.reset s.conv.sd c.val).clkMissing = false ∧ s.Quiet kXbClock c.val) ∧
    (∃ (s : State) (c : Fin 24) (n : Nat) (x : SdCh), x = smGet SdCh.reset s.conv.sd c.val ∧ (x.stuck = true ∨ x.clkMissing = true) ∧ 128
      ≤ n) ∧
    (∃ (s : State) (c : Fin 24) (n : Nat) (x : SdCh), x = smGet SdCh.reset s.conv.sd c.val ∧ (x.stuck = true ∨ x.clkMissing = true) ∧ 128
      ≤ n) ∧
    (∃ (s : State) (c : Fin 24) (n : Nat) (x : SdCh), x = smGet SdCh.reset s.conv.sd c.val ∧ ((x.stuck = false ∧ x.clkMissing = false) ∨
      n < 128)) ∧
    (∃ (s : State) (c : Fin 24) (n : Nat) (x : SdCh), x = smGet SdCh.reset s.conv.sd c.val ∧ ((x.stuck = false ∧ x.clkMissing = false) ∨
      n < 128)) :=
  ⟨⟨wRun, 2, 1, ConvF.reset, 0, by decide +kernel⟩,
   ⟨cfgd wRun oSeqCfg 9 4, 2, 1, ConvF.reset, 4, by decide +kernel⟩,
   ⟨cfgd wRun oSeqCfg 9 1, 2, 1, ConvF.reset, 1, ((Eff.start (cfgd wRun oSeqCfg 9 1)).edgeAfter ((Eff.start (cfgd wRun oSeqCfg 9
     1)).trigInstant 1)), { ConvSt.reset with fired := [9] }, by decide +kernel, by decide +kernel, by decide +kernel, by decide +kernel,
     .inl (by decide +kernel), by decide +kernel⟩,
   ⟨cfgd wHub oSeqCfg 9 2, 2, 1, ConvF.reset, 2, ((Eff.start (cfgd wHub oSeqCfg 9 2)).edgeAfter ((Eff.start (cfgd wHub oSeqCfg 9
     2)).trigInstant 2)), { ConvSt.reset with fs := [(2, { ConvF.reset with tickDone := some 0 })] }, by decide +kernel,
     by decide +kernel, by decide +kernel, by decide +kernel, .inr (by decide +kernel), by decide +kernel⟩,
   ⟨cfgd (wFa wX2) oSeqCfg 9 1, 2, 1, wX2, 1, ((Eff.start (cfgd wRun oSeqCfg 9 1)).edgeAfter ((Eff.start (cfgd wRun oSeqCfg 9
     1)).trigInstant 1)), { ConvSt.reset with fs := [(2, wX2)], fired := [9] }, 1, by decide +kernel, by decide +kernel,
     by decide +kernel, by decide +kernel, .inl (by decide +kernel), by decide +kernel⟩,
   ⟨quiet (cfgd (wFa { wX2 with queued := some (1, 5) }) oSeqCfg 9 1) kConvOverrun 2, 2, 1, { wX2 with queued := some (1, 5) }, 1,
     ((Eff.start (cfgd wRun oSeqCfg 9 1)).edgeAfter ((Eff.start (cfgd wRun oSeqCfg 9 1)).trigInstant 1)),
     { ConvSt.reset with fs := [(2, { wX2 with queued := some (1, 5) })], fired := [9] }, 1, 1, 5, by decide +kernel, by decide +kernel,
     by decide +kernel, by decide +kernel, .inl (by decide +kernel), by decide +kernel, by decide +kernel, by decide +kernel,
     by decide +kernel, by unfold State.Quiet; decide +kernel⟩,
   ⟨cfgd (wFa
     { wX2 with running := some 3, start := ((Eff.start (cfgd wRun oSeqCfg 9 1)).edgeAfter ((Eff.start (cfgd wRun oSeqCfg 9 1)).trigInstant 1)) })
     oSeqCfg 9 1, 2, 1,
     { wX2 with running := some 3, start := ((Eff.start (cfgd wRun oSeqCfg 9 1)).edgeAfter ((Eff.start (cfgd wRun oSeqCfg 9 1)).trigInstant 1)) },
     1, ((Eff.start (cfgd wRun oSeqCfg 9 1)).edgeAfter ((Eff.start (cfgd wRun oSeqCfg 9 1)).trigInstant 1)),
     { ConvSt.reset with fs := [(2, { wX2 with running := some 3, start := ((Eff.start (cfgd wRun oSeqCfg 9 1)).edgeAfter ((Eff.start (cfgd wRun oSeqCfg 9 1)).trigInstant 1)) })], fired := [9] },
     3, by decide +kernel, by decide +kernel, by decide +kernel, by decide +kernel, .inl (by decide +kernel), by decide +kernel⟩,
   ⟨cfgd wRun oSeqCfg 9 3, wA oConvTrigger [2, 1], 2, 1, 3, 7, wInvoked _ _ _ _ _ (by decide +kernel) rfl (by decide +kernel)
     (by decide +kernel) (by decide +kernel) (by decide +kernel), by decide +kernel⟩,
   ⟨cfgd wRun oSeqCfg 9 4, wA oConvTrigger [2, 1], 2, 1, 3, 7, wInvoked _ _ _ _ _ (by decide +kernel) rfl (by decide +kernel)
     (by decide +kernel) (by decide +kernel) (by decide +kernel), by decide +kernel⟩,
   ⟨wConv, 2, wX2, 1, by decide +kernel⟩,
   ⟨cfgd (cfgd (wFa { wX2 with queued := some (3, 5) }) oSeqCfg 9 0x4401) oSeqCfg 11 2, 2, { wX2 with queued := some (3, 5) }, 1, 3, 5,
     by decide +kernel⟩,
   ⟨cfgd (cfgd (wFa { wX2 with queued := some (3, 200000000000 * nsq) }) oSeqCfg 9 0x4401) oSeqCfg 11 2, 2,
     { wX2 with queued := some (3, 200000000000 * nsq) }, 1, 3, 200000000000 * nsq, by decide +kernel⟩,
   ⟨wRun, 2, by decide +kernel⟩,
   ⟨127, by decide +kernel⟩,
   ⟨quiet (wSd SdCh.reset) kSdStuck 7, 7, 128, by decide +kernel, by decide +kernel, by unfold State.Quiet; decide +kernel⟩,
   ⟨quiet wRun kXbClock 16, 16, by decide +kernel, by decide +kernel, by unfold State.Quiet; decide +kernel⟩,
   ⟨wSd { SdCh.reset with stuck := true }, 7, 128, { SdCh.reset with stuck := true }, by decide +kernel⟩,
   ⟨wSd { SdCh.reset with clkMissing := true }, 7, 128, { SdCh.reset with clkMissing := true }, by decide +kernel⟩,
   ⟨wRun, 7, 128, SdCh.reset, by decide +kernel⟩,
   ⟨wSd { SdCh.reset with stuck := true }, 7, 127, { SdCh.reset with stuck := true }, by decide +kernel⟩⟩

/-- Witnesses of the hypotheses of ConverterResultsComplete. -/
theorem witness_ConverterResultsComplete :
    (∃ (s : State) (f : Fin 4) (d : Sample) (x : ConvF) (q : Nat) (w : Nat) (cfg : Nat) (ch : Nat) (g : Nat) (pt : Nat) (v : Int) (toff :
      Int), (smGet Domain.reset s.doms 8).pend = none ∧ x = smGet ConvF.reset s.conv.fs f.val ∧ x.running = some q ∧ cfg = s.cv oSeqCfg
      (4 * f.val + q) ∧ x.entry < field cfg 13 6 ∧ w = s.cv oEntry (32 * f.val + (field cfg 8 5 + x.entry)) ∧ entryCount w = 1 ∧ ch =
      field w 0 3 ∧ g = field w 3 2 ∧ x.prev = some (8 * f.val + ch, g) ∧ x.settle = 0 ∧ x.calOk = true ∧ 2 ∈ s.dev.pllLocked ∧ (f.val %
      2 = 1 ∨ s.cv oPairMode (f.val / 2) = 0) ∧ pt = 0x1000 + 8 * f.val + ch ∧ smGet none s.faults.forced pt = none ∧ s.pair.role ≠
      .standby ∧ s.pair.role ≠ .joining ∧ v = (signed 32 (s.cv oChGain (4 * (8 * f.val + ch) + g)) * sampleValue d + 2 ^ 29) / 2 ^ 30 +
      signed 32 (s.cv oChOfs (4 * (8 * f.val + ch) + g)) ∧ toff = (x.start - s.frame.tk + 2 * (x.conv : Int) * halfEdge) / (4 * nsq) ∧
      sampleWhy d = 0) ∧
    (∃ (s : State) (f : Fin 4) (d : Sample) (x : ConvF) (q : Nat) (w : Nat) (cfg : Nat) (ch : Nat) (g : Nat) (pt : Nat) (v : Int) (toff :
      Int), (smGet Domain.reset s.doms 8).pend = none ∧ x = smGet ConvF.reset s.conv.fs f.val ∧ x.running = some q ∧ cfg = s.cv oSeqCfg
      (4 * f.val + q) ∧ x.entry < field cfg 13 6 ∧ w = s.cv oEntry (32 * f.val + (field cfg 8 5 + x.entry)) ∧ entryCount w = 1 ∧ ch =
      field w 0 3 ∧ g = field w 3 2 ∧ x.prev = some (8 * f.val + ch, g) ∧ x.settle = 0 ∧ x.calOk = true ∧ 2 ∈ s.dev.pllLocked ∧ (f.val %
      2 = 1 ∨ s.cv oPairMode (f.val / 2) = 0) ∧ pt = 0x1000 + 8 * f.val + ch ∧ smGet none s.faults.forced pt = none ∧ s.pair.role ≠
      .standby ∧ s.pair.role ≠ .joining ∧ v = (signed 32 (s.cv oChGain (4 * (8 * f.val + ch) + g)) * sampleValue d + 2 ^ 29) / 2 ^ 30 +
      signed 32 (s.cv oChOfs (4 * (8 * f.val + ch) + g)) ∧ toff = (x.start - s.frame.tk + 2 * (x.conv : Int) * halfEdge) / (4 * nsq) ∧
      sampleWhy d ≠ 0) ∧
    (∃ (s : State) (f : Fin 4) (d : Sample) (x : ConvF) (q : Nat) (w : Nat) (cfg : Nat) (ch : Nat) (g : Nat) (pt : Nat) (v : Int) (toff :
      Int), (smGet Domain.reset s.doms 8).pend = none ∧ x = smGet ConvF.reset s.conv.fs f.val ∧ x.running = some q ∧ cfg = s.cv oSeqCfg
      (4 * f.val + q) ∧ x.entry < field cfg 13 6 ∧ w = s.cv oEntry (32 * f.val + (field cfg 8 5 + x.entry)) ∧ entryCount w = 1 ∧ ch =
      field w 0 3 ∧ g = field w 3 2 ∧ x.prev = some (8 * f.val + ch, g) ∧ x.settle = 0 ∧ x.calOk = true ∧ 2 ∈ s.dev.pllLocked ∧ (f.val %
      2 = 1 ∨ s.cv oPairMode (f.val / 2) = 0) ∧ pt = 0x1000 + 8 * f.val + ch ∧ smGet none s.faults.forced pt = none ∧ s.pair.role ≠
      .standby ∧ s.pair.role ≠ .joining ∧ v = (signed 32 (s.cv oChGain (4 * (8 * f.val + ch) + g)) * sampleValue d + 2 ^ 29) / 2 ^ 30 +
      signed 32 (s.cv oChOfs (4 * (8 * f.val + ch) + g)) ∧ toff = (x.start - s.frame.tk + 2 * (x.conv : Int) * halfEdge) / (4 * nsq) ∧
      sampleWhy d ≠ 0) ∧
    (∃ (s : State) (f : Fin 4), (smGet ConvF.reset s.conv.fs f.val).running = none) ∧
    (∃ (s : State) (c : Fin 24) (d : Sample) (x : SdCh) (n : Nat) (v : Int), (smGet Domain.reset s.doms 8).pend = none ∧ x = smGet
      SdCh.reset s.conv.sd c.val ∧ x.stuck = false ∧ x.clkMissing = false ∧ x.gap = 0 ∧ x.settle = some n ∧ 2 ∈ s.dev.pllLocked ∧ smGet
      none s.faults.forced (0x1020 + c.val) = none ∧ s.pair.role ≠ .standby ∧ s.pair.role ≠ .joining ∧ v = (signed 32 (s.cv oSdxGain
      c.val) * sampleValue d + 2 ^ 29) / 2 ^ 30 + signed 32 (s.cv oSdxOfs c.val) ∧ n = 0 ∧ sampleWhy d = 0) ∧
    (∃ (s : State) (c : Fin 24) (d : Sample) (x : SdCh) (n : Nat) (v : Int), (smGet Domain.reset s.doms 8).pend = none ∧ x = smGet
      SdCh.reset s.conv.sd c.val ∧ x.stuck = false ∧ x.clkMissing = false ∧ x.gap = 0 ∧ x.settle = some n ∧ 2 ∈ s.dev.pllLocked ∧ smGet
      none s.faults.forced (0x1020 + c.val) = none ∧ s.pair.role ≠ .standby ∧ s.pair.role ≠ .joining ∧ v = (signed 32 (s.cv oSdxGain
      c.val) * sampleValue d + 2 ^ 29) / 2 ^ 30 + signed 32 (s.cv oSdxOfs c.val) ∧ 0 < n) :=
  ⟨⟨wConv, 2, ⟨0x12345680⟩, wX2, 1, 0xB, 0x4401, 3, 1, 0x1013, 0x12345600, 125, by decide +kernel⟩,
   ⟨wConv, 2, ⟨0x12345620⟩, wX2, 1, 0xB, 0x4401, 3, 1, 0x1013, 0x12345600, 125, by decide +kernel⟩,
   ⟨wConv, 2, ⟨0x12345678⟩, wX2, 1, 0xB, 0x4401, 3, 1, 0x1013, 0x12345600, 125, by decide +kernel⟩,
   ⟨wRun, 2, by decide +kernel⟩,
   ⟨wSd { SdCh.reset with settle := some 0 }, 7, ⟨0xF0000080⟩, { SdCh.reset with settle := some 0 }, 0, -268435456, by decide +kernel⟩,
   ⟨wSd { SdCh.reset with settle := some 3 }, 7, ⟨0xF0000080⟩, { SdCh.reset with settle := some 3 }, 3, -268435456, by decide +kernel⟩⟩

/-- Witnesses of the hypotheses of AuxiliaryOutputsComplete. -/
theorem witness_AuxiliaryOutputsComplete :
    (∃ (s : State) (q : Req) (n : Byte) (lvl : Nat) (sid : Nat), s.Invoked q oAuxProspect [n] 1 true lvl sid ∧ n.toNat < 16 ∧ (smGet
      Aux.reset s.aux n.toNat).energised = false ∧ (smGet Aux.reset s.aux n.toNat).testing = false ∧ s.dev.auxTodo = []) ∧
    (∃ (s : State) (q : Req) (n : Byte) (lvl : Nat) (sid : Nat), s.Invoked q oAuxProspect [n] 1 true lvl sid ∧ n.toNat < 16 ∧ ((smGet
      Aux.reset s.aux n.toNat).energised = true ∨ (smGet Aux.reset s.aux n.toNat).testing = true ∨ n.toNat ∈ s.dev.auxTodo)) ∧
    (∃ (s : State) (q : Req) (n : Byte) (lvl : Nat) (sid : Nat), s.Invoked q oAuxProspect [n] 1 true lvl sid ∧ n.toNat < 16 ∧ ((smGet
      Aux.reset s.aux n.toNat).energised = true ∨ (smGet Aux.reset s.aux n.toNat).testing = true ∨ n.toNat ∈ s.dev.auxTodo)) ∧
    (∃ (s : State) (n : Fin 16) (va : Nat) (vb : Nat) (vaux : Nat) (r : Nat), (smGet Aux.reset s.aux n.val).testing = true ∧
      s.dev.auxTodo = [n.val] ∧ s.dev.state ≠ .discover ∧ va < 65536 ∧ vb < 65536 ∧ r = auxResult n.val va vb vaux (s.cv oAxRmin n.val) ∧
      (smGet Aux.reset s.aux n.val).testAt + 2 * (s.cv oAxSettle 0 * 1000 + 50000) ≤ s.time.up ∧ (r = 1 ∨ (r = 2 ∧ s.cv oAxLoad n.val =
      0))) ∧
    (∃ (s : State) (n : Fin 16) (va : Nat) (vb : Nat) (vaux : Nat) (r : Nat) (kind : Nat), (smGet Aux.reset s.aux n.val).testing = true ∧
      s.dev.auxTodo = [n.val] ∧ s.dev.state ≠ .discover ∧ va < 65536 ∧ vb < 65536 ∧ r = auxResult n.val va vb vaux (s.cv oAxRmin n.val) ∧
      (smGet Aux.reset s.aux n.val).testAt + 2 * (s.cv oAxSettle 0 * 1000 + 50000) ≤ s.time.up ∧ (r, kind) ∈ [(2, kAuxOpen), (3,
      kAuxShortVaux), (4, kAuxShortGnd)] ∧ (r = 2 → s.cv oAxLoad n.val ≠ 0) ∧ s.Quiet kind (0x9000 + n.val)) ∧
    (∃ (s : State) (n : Fin 16) (va : Nat) (vb : Nat) (vaux : Nat) (r : Nat) (kind : Nat), (smGet Aux.reset s.aux n.val).testing = true ∧
      s.dev.auxTodo = [n.val] ∧ s.dev.state ≠ .discover ∧ va < 65536 ∧ vb < 65536 ∧ r = auxResult n.val va vb vaux (s.cv oAxRmin n.val) ∧
      (smGet Aux.reset s.aux n.val).testAt + 2 * (s.cv oAxSettle 0 * 1000 + 50000) ≤ s.time.up ∧ (r, kind) ∈ [(2, kAuxOpen), (3,
      kAuxShortVaux), (4, kAuxShortGnd)] ∧ (r = 2 → s.cv oAxLoad n.val ≠ 0) ∧ s.Quiet kind (0x9000 + n.val)) ∧
    (∃ (s : State) (n : Fin 16) (va : Nat) (vb : Nat) (vaux : Nat) (r : Nat) (kind : Nat), (smGet Aux.reset s.aux n.val).testing = true ∧
      s.dev.auxTodo = [n.val] ∧ s.dev.state ≠ .discover ∧ va < 65536 ∧ vb < 65536 ∧ r = auxResult n.val va vb vaux (s.cv oAxRmin n.val) ∧
      (smGet Aux.reset s.aux n.val).testAt + 2 * (s.cv oAxSettle 0 * 1000 + 50000) ≤ s.time.up ∧ (r, kind) ∈ [(2, kAuxOpen), (3,
      kAuxShortVaux), (4, kAuxShortGnd)] ∧ (r = 2 → s.cv oAxLoad n.val ≠ 0) ∧ s.Quiet kind (0x9000 + n.val)) ∧
    (∃ (s : State) (n : Fin 16), ((smGet Aux.reset s.aux n.val).testing = false ∨ s.time.up < (smGet Aux.reset s.aux n.val).testAt + 2 *
      (s.cv oAxSettle 0 * 1000 + 50000))) ∧
    (∃ (s : State) (n : Fin 16), ((smGet Aux.reset s.aux n.val).testing = false ∨ s.time.up < (smGet Aux.reset s.aux n.val).testAt + 2 *
      (s.cv oAxSettle 0 * 1000 + 50000))) ∧
    (∃ (s : State) (n : Fin 16), (smGet Aux.reset s.aux n.val).testing = false) ∧
    (∃ (s : State) (n : Fin 16) (a : Aux), a = smGet Aux.reset s.aux n.val ∧ a.testing = true ∧ s.pair.role = .active ∧ (∀ m ∈
      s.dev.auxTodo, m = n.val)) ∧
    (∃ (s : State) (n : Fin 16) (a : Aux), a = smGet Aux.reset s.aux n.val ∧ a.testing = true ∧ s.pair.role = .active ∧ (∀ m ∈
      s.dev.auxTodo, m = n.val)) ∧
    (∃ (s : State) (n : Fin 16) (ma : Nat) (a : Aux), a = smGet Aux.reset s.aux n.val ∧ s.pair.role = .active ∧ ma ≤ (if n.val < 8 then
      2500 else 1250)) ∧
    (∃ (s : State) (n : Fin 16) (ma : Nat) (a : Aux), a = smGet Aux.reset s.aux n.val ∧ s.pair.role = .active ∧ ma ≤ (if n.val < 8 then
      2500 else 1250)) ∧
    (∃ (s : State) (n : Fin 16) (ma : Nat) (us : Nat) (a : Aux), a = smGet Aux.reset s.aux n.val ∧ s.pair.role = .active ∧ (if n.val < 8
      then 3500 else 1750) < ma ∧ 100 ≤ us ∧ a.energised = true ∧ (a.blanking = false ∨ a.blankAt + s.cv oAxOcBlank n.val * 1000000 ≤
      s.time.up) ∧ s.Quiet kAuxOvercurrent (0x9000 + n.val)) ∧
    (∃ (s : State) (n : Fin 16) (ma : Nat) (us : Nat) (a : Aux), a = smGet Aux.reset s.aux n.val ∧ s.pair.role = .active ∧ (if n.val < 8
      then 3500 else 1750) < ma ∧ 100 ≤ us ∧ a.energised = true ∧ (a.blanking = false ∨ a.blankAt + s.cv oAxOcBlank n.val * 1000000 ≤
      s.time.up) ∧ s.Quiet kAuxOvercurrent (0x9000 + n.val)) ∧
    (∃ (s : State) (n : Fin 16) (a : Aux), a = smGet Aux.reset s.aux n.val ∧ a.blanking = true ∧ s.pair.role = .active) ∧
    (∃ (s : State) (n : Fin 16) (a : Aux), a = smGet Aux.reset s.aux n.val ∧ a.blanking = true ∧ s.pair.role = .active) ∧
    (∃ (s : State) (n : Fin 16) (a : Aux), a = smGet Aux.reset s.aux n.val ∧ s.pair.role = .active ∧ a.ot = false ∧ s.Quiet kAuxOvertemp
      (0x9000 + n.val)) ∧
    (∃ (s : State) (n : Fin 16) (a : Aux), a = smGet Aux.reset s.aux n.val ∧ s.pair.role = .active) ∧
    (∃ (s : State) (q : Req) (n : Byte) (lvl : Nat) (sid : Nat) (a : Aux), s.Invoked q oAuxClear [n] 2 false lvl sid ∧ n.toNat < 16 ∧ a =
      smGet Aux.reset s.aux n.toNat ∧ s.pair.role = .active) :=
  ⟨⟨wRun, wA oAuxProspect [15], 15, 3, 7, wInvoked _ _ _ _ _ (by decide +kernel) rfl (by decide +kernel) (by decide +kernel)
     (by decide +kernel) (by decide +kernel), by decide +kernel⟩,
   ⟨wAux 4 { Aux.reset with energised := true }, wA oAuxProspect [4], 4, 3, 7, wInvoked _ _ _ _ _ (by decide +kernel) rfl
     (by decide +kernel) (by decide +kernel) (by decide +kernel) (by decide +kernel), by decide +kernel⟩,
   ⟨dv wRun fun d => { d with auxTodo := [4] }, wA oAuxProspect [4], 4, 3, 7, wInvoked _ _ _ _ _ (by decide +kernel) rfl
     (by decide +kernel) (by decide +kernel) (by decide +kernel) (by decide +kernel), by decide +kernel⟩,
   ⟨dv (wAux 4 { Aux.reset with testing := true }) fun d => { d with auxTodo := [4] }, 4, 2999, 5000, 24000, 1, by decide +kernel⟩,
   ⟨cfgd (quiet (dv (wAux 4 { Aux.reset with testing := true }) fun d => { d with auxTodo := [4] }) kAuxOpen 0x9004) oAxLoad 4 1, 4,
     3000, 5000, 24000, 2, kAuxOpen, by decide +kernel, by decide +kernel, by decide +kernel, by decide +kernel, by decide +kernel,
     by decide +kernel, by decide +kernel, by decide +kernel, by decide +kernel, by unfold State.Quiet; decide +kernel⟩,
   ⟨cfgd (quiet (dv (wAux 4 { Aux.reset with testing := true }) fun d => { d with auxTodo := [4] }) kAuxShortVaux 0x9004) oAxLoad 4 1, 4,
     3000, 23000, 24000, 3, kAuxShortVaux, by decide +kernel, by decide +kernel, by decide +kernel, by decide +kernel, by decide +kernel,
     by decide +kernel, by decide +kernel, by decide +kernel, by decide +kernel, by unfold State.Quiet; decide +kernel⟩,
   ⟨cfgd (quiet (dv (wAux 12 { Aux.reset with testing := true }) fun d => { d with auxTodo := [12] }) kAuxShortGnd 0x900C) oAxLoad 12 1,
     12, 3000, 1000, 24000, 4, kAuxShortGnd, by decide +kernel, by decide +kernel, by decide +kernel, by decide +kernel,
     by decide +kernel, by decide +kernel, by decide +kernel, by decide +kernel, by decide +kernel,
     by unfold State.Quiet; decide +kernel⟩,
   ⟨wRun, 4, by decide +kernel⟩,
   ⟨wAux 4 { Aux.reset with testing := true, testAt := 99999900000 }, 4, by decide +kernel⟩,
   ⟨wRun, 4, by decide +kernel⟩,
   ⟨dv (wAux 4 { Aux.reset with testing := true }) fun d => { d with auxTodo := [4] }, 4, { Aux.reset with testing := true },
     by decide +kernel⟩,
   ⟨dv (wAux 4 { Aux.reset with testing := true, oc := true, cmd := true, blankAt := 9 }) fun d => { d with auxTodo := [4] }, 4,
     { Aux.reset with testing := true, oc := true, cmd := true, blankAt := 9 }, by decide +kernel⟩,
   ⟨wRun, 7, 2500, Aux.reset, by decide +kernel⟩,
   ⟨wRun, 8, 1250, Aux.reset, by decide +kernel⟩,
   ⟨quiet (wAux 7 { Aux.reset with energised := true }) kAuxOvercurrent 0x9007, 7, 3501, 100, { Aux.reset with energised := true },
     by decide +kernel, by decide +kernel, by decide +kernel, by decide +kernel, by decide +kernel, by decide +kernel,
     by unfold State.Quiet; decide +kernel⟩,
   ⟨quiet (wAux 8 { Aux.reset with energised := true }) kAuxOvercurrent 0x9008, 8, 1751, 100, { Aux.reset with energised := true },
     by decide +kernel, by decide +kernel, by decide +kernel, by decide +kernel, by decide +kernel, by decide +kernel,
     by unfold State.Quiet; decide +kernel⟩,
   ⟨cfgd (wAux 8 { Aux.reset with energised := true, cmd := true, blanking := true, blankAt := 99995000000 }) oAxOcBlank 8 5, 8,
     { Aux.reset with energised := true, cmd := true, blanking := true, blankAt := 99995000000 }, by decide +kernel⟩,
   ⟨cfgd (wAux 8 { Aux.reset with energised := true, cmd := true, blanking := true, blankAt := 99995000001 }) oAxOcBlank 8 5, 8,
     { Aux.reset with energised := true, cmd := true, blanking := true, blankAt := 99995000001 }, by decide +kernel⟩,
   ⟨quiet (wAux 8 { Aux.reset with energised := true, cmd := true }) kAuxOvertemp 0x9008, 8,
     { Aux.reset with energised := true, cmd := true }, by decide +kernel, by decide +kernel, by decide +kernel,
     by unfold State.Quiet; decide +kernel⟩,
   ⟨wAux 8 { Aux.reset with ot := true, cmd := true }, 8, { Aux.reset with ot := true, cmd := true }, by decide +kernel⟩,
   ⟨wAux 8 { Aux.reset with oc := true, cmd := true }, wA oAuxClear [8], 8, 3, 7, { Aux.reset with oc := true, cmd := true }, wInvoked _
     _ _ _ _ (by decide +kernel) rfl (by decide +kernel) (by decide +kernel) (by decide +kernel) (by decide +kernel), by decide +kernel⟩⟩

/-- Witnesses of the hypotheses of FaultReactionsComplete. -/
theorem witness_FaultReactionsComplete :
    (∃ (src : BitVec 12) (kind : Byte), (isSource src.toNat = false ∨ kind? kind.toNat = none)) ∧
    (∃ (src : BitVec 12) (kind : Byte), (isSource src.toNat = false ∨ kind? kind.toNat = none)) ∧
    (∃ (s : State) (src : BitVec 12) (kind : Byte) (addr : BitVec 32) (cls : Nat), isSource src.toNat = true ∧ kind? kind.toNat ≠ none ∧
      sramKind kind.toNat = false ∧ kind.toNat ≠ kSramUe ∧ cls = (Eff.start s).classOf kind.toNat addr.toNat ∧ (cls < s.cv oJrnlHoldClass
      0 ∨ s.cv oJrnlHoldClass 0 = 0xFF) ∧ cls ≤ 1) ∧
    (∃ (s : State) (src : BitVec 12) (kind : Byte) (addr : BitVec 32) (cls : Nat), isSource src.toNat = true ∧ kind? kind.toNat ≠ none ∧
      sramKind kind.toNat = false ∧ kind.toNat ≠ kSramUe ∧ cls = (Eff.start s).classOf kind.toNat addr.toNat ∧ (cls < s.cv oJrnlHoldClass
      0 ∨ s.cv oJrnlHoldClass 0 = 0xFF) ∧ cls ≤ 1) ∧
    (∃ (s : State) (src : BitVec 12) (kind : Byte) (addr : BitVec 32) (cls : Nat), isSource src.toNat = true ∧ kind? kind.toNat ≠ none ∧
      sramKind kind.toNat = false ∧ kind.toNat ≠ kSramUe ∧ cls = (Eff.start s).classOf kind.toNat addr.toNat ∧ (cls < s.cv oJrnlHoldClass
      0 ∨ s.cv oJrnlHoldClass 0 = 0xFF) ∧ cls = 2 ∧ s.pair.role = .active) ∧
    (∃ (s : State) (src : BitVec 12) (kind : Byte) (addr : BitVec 32) (cls : Nat) (c : Nat), isSource src.toNat = true ∧ kind? kind.toNat
      ≠ none ∧ sramKind kind.toNat = false ∧ kind.toNat ≠ kSramUe ∧ cls = (Eff.start s).classOf kind.toNat addr.toNat ∧ (cls < s.cv
      oJrnlHoldClass 0 ∨ s.cv oJrnlHoldClass 0 = 0xFF) ∧ cls = 3 ∧ s.pair.role = .active ∧ scopeCell kind.toNat addr.toNat = some c) ∧
    (∃ (s : State) (src : BitVec 12) (kind : Byte) (addr : BitVec 32) (cls : Nat), isSource src.toNat = true ∧ kind? kind.toNat ≠ none ∧
      sramKind kind.toNat = false ∧ kind.toNat ≠ kSramUe ∧ cls = (Eff.start s).classOf kind.toNat addr.toNat ∧ (cls < s.cv oJrnlHoldClass
      0 ∨ s.cv oJrnlHoldClass 0 = 0xFF) ∧ cls = 4 ∧ s.pair.role = .active ∧ s.pair.standby = false) ∧
    (∃ (s : State) (src : BitVec 12) (kind : Byte) (addr : BitVec 32) (cls : Nat), isSource src.toNat = true ∧ kind? kind.toNat ≠ none ∧
      sramKind kind.toNat = false ∧ kind.toNat ≠ kSramUe ∧ cls = (Eff.start s).classOf kind.toNat addr.toNat ∧ (cls < s.cv oJrnlHoldClass
      0 ∨ s.cv oJrnlHoldClass 0 = 0xFF) ∧ (cls = 5 ∨ cls = 7 ∨ (cls = 6 ∧ (Eff.start s).hasStandby = false)) ∧ s.pair.role = .active ∧
      s.dev.state ∉ [.off, .boot, .safe] ∧ (Eff.start s).earlyGates = [] ∧ kind.toNat ∉ [kNminLost, kPwrFail, kTripAction]) ∧
    (∃ (s : State) (src : BitVec 12) (kind : Byte) (addr : BitVec 32) (cls : Nat), isSource src.toNat = true ∧ kind? kind.toNat ≠ none ∧
      sramKind kind.toNat = false ∧ kind.toNat ≠ kSramUe ∧ cls = (Eff.start s).classOf kind.toNat addr.toNat ∧ (cls < s.cv oJrnlHoldClass
      0 ∨ s.cv oJrnlHoldClass 0 = 0xFF) ∧ (cls = 5 ∨ cls = 7 ∨ (cls = 6 ∧ (Eff.start s).hasStandby = false)) ∧ s.pair.role = .active ∧
      s.dev.state ∉ [.off, .boot, .safe] ∧ (Eff.start s).earlyGates = [] ∧ kind.toNat ∉ [kNminLost, kPwrFail, kTripAction]) ∧
    (∃ (s : State) (src : BitVec 12) (kind : Byte) (addr : BitVec 32) (cls : Nat), isSource src.toNat = true ∧ kind? kind.toNat ≠ none ∧
      sramKind kind.toNat = false ∧ kind.toNat ≠ kSramUe ∧ cls = (Eff.start s).classOf kind.toNat addr.toNat ∧ (cls < s.cv oJrnlHoldClass
      0 ∨ s.cv oJrnlHoldClass 0 = 0xFF) ∧ (cls = 5 ∨ cls = 7 ∨ (cls = 6 ∧ (Eff.start s).hasStandby = false)) ∧ s.pair.role = .active ∧
      s.dev.state ∉ [.off, .boot, .safe] ∧ (Eff.start s).earlyGates = [] ∧ kind.toNat ∉ [kNminLost, kPwrFail, kTripAction]) ∧
    (∃ (s : State) (src : BitVec 12) (kind : Byte) (addr : BitVec 32) (cls : Nat), isSource src.toNat = true ∧ kind? kind.toNat ≠ none ∧
      sramKind kind.toNat = false ∧ kind.toNat ≠ kSramUe ∧ cls = (Eff.start s).classOf kind.toNat addr.toNat ∧ (cls < s.cv oJrnlHoldClass
      0 ∨ s.cv oJrnlHoldClass 0 = 0xFF) ∧ cls = 6 ∧ s.pair.role = .active ∧ (Eff.start s).hasStandby = true ∧ (Eff.start s).earlyGates =
      []) ∧
    (∃ (s : State) (src : BitVec 12) (kind : Byte) (addr : BitVec 32) (cls : Nat), isSource src.toNat = true ∧ kind? kind.toNat ≠ none ∧
      sramKind kind.toNat = false ∧ kind.toNat ≠ kSramUe ∧ cls = (Eff.start s).classOf kind.toNat addr.toNat ∧ (cls < s.cv oJrnlHoldClass
      0 ∨ s.cv oJrnlHoldClass 0 = 0xFF) ∧ 2 ≤ cls ∧ cls ≤ 5 ∧ s.pair.role ≠ .active) ∧
    (∃ (s : State) (src : BitVec 12) (kind : Byte) (addr : BitVec 32) (cls : Nat), isSource src.toNat = true ∧ kind? kind.toNat ≠ none ∧
      sramKind kind.toNat = false ∧ kind.toNat ≠ kSramUe ∧ cls = (Eff.start s).classOf kind.toNat addr.toNat ∧ (cls < s.cv oJrnlHoldClass
      0 ∨ s.cv oJrnlHoldClass 0 = 0xFF) ∧ 2 ≤ cls ∧ cls ≤ 5 ∧ s.pair.role ≠ .active) ∧
    (∃ (s : State) (src : BitVec 12) (kind : Byte) (addr : BitVec 32) (cls : Nat), isSource src.toNat = true ∧ kind? kind.toNat ≠ none ∧
      sramKind kind.toNat = false ∧ kind.toNat ≠ kSramUe ∧ cls = (Eff.start s).classOf kind.toNat addr.toNat ∧ (cls < s.cv oJrnlHoldClass
      0 ∨ s.cv oJrnlHoldClass 0 = 0xFF) ∧ (cls = 6 ∨ cls = 7) ∧ (s.pair.role = .standby ∨ s.pair.role = .joining) ∧ (Eff.start
      s).earlyGates = []) ∧
    (∃ (s : State) (src : BitVec 12) (kind : Byte) (addr : BitVec 32) (cls : Nat), isSource src.toNat = true ∧ kind? kind.toNat ≠ none ∧
      sramKind kind.toNat = false ∧ kind.toNat ≠ kSramUe ∧ cls = (Eff.start s).classOf kind.toNat addr.toNat ∧ (cls < s.cv oJrnlHoldClass
      0 ∨ s.cv oJrnlHoldClass 0 = 0xFF) ∧ (cls = 6 ∨ cls = 7) ∧ (s.pair.role = .standby ∨ s.pair.role = .joining) ∧ (Eff.start
      s).earlyGates = []) ∧
    (∃ (s : State) (src : BitVec 12) (addr : BitVec 32), isSource src.toNat = true ∧ addr.toNat < 0x1000000 ∧ s.Quiet kSramUe addr.toNat) ∧
    (∃ (s : State), s.dev.tripRepeat = none) ∧
    (∃ (s : State) (b : Block) (at0 : Nat), s.dev.tripRepeat = some (b, at0) ∧ s.time.up < at0 + 1000) ∧
    (∃ (s : State) (b : Block) (at0 : Nat), s.dev.tripRepeat = some (b, at0) ∧ at0 + 1000 ≤ s.time.up) :=
  ⟨⟨0x85, 0x25, by decide +kernel⟩,
   ⟨0x80, 0xFF, by decide +kernel⟩,
   ⟨rx wRun 0x25 5 1, 0x80, 0x25, 5, 1, by decide +kernel⟩,
   ⟨rx wStb 0x25 5 0, 0x80, 0x25, 5, 0, by decide +kernel⟩,
   ⟨rx wRun 0x25 5 2, 0x80, 0x25, 5, 2, by decide +kernel⟩,
   ⟨rx (cas wRun 9 .active) 0x46 8 3, 0x80, 0x46, 8, 3, 8, by decide +kernel⟩,
   ⟨rx wRun 0x25 5 4, 0x80, 0x25, 5, 4, by decide +kernel⟩,
   ⟨rx (lk wRun) 0x25 5 5, 0x80, 0x25, 5, 5, by decide +kernel⟩,
   ⟨rx (lk wRun) 0x25 5 7, 0x80, 0x25, 5, 7, by decide +kernel⟩,
   ⟨rx (lk wRun) 0x25 5 6, 0x80, 0x25, 5, 6, by decide +kernel⟩,
   ⟨rx (pr (lk wRun) fun p => { p with standby := true, peerWord := 1, claim := true }) 0x25 5 6, 0x80, 0x25, 5, 6, by decide +kernel⟩,
   ⟨rx wStb 0x25 5 5, 0x80, 0x25, 5, 5, by decide +kernel⟩,
   ⟨rx wStb 0x25 5 2, 0x80, 0x25, 5, 2, by decide +kernel⟩,
   ⟨rx wStb 0x25 5 6, 0x80, 0x25, 5, 6, by decide +kernel⟩,
   ⟨rx (wS .run .joining) 0x25 5 7, 0x80, 0x25, 5, 7, by decide +kernel⟩,
   ⟨quiet wRun kSramUe 0xFFFFFF, 0x80, 0xFFFFFF, by decide +kernel, by decide +kernel, by unfold State.Quiet; decide +kernel⟩,
   ⟨wRun, by decide +kernel⟩,
   ⟨dv (lk wRun) (fun d => { d with tripRepeat := some (tripBlock 5 1 1000, 99999999001) }), tripBlock 5 1 1000, 99999999001,
     by decide +kernel⟩,
   ⟨dv (lk wRun) (fun d => { d with tripRepeat := some (tripBlock 5 1 1000, 99999999000) }), tripBlock 5 1 1000, 99999999000,
     by decide +kernel⟩⟩

/-- Witnesses of the hypotheses of LedgerPathComplete. -/
theorem witness_LedgerPathComplete :
    (∃ (s : State) (src : Nat) (m : Entry), s.oldestHeld = some (src, m) ∧ s.queue.length < 256) ∧
    (∃ (s : State) (src : Nat) (m : Entry), s.oldestHeld = some (src, m) ∧ 256 ≤ s.queue.length) ∧
    (∃ (s : State), s.oldestHeld = none) ∧
    (∃ (s : State) (src : BitVec 12) (m : Entry), smGet none s.faults.holding src.toNat = some m ∧ (s.queue.length ≠ 256 ∨ s.time.up <
      max s.faults.fullAt (smGet 0 s.faults.heldSince src.toNat) + 2000)) ∧
    (∃ (s : State) (src : BitVec 12) (m : Entry), smGet none s.faults.holding src.toNat = some m ∧ s.queue.length = 256 ∧ max
      s.faults.fullAt (smGet 0 s.faults.heldSince src.toNat) + 2000 ≤ s.time.up) ∧
    (∃ (s : State) (src : BitVec 12), smGet none s.faults.holding src.toNat = none) ∧
    (∃ (s : State) (m : Entry) (r : List Entry), s.queue = m :: r ∧ (s.dev.state ≠ .boot ∨ 5 ≤ s.dev.bootStage)) ∧
    (∃ (s : State) (m : Entry) (r : List Entry), s.queue = m :: r ∧ (s.dev.state ≠ .boot ∨ 5 ≤ s.dev.bootStage)) ∧
    (∃ (s : State), s.queue = []) ∧
    (∃ (s : State) (safe : Prop) (due : Prop) (bank : Nat) (f : FaultSt), (safe = (∃ a, s.faults.safeEntry = some a ∧ a + 10000000000 ≤
      s.time.up)) ∧ due = (s.faults.storedSeq < (s.ring.head?.map (·.seq)).getD 0 ∧ s.faults.lastStore + s.cv oLedgerStoreMin 0 *
      60000000000 ≤ s.time.up) ∧ bank = (if (Eff.start s).newestSeq 0x20 = 0 then 0 else 1 - (Eff.start s).newestBank 0x20) ∧ ((safe ∧ f
      = { s.faults with safeEntry := none }) ∨ (¬safe ∧ f = s.faults)) ∧ (safe ∨ due) ∧ s.persist.job = none ∧ s.persist.small = false ∧
      s.dev.pwrFail = false ∧ s.clk.holdup = false) ∧
    (∃ (s : State) (safe : Prop) (due : Prop) (bank : Nat) (f : FaultSt), (safe = (∃ a, s.faults.safeEntry = some a ∧ a + 10000000000 ≤
      s.time.up)) ∧ due = (s.faults.storedSeq < (s.ring.head?.map (·.seq)).getD 0 ∧ s.faults.lastStore + s.cv oLedgerStoreMin 0 *
      60000000000 ≤ s.time.up) ∧ bank = (if (Eff.start s).newestSeq 0x20 = 0 then 0 else 1 - (Eff.start s).newestBank 0x20) ∧ ((safe ∧ f
      = { s.faults with safeEntry := none }) ∨ (¬safe ∧ f = s.faults)) ∧ (safe ∨ due) ∧ s.persist.job = none ∧ s.persist.small = false ∧
      s.dev.pwrFail = false ∧ s.clk.holdup = false) ∧
    (∃ (s : State) (safe : Prop) (due : Prop) (bank : Nat) (f : FaultSt), (safe = (∃ a, s.faults.safeEntry = some a ∧ a + 10000000000 ≤
      s.time.up)) ∧ due = (s.faults.storedSeq < (s.ring.head?.map (·.seq)).getD 0 ∧ s.faults.lastStore + s.cv oLedgerStoreMin 0 *
      60000000000 ≤ s.time.up) ∧ bank = (if (Eff.start s).newestSeq 0x20 = 0 then 0 else 1 - (Eff.start s).newestBank 0x20) ∧ ((safe ∧ f
      = { s.faults with safeEntry := none }) ∨ (¬safe ∧ f = s.faults)) ∧ (safe ∨ due) ∧ s.persist.job = none ∧ (s.persist.small = true ∨
      s.dev.pwrFail = true ∨ s.clk.holdup = true)) ∧
    (∃ (s : State) (safe : Prop) (due : Prop) (bank : Nat) (f : FaultSt), (safe = (∃ a, s.faults.safeEntry = some a ∧ a + 10000000000 ≤
      s.time.up)) ∧ due = (s.faults.storedSeq < (s.ring.head?.map (·.seq)).getD 0 ∧ s.faults.lastStore + s.cv oLedgerStoreMin 0 *
      60000000000 ≤ s.time.up) ∧ bank = (if (Eff.start s).newestSeq 0x20 = 0 then 0 else 1 - (Eff.start s).newestBank 0x20) ∧ ((safe ∧ f
      = { s.faults with safeEntry := none }) ∨ (¬safe ∧ f = s.faults)) ∧ ((¬safe ∧ ¬due) ∨ s.persist.job ≠ none)) ∧
    (∃ (s : State) (q : Req) (lvl : Nat) (sid : Nat), s.Invoked q oFirstErrRearm [] 2 false lvl sid) ∧
    (∃ (s : State) (q : Req) (args : List Byte) (lvl : Nat) (sid : Nat) (sq : Nat) (n : Nat) (m : Entry), s.Invoked q oLedgerRead args 2
      false lvl sid ∧ args.length = 5 ∧ fieldLe args 0 4 = sq ∧ octet args 4 = n ∧ 1 ≤ n ∧ n ≤ 40 ∧ sq = 0xFFFFFFF0 ∧ s.faults.first =
      some m) ∧
    (∃ (s : State) (q : Req) (args : List Byte) (lvl : Nat) (sid : Nat) (sq : Nat) (n : Nat) (l : List Entry), s.Invoked q oLedgerRead
      args 2 false lvl sid ∧ args.length = 5 ∧ fieldLe args 0 4 = sq ∧ octet args 4 = n ∧ 1 ≤ n ∧ n ≤ 40 ∧ sq < 0xFFFFFFF0 ∧ l =
      (s.ring.reverse.filter fun m => decide (sq ≤ m.seq)).take n ∧ l ≠ []) ∧
    (∃ (s : State) (q : Req) (lvl : Nat) (sid : Nat), s.Invoked q oLedgerClear [] 2 false lvl sid ∧ s.Quiet kLedgerCleared sid) :=
  ⟨⟨ft wRun fun f =>
     { f with holding := [(0x80, some (wMsg 0x25 2 0)), (0x81, some (wMsg 0x26 0 0))], heldSince := [(0x80, 9), (0x81, 5)] }, 0x81, wMsg
     0x26 0 0, by decide +kernel⟩,

     ⟨{ ft wRun (fun f => { f with holding := [(0x80, some (wMsg 0x25 2 0)), (0x81, some (wMsg 0x26 0 0))], heldSince := [(0x80, 9), (0x81, 5)] }) with queue := List.replicate 256 (wMsg 0x20 0 0) },
     0x81, wMsg 0x26 0 0, by decide +kernel⟩,
   ⟨wRun, by decide +kernel⟩,
   ⟨ft wRun fun f =>
     { f with holding := [(0x80, some (wMsg 0x25 2 0)), (0x81, some (wMsg 0x26 0 0))], heldSince := [(0x80, 9), (0x81, 5)] }, 0x80, wMsg
     0x25 2 0, by decide +kernel⟩,

     ⟨{ ft wRun (fun f => { f with holding := [(0x80, some (wMsg 0x25 2 0)), (0x81, some (wMsg 0x26 0 0))], heldSince := [(0x80, 9), (0x81, 5)] }) with queue := List.replicate 256 (wMsg 0x20 0 0) },
     0x80, wMsg 0x25 2 0, by decide +kernel⟩,
   ⟨wRun, 0x80, by decide +kernel⟩,

     ⟨{ wRun with queue := [wMsg 0x25 2 0, wMsg 0x26 0 0], ring := [wMsg 0x20 0 4], faults := { FaultSt.reset with ledgerSeq := 0xFFFFFFFF } },
     wMsg 0x25 2 0, [wMsg 0x26 0 0], by decide +kernel⟩,
   ⟨{ wBoot 5 with queue := [wMsg 0x25 2 0] }, wMsg 0x25 2 0, [], by decide +kernel⟩,
   ⟨wRun, by decide +kernel⟩,
   ⟨ft wRun fun f => { f with safeEntry := some 90000000000 }, ∃ a, (ft wRun fun f =>
     { f with safeEntry := some 90000000000 }).faults.safeEntry = some a ∧ a + 10000000000 ≤ (ft wRun fun f =>
     { f with safeEntry := some 90000000000 }).time.up, (ft wRun fun f => { f with safeEntry := some 90000000000 }).faults.storedSeq <
     ((ft wRun fun f => { f with safeEntry := some 90000000000 }).ring.head?.map (·.seq)).getD 0 ∧ (ft wRun fun f =>
     { f with safeEntry := some 90000000000 }).faults.lastStore + (ft wRun fun f => { f with safeEntry := some 90000000000 }).cv
     oLedgerStoreMin 0 * 60000000000 ≤ (ft wRun fun f => { f with safeEntry := some 90000000000 }).time.up, 0,
     { (ft wRun fun f => { f with safeEntry := some 90000000000 }).faults with safeEntry := none }, rfl, rfl, by decide +kernel, .inl
     ⟨⟨90000000000, rfl, by decide +kernel⟩, rfl⟩, .inl ⟨90000000000, rfl, by decide +kernel⟩, by decide +kernel⟩,
   ⟨cfgd { wRun with ring := [wMsg 0x25 0 6] } oLedgerStoreMin 0 1, ∃ a, (cfgd { wRun with ring := [wMsg 0x25 0 6] } oLedgerStoreMin 0
     1).faults.safeEntry = some a ∧ a + 10000000000 ≤ (cfgd { wRun with ring := [wMsg 0x25 0 6] } oLedgerStoreMin 0 1).time.up, (cfgd
     { wRun with ring := [wMsg 0x25 0 6] } oLedgerStoreMin 0 1).faults.storedSeq < ((cfgd { wRun with ring := [wMsg 0x25 0 6] }
     oLedgerStoreMin 0 1).ring.head?.map (·.seq)).getD 0 ∧ (cfgd { wRun with ring := [wMsg 0x25 0 6] } oLedgerStoreMin 0
     1).faults.lastStore + (cfgd { wRun with ring := [wMsg 0x25 0 6] } oLedgerStoreMin 0 1).cv oLedgerStoreMin 0 * 60000000000 ≤ (cfgd
     { wRun with ring := [wMsg 0x25 0 6] } oLedgerStoreMin 0 1).time.up, 0, (cfgd { wRun with ring := [wMsg 0x25 0 6] } oLedgerStoreMin 0
     1).faults, rfl, rfl, by decide +kernel, .inr ⟨(by rintro ⟨a, h, _⟩; cases h), rfl⟩, .inr ⟨by decide +kernel, by decide +kernel⟩,
     by decide +kernel⟩,
   ⟨ck (ft wRun fun f => { f with safeEntry := some 90000000000 }) fun c => { c with holdup := true }, ∃ a, (ck (ft wRun fun f =>
     { f with safeEntry := some 90000000000 }) fun c => { c with holdup := true }).faults.safeEntry = some a ∧ a + 10000000000 ≤ (ck (ft
     wRun fun f => { f with safeEntry := some 90000000000 }) fun c => { c with holdup := true }).time.up, (ck (ft wRun fun f =>
     { f with safeEntry := some 90000000000 }) fun c => { c with holdup := true }).faults.storedSeq < ((ck (ft wRun fun f =>
     { f with safeEntry := some 90000000000 }) fun c => { c with holdup := true }).ring.head?.map (·.seq)).getD 0 ∧ (ck (ft wRun fun f =>
     { f with safeEntry := some 90000000000 }) fun c => { c with holdup := true }).faults.lastStore + (ck (ft wRun fun f =>
     { f with safeEntry := some 90000000000 }) fun c => { c with holdup := true }).cv oLedgerStoreMin 0 * 60000000000 ≤ (ck (ft wRun fun
     f => { f with safeEntry := some 90000000000 }) fun c => { c with holdup := true }).time.up, 0,
     { (ck (ft wRun fun f => { f with safeEntry := some 90000000000 }) fun c => { c with holdup := true }).faults with safeEntry := none },
     rfl, rfl, by decide +kernel, .inl ⟨⟨90000000000, rfl, by decide +kernel⟩, rfl⟩, .inl ⟨90000000000, rfl, by decide +kernel⟩,
     by decide +kernel⟩,
   ⟨wRun, ∃ a, (wRun).faults.safeEntry = some a ∧ a + 10000000000 ≤ (wRun).time.up, (wRun).faults.storedSeq < ((wRun).ring.head?.map
     (·.seq)).getD 0 ∧ (wRun).faults.lastStore + (wRun).cv oLedgerStoreMin 0 * 60000000000 ≤ (wRun).time.up, 0, wRun.faults, rfl, rfl,
     by decide +kernel, .inr ⟨(by rintro ⟨a, h, _⟩; cases h), rfl⟩, .inl ⟨(by rintro ⟨a, h, _⟩; cases h), by decide +kernel⟩⟩,
   ⟨wRun, wA oFirstErrRearm [], 3, 7, wInvoked _ _ _ _ _ (by decide +kernel) rfl (by decide +kernel) (by decide +kernel)
     (by decide +kernel) (by decide +kernel)⟩,
   ⟨ft wRun fun f => { f with first := some (wMsg 0x25 2 4) }, wA oLedgerRead (le 5 0x28FFFFFFF0), le 5 0x28FFFFFFF0, 3, 7, 0xFFFFFFF0,
     40, wMsg 0x25 2 4, wInvoked _ _ _ _ _ (by decide +kernel) rfl (by decide +kernel) (by decide +kernel) (by decide +kernel)
     (by decide +kernel), by decide +kernel⟩,
   ⟨{ wRun with ring := [wMsg 0x25 0 6, wMsg 0x25 0 5, wMsg 0x25 0 4] }, wA oLedgerRead (le 5 0x0100000005), le 5 0x0100000005, 3, 7, 5,
     1, [wMsg 0x25 0 5], wInvoked _ _ _ _ _ (by decide +kernel) rfl (by decide +kernel) (by decide +kernel) (by decide +kernel)
     (by decide +kernel), by decide +kernel⟩,
   ⟨quiet { wRun with ring := [wMsg 0x25 0 6] } kLedgerCleared 7, wA oLedgerClear [], 3, 7, wInvoked _ _ _ _ _ (by decide +kernel) rfl
     (by decide +kernel) (by decide +kernel) (by decide +kernel) (by decide +kernel), by unfold State.Quiet; decide +kernel⟩⟩

/-- Witnesses of the hypotheses of InjectionAndEventsComplete. -/
theorem witness_InjectionAndEventsComplete :
    (∃ (s : State) (q : Req) (args : List Byte) (lvl : Nat) (sid : Nat) (d : Nat) (m : Nat), s.Invoked q oInjectOpen args 2 false lvl sid
      ∧ args.length = 3 ∧ fieldLe args 0 2 = d ∧ octet args 2 = m ∧ 1 ≤ d ∧ d ≤ 3600 ∧ m ≤ 1 ∧ s.faults.inject = none) ∧
    (∃ (s : State) (q : Req) (args : List Byte) (lvl : Nat) (sid : Nat) (d : Nat) (m : Nat), s.Invoked q oInjectOpen args 2 false lvl sid
      ∧ args.length = 3 ∧ fieldLe args 0 2 = d ∧ octet args 2 = m ∧ 1 ≤ d ∧ d ≤ 3600 ∧ m ≤ 1 ∧ s.faults.inject = none) ∧
    (∃ (s : State) (q : Req) (args : List Byte) (lvl : Nat) (sid : Nat) (d : Nat) (m : Nat) (i : Inject), s.Invoked q oInjectOpen args 2
      false lvl sid ∧ args.length = 3 ∧ fieldLe args 0 2 = d ∧ octet args 2 = m ∧ 1 ≤ d ∧ d ≤ 3600 ∧ m ≤ 1 ∧ s.faults.inject = some i ∧
      s.time.up < i.ends) ∧
    (∃ (s : State) (q : Req) (lvl : Nat) (sid : Nat) (i : Inject), s.Invoked q oInjectClose [] 2 false lvl sid ∧ s.faults.inject = some i
      ∧ i.sess = sid ∧ s.time.up < i.ends) ∧
    (∃ (s : State) (q : Req) (lvl : Nat) (sid : Nat), s.Invoked q oInjectClose [] 2 false lvl sid ∧ (∀ i, s.faults.inject = some i →
      i.sess ≠ sid ∨ i.ends ≤ s.time.up)) ∧
    (∃ (s : State) (q : Req) (lvl : Nat) (sid : Nat), s.Invoked q oInjectClose [] 2 false lvl sid ∧ (∀ i, s.faults.inject = some i →
      i.sess ≠ sid ∨ i.ends ≤ s.time.up)) ∧
    (∃ (s : State) (i : Inject), s.faults.inject = some i) ∧
    (∃ (s : State) (i : Inject), s.faults.inject = some i) ∧
    (∃ (s : State) (q : Req) (args : List Byte) (lvl : Nat) (sid : Nat) (src : Nat) (k : Nat) (a : Nat) (i : Inject), s.Invoked q oForce
      args 2 false lvl sid ∧ args.length = 7 ∧ fieldLe args 0 2 = src ∧ octet args 2 = k ∧ fieldLe args 3 4 = a ∧ isSource src = true ∧
      kind? k ≠ none ∧ s.faults.inject = some i ∧ i.sess = sid ∧ s.time.up < i.ends ∧ s.Quiet k a) ∧
    (∃ (s : State) (q : Req) (args : List Byte) (lvl : Nat) (sid : Nat) (src : Nat) (k : Nat) (a : Nat), s.Invoked q oForce args 2 false
      lvl sid ∧ args.length = 7 ∧ fieldLe args 0 2 = src ∧ octet args 2 = k ∧ fieldLe args 3 4 = a ∧ isSource src = true ∧ kind? k ≠ none
      ∧ (∀ i, s.faults.inject = some i → i.sess ≠ sid ∨ i.ends ≤ s.time.up)) ∧
    (∃ (s : State) (q : Req) (args : List Byte) (lvl : Nat) (sid : Nat) (i : Inject), s.Invoked q oForcePoint args 2 true lvl sid ∧
      args.length = 9 ∧ octet args 4 = 1 ∧ (Eff.start s).inSnapshot (fieldLe args 0 4) = true ∧ s.faults.inject = some i ∧ i.sess = sid ∧
      s.time.up < i.ends ∧ (Eff.start s).forcedSoon.length < 16 ∧ s.pair.standby = false) ∧
    (∃ (s : State) (q : Req) (lvl : Nat) (sid : Nat), s.Invoked q oEvSubscribe [1] 0 false lvl sid ∧ sid ≠ 0 ∧ s.faults.subs.any (·.sess
      == sid) = true) ∧
    (∃ (s : State) (q : Req) (lvl : Nat) (sid : Nat), s.Invoked q oEvSubscribe [1] 0 false lvl sid ∧ sid ≠ 0 ∧ s.faults.subs.any (·.sess
      == sid) = false ∧ s.faults.subs.length < 4) ∧
    (∃ (s : State) (q : Req) (lvl : Nat) (sid : Nat), s.Invoked q oEvSubscribe [0] 0 false lvl sid ∧ sid ≠ 0 ∧ s.faults.subs.any (·.sess
      == sid) = true) ∧
    (∃ (s : State) (slot : Fin 8) (ev : Fin 128) (x : Session) (b : Sub) (n : Nat), smGet none s.sess.slots slot.val = some x ∧
      s.faults.subs.find? (·.sess == x.id) = some b ∧ n = smGet 0 b.counts ev.val ∧ (n = 0 ∨ bitOf (s.cv oEvRoute ev.val) 2 = false)) ∧
    (∃ (s : State) (slot : Fin 8) (ev : Fin 128) (x : Session) (b : Sub) (n : Nat), smGet none s.sess.slots slot.val = some x ∧
      s.faults.subs.find? (·.sess == x.id) = some b ∧ n = smGet 0 b.counts ev.val ∧ (n = 0 ∨ bitOf (s.cv oEvRoute ev.val) 2 = false)) ∧
    (∃ (s : State) (slot : Fin 8) (ev : Fin 128) (x : Session) (b : Sub) (n : Nat) (e : Fin 2) (ip : BitVec 32) (port : BitVec 16), smGet
      none s.sess.slots slot.val = some x ∧ s.faults.subs.find? (·.sess == x.id) = some b ∧ n = smGet 0 b.counts ev.val ∧ n ≠ 0 ∧ bitOf
      (s.cv oEvRoute ev.val) 2 = true ∧ smGet 0 b.lastAt ev.val + 10000000 ≤ s.time.up ∧ x.src = .udp e ip port) :=
  ⟨⟨wRun, wA oInjectOpen [16, 14, 1], [16, 14, 1], 3, 7, 3600, 1, wInvoked _ _ _ _ _ (by decide +kernel) rfl (by decide +kernel)
     (by decide +kernel) (by decide +kernel) (by decide +kernel), by decide +kernel⟩,
   ⟨wRun, wA oInjectOpen [1, 0, 0], [1, 0, 0], 3, 7, 1, 0, wInvoked _ _ _ _ _ (by decide +kernel) rfl (by decide +kernel)
     (by decide +kernel) (by decide +kernel) (by decide +kernel), by decide +kernel⟩,
   ⟨wInj, wA oInjectOpen [1, 0, 0], [1, 0, 0], 3, 7, 1, 0, ⟨7, 0, 109000000000⟩, wInvoked _ _ _ _ _ (by decide +kernel) rfl
     (by decide +kernel) (by decide +kernel) (by decide +kernel) (by decide +kernel), by decide +kernel⟩,
   ⟨wInj, wA oInjectClose [], 3, 7, ⟨7, 0, 109000000000⟩, wInvoked _ _ _ _ _ (by decide +kernel) rfl (by decide +kernel)
     (by decide +kernel) (by decide +kernel) (by decide +kernel), by decide +kernel⟩,
   ⟨wRun, wA oInjectClose [], 3, 7, wInvoked _ _ _ _ _ (by decide +kernel) rfl (by decide +kernel) (by decide +kernel)
     (by decide +kernel) (by decide +kernel), fun _ h => nomatch h⟩,
   ⟨ft wRun fun f => { f with inject := some ⟨8, 0, 109000000000⟩ }, wA oInjectClose [], 3, 7, wInvoked _ _ _ _ _ (by decide +kernel) rfl
     (by decide +kernel) (by decide +kernel) (by decide +kernel) (by decide +kernel), fun i h => by cases h; decide⟩,
   ⟨wInj, ⟨7, 0, 109000000000⟩, by decide +kernel⟩,
   ⟨ft wRun fun f => { f with inject := some ⟨7, 0, 100000000000⟩ }, ⟨7, 0, 100000000000⟩, by decide +kernel⟩,
   ⟨quiet wInj 0x25 5, wA oForce (le 7 0x5250080), le 7 0x5250080, 3, 7, 0x80, 0x25, 5, ⟨7, 0, 109000000000⟩, wInvoked _ _ _ _ _
     (by decide +kernel) rfl (by decide +kernel) (by decide +kernel) (by decide +kernel) (by decide +kernel), by decide +kernel,
     by decide +kernel, by decide +kernel, by decide +kernel, by decide +kernel, by decide +kernel, by decide +kernel, by decide +kernel,
     by decide +kernel, by unfold State.Quiet; decide +kernel⟩,
   ⟨wRun, wA oForce (le 7 0x5250080), le 7 0x5250080, 3, 7, 0x80, 0x25, 5, wInvoked _ _ _ _ _ (by decide +kernel) rfl (by decide +kernel)
     (by decide +kernel) (by decide +kernel) (by decide +kernel), by decide +kernel, by decide +kernel, by decide +kernel,
     by decide +kernel, by decide +kernel, by decide +kernel, fun _ h => nomatch h⟩,
   ⟨wInj, wA oForcePoint (le 9 0x1234560100001037), le 9 0x1234560100001037, 3, 7, ⟨7, 0, 109000000000⟩, wInvoked _ _ _ _ _
     (by decide +kernel) rfl (by decide +kernel) (by decide +kernel) (by decide +kernel) (by decide +kernel), by decide +kernel⟩,
   ⟨wSub, wA oEvSubscribe [1], 3, 7, wInvoked _ _ _ _ _ (by decide +kernel) rfl (by decide +kernel) (by decide +kernel)
     (by decide +kernel) (by decide +kernel), by decide +kernel⟩,
   ⟨ft wRun fun f => { f with subs := [⟨1, [], []⟩, ⟨2, [], []⟩, ⟨3, [], []⟩] }, wA oEvSubscribe [1], 3, 7, wInvoked _ _ _ _ _
     (by decide +kernel) rfl (by decide +kernel) (by decide +kernel) (by decide +kernel) (by decide +kernel), by decide +kernel⟩,
   ⟨wSub, wA oEvSubscribe [0], 3, 7, wInvoked _ _ _ _ _ (by decide +kernel) rfl (by decide +kernel) (by decide +kernel)
     (by decide +kernel) (by decide +kernel), by decide +kernel⟩,
   ⟨cfgd wSub oEvRoute 31 4, 0, 31, wX, ⟨7, [(30, 3)], []⟩, 0, by decide +kernel⟩,
   ⟨cfgd wSub oEvRoute 30 3, 0, 30, wX, ⟨7, [(30, 3)], []⟩, 3, by decide +kernel⟩,
   ⟨cfgd wSub oEvRoute 30 4, 0, 30, wX, ⟨7, [(30, 3)], []⟩, 3, 0, 0x0A000001#32, 5000#16, by decide +kernel⟩⟩

/-- Witnesses of the hypotheses of MeterAndDispatcherRequestsComplete. -/
theorem witness_MeterAndDispatcherRequestsComplete :
    (∃ (s : State) (q : Req) (lvl : Nat) (sid : Nat) (right : Nat) (obj : Nat) (result : Bool) (args : List Byte) (c : Instr), ((∃ b :
      Byte, b.toNat ≤ 1 ∧ args = [b] ∧ obj = oDispEmerg ∧ right = 1 ∧ result = false ∧ c = Instr.dispEmerg q args) ∨ (args.length = 3 ∧
      octet args 0 < 192 ∧ fieldLe args 1 2 ≤ 10000 ∧ (Eff.start s).contracted (octet args 0) = true ∧ obj = oSocSet ∧ right = 2 ∧ result
      = true ∧ c = .socSet q args) ∨ (args.length = 5 ∧ octet args 0 < 192 ∧ obj = oMeterAck ∧ right = 1 ∧ result = false ∧ c = .meterAck
      q args)) ∧ s.Invoked q obj args right true lvl sid ∧ s.pair.standby = false) ∧
    (∃ (s : State) (q : Req) (lvl : Nat) (sid : Nat) (right : Nat) (obj : Nat) (result : Bool) (args : List Byte) (c : Instr), ((∃ b :
      Byte, b.toNat ≤ 1 ∧ args = [b] ∧ obj = oDispEmerg ∧ right = 1 ∧ result = false ∧ c = Instr.dispEmerg q args) ∨ (args.length = 3 ∧
      octet args 0 < 192 ∧ fieldLe args 1 2 ≤ 10000 ∧ (Eff.start s).contracted (octet args 0) = true ∧ obj = oSocSet ∧ right = 2 ∧ result
      = true ∧ c = .socSet q args) ∨ (args.length = 5 ∧ octet args 0 < 192 ∧ obj = oMeterAck ∧ right = 1 ∧ result = false ∧ c = .meterAck
      q args)) ∧ s.Invoked q obj args right true lvl sid ∧ s.pair.standby = false) ∧
    (∃ (s : State) (q : Req) (lvl : Nat) (sid : Nat) (right : Nat) (obj : Nat) (result : Bool) (args : List Byte) (c : Instr), ((∃ b :
      Byte, b.toNat ≤ 1 ∧ args = [b] ∧ obj = oDispEmerg ∧ right = 1 ∧ result = false ∧ c = Instr.dispEmerg q args) ∨ (args.length = 3 ∧
      octet args 0 < 192 ∧ fieldLe args 1 2 ≤ 10000 ∧ (Eff.start s).contracted (octet args 0) = true ∧ obj = oSocSet ∧ right = 2 ∧ result
      = true ∧ c = .socSet q args) ∨ (args.length = 5 ∧ octet args 0 < 192 ∧ obj = oMeterAck ∧ right = 1 ∧ result = false ∧ c = .meterAck
      q args)) ∧ s.Invoked q obj args right true lvl sid ∧ s.pair.standby = false) ∧
    (∃ (s : State) (q : Req) (lvl : Nat) (sid : Nat) (right : Nat) (obj : Nat) (result : Bool) (args : List Byte) (c : Instr), ((∃ b :
      Byte, b.toNat ≤ 1 ∧ args = [b] ∧ obj = oDispEmerg ∧ right = 1 ∧ result = false ∧ c = Instr.dispEmerg q args) ∨ (args.length = 3 ∧
      octet args 0 < 192 ∧ fieldLe args 1 2 ≤ 10000 ∧ (Eff.start s).contracted (octet args 0) = true ∧ obj = oSocSet ∧ right = 2 ∧ result
      = true ∧ c = .socSet q args) ∨ (args.length = 5 ∧ octet args 0 < 192 ∧ obj = oMeterAck ∧ right = 1 ∧ result = false ∧ c = .meterAck
      q args)) ∧ s.Invoked q obj args right true lvl sid ∧ s.pair.standby = true) ∧
    (∃ (s : State) (q : Req) (lvl : Nat) (sid : Nat) (right : Nat) (obj : Nat) (result : Bool) (args : List Byte) (c : Instr), ((∃ b :
      Byte, b.toNat ≤ 1 ∧ args = [b] ∧ obj = oDispEmerg ∧ right = 1 ∧ result = false ∧ c = Instr.dispEmerg q args) ∨ (args.length = 3 ∧
      octet args 0 < 192 ∧ fieldLe args 1 2 ≤ 10000 ∧ (Eff.start s).contracted (octet args 0) = true ∧ obj = oSocSet ∧ right = 2 ∧ result
      = true ∧ c = .socSet q args) ∨ (args.length = 5 ∧ octet args 0 < 192 ∧ obj = oMeterAck ∧ right = 1 ∧ result = false ∧ c = .meterAck
      q args)) ∧ s.Invoked q obj args right true lvl sid ∧ s.pair.standby = true) ∧
    (∃ (s : State) (q : Req) (lvl : Nat) (sid : Nat) (right : Nat) (obj : Nat) (result : Bool) (args : List Byte) (c : Instr), ((∃ b :
      Byte, b.toNat ≤ 1 ∧ args = [b] ∧ obj = oDispEmerg ∧ right = 1 ∧ result = false ∧ c = Instr.dispEmerg q args) ∨ (args.length = 3 ∧
      octet args 0 < 192 ∧ fieldLe args 1 2 ≤ 10000 ∧ (Eff.start s).contracted (octet args 0) = true ∧ obj = oSocSet ∧ right = 2 ∧ result
      = true ∧ c = .socSet q args) ∨ (args.length = 5 ∧ octet args 0 < 192 ∧ obj = oMeterAck ∧ right = 1 ∧ result = false ∧ c = .meterAck
      q args)) ∧ s.Invoked q obj args right true lvl sid ∧ s.pair.standby = true) ∧
    (∃ (s : State) (q : Req) (args : List Byte) (lvl : Nat) (sid : Nat), s.Invoked q oSocSet args 2 true lvl sid ∧ args.length = 3 ∧
      octet args 0 < 192 ∧ fieldLe args 1 2 ≤ 10000 ∧ s.cv oContractPack (octet args 0) = 0) ∧
    (∃ (s : State) (q : Req) (n : Byte) (lvl : Nat) (sid : Nat), s.Invoked q oMeterClose [n] 1 false lvl sid ∧ (n.toNat < 192 ∨ n.toNat =
      255) ∧ s.pair.standby = false) ∧
    (∃ (s : State) (q : Req) (n : Byte) (lvl : Nat) (sid : Nat), s.Invoked q oMeterClose [n] 1 false lvl sid ∧ (n.toNat < 192 ∨ n.toNat =
      255) ∧ s.pair.standby = false) ∧
    (∃ (s : State) (q : Req) (args : List Byte) (lvl : Nat) (sid : Nat) (r : Option (Nat × List Byte × Bool)), s.Invoked q oMeterRead
      args 1 false lvl sid ∧ args.length = 5 ∧ octet args 0 < 192 ∧ r = (smGet MPort.reset s.meter.ports (octet args 0)).recs.find? (·.1
      == fieldLe args 1 4)) ∧
    (∃ (s : State) (q : Req) (args : List Byte) (lvl : Nat) (sid : Nat) (r : Option (Nat × List Byte × Bool)), s.Invoked q oMeterRead
      args 1 false lvl sid ∧ args.length = 5 ∧ octet args 0 < 192 ∧ r = (smGet MPort.reset s.meter.ports (octet args 0)).recs.find? (·.1
      == fieldLe args 1 4)) ∧
    (∃ (s : State) (n : Fin 192), (s.pair.role ≠ .active ∨ (Eff.start s).closeOpen n.val = true ∨ s.meter.closes.find? (·.port == n.val)
      = none)) ∧
    (∃ (s : State) (n : Fin 192), (s.pair.role ≠ .active ∨ (Eff.start s).closeOpen n.val = true ∨ s.meter.closes.find? (·.port == n.val)
      = none)) ∧
    (∃ (s : State) (n : Fin 192) (c : MClose) (p : MPort) (prev : Option (Nat × List Byte × Bool)) (m : List Byte) (sig : List Byte),
      s.pair.role = .active ∧ s.pair.standby = false ∧ s.cv oStreamMeter 0 ≠ 1 ∧ (Eff.start s).closeOpen n.val = false ∧
      s.meter.closes.find? (·.port == n.val) = some c ∧ p = smGet MPort.reset s.meter.ports n.val ∧ p.recs.length < 96 ∧ prev =
      (p.recs.find? fun r => decide ((r.1 + 1) % 2 ^ 32 = c.seq)) ∧ m = [0x47#8, 0x4D#8, 0x52#8, 0x31#8, 1#8] ++ le 1 n.val ++ le 1
      c.cause ++ le 1 (c.flags + 16 * ofBool (c.seq != 0 && prev.isNone)) ++ le 8 Config.serial.toNat ++ le 4 c.seq ++ c.body ++
      prev.elim (zeros 32) (fun r => sha256 r.2.1) ∧ sig = meterSignature (sha256 m)) ∧
    (∃ (s : State) (n : Fin 192) (c : MClose) (p : MPort) (prev : Option (Nat × List Byte × Bool)) (m : List Byte) (sig : List Byte),
      s.pair.role = .active ∧ s.pair.standby = false ∧ s.cv oStreamMeter 0 ≠ 1 ∧ (Eff.start s).closeOpen n.val = false ∧
      s.meter.closes.find? (·.port == n.val) = some c ∧ p = smGet MPort.reset s.meter.ports n.val ∧ p.recs.length < 96 ∧ prev =
      (p.recs.find? fun r => decide ((r.1 + 1) % 2 ^ 32 = c.seq)) ∧ m = [0x47#8, 0x4D#8, 0x52#8, 0x31#8, 1#8] ++ le 1 n.val ++ le 1
      c.cause ++ le 1 (c.flags + 16 * ofBool (c.seq != 0 && prev.isNone)) ++ le 8 Config.serial.toNat ++ le 4 c.seq ++ c.body ++
      prev.elim (zeros 32) (fun r => sha256 r.2.1) ∧ sig = meterSignature (sha256 m)) :=
  ⟨⟨wRun, wA oDispEmerg [1], 3, 7, 1, oDispEmerg, false, [1], .dispEmerg (wA oDispEmerg [1]) [1], .inl ⟨1, by decide, rfl, rfl, rfl, rfl,
     rfl⟩, wInvoked _ _ _ _ _ (by decide +kernel) rfl (by decide +kernel) (by decide +kernel) (by decide +kernel) (by decide +kernel),
     by decide +kernel⟩,
   ⟨cfgd wRun oContractPack 5 9, wA oSocSet [5, 16, 39], 3, 7, 2, oSocSet, true, [5, 16, 39], .socSet (wA oSocSet [5, 16, 39]) [5, 16,
     39], .inr (.inl (by decide +kernel)), wInvoked _ _ _ _ _ (by decide +kernel) rfl (by decide +kernel) (by decide +kernel)
     (by decide +kernel) (by decide +kernel), by decide +kernel⟩,
   ⟨wRun, wA oMeterAck [191, 1, 0, 0, 0], 3, 7, 1, oMeterAck, false, [191, 1, 0, 0, 0], .meterAck (wA oMeterAck [191, 1, 0, 0, 0]) [191,
     1, 0, 0, 0], .inr (.inr (by decide +kernel)), wInvoked _ _ _ _ _ (by decide +kernel) rfl (by decide +kernel) (by decide +kernel)
     (by decide +kernel) (by decide +kernel), by decide +kernel⟩,
   ⟨pr wRun fun p => { p with standby := true }, wA oDispEmerg [1], 3, 7, 1, oDispEmerg, false, [1], .dispEmerg (wA oDispEmerg [1]) [1],
     .inl ⟨1, by decide, rfl, rfl, rfl, rfl, rfl⟩, wInvoked _ _ _ _ _ (by decide +kernel) rfl (by decide +kernel) (by decide +kernel)
     (by decide +kernel) (by decide +kernel), by decide +kernel⟩,
   ⟨pr (cfgd wRun oContractPack 5 9) fun p => { p with standby := true }, wA oSocSet [5, 16, 39], 3, 7, 2, oSocSet, true, [5, 16, 39],
     .socSet (wA oSocSet [5, 16, 39]) [5, 16, 39], .inr (.inl (by decide +kernel)), wInvoked _ _ _ _ _ (by decide +kernel) rfl
     (by decide +kernel) (by decide +kernel) (by decide +kernel) (by decide +kernel), by decide +kernel⟩,
   ⟨pr wRun fun p => { p with standby := true }, wA oMeterAck [191, 1, 0, 0, 0], 3, 7, 1, oMeterAck, false, [191, 1, 0, 0, 0], .meterAck
     (wA oMeterAck [191, 1, 0, 0, 0]) [191, 1, 0, 0, 0], .inr (.inr (by decide +kernel)), wInvoked _ _ _ _ _ (by decide +kernel) rfl
     (by decide +kernel) (by decide +kernel) (by decide +kernel) (by decide +kernel), by decide +kernel⟩,
   ⟨wRun, wA oSocSet [191, 16, 39], [191, 16, 39], 3, 7, wInvoked _ _ _ _ _ (by decide +kernel) rfl (by decide +kernel)
     (by decide +kernel) (by decide +kernel) (by decide +kernel), by decide +kernel⟩,
   ⟨wRun, wA oMeterClose [255], 255, 3, 7, wInvoked _ _ _ _ _ (by decide +kernel) rfl (by decide +kernel) (by decide +kernel)
     (by decide +kernel) (by decide +kernel), by decide +kernel⟩,
   ⟨wRun, wA oMeterClose [191], 191, 3, 7, wInvoked _ _ _ _ _ (by decide +kernel) rfl (by decide +kernel) (by decide +kernel)
     (by decide +kernel) (by decide +kernel), by decide +kernel⟩,
   ⟨wMet [(2, [1], false)], wA oMeterRead [5, 2, 0, 0, 0], [5, 2, 0, 0, 0], 3, 7, some (2, [1], false), wInvoked _ _ _ _ _
     (by decide +kernel) rfl (by decide +kernel) (by decide +kernel) (by decide +kernel) (by decide +kernel), by decide +kernel⟩,
   ⟨wRun, wA oMeterRead [5, 2, 0, 0, 0], [5, 2, 0, 0, 0], 3, 7, none, wInvoked _ _ _ _ _ (by decide +kernel) rfl (by decide +kernel)
     (by decide +kernel) (by decide +kernel) (by decide +kernel), by decide +kernel⟩,
   ⟨wRun, 5, by decide +kernel⟩,
   ⟨pr (wMet []) fun p => { p with role := .standby }, 5, by decide +kernel⟩,
   ⟨wMet [], 5, wClose, { MPort.reset with seq := 4, recs := [] }, none, wSigned none, meterSignature (sha256 (wSigned none)),
     by decide +kernel, by decide +kernel, by decide +kernel, by decide +kernel, by decide +kernel, by decide +kernel, by decide +kernel,
     by decide +kernel, rfl, rfl⟩,
   ⟨wMet [(2, [1], false)], 5, wClose, { MPort.reset with seq := 4, recs := [(2, [1], false)] }, some (2, [1], false), wSigned (some (2,
     [1], false)), meterSignature (sha256 (wSigned (some (2, [1], false)))), by decide +kernel, by decide +kernel, by decide +kernel,
     by decide +kernel, by decide +kernel, by decide +kernel, by decide +kernel, by decide +kernel, rfl, rfl⟩⟩

/-- Witnesses of the hypotheses of PtpMessagesComplete. -/
theorem witness_PtpMessagesComplete :
    (∃ (s : State) (m : Fin 2) (li : Int), (m.val ≠ (Eff.start s).ptpSelected ∨ li < -4 ∨ 1 < li ∨ (Eff.start s).ptpMaster = true)) ∧
    (∃ (s : State) (m : Fin 2) (li : Int), (m.val ≠ (Eff.start s).ptpSelected ∨ li < -4 ∨ 1 < li ∨ (Eff.start s).ptpMaster = true)) ∧
    (∃ (s : State) (m : Fin 2) (li : Int), (m.val ≠ (Eff.start s).ptpSelected ∨ li < -4 ∨ 1 < li ∨ (Eff.start s).ptpMaster = true)) ∧
    (∃ (s : State) (m : Fin 2) (t1 : Int) (ing : Int) (cor : Int) (li : Int) (t2 : Int) (o : Int), m.val = (Eff.start s).ptpSelected ∧ -4
      ≤ li ∧ li ≤ 1 ∧ (Eff.start s).ptpMaster = false ∧ t2 = ing - (Eff.start s).ptpConst oPtpIngressLat m.val ∧ o = t2 - t1 - (smGet
      PtpPort.reset s.time.ports m.val).pathDelay - cor - (Eff.start s).ptpConst oPtpAsym m.val ∧ (li ≠ 0 ∨ smWf PtpPort.reset
      s.time.ports = true) ∧ s.time.source ≠ 1) ∧
    (∃ (s : State) (m : Fin 2) (t1 : Int) (ing : Int) (cor : Int) (li : Int) (t2 : Int) (o : Int), m.val = (Eff.start s).ptpSelected ∧ -4
      ≤ li ∧ li ≤ 1 ∧ (Eff.start s).ptpMaster = false ∧ t2 = ing - (Eff.start s).ptpConst oPtpIngressLat m.val ∧ o = t2 - t1 - (smGet
      PtpPort.reset s.time.ports m.val).pathDelay - cor - (Eff.start s).ptpConst oPtpAsym m.val ∧ (li ≠ 0 ∨ smWf PtpPort.reset
      s.time.ports = true) ∧ s.time.source = 1 ∧ s.time.servo = .free ∧ s.time.samples = []) ∧
    (∃ (s : State) (m : Fin 2) (t1 : Int) (ing : Int) (cor : Int) (li : Int) (t2 : Int) (o : Int), m.val = (Eff.start s).ptpSelected ∧ -4
      ≤ li ∧ li ≤ 1 ∧ (Eff.start s).ptpMaster = false ∧ t2 = ing - (Eff.start s).ptpConst oPtpIngressLat m.val ∧ o = t2 - t1 - (smGet
      PtpPort.reset s.time.ports m.val).pathDelay - cor - (Eff.start s).ptpConst oPtpAsym m.val ∧ (li ≠ 0 ∨ smWf PtpPort.reset
      s.time.ports = true)) ∧
    (∃ (s : State) (m : Fin 2) (t1 : Int) (ing : Int) (cor : Int) (li : Int) (t2 : Int) (o : Int), m.val = (Eff.start s).ptpSelected ∧ -4
      ≤ li ∧ li ≤ 1 ∧ (Eff.start s).ptpMaster = false ∧ t2 = ing - (Eff.start s).ptpConst oPtpIngressLat m.val ∧ o = t2 - t1 - (smGet
      PtpPort.reset s.time.ports m.val).pathDelay - cor - (Eff.start s).ptpConst oPtpAsym m.val ∧ (li ≠ 0 ∨ smWf PtpPort.reset
      s.time.ports = true)) ∧
    (∃ (s : State) (m : Fin 2) (sq : BitVec 16) (p : PtpPort), p = smGet PtpPort.reset s.time.ports m.val ∧ (p.syncT2 = none ∨ p.syncSeq
      ≠ sq.toNat ∨ m.val ≠ (Eff.start s).ptpSelected ∨ (Eff.start s).ptpMaster = true)) ∧
    (∃ (s : State) (m : Fin 2) (sq : BitVec 16) (p : PtpPort), p = smGet PtpPort.reset s.time.ports m.val ∧ (p.syncT2 = none ∨ p.syncSeq
      ≠ sq.toNat ∨ m.val ≠ (Eff.start s).ptpSelected ∨ (Eff.start s).ptpMaster = true)) ∧
    (∃ (s : State) (m : Fin 2) (sq : BitVec 16) (t2 : Int) (p : PtpPort), p = smGet PtpPort.reset s.time.ports m.val ∧ p.syncT2 = some t2
      ∧ p.syncSeq = sq.toNat ∧ m.val = (Eff.start s).ptpSelected ∧ (Eff.start s).ptpMaster = false ∧ s.time.source ≠ 1 ∧ smWf
      PtpPort.reset s.time.ports = true) ∧
    (∃ (s : State) (m : Fin 2) (sq : BitVec 16) (p : PtpPort), p = smGet PtpPort.reset s.time.ports m.val ∧ (∀ t3, p.reqT3 ≠ some
      (sq.toNat, t3))) ∧
    (∃ (s : State) (m : Fin 2) (sq : BitVec 16) (t4 : Int) (cor : Int) (p : PtpPort) (t3 : Int) (d : Int), p = smGet PtpPort.reset
      s.time.ports m.val ∧ p.reqT3 = some (sq.toNat, t3) ∧ d = ((p.t2 - t3) + (t4 - p.t1) - (p.syncCorr + (Eff.start s).ptpConst oPtpAsym
      m.val) - cor) / 2) ∧
    (∃ (s : State) (m : Fin 2) (sq : BitVec 16) (p : PtpPort), p = smGet PtpPort.reset s.time.ports m.val ∧ (∀ t1, p.pdelT1 ≠ some
      (sq.toNat, t1))) ∧
    (∃ (s : State) (m : Fin 2) (sq : BitVec 16) (ing : Int) (tu : Int) (p : PtpPort) (t1 : Int) (d : Int), p = smGet PtpPort.reset
      s.time.ports m.val ∧ p.pdelT1 = some (sq.toNat, t1) ∧ d = (ing - (Eff.start s).ptpConst oPtpIngressLat m.val - t1 - (tu +
      (Eff.start s).ptpConst oPtpAsym m.val)) / 2) ∧
    (∃ (s : State) (m : Fin 2) (ing : Int) (t : Int), t = ing - (Eff.start s).ptpConst oPtpIngressLat m.val) ∧
    (∃ (s : State) (m : Fin 2) (ing : Int) (t : Int), t = ing - (Eff.start s).ptpConst oPtpIngressLat m.val) ∧
    (∃ (s : State) (m : Fin 2) (gm : BitVec 64) (p1 : Nat) (cc : Nat) (ac : Nat) (va : Nat) (p2 : Nat) (utc : Nat) (sr : Nat) (uv : Bool)
      (l61 : Bool) (l59 : Bool) (p : PtpPort), p = (smGet PtpPort.reset s.time.ports m.val).announced ⟨gm.toNat, [p1, cc, ac, va, p2,
      gm.toNat, sr], utc, uv, l61, l59, 0⟩ ∧ (s.cv oPtpPort 0 ≠ 2 ∨ m.val = 1 ∨ s.time.selected = 0)) ∧
    (∃ (s : State) (m : Fin 2) (gm : BitVec 64) (p1 : Nat) (cc : Nat) (ac : Nat) (va : Nat) (p2 : Nat) (utc : Nat) (sr : Nat) (uv : Bool)
      (l61 : Bool) (l59 : Bool) (p : PtpPort), p = (smGet PtpPort.reset s.time.ports m.val).announced ⟨gm.toNat, [p1, cc, ac, va, p2,
      gm.toNat, sr], utc, uv, l61, l59, 0⟩ ∧ (s.cv oPtpPort 0 ≠ 2 ∨ m.val = 1 ∨ s.time.selected = 0)) ∧
    (∃ (s : State) (m : Fin 2) (gm : BitVec 64) (p1 : Nat) (cc : Nat) (ac : Nat) (va : Nat) (p2 : Nat) (utc : Nat) (sr : Nat) (uv : Bool)
      (l61 : Bool) (l59 : Bool) (p : PtpPort), p = (smGet PtpPort.reset s.time.ports m.val).announced ⟨gm.toNat, [p1, cc, ac, va, p2,
      gm.toNat, sr], utc, uv, l61, l59, 0⟩ ∧ (s.cv oPtpPort 0 ≠ 2 ∨ m.val = 1 ∨ s.time.selected = 0)) ∧
    (∃ (s : State) (m : Fin 2) (ps : SMap PtpPort) (used : Nat), smWf PtpPort.reset s.time.ports = true ∧ ps = (smMod PtpPort.reset
      s.time.ports m.val fun p => { p with masters := [], announces := 0 }) ∧ used = (if s.cv oPtpPort 0 = 2 ∧ m.val = 0 then 1 else
      s.time.selected) ∧ m.val ≠ (Eff.start s).ptpSelected) ∧
    (∃ (s : State) (m : Fin 2) (ps : SMap PtpPort) (used : Nat), smWf PtpPort.reset s.time.ports = true ∧ ps = (smMod PtpPort.reset
      s.time.ports m.val fun p => { p with masters := [], announces := 0 }) ∧ used = (if s.cv oPtpPort 0 = 2 ∧ m.val = 0 then 1 else
      s.time.selected) ∧ m.val = (Eff.start s).ptpSelected ∧ (s.cv oPtpPort 0 = 2 → m.val = 0 → (smGet PtpPort.reset s.time.ports 1).best
      = none) ∧ (s.time.servo ≠ .locked ∨ s.time.source ≠ 1)) ∧
    (∃ (s : State) (m : Fin 2) (ps : SMap PtpPort) (used : Nat), smWf PtpPort.reset s.time.ports = true ∧ ps = (smMod PtpPort.reset
      s.time.ports m.val fun p => { p with masters := [], announces := 0 }) ∧ used = (if s.cv oPtpPort 0 = 2 ∧ m.val = 0 then 1 else
      s.time.selected) ∧ m.val = (Eff.start s).ptpSelected ∧ (s.cv oPtpPort 0 = 2 → m.val = 0 → (smGet PtpPort.reset s.time.ports 1).best
      = none) ∧ (s.time.servo ≠ .locked ∨ s.time.source ≠ 1)) ∧
    (∃ (s : State) (m : Fin 2) (ps : SMap PtpPort) (used : Nat), smWf PtpPort.reset s.time.ports = true ∧ ps = (smMod PtpPort.reset
      s.time.ports m.val fun p => { p with masters := [], announces := 0 }) ∧ used = (if s.cv oPtpPort 0 = 2 ∧ m.val = 0 then 1 else
      s.time.selected) ∧ m.val = (Eff.start s).ptpSelected ∧ (s.cv oPtpPort 0 = 2 → m.val = 0 → (smGet PtpPort.reset s.time.ports 1).best
      = none) ∧ s.time.servo = .locked ∧ s.time.source = 1 ∧ s.Quiet kTimeHold 0) ∧
    (∃ (s : State) (m : Fin 2) (ps : SMap PtpPort) (used : Nat) (f : Foreign), smWf PtpPort.reset s.time.ports = true ∧ ps = (smMod
      PtpPort.reset s.time.ports m.val fun p => { p with masters := [], announces := 0 }) ∧ used = (if s.cv oPtpPort 0 = 2 ∧ m.val = 0
      then 1 else s.time.selected) ∧ m.val = (Eff.start s).ptpSelected ∧ s.cv oPtpPort 0 = 2 ∧ m.val = 0 ∧ (smGet PtpPort.reset
      s.time.ports 1).best = some f) ∧
    (∃ (s : State) (eg : Int) (t : Int) (m : Nat) (p : PtpPort), m = (Eff.start s).ptpSelected ∧ p = smGet PtpPort.reset s.time.ports m ∧
      t = eg + (Eff.start s).ptpConst oPtpEgressLat m) ∧
    (∃ (s : State) (eg : Int) (t : Int) (m : Nat) (p : PtpPort), m = (Eff.start s).ptpSelected ∧ p = smGet PtpPort.reset s.time.ports m ∧
      t = eg + (Eff.start s).ptpConst oPtpEgressLat m) :=
  ⟨⟨wRun, 1, 0, by decide +kernel⟩,
   ⟨wRun, 0, -5, by decide +kernel⟩,
   ⟨wRun, 0, 2, by decide +kernel⟩,
   ⟨wRun, 0, 5, 600, 7, -4, 600, 588, by decide +kernel⟩,
   ⟨cfgd (tm wRun fun t => { t with source := 1 }) oPtpIngressLat 0 1000000, 0, 5, 65536600, 7, 1, 600, 588, by decide +kernel⟩,
   ⟨wRun, 0, 5, 600, 7, 0, 600, 588, by decide +kernel⟩,
   ⟨tm wRun fun t => { t with ports := [(0, { PtpPort.reset with syncT2 := some 900, syncSeq := 9, pathDelay := 30, syncCorr := 4 })] },
     0, 5, 600, 7, 1, 600, 558, by decide +kernel⟩,
   ⟨wRun, 0, 9, PtpPort.reset, by decide +kernel⟩,
   ⟨tm wRun fun t => { t with ports := [(0, { PtpPort.reset with syncT2 := some 900, syncSeq := 9, pathDelay := 30, syncCorr := 4 })] },
     0, 10, { PtpPort.reset with syncT2 := some 900, syncSeq := 9, pathDelay := 30, syncCorr := 4 }, by decide +kernel⟩,
   ⟨tm wRun fun t => { t with ports := [(0, { PtpPort.reset with syncT2 := some 900, syncSeq := 9, pathDelay := 30, syncCorr := 4 })] },
     0, 9, 900, { PtpPort.reset with syncT2 := some 900, syncSeq := 9, pathDelay := 30, syncCorr := 4 }, by decide +kernel⟩,
   ⟨wRun, 0, 9, PtpPort.reset, by decide +kernel, nofun⟩,
   ⟨tm wRun fun t => { t with ports := [(0, { PtpPort.reset with reqT3 := some (9, 1000), t1 := 5, t2 := 900, syncCorr := 4 })] }, 0, 9,
     1200, 6, { PtpPort.reset with reqT3 := some (9, 1000), t1 := 5, t2 := 900, syncCorr := 4 }, 1000, 542, by decide +kernel⟩,
   ⟨wRun, 0, 9, PtpPort.reset, by decide +kernel, nofun⟩,
   ⟨tm wRun fun t => { t with ports := [(1, { PtpPort.reset with pdelT1 := some (9, 1000) })] }, 1, 9, 1200, 6,
     { PtpPort.reset with pdelT1 := some (9, 1000) }, 1000, 97, by decide +kernel⟩,
   ⟨tm wRun fun t => { t with master := true }, 0, 70005, 70005, by decide +kernel⟩,
   ⟨wRun, 0, 5, 5, by decide +kernel⟩,
   ⟨cfgd wRun oPtpPort 0 1, 1, 0x1122334455667788, 128, 6, 33, 99, 128, 38, 1, true, false, true, PtpPort.reset.announced
     ⟨0x1122334455667788, [128, 6, 33, 99, 128, 0x1122334455667788, 1], 38, true, false, true, 0⟩, by decide +kernel⟩,
   ⟨cfgd (tm wRun fun t =>
     { t with ports := [(1, { PtpPort.reset with masters := [⟨0x1122334455667788, [128, 6, 33, 99, 128, 0x1122334455667788, 1], 38, true, false, true, 1⟩] })] })
     oPtpPort 0 1, 1, 0x1122334455667788, 128, 6, 33, 99, 128, 38, 1, true, false, true,
     ({ PtpPort.reset with masters := [⟨0x1122334455667788, [128, 6, 33, 99, 128, 0x1122334455667788, 1], 38, true, false, true, 1⟩] }).announced
     ⟨0x1122334455667788, [128, 6, 33, 99, 128, 0x1122334455667788, 1], 38, true, false, true, 0⟩, by decide +kernel⟩,
   ⟨cfgd (cfgd (tm wRun fun t =>
     { t with ports := [(0, { PtpPort.reset with masters := [⟨0x1122334455667788, [128, 6, 33, 99, 128, 0x1122334455667788, 1], 38, true, false, true, 1⟩] })] })
     oPtpPort 0 0) oPtpPriority 0 1, 0, 0x1122334455667788, 128, 6, 33, 99, 128, 38, 1, true, false, true,
     ({ PtpPort.reset with masters := [⟨0x1122334455667788, [128, 6, 33, 99, 128, 0x1122334455667788, 1], 38, true, false, true, 1⟩] }).announced
     ⟨0x1122334455667788, [128, 6, 33, 99, 128, 0x1122334455667788, 1], 38, true, false, true, 0⟩, by decide +kernel⟩,
   ⟨wRun, 1, [], 0, by decide +kernel⟩,
   ⟨cfgd (tm wRun fun t =>
     { t with ports := [(0, { PtpPort.reset with masters := [⟨0x1122334455667788, [128, 6, 33, 99, 128, 0x1122334455667788, 1], 38, true, false, true, 3⟩], announces := 5, t1 := 3 })] })
     oPtpPort 0 0, 0, [(0, { PtpPort.reset with t1 := 3 })], 0, by decide +kernel⟩,
   ⟨cfgd (tm wRun fun t => { t with selected := 1 }) oPtpPort 0 2, 1, [], 1, by decide +kernel⟩,
   ⟨quiet (cfgd (tm wRun fun t =>
     { t with ports := [(0, { PtpPort.reset with masters := [⟨0x1122334455667788, [128, 6, 33, 99, 128, 0x1122334455667788, 1], 38, true, false, true, 3⟩], announces := 5, t1 := 3 })], servo := .locked, source := 1, lastSampleAt := 99999999999 })
     oPtpPort 0 0) kTimeHold 0, 0, [(0, { PtpPort.reset with t1 := 3 })], 0, by decide +kernel, by decide +kernel, by decide +kernel,
     by decide +kernel, by decide +kernel, by decide +kernel, by decide +kernel, by unfold State.Quiet; decide +kernel⟩,
   ⟨cfgd (tm wRun fun t =>
     { t with ports := [(0, { PtpPort.reset with masters := [⟨0x1122334455667788, [128, 6, 33, 99, 128, 0x1122334455667788, 1], 38, true, false, true, 3⟩], announces := 5, t1 := 3 }), (1, { PtpPort.reset with masters := [⟨0x1122334455667788, [128, 6, 33, 99, 128, 0x1122334455667788, 1], 38, true, false, true, 2⟩] })] })
     oPtpPort 0 2, 0, [(0, { PtpPort.reset with t1 := 3 }), (1,
     { PtpPort.reset with masters := [⟨0x1122334455667788, [128, 6, 33, 99, 128, 0x1122334455667788, 1], 38, true, false, true, 2⟩] })],
     1, ⟨0x1122334455667788, [128, 6, 33, 99, 128, 0x1122334455667788, 1], 38, true, false, true, 2⟩, by decide +kernel⟩,
   ⟨cfgd wRun oPtpEgressLat 0 1000, 70000, 135536, 0, PtpPort.reset, by decide +kernel⟩,
   ⟨cfgd (cfgd (tm wRun fun t => { t with master := true }) oPtpPort 0 1) oPtpProfile 0 1, 70000, 70000, 1, PtpPort.reset,
     by decide +kernel⟩⟩

/-- Witnesses of the hypotheses of ServoAndCalendarComplete. -/
theorem witness_ServoAndCalendarComplete :
    (∃ (s : State) (o : Int) (t : State), t = ((Eff.start s).offsetSample o).st ∧ s.time.servo = .free ∧ s.time.samples = []) ∧
    (∃ (s : State) (o : Int) (t : State) (m : Int), t = ((Eff.start s).offsetSample o).st ∧ s.time.servo = .acquire ∧ (Eff.start
      { s with time := { s.time with samples := (o :: s.time.samples).take 8 } }).lockMean = some m ∧ (-(Eff.start s).stepThr ≤ m ∧ m ≤
      (Eff.start s).stepThr)) ∧
    (∃ (s : State) (o : Int) (t : State) (m : Int), t = ((Eff.start s).offsetSample o).st ∧ s.time.servo = .acquire ∧ (Eff.start
      { s with time := { s.time with samples := (o :: s.time.samples).take 8 } }).lockMean = some m ∧ (m < -(Eff.start s).stepThr ∨
      (Eff.start s).stepThr < m) ∧ s.time.everLocked = false ∧ s.time.stepUsed = false ∧ (Eff.start s).mayStep = true) ∧
    (∃ (s : State) (o : Int) (t : State), t = ((Eff.start s).offsetSample o).st ∧ s.time.servo = .locked ∧ s.time.stepAt = none ∧ (o <
      -(Eff.start s).stepThr ∨ (Eff.start s).stepThr < o) ∧ s.Quiet kTimeHold 0 ∧ s.Quiet kTimeDiscontinuity 0) ∧
    (∃ (s : State) (o : Int) (t : State), t = ((Eff.start s).offsetSample o).st ∧ s.time.servo = .locked ∧ s.time.stepAt = none ∧ (o <
      -(Eff.start s).stepThr ∨ (Eff.start s).stepThr < o) ∧ s.Quiet kTimeHold 0 ∧ s.Quiet kTimeDiscontinuity 0) ∧
    (∃ (s : State), s.time.servo ≠ .locked) ∧
    (∃ (s : State), s.time.servo = .locked ∧ s.time.source = 2 ∧ s.Quiet kTimeHold 0) ∧
    (∃ (s : State), s.time.servo = .locked ∧ s.time.source = 2 ∧ s.Quiet kTimeHold 0) ∧
    (∃ (s : State) (q : Req) (lvl : Nat) (sid : Nat), s.Invoked q oStepAuthorise [] 2 false lvl sid ∧ (s.pair.role ≠ .active ∨
      s.dev.state ∉ [.ready, .discover, .safe])) ∧
    (∃ (s : State) (q : Req) (lvl : Nat) (sid : Nat), s.Invoked q oStepAuthorise [] 2 false lvl sid ∧ (s.pair.role ≠ .active ∨
      s.dev.state ∉ [.ready, .discover, .safe])) ∧
    (∃ (s : State) (q : Req) (lvl : Nat) (sid : Nat), s.Invoked q oStepAuthorise [] 2 false lvl sid ∧ s.pair.role = .active ∧ s.dev.state
      ∈ [.ready, .discover, .safe] ∧ (Eff.start s).lockMean = none) ∧
    (∃ (s : State) (q : Req) (lvl : Nat) (sid : Nat) (m : Int), s.Invoked q oStepAuthorise [] 2 false lvl sid ∧ s.pair.role = .active ∧
      s.dev.state ∈ [.ready, .discover, .safe] ∧ (Eff.start s).lockMean = some m ∧ s.pair.standby = false) ∧
    (∃ (s : State) (q : Req) (lvl : Nat) (sid : Nat) (m : Int), s.Invoked q oStepAuthorise [] 2 false lvl sid ∧ s.pair.role = .active ∧
      s.dev.state ∈ [.ready, .discover, .safe] ∧ (Eff.start s).lockMean = some m ∧ s.pair.standby = true) ∧
    (∃ (s : State), (s.cv oCalAuto 0 = 0 ∨ (Eff.start s).ptpLocked = false ∨ s.time.up < s.time.lastCompare + 60000000000)) ∧
    (∃ (s : State), (s.cv oCalAuto 0 = 0 ∨ (Eff.start s).ptpLocked = false ∨ s.time.up < s.time.lastCompare + 60000000000)) ∧
    (∃ (s : State), (s.cv oCalAuto 0 = 0 ∨ (Eff.start s).ptpLocked = false ∨ s.time.up < s.time.lastCompare + 60000000000)) ∧
    (∃ (s : State) (d : Int), s.cv oCalAuto 0 ≠ 0 ∧ (Eff.start s).ptpLocked = true ∧ s.time.lastCompare + 60000000000 ≤ s.time.up ∧ d =
      ((Eff.start s).calNow : Int) - (Eff.start s).utcCal ∧ s.time.up / 3600000000000 = s.time.lastCompare / 3600000000000) ∧
    (∃ (s : State) (d : Int), s.cv oCalAuto 0 ≠ 0 ∧ (Eff.start s).ptpLocked = true ∧ s.time.lastCompare + 60000000000 ≤ s.time.up ∧ d =
      ((Eff.start s).calNow : Int) - (Eff.start s).utcCal ∧ s.time.up / 3600000000000 = s.time.lastCompare / 3600000000000) ∧
    (∃ (s : State) (d : Int), s.cv oCalAuto 0 ≠ 0 ∧ (Eff.start s).ptpLocked = true ∧ s.time.lastCompare + 60000000000 ≤ s.time.up ∧ d =
      ((Eff.start s).calNow : Int) - (Eff.start s).utcCal ∧ s.time.lastCompare / 3600000000000 < s.time.up / 3600000000000) ∧
    (∃ (s : State) (q : Req) (args : List Byte) (lvl : Nat) (sid : Nat), s.Invoked q oCalSet args 2 false lvl sid ∧ args.length = 8 ∧
      (Eff.start s).ptpLocked = true ∧ s.cv oCalAuto 0 = 1) ∧
    (∃ (s : State) (q : Req) (args : List Byte) (lvl : Nat) (sid : Nat), s.Invoked q oCalSet args 2 false lvl sid ∧ args.length = 8 ∧
      ((Eff.start s).ptpLocked = false ∨ s.cv oCalAuto 0 ≠ 1)) ∧
    (∃ (s : State) (q : Req) (lvl : Nat) (sid : Nat), s.Invoked q oCalTamperClear [] 2 false lvl sid ∧ s.Quiet kTroubleClear sid) ∧
    (∃ (s : State) (mv : Nat) (c : ClkSt) (lost : Prop), smWf 0 s.clk.railMv = true ∧ c =
      { s.clk with railMv := smSet 0 s.clk.railMv 9 mv, notOk := if 2000 ≤ mv ∧ mv ≤ 3600 then s.clk.notOk.filter (· != 9) else (9 :: s.clk.notOk).dedup }
      ∧ lost = (mv = 0 ∧ 7 ∈ s.clk.notOk ∧ smGet 0 s.clk.railMv 7 < 1620) ∧ ¬lost) ∧
    (∃ (s : State) (mv : Nat) (c : ClkSt) (lost : Prop), smWf 0 s.clk.railMv = true ∧ c =
      { s.clk with railMv := smSet 0 s.clk.railMv 9 mv, notOk := if 2000 ≤ mv ∧ mv ≤ 3600 then s.clk.notOk.filter (· != 9) else (9 :: s.clk.notOk).dedup }
      ∧ lost = (mv = 0 ∧ 7 ∈ s.clk.notOk ∧ smGet 0 s.clk.railMv 7 < 1620) ∧ ¬lost) ∧
    (∃ (s : State) (mv : Nat) (c : ClkSt) (lost : Prop), smWf 0 s.clk.railMv = true ∧ c =
      { s.clk with railMv := smSet 0 s.clk.railMv 9 mv, notOk := if 2000 ≤ mv ∧ mv ≤ 3600 then s.clk.notOk.filter (· != 9) else (9 :: s.clk.notOk).dedup }
      ∧ lost = (mv = 0 ∧ 7 ∈ s.clk.notOk ∧ smGet 0 s.clk.railMv 7 < 1620) ∧ ¬lost) ∧
    (∃ (s : State) (mv : Nat) (c : ClkSt) (lost : Prop), smWf 0 s.clk.railMv = true ∧ c =
      { s.clk with railMv := smSet 0 s.clk.railMv 9 mv, notOk := if 2000 ≤ mv ∧ mv ≤ 3600 then s.clk.notOk.filter (· != 9) else (9 :: s.clk.notOk).dedup }
      ∧ lost = (mv = 0 ∧ 7 ∈ s.clk.notOk ∧ smGet 0 s.clk.railMv 7 < 1620) ∧ ¬lost) ∧
    (∃ (s : State) (mv : Nat) (c : ClkSt) (lost : Prop), smWf 0 s.clk.railMv = true ∧ c =
      { s.clk with railMv := smSet 0 s.clk.railMv 9 mv, notOk := if 2000 ≤ mv ∧ mv ≤ 3600 then s.clk.notOk.filter (· != 9) else (9 :: s.clk.notOk).dedup }
      ∧ lost = (mv = 0 ∧ 7 ∈ s.clk.notOk ∧ smGet 0 s.clk.railMv 7 < 1620) ∧ lost) :=
  ⟨⟨wRun, 500, ((Eff.start wRun).offsetSample 500).st, rfl, by decide +kernel⟩,
   ⟨tm wRun fun t => { t with servo := .acquire, source := 1, samples := [655360, 655361, 655362, 655363, 655364, 655365, 655366] },
     655367, ((Eff.start (tm wRun fun t =>
     { t with servo := .acquire, source := 1, samples := [655360, 655361, 655362, 655363, 655364, 655365, 655366] })).offsetSample
     655367).st, 655363, rfl, by decide +kernel⟩,
   ⟨dv (tm wRun fun t => { t with servo := .acquire, source := 1, samples := List.replicate 7 6553600000 }) fun d =>
     { d with state := .ready }, 6553600000, ((Eff.start (dv (tm wRun fun t =>
     { t with servo := .acquire, source := 1, samples := List.replicate 7 6553600000 }) fun d =>
     { d with state := .ready })).offsetSample 6553600000).st, 6553600000, rfl, by decide +kernel⟩,
   ⟨quiet (quiet (tm wRun fun t => { t with servo := .locked, source := 1 }) kTimeHold 0) kTimeDiscontinuity 0, 65536001, ((Eff.start
     (quiet (quiet (tm wRun fun t => { t with servo := .locked, source := 1 }) kTimeHold 0) kTimeDiscontinuity 0)).offsetSample
     65536001).st, rfl, by decide +kernel, by decide +kernel, by decide +kernel, by unfold State.Quiet; decide +kernel,
     by unfold State.Quiet; decide +kernel⟩,
   ⟨quiet (quiet (tm wRun fun t => { t with servo := .locked, source := 1 }) kTimeHold 0) kTimeDiscontinuity 0, -65536001, ((Eff.start
     (quiet (quiet (tm wRun fun t => { t with servo := .locked, source := 1 }) kTimeHold 0) kTimeDiscontinuity 0)).offsetSample
     (-65536001)).st, rfl, by decide +kernel, by decide +kernel, by decide +kernel, by unfold State.Quiet; decide +kernel,
     by unfold State.Quiet; decide +kernel⟩,
   ⟨wRun, by decide +kernel⟩,
   ⟨quiet (tm wRun fun t => { t with servo := .locked, source := 2, lastSampleAt := 99999960000, incrs := [5, 8] }) kTimeHold 0,
     by decide +kernel, by decide +kernel, by unfold State.Quiet; decide +kernel⟩,
   ⟨quiet (tm wRun fun t => { t with servo := .locked, source := 2, lastSampleAt := 99999960001 }) kTimeHold 0, by decide +kernel,
     by decide +kernel, by unfold State.Quiet; decide +kernel⟩,
   ⟨wRun, wA oStepAuthorise [], 3, 7, wInvoked _ _ _ _ _ (by decide +kernel) rfl (by decide +kernel) (by decide +kernel)
     (by decide +kernel) (by decide +kernel), by decide +kernel⟩,
   ⟨wS .ready .standby, wA oStepAuthorise [], 3, 7, wInvoked _ _ _ _ _ (by decide +kernel) rfl (by decide +kernel) (by decide +kernel)
     (by decide +kernel) (by decide +kernel), by decide +kernel⟩,
   ⟨wS .ready .active, wA oStepAuthorise [], 3, 7, wInvoked _ _ _ _ _ (by decide +kernel) rfl (by decide +kernel) (by decide +kernel)
     (by decide +kernel) (by decide +kernel), by decide +kernel⟩,
   ⟨tm (wS .ready .active) fun t => { t with samples := List.replicate 8 6553600000 }, wA oStepAuthorise [], 3, 7, 6553600000, wInvoked _
     _ _ _ _ (by decide +kernel) rfl (by decide +kernel) (by decide +kernel) (by decide +kernel) (by decide +kernel), by decide +kernel⟩,
   ⟨tm (pr (wS .ready .active) fun p => { p with standby := true }) (fun t => { t with samples := List.replicate 8 6553600000 }), wA
     oStepAuthorise [], 3, 7, 6553600000, wInvoked _ _ _ _ _ (by decide +kernel) rfl (by decide +kernel) (by decide +kernel)
     (by decide +kernel) (by decide +kernel), by decide +kernel⟩,
   ⟨wRun, by decide +kernel⟩,
   ⟨cfgd (tm wRun fun t => { t with servo := .locked, source := 1 }) oCalAuto 0 0, by decide +kernel⟩,
   ⟨tm wRun fun t => { t with servo := .locked, source := 1, lastCompare := 40000000001 }, by decide +kernel⟩,
   ⟨tm wRun fun t => { t with servo := .locked, source := 1, lastCompare := 40000000000, calBase := 2064384, calAt := 100000000000 }, 0,
     by decide +kernel⟩,
   ⟨tm wRun fun t => { t with servo := .locked, source := 1, lastCompare := 40000000000 }, 1212416, by decide +kernel⟩,
   ⟨tm wRun fun t =>
     { t with servo := .locked, source := 1, lastCompare := 3500000000000, up := 3700000000000, calBase := 2064390, calAt := 3700000000000, drift := 200 },
     6, by decide +kernel⟩,
   ⟨tm wRun fun t => { t with servo := .locked, source := 1 }, wA oCalSet (le 8 99), le 8 99, 3, 7, wInvoked _ _ _ _ _
     (by decide +kernel) rfl (by decide +kernel) (by decide +kernel) (by decide +kernel) (by decide +kernel), by decide +kernel⟩,
   ⟨wRun, wA oCalSet (le 8 99), le 8 99, 3, 7, wInvoked _ _ _ _ _ (by decide +kernel) rfl (by decide +kernel) (by decide +kernel)
     (by decide +kernel) (by decide +kernel), by decide +kernel⟩,
   ⟨quiet (tm wRun fun t => { t with tamper := [(1, 5)] }) kTroubleClear 7, wA oCalTamperClear [], 3, 7, wInvoked _ _ _ _ _
     (by decide +kernel) rfl (by decide +kernel) (by decide +kernel) (by decide +kernel) (by decide +kernel),
     by unfold State.Quiet; decide +kernel⟩,
   ⟨tm wRun fun t => { t with calValid := true }, 1799,
     { (tm wRun fun t => { t with calValid := true }).clk with railMv := smSet 0 (tm wRun fun t => { t with calValid := true }).clk.railMv 9 1799, notOk := if 2000 ≤ 1799 ∧ 1799 ≤ 3600 then (tm wRun fun t => { t with calValid := true }).clk.notOk.filter (· != 9) else (9 :: (tm wRun fun t => { t with calValid := true }).clk.notOk).dedup },
     1799 = 0 ∧ 7 ∈ (tm wRun fun t => { t with calValid := true }).clk.notOk ∧ smGet 0 (tm wRun fun t =>
     { t with calValid := true }).clk.railMv 7 < 1620, by decide +kernel, rfl, rfl, by decide +kernel⟩,
   ⟨tm wRun fun t => { t with calValid := true }, 1800,
     { (tm wRun fun t => { t with calValid := true }).clk with railMv := smSet 0 (tm wRun fun t => { t with calValid := true }).clk.railMv 9 1800, notOk := if 2000 ≤ 1800 ∧ 1800 ≤ 3600 then (tm wRun fun t => { t with calValid := true }).clk.notOk.filter (· != 9) else (9 :: (tm wRun fun t => { t with calValid := true }).clk.notOk).dedup },
     1800 = 0 ∧ 7 ∈ (tm wRun fun t => { t with calValid := true }).clk.notOk ∧ smGet 0 (tm wRun fun t =>
     { t with calValid := true }).clk.railMv 7 < 1620, by decide +kernel, rfl, rfl, by decide +kernel⟩,
   ⟨tm wRun fun t => { t with calValid := true }, 2199,
     { (tm wRun fun t => { t with calValid := true }).clk with railMv := smSet 0 (tm wRun fun t => { t with calValid := true }).clk.railMv 9 2199, notOk := if 2000 ≤ 2199 ∧ 2199 ≤ 3600 then (tm wRun fun t => { t with calValid := true }).clk.notOk.filter (· != 9) else (9 :: (tm wRun fun t => { t with calValid := true }).clk.notOk).dedup },
     2199 = 0 ∧ 7 ∈ (tm wRun fun t => { t with calValid := true }).clk.notOk ∧ smGet 0 (tm wRun fun t =>
     { t with calValid := true }).clk.railMv 7 < 1620, by decide +kernel, rfl, rfl, by decide +kernel⟩,
   ⟨tm wRun fun t => { t with calValid := true }, 2200,
     { (tm wRun fun t => { t with calValid := true }).clk with railMv := smSet 0 (tm wRun fun t => { t with calValid := true }).clk.railMv 9 2200, notOk := if 2000 ≤ 2200 ∧ 2200 ≤ 3600 then (tm wRun fun t => { t with calValid := true }).clk.notOk.filter (· != 9) else (9 :: (tm wRun fun t => { t with calValid := true }).clk.notOk).dedup },
     2200 = 0 ∧ 7 ∈ (tm wRun fun t => { t with calValid := true }).clk.notOk ∧ smGet 0 (tm wRun fun t =>
     { t with calValid := true }).clk.railMv 7 < 1620, by decide +kernel, rfl, rfl, by decide +kernel⟩,
   ⟨{ wRun with clk := { wRun.clk with railMv := [(7, 1000)], notOk := [7] }, cfg := [(key oCalTrim 0, some 9)] }, 0,
     { ({ wRun with clk := { wRun.clk with railMv := [(7, 1000)], notOk := [7] }, cfg := [(key oCalTrim 0, some 9)] }).clk with railMv := smSet 0 ({ wRun with clk := { wRun.clk with railMv := [(7, 1000)], notOk := [7] }, cfg := [(key oCalTrim 0, some 9)] }).clk.railMv 9 0, notOk := if 2000 ≤ 0 ∧ 0 ≤ 3600 then ({ wRun with clk := { wRun.clk with railMv := [(7, 1000)], notOk := [7] }, cfg := [(key oCalTrim 0, some 9)] }).clk.notOk.filter (· != 9) else (9 :: ({ wRun with clk := { wRun.clk with railMv := [(7, 1000)], notOk := [7] }, cfg := [(key oCalTrim 0, some 9)] }).clk.notOk).dedup },
     0 = 0 ∧ 7 ∈
     ({ wRun with clk := { wRun.clk with railMv := [(7, 1000)], notOk := [7] }, cfg := [(key oCalTrim 0, some 9)] }).clk.notOk ∧ smGet 0
     ({ wRun with clk := { wRun.clk with railMv := [(7, 1000)], notOk := [7] }, cfg := [(key oCalTrim 0, some 9)] }).clk.railMv 7 < 1620,
     by decide +kernel, rfl, rfl, by decide +kernel⟩⟩

/-- Witnesses of the hypotheses of ScheduledActionsComplete. -/
theorem witness_ScheduledActionsComplete :
    (∃ (s : State) (q : Req) (args : List Byte) (sub : List Byte) (lvl : Nat) (sid : Nat) (obj : Nat) (r : ActRow ⟨s, false⟩) (fx : Int),
      s.Invoked q oTimedAction args 0 false lvl sid ∧ 18 ≤ args.length ∧ sub = args.drop 18 ∧ sub.length = fieldLe args 16 2 ∧ sub.length
      ≤ 64 ∧ fieldLe args 6 4 < 1000000000 ∧ obj = fieldLe args 12 3 ∧ obj ≠ oTimedAction ∧ obj ≠ oTimedCancel ∧ obj ≠ oStepAuthorise ∧
      obj / 65536 ≠ 4 ∧ actRow? ⟨s, false⟩ obj = some r ∧ (Eff.start s).actRight r sub ≤ lvl ∧ fx = (Eff.start s).frameOf (untime96 args)
      ∧ (Eff.start s).timedSlot = none) ∧
    (∃ (s : State) (q : Req) (args : List Byte) (sub : List Byte) (lvl : Nat) (sid : Nat) (obj : Nat) (r : ActRow ⟨s, false⟩) (fx : Int)
      (i : Nat), s.Invoked q oTimedAction args 0 false lvl sid ∧ 18 ≤ args.length ∧ sub = args.drop 18 ∧ sub.length = fieldLe args 16 2 ∧
      sub.length ≤ 64 ∧ fieldLe args 6 4 < 1000000000 ∧ obj = fieldLe args 12 3 ∧ obj ≠ oTimedAction ∧ obj ≠ oTimedCancel ∧ obj ≠
      oStepAuthorise ∧ obj / 65536 ≠ 4 ∧ actRow? ⟨s, false⟩ obj = some r ∧ (Eff.start s).actRight r sub ≤ lvl ∧ fx = (Eff.start
      s).frameOf (untime96 args) ∧ (Eff.start s).timedSlot = some i ∧ fx < s.frame.k + 1 ∧ bitOf (octet args 15) 0 = false) ∧
    (∃ (s : State) (q : Req) (args : List Byte) (sub : List Byte) (lvl : Nat) (sid : Nat) (obj : Nat) (r : ActRow ⟨s, false⟩) (fx : Int)
      (i : Nat) (late : Bool) (f : Nat), s.Invoked q oTimedAction args 0 false lvl sid ∧ 18 ≤ args.length ∧ sub = args.drop 18 ∧
      sub.length = fieldLe args 16 2 ∧ sub.length ≤ 64 ∧ fieldLe args 6 4 < 1000000000 ∧ obj = fieldLe args 12 3 ∧ obj ≠ oTimedAction ∧
      obj ≠ oTimedCancel ∧ obj ≠ oStepAuthorise ∧ obj / 65536 ≠ 4 ∧ actRow? ⟨s, false⟩ obj = some r ∧ (Eff.start s).actRight r sub ≤ lvl
      ∧ fx = (Eff.start s).frameOf (untime96 args) ∧ (Eff.start s).timedSlot = some i ∧ late = decide (fx < s.frame.k + 1) ∧ (late =
      false ∨ bitOf (octet args 15) 0 = true) ∧ f = (if late = true then s.frame.k + 1 else fx.toNat) ∧ (s.pair.standby = false ∨
      s.pair.role ≠ .active)) ∧
    (∃ (s : State) (q : Req) (args : List Byte) (sub : List Byte) (lvl : Nat) (sid : Nat) (obj : Nat) (r : ActRow ⟨s, false⟩) (fx : Int)
      (i : Nat) (late : Bool) (f : Nat), s.Invoked q oTimedAction args 0 false lvl sid ∧ 18 ≤ args.length ∧ sub = args.drop 18 ∧
      sub.length = fieldLe args 16 2 ∧ sub.length ≤ 64 ∧ fieldLe args 6 4 < 1000000000 ∧ obj = fieldLe args 12 3 ∧ obj ≠ oTimedAction ∧
      obj ≠ oTimedCancel ∧ obj ≠ oStepAuthorise ∧ obj / 65536 ≠ 4 ∧ actRow? ⟨s, false⟩ obj = some r ∧ (Eff.start s).actRight r sub ≤ lvl
      ∧ fx = (Eff.start s).frameOf (untime96 args) ∧ (Eff.start s).timedSlot = some i ∧ late = decide (fx < s.frame.k + 1) ∧ (late =
      false ∨ bitOf (octet args 15) 0 = true) ∧ f = (if late = true then s.frame.k + 1 else fx.toNat) ∧ (s.pair.standby = false ∨
      s.pair.role ≠ .active)) ∧
    (∃ (s : State) (q : Req) (args : List Byte) (sub : List Byte) (lvl : Nat) (sid : Nat) (obj : Nat) (r : ActRow ⟨s, false⟩) (fx : Int)
      (i : Nat) (late : Bool) (f : Nat), s.Invoked q oTimedAction args 0 false lvl sid ∧ 18 ≤ args.length ∧ sub = args.drop 18 ∧
      sub.length = fieldLe args 16 2 ∧ sub.length ≤ 64 ∧ fieldLe args 6 4 < 1000000000 ∧ obj = fieldLe args 12 3 ∧ obj ≠ oTimedAction ∧
      obj ≠ oTimedCancel ∧ obj ≠ oStepAuthorise ∧ obj / 65536 ≠ 4 ∧ actRow? ⟨s, false⟩ obj = some r ∧ (Eff.start s).actRight r sub ≤ lvl
      ∧ fx = (Eff.start s).frameOf (untime96 args) ∧ (Eff.start s).timedSlot = some i ∧ late = decide (fx < s.frame.k + 1) ∧ (late =
      false ∨ bitOf (octet args 15) 0 = true) ∧ f = (if late = true then s.frame.k + 1 else fx.toNat) ∧ (s.pair.standby = false ∨
      s.pair.role ≠ .active)) ∧
    (∃ (s : State) (q : Req) (i : Byte) (lvl : Nat) (sid : Nat), s.Invoked q oTimedCancel [i] 0 false lvl sid ∧ i.toNat < 32 ∧ smGet none
      s.time.timed i.toNat = none) ∧
    (∃ (s : State) (q : Req) (i : Byte) (lvl : Nat) (sid : Nat) (x : Timed), s.Invoked q oTimedCancel [i] 0 false lvl sid ∧ i.toNat < 32
      ∧ smGet none s.time.timed i.toNat = some x ∧ x.isDone = true) ∧
    (∃ (s : State) (q : Req) (i : Byte) (lvl : Nat) (sid : Nat) (x : Timed), s.Invoked q oTimedCancel [i] 0 false lvl sid ∧ i.toNat < 32
      ∧ smGet none s.time.timed i.toNat = some x ∧ x.isDone = false ∧ lvl < x.level) ∧
    (∃ (s : State) (q : Req) (i : Byte) (lvl : Nat) (sid : Nat) (x : Timed), s.Invoked q oTimedCancel [i] 0 false lvl sid ∧ i.toNat < 32
      ∧ smGet none s.time.timed i.toNat = some x ∧ x.isDone = false ∧ x.level ≤ lvl ∧ s.pair.standby = false) :=
  ⟨⟨tm wRun fun t => { t with timed := (List.range 32).map fun i => (i, some (wSlot false 1)) }, wA oTimedAction (wTimed 100000 0),
     wTimed 100000 0, [], 3, 7, oStop, ⟨oStop, 1, false, actStop⟩, 1010, wInvoked _ _ _ _ _ (by decide +kernel) rfl (by decide +kernel)
     (by decide +kernel) (by decide +kernel) (by decide +kernel), by decide +kernel, by decide +kernel, by decide +kernel,
     by decide +kernel, by decide +kernel, by decide +kernel, by decide +kernel, by decide +kernel, by decide +kernel, by decide +kernel,
     wStop _, by decide +kernel⟩,
   ⟨tm wRun fun t => { t with clock := 100000600000 * nsq }, wA oTimedAction (wTimed 0 0), wTimed 0 0, [], 3, 7, oStop, ⟨oStop, 1, false,
     actStop⟩, 1000, 0, wInvoked _ _ _ _ _ (by decide +kernel) rfl (by decide +kernel) (by decide +kernel) (by decide +kernel)
     (by decide +kernel), by decide +kernel, by decide +kernel, by decide +kernel, by decide +kernel, by decide +kernel,
     by decide +kernel, by decide +kernel, by decide +kernel, by decide +kernel, by decide +kernel, wStop _, by decide +kernel⟩,
   ⟨wRun, wA oTimedAction (wTimed 100000 0), wTimed 100000 0, [], 3, 7, oStop, ⟨oStop, 1, false, actStop⟩, 1010, 0, false, 1010, wInvoked
     _ _ _ _ _ (by decide +kernel) rfl (by decide +kernel) (by decide +kernel) (by decide +kernel) (by decide +kernel),
     by decide +kernel, by decide +kernel, by decide +kernel, by decide +kernel, by decide +kernel, by decide +kernel, by decide +kernel,
     by decide +kernel, by decide +kernel, by decide +kernel, wStop _, by decide +kernel⟩,
   ⟨wRun, wA oTimedAction (wTimed 10000 0), wTimed 10000 0, [], 3, 7, oStop, ⟨oStop, 1, false, actStop⟩, 1001, 0, false, 1001, wInvoked _
     _ _ _ _ (by decide +kernel) rfl (by decide +kernel) (by decide +kernel) (by decide +kernel) (by decide +kernel), by decide +kernel,
     by decide +kernel, by decide +kernel, by decide +kernel, by decide +kernel, by decide +kernel, by decide +kernel, by decide +kernel,
     by decide +kernel, by decide +kernel, wStop _, by decide +kernel⟩,
   ⟨tm wRun fun t => { t with timed := (List.range 32).map fun i => (i, some (wSlot (i == 20) 1)) }, wA oTimedAction (wTimed 0 1), wTimed
     0 1, [], 3, 7, oStop, ⟨oStop, 1, false, actStop⟩, 1000, 20, true, 1001, wInvoked _ _ _ _ _ (by decide +kernel) rfl
     (by decide +kernel) (by decide +kernel) (by decide +kernel) (by decide +kernel), by decide +kernel, by decide +kernel,
     by decide +kernel, by decide +kernel, by decide +kernel, by decide +kernel, by decide +kernel, by decide +kernel, by decide +kernel,
     by decide +kernel, wStop _, by decide +kernel⟩,
   ⟨wRun, wA oTimedCancel [31], 31, 3, 7, wInvoked _ _ _ _ _ (by decide +kernel) rfl (by decide +kernel) (by decide +kernel)
     (by decide +kernel) (by decide +kernel), by decide +kernel⟩,
   ⟨tm wRun fun t => { t with timed := [(4, some (wSlot true 1))] }, wA oTimedCancel [4], 4, 3, 7, wSlot true 1, wInvoked _ _ _ _ _
     (by decide +kernel) rfl (by decide +kernel) (by decide +kernel) (by decide +kernel) (by decide +kernel), by decide +kernel⟩,
   ⟨tm wRun fun t => { t with timed := [(4, some (wSlot false 4))] }, wA oTimedCancel [4], 4, 3, 7, wSlot false 4, wInvoked _ _ _ _ _
     (by decide +kernel) rfl (by decide +kernel) (by decide +kernel) (by decide +kernel) (by decide +kernel), by decide +kernel⟩,
   ⟨tm wRun fun t => { t with timed := [(4, some (wSlot false 3))] }, wA oTimedCancel [4], 4, 3, 7, wSlot false 3, wInvoked _ _ _ _ _
     (by decide +kernel) rfl (by decide +kernel) (by decide +kernel) (by decide +kernel) (by decide +kernel), by decide +kernel⟩⟩

/-- Witnesses of the hypotheses of BanksComplete. -/
theorem witness_BanksComplete :
    (∃ (b : Fin 8) (wr : Bool) (good : Bool) (lines : List (Nat × Byte × List PointWord)), good = (!lines.isEmpty && decide (lines.length
      ≤ 16) && lines.all fun l => decide (l.1 < 262144) && decide (l.1 % 8 = b.val) && (!wr || decide (l.2.2.length = 8)))) ∧
    (∃ (b : Fin 8) (wr : Bool) (good : Bool) (lines : List (Nat × Byte × List PointWord)), good = (!lines.isEmpty && decide (lines.length
      ≤ 16) && lines.all fun l => decide (l.1 < 262144) && decide (l.1 % 8 = b.val) && (!wr || decide (l.2.2.length = 8)))) ∧
    (∃ (b : Fin 8) (wr : Bool) (good : Bool) (lines : List (Nat × Byte × List PointWord)), good = (!lines.isEmpty && decide (lines.length
      ≤ 16) && lines.all fun l => decide (l.1 < 262144) && decide (l.1 % 8 = b.val) && (!wr || decide (l.2.2.length = 8)))) ∧
    (∃ (b : Fin 8) (wr : Bool) (good : Bool) (lines : List (Nat × Byte × List PointWord)), good = (!lines.isEmpty && decide (lines.length
      ≤ 16) && lines.all fun l => decide (l.1 < 262144) && decide (l.1 % 8 = b.val) && (!wr || decide (l.2.2.length = 8)))) ∧
    (∃ (s : State), s.islandOn 3 = false) ∧
    (∃ (s : State) (b : Fin 8) (r : Nat) (wr : Bool) (c : Bool) (x : Xfer), (smGet Domain.reset s.doms 13).pend = none ∧ s.islandOn 3 =
      true ∧ (smGet Bank.reset s.banks b.val).held = some (r, wr, x) ∧ (c = false ∨ s.requesterOn r = false)) ∧
    (∃ (s : State) (b : Fin 8) (r : Nat) (wr : Bool) (c : Bool) (x : Xfer), (smGet Domain.reset s.doms 13).pend = none ∧ s.islandOn 3 =
      true ∧ (smGet Bank.reset s.banks b.val).held = some (r, wr, x) ∧ (c = false ∨ s.requesterOn r = false)) ∧
    (∃ (s : State) (b : Fin 8) (r : Nat) (wr : Bool) (x : Xfer), (smGet Domain.reset s.doms 13).pend = none ∧ s.islandOn 3 = true ∧
      (smGet Bank.reset s.banks b.val).held = some (r, wr, x) ∧ s.requesterOn r = true) ∧
    (∃ (s : State) (b : Fin 8) (r : Nat) (wr : Bool) (x : Xfer), (smGet Domain.reset s.doms 13).pend = none ∧ s.islandOn 3 = true ∧
      (smGet Bank.reset s.banks b.val).held = some (r, wr, x) ∧ s.requesterOn r = true) ∧
    (∃ (s : State) (b : Fin 8), (smGet Domain.reset s.doms 13).pend = none ∧ s.islandOn 3 = true ∧ (smGet Bank.reset s.banks b.val).held
      = none ∧ (Eff.start s).waiting b.val = []) ∧
    (∃ (s : State) (b : Fin 8) (r : Nat) (u : Burst) (x : Xfer) (rest : List Xfer), (smGet Domain.reset s.doms 13).pend = none ∧
      s.islandOn 3 = true ∧ (smGet Bank.reset s.banks b.val).held = none ∧ (Eff.start s).grantee b.val = some (r, false) ∧ smGet none
      (smGet Bank.reset s.banks b.val).bursts r = some u ∧ u.todo = x :: rest ∧ u.write = false) ∧
    (∃ (s : State) (b : Fin 8) (r : Nat) (u : Burst) (x : Xfer) (rest : List Xfer), (smGet Domain.reset s.doms 13).pend = none ∧
      s.islandOn 3 = true ∧ (smGet Bank.reset s.banks b.val).held = none ∧ (Eff.start s).grantee b.val = some (r, false) ∧ smGet none
      (smGet Bank.reset s.banks b.val).bursts r = some u ∧ u.todo = x :: rest ∧ u.write = false) ∧
    (∃ (s : State) (b : Fin 8) (r : Nat) (u : Burst) (x : Xfer) (rest : List Xfer), (smGet Domain.reset s.doms 13).pend = none ∧
      s.islandOn 3 = true ∧ (smGet Bank.reset s.banks b.val).held = none ∧ (Eff.start s).grantee b.val = some (r, false) ∧ smGet none
      (smGet Bank.reset s.banks b.val).bursts r = some u ∧ u.todo = x :: rest ∧ u.write = false) ∧
    (∃ (s : State) (b : Nat) (r : Nat) (bg : Bool), (Eff.start s).grantee b = some (r, bg)) ∧
    (∃ (s : State) (b : Nat), (Eff.start s).waiting b ≠ []) ∧
    (∃ (s : State) (b : Fin 8), ((smGet Bank.reset s.banks b.val).held = none ∨ (smGet Bank.reset s.banks b.val).heldFor < 4096)) ∧
    (∃ (s : State) (b : Fin 8), ((smGet Bank.reset s.banks b.val).held = none ∨ (smGet Bank.reset s.banks b.val).heldFor < 4096)) ∧
    (∃ (s : State) (b : Fin 8) (r : Nat) (wr : Bool) (x : Xfer), (smGet Bank.reset s.banks b.val).held = some (r, wr, x) ∧ 4096 ≤ (smGet
      Bank.reset s.banks b.val).heldFor ∧ s.Quiet kBankWatchdog (x.line * 64)) :=
  ⟨⟨3, true, true, [(11, 0x82, List.replicate 8 0x77#64)], by decide +kernel⟩,
   ⟨3, true, false, [(12, 0x82, List.replicate 8 0x77#64)], by decide +kernel⟩,
   ⟨3, false, false, [], by decide +kernel⟩,
   ⟨7, false, true, List.replicate 16 (262143, 1, []), by decide +kernel⟩,
   ⟨ck wRun (fun c => { c with stopped := [3] }), by decide +kernel⟩,
   ⟨wBank { Bank.reset with slot := 127, cycle := 127, held := some (5, true, wXf 11), heldFor := 7 }, 3, 5, true, false, wXf 11,
     by decide +kernel⟩,
   ⟨ck (wBank { Bank.reset with slot := 127, cycle := 127, held := some (5, false, wXf 11), heldFor := 7 }) (fun c =>
     { c with stopped := [1] }), 3, 5, false, true, wXf 11, by decide +kernel⟩,
   ⟨wBank { Bank.reset with slot := 127, cycle := 127, held := some (5, true, wXf 11), heldFor := 7 }, 3, 5, true, wXf 11,
     by decide +kernel⟩,
   ⟨wBank { Bank.reset with slot := 127, cycle := 127, held := some (5, false, wXf 11), heldFor := 7 }, 3, 5, false, wXf 11,
     by decide +kernel⟩,
   ⟨wRun, 3, by decide +kernel⟩,
   ⟨cfgd (wBank { Bank.reset with slot := 126, bursts := [(5, some ⟨false, [wXf 11, wXf 19], 0, 3⟩)] }) oSlotTable (128 * 3 + 126) 21, 3,
     5, ⟨false, [wXf 11, wXf 19], 0, 3⟩, wXf 11, [wXf 19], by decide +kernel⟩,
   ⟨cfgd (wBank { Bank.reset with slot := 126, bursts := [(5, some ⟨false, [wXf 11, wXf 19], 0, 3⟩)] }) oSlotTable (128 * 3 + 126) 21, 3,
     5, ⟨false, [wXf 11, wXf 19], 0, 3⟩, wXf 11, [wXf 19], by decide +kernel⟩,
   ⟨cfgd (wBank { Bank.reset with slot := 126, bursts := [(5, some ⟨false, [wXf 11], 0, 3⟩)] }) oSlotTable (128 * 3 + 126) 21, 3, 5,
     ⟨false, [wXf 11], 0, 3⟩, wXf 11, [], by decide +kernel⟩,
   ⟨cfgd (wBank { Bank.reset with slot := 126, bursts := [(5, some ⟨false, [wXf 11, wXf 19], 0, 3⟩)] }) oSlotTable (128 * 3 + 126) 21, 3,
     5, false, by decide +kernel⟩,
   ⟨cfgd (wBank { Bank.reset with slot := 126, bursts := [(5, some ⟨false, [wXf 11, wXf 19], 0, 3⟩)] }) oSlotTable (128 * 3 + 126) 21, 3,
     by decide +kernel⟩,
   ⟨wRun, 3, by decide +kernel⟩,
   ⟨wBank { Bank.reset with slot := 127, cycle := 127, held := some (5, true, wXf 11), heldFor := 7 }, 3, by decide +kernel⟩,
   ⟨quiet (wBank { Bank.reset with held := some (5, true, wXf 11), heldFor := 4096, bursts := [(5, some ⟨true, [wXf 19], 1, 3⟩)] })
     kBankWatchdog (11 * 64), 3, 5, true, wXf 11, by decide +kernel, by decide +kernel, by unfold State.Quiet; decide +kernel⟩⟩

/-- Witnesses of the hypotheses of WatchUnitsComplete. -/
theorem witness_WatchUnitsComplete :
    (∃ (s : State) (u : Fin 32) (line : Fin 262144) (w : WUnit), w = smGet WUnit.reset s.watch u.val ∧ (w.state = .off ∨ (Eff.start
      s).lent = true ∨ (Eff.start s).lineDue u.val line.val = false ∨ line.val ∈ w.passLines ∨ (Eff.start s).wuPass u.val < w.armPass)) ∧
    (∃ (s : State) (u : Fin 32) (line : Fin 262144) (w : WUnit), w = smGet WUnit.reset s.watch u.val ∧ (w.state = .off ∨ (Eff.start
      s).lent = true ∨ (Eff.start s).lineDue u.val line.val = false ∨ line.val ∈ w.passLines ∨ (Eff.start s).wuPass u.val < w.armPass)) ∧
    (∃ (s : State) (u : Fin 32) (line : Fin 262144) (w : WUnit), w = smGet WUnit.reset s.watch u.val ∧ (w.state = .off ∨ (Eff.start
      s).lent = true ∨ (Eff.start s).lineDue u.val line.val = false ∨ line.val ∈ w.passLines ∨ (Eff.start s).wuPass u.val < w.armPass)) ∧
    (∃ (s : State) (u : Fin 32) (line : Fin 262144) (w : WUnit), w = smGet WUnit.reset s.watch u.val ∧ (w.state = .off ∨ (Eff.start
      s).lent = true ∨ (Eff.start s).lineDue u.val line.val = false ∨ line.val ∈ w.passLines ∨ (Eff.start s).wuPass u.val < w.armPass)) ∧
    (∃ (s : State) (u : Fin 32) (line : Fin 262144) (w : WUnit), w = smGet WUnit.reset s.watch u.val ∧ (w.state = .off ∨ (Eff.start
      s).lent = true ∨ (Eff.start s).lineDue u.val line.val = false ∨ line.val ∈ w.passLines ∨ (Eff.start s).wuPass u.val < w.armPass)) ∧
    (∃ (s : State) (u : Fin 32) (line : Fin 262144) (w : WUnit) (i : Nat) (p : Nat), w = smGet WUnit.reset s.watch u.val ∧ w.state = .run
      ∧ (Eff.start s).lent = false ∧ (Eff.start s).lineDue u.val line.val = true ∧ line.val ∉ w.passLines ∧ w.armPass ≤ (Eff.start
      s).wuPass u.val ∧ (Eff.start s).wuMode u.val = 1 ∧ ((Eff.start s).wuList u.val).filter (fun p => p.2 / 8 == line.val) = [(i, p)] ∧
      smGet none w.last i = none ∧ w.recs.length < (Eff.start s).wuRoom u.val) ∧
    (∃ (s : State) (u : Fin 32) (line : Fin 262144) (w : WUnit) (i : Nat) (p : Nat), w = smGet WUnit.reset s.watch u.val ∧ w.state = .run
      ∧ (Eff.start s).lent = false ∧ (Eff.start s).lineDue u.val line.val = true ∧ line.val ∉ w.passLines ∧ w.armPass ≤ (Eff.start
      s).wuPass u.val ∧ (Eff.start s).wuMode u.val = 1 ∧ ((Eff.start s).wuList u.val).filter (fun p => p.2 / 8 == line.val) = [(i, p)] ∧
      smGet none w.last i = none ∧ w.recs.length < (Eff.start s).wuRoom u.val) ∧
    (∃ (s : State) (q : Req) (u : Byte) (lvl : Nat) (sid : Nat) (w : WUnit), s.Invoked q oWuArm [u] 1 false lvl sid ∧ u.toNat < 32 ∧ w =
      smGet WUnit.reset s.watch u.toNat ∧ (w.state ≠ .off ∨ (Eff.start s).lent = true ∨ (Eff.start s).wuMode u.toNat ∉ [1, 2])) ∧
    (∃ (s : State) (q : Req) (u : Byte) (lvl : Nat) (sid : Nat) (w : WUnit), s.Invoked q oWuArm [u] 1 false lvl sid ∧ u.toNat < 32 ∧ w =
      smGet WUnit.reset s.watch u.toNat ∧ (w.state ≠ .off ∨ (Eff.start s).lent = true ∨ (Eff.start s).wuMode u.toNat ∉ [1, 2])) ∧
    (∃ (s : State) (q : Req) (u : Byte) (lvl : Nat) (sid : Nat) (w : WUnit), s.Invoked q oWuArm [u] 1 false lvl sid ∧ u.toNat < 32 ∧ w =
      smGet WUnit.reset s.watch u.toNat ∧ w.state = .off ∧ (Eff.start s).lent = false ∧ (Eff.start s).wuMode u.toNat = 1) ∧
    (∃ (s : State) (q : Req) (u : Byte) (lvl : Nat) (sid : Nat) (w : WUnit) (i : Nat), s.Invoked q oWuArm [u] 1 false lvl sid ∧ u.toNat <
      32 ∧ w = smGet WUnit.reset s.watch u.toNat ∧ w.state = .off ∧ (Eff.start s).lent = false ∧ (Eff.start s).wuMode u.toNat = 2 ∧
      (Eff.start s).takeSlot u.toNat = some i) ∧
    (∃ (s : State) (q : Req) (u : Byte) (lvl : Nat) (sid : Nat) (w : WUnit) (i : Nat), s.Invoked q oWuArm [u] 1 false lvl sid ∧ u.toNat <
      32 ∧ w = smGet WUnit.reset s.watch u.toNat ∧ w.state = .off ∧ (Eff.start s).lent = false ∧ (Eff.start s).wuMode u.toNat = 2 ∧
      (Eff.start s).takeSlot u.toNat = some i) ∧
    (∃ (s : State) (q : Req) (u : Byte) (lvl : Nat) (sid : Nat), s.Invoked q oWuDisarm [u] 1 false lvl sid ∧ u.toNat < 32 ∧ (smGet
      WUnit.reset s.watch u.toNat).state ≠ .post) ∧
    (∃ (s : State) (q : Req) (u : Byte) (lvl : Nat) (sid : Nat), s.Invoked q oWuTrigger [u] 2 false lvl sid ∧ u.toNat < 32) ∧
    (∃ (s : State) (q : Req) (u : Byte) (lvl : Nat) (sid : Nat), s.Invoked q oWuTrigger [u] 2 false lvl sid ∧ u.toNat < 32) ∧
    (∃ (s : State) (q : Req) (u : Byte) (i : Byte) (lvl : Nat) (sid : Nat) (w : WUnit), s.Invoked q oWuRelease [u, i] 2 false lvl sid ∧
      u.toNat < 32 ∧ i.toNat < 16 ∧ w = smGet WUnit.reset s.watch u.toNat ∧ w.state ≠ .full) ∧
    (∃ (s : State) (q : Req) (u : Byte) (i : Byte) (lvl : Nat) (sid : Nat) (w : WUnit), s.Invoked q oWuRelease [u, i] 2 false lvl sid ∧
      u.toNat < 32 ∧ i.toNat < 16 ∧ w = smGet WUnit.reset s.watch u.toNat ∧ w.state = .full ∧ i.toNat < (Eff.start s).wuSlots u.toNat ∧
      smWf none w.closed = true) ∧
    (∃ (s : State) (q : Req) (u : Byte) (i : Byte) (a : Byte) (b : Byte) (c : Byte) (d : Byte) (lvl : Nat) (sid : Nat), s.Invoked q
      oAcqExport [u, i, a, b, c, d] 1 false lvl sid ∧ u.toNat < 32 ∧ i.toNat < 16 ∧ smGet none (smGet WUnit.reset s.watch u.toNat).closed
      i.toNat = none) ∧
    (∃ (s : State) (q : Req) (u : Byte) (i : Byte) (a : Byte) (b : Byte) (c : Byte) (d : Byte) (lvl : Nat) (sid : Nat) (x : Capture),
      s.Invoked q oAcqExport [u, i, a, b, c, d] 1 false lvl sid ∧ u.toNat < 32 ∧ i.toNat < 16 ∧ smGet none (smGet WUnit.reset s.watch
      u.toNat).closed i.toNat = some x) ∧
    (∃ (s : State) (u : Fin 32) (w : WUnit), w = smGet WUnit.reset s.watch u.val ∧ (w.state ≠ .post ∨ s.frame.k < w.trigFrame + s.cv
      oWuPost u.val)) ∧
    (∃ (s : State) (u : Fin 32) (w : WUnit), w = smGet WUnit.reset s.watch u.val ∧ (w.state ≠ .post ∨ s.frame.k < w.trigFrame + s.cv
      oWuPost u.val)) ∧
    (∃ (s : State) (u : Fin 32) (w : WUnit), w = smGet WUnit.reset s.watch u.val ∧ w.state = .post ∧ w.trigFrame + s.cv oWuPost u.val ≤
      s.frame.k) ∧
    (∃ (s : State) (u : Fin 32) (w : WUnit) (due : Bool), w = smGet WUnit.reset s.watch u.val ∧ due = ((s.cv oWuHoldFr u.val == 0 && s.cv
      oWuHoldTrig u.val == 0) || (s.cv oWuHoldFr u.val != 0 && decide (w.closeFrame + s.cv oWuHoldFr u.val ≤ s.frame.k)) || (s.cv
      oWuHoldTrig u.val != 0 && decide (s.cv oWuHoldTrig u.val ≤ w.holdTrigs))) ∧ (w.state ≠ .holdoff ∨ due = false)) ∧
    (∃ (s : State) (u : Fin 32) (w : WUnit) (due : Bool), w = smGet WUnit.reset s.watch u.val ∧ due = ((s.cv oWuHoldFr u.val == 0 && s.cv
      oWuHoldTrig u.val == 0) || (s.cv oWuHoldFr u.val != 0 && decide (w.closeFrame + s.cv oWuHoldFr u.val ≤ s.frame.k)) || (s.cv
      oWuHoldTrig u.val != 0 && decide (s.cv oWuHoldTrig u.val ≤ w.holdTrigs))) ∧ (w.state ≠ .holdoff ∨ due = false)) ∧
    (∃ (s : State) (u : Fin 32) (w : WUnit) (due : Bool) (i : Nat), w = smGet WUnit.reset s.watch u.val ∧ due = ((s.cv oWuHoldFr u.val ==
      0 && s.cv oWuHoldTrig u.val == 0) || (s.cv oWuHoldFr u.val != 0 && decide (w.closeFrame + s.cv oWuHoldFr u.val ≤ s.frame.k)) ||
      (s.cv oWuHoldTrig u.val != 0 && decide (s.cv oWuHoldTrig u.val ≤ w.holdTrigs))) ∧ w.state = .holdoff ∧ due = true ∧ (Eff.start
      s).takeSlot u.val = some i) ∧
    (∃ (s : State) (u : Fin 32) (w : WUnit) (due : Bool) (i : Nat), w = smGet WUnit.reset s.watch u.val ∧ due = ((s.cv oWuHoldFr u.val ==
      0 && s.cv oWuHoldTrig u.val == 0) || (s.cv oWuHoldFr u.val != 0 && decide (w.closeFrame + s.cv oWuHoldFr u.val ≤ s.frame.k)) ||
      (s.cv oWuHoldTrig u.val != 0 && decide (s.cv oWuHoldTrig u.val ≤ w.holdTrigs))) ∧ w.state = .holdoff ∧ due = true ∧ (Eff.start
      s).takeSlot u.val = some i) ∧
    (∃ (s : State) (u : Fin 32) (w : WUnit) (due : Bool) (i : Nat), w = smGet WUnit.reset s.watch u.val ∧ due = ((s.cv oWuHoldFr u.val ==
      0 && s.cv oWuHoldTrig u.val == 0) || (s.cv oWuHoldFr u.val != 0 && decide (w.closeFrame + s.cv oWuHoldFr u.val ≤ s.frame.k)) ||
      (s.cv oWuHoldTrig u.val != 0 && decide (s.cv oWuHoldTrig u.val ≤ w.holdTrigs))) ∧ w.state = .holdoff ∧ due = true ∧ (Eff.start
      s).takeSlot u.val = some i) :=
  ⟨⟨wRun, 5, 0x200, WUnit.reset, by decide +kernel⟩,
   ⟨cfgd (cfgd (cfgd (cfgd (wWu { WUnit.reset with state := .run, armPass := 990 } 1) oWuLen 5 1) oWuBase 5 10) oWlPt 10 0x1005) oWuRsize
     5 1, 5, 0x201, { WUnit.reset with state := .run, armPass := 990 }, by decide +kernel⟩,
   ⟨cfgd (cfgd (cfgd (cfgd (wWu { WUnit.reset with state := .run, armPass := 990, passLines := [0x200] } 1) oWuLen 5 1) oWuBase 5 10)
     oWlPt 10 0x1005) oWuRsize 5 1, 5, 0x200, { WUnit.reset with state := .run, armPass := 990, passLines := [0x200] },
     by decide +kernel⟩,
   ⟨cfgd (cfgd (cfgd (cfgd (wWu { WUnit.reset with state := .run, armPass := 1001 } 1) oWuLen 5 1) oWuBase 5 10) oWlPt 10 0x1005)
     oWuRsize 5 1, 5, 0x200, { WUnit.reset with state := .run, armPass := 1001 }, by decide +kernel⟩,
   ⟨pr (cfgd (cfgd (cfgd (cfgd (wWu { WUnit.reset with state := .run, armPass := 990 } 1) oWuLen 5 1) oWuBase 5 10) oWlPt 10 0x1005)
     oWuRsize 5 1) fun p => { p with resync := true }, 5, 0x200, { WUnit.reset with state := .run, armPass := 990 }, by decide +kernel⟩,
   ⟨cfgd (cfgd (cfgd (cfgd (wWu { WUnit.reset with state := .run, armPass := 990 } 1) oWuLen 5 1) oWuBase 5 10) oWlPt 10 0x1005) oWuRsize
     5 1, 5, 0x200, { WUnit.reset with state := .run, armPass := 990 }, 0, 0x1005, by decide +kernel⟩,
   ⟨cfgd (cfgd (cfgd (cfgd (cfgd (wWu { WUnit.reset with state := .run, armPass := 990 } 1) oWuLen 5 1) oWuBase 5 10) oWlPt 10 0x1005)
     oWuRsize 5 1) oImageScans 5 7, 5, 0x200, { WUnit.reset with state := .run, armPass := 990 }, 0, 0x1005, by decide +kernel⟩,
   ⟨cfgd (cfgd (cfgd (cfgd (wWu { WUnit.reset with state := .run, armPass := 990 } 1) oWuLen 5 1) oWuBase 5 10) oWlPt 10 0x1005) oWuRsize
     5 1, wA oWuArm [5], 5, 3, 7, { WUnit.reset with state := .run, armPass := 990 }, wInvoked _ _ _ _ _ (by decide +kernel) rfl
     (by decide +kernel) (by decide +kernel) (by decide +kernel) (by decide +kernel), by decide +kernel⟩,
   ⟨wRun, wA oWuArm [31], 31, 3, 7, WUnit.reset, wInvoked _ _ _ _ _ (by decide +kernel) rfl (by decide +kernel) (by decide +kernel)
     (by decide +kernel) (by decide +kernel), by decide +kernel⟩,
   ⟨wWu WUnit.reset 1, wA oWuArm [5], 5, 3, 7, WUnit.reset, wInvoked _ _ _ _ _ (by decide +kernel) rfl (by decide +kernel)
     (by decide +kernel) (by decide +kernel) (by decide +kernel), by decide +kernel⟩,
   ⟨wWu WUnit.reset 2, wA oWuArm [5], 5, 3, 7, WUnit.reset, 0, wInvoked _ _ _ _ _ (by decide +kernel) rfl (by decide +kernel)
     (by decide +kernel) (by decide +kernel) (by decide +kernel), by decide +kernel⟩,
   ⟨wWu { WUnit.reset with closed := [(0, some wCap)] } 0x8002, wA oWuArm [5], 5, 3, 7, { WUnit.reset with closed := [(0, some wCap)] },
     1, wInvoked _ _ _ _ _ (by decide +kernel) rfl (by decide +kernel) (by decide +kernel) (by decide +kernel) (by decide +kernel),
     by decide +kernel⟩,
   ⟨cfgd (cfgd (cfgd (cfgd (wWu { WUnit.reset with state := .run, armPass := 990 } 1) oWuLen 5 1) oWuBase 5 10) oWlPt 10 0x1005) oWuRsize
     5 1, wA oWuDisarm [5], 5, 3, 7, wInvoked _ _ _ _ _ (by decide +kernel) rfl (by decide +kernel) (by decide +kernel)
     (by decide +kernel) (by decide +kernel), by decide +kernel⟩,
   ⟨wWu { WUnit.reset with state := .pre } 2, wA oWuTrigger [5], 5, 3, 7, wInvoked _ _ _ _ _ (by decide +kernel) rfl (by decide +kernel)
     (by decide +kernel) (by decide +kernel) (by decide +kernel), by decide +kernel⟩,
   ⟨wRun, wA oWuTrigger [5], 5, 3, 7, wInvoked _ _ _ _ _ (by decide +kernel) rfl (by decide +kernel) (by decide +kernel)
     (by decide +kernel) (by decide +kernel), by decide +kernel⟩,
   ⟨wWu { WUnit.reset with state := .pre, slot := 1, closed := [(0, some wCap)] } 0x8002, wA oWuRelease [5, 0], 5, 0, 3, 7,
     { WUnit.reset with state := .pre, slot := 1, closed := [(0, some wCap)] }, wInvoked _ _ _ _ _ (by decide +kernel) rfl
     (by decide +kernel) (by decide +kernel) (by decide +kernel) (by decide +kernel), by decide +kernel⟩,
   ⟨wWu { WUnit.reset with state := .full, closed := [(0, some wCap)] } 2, wA oWuRelease [5, 0], 5, 0, 3, 7,
     { WUnit.reset with state := .full, closed := [(0, some wCap)] }, wInvoked _ _ _ _ _ (by decide +kernel) rfl (by decide +kernel)
     (by decide +kernel) (by decide +kernel) (by decide +kernel), by decide +kernel⟩,
   ⟨wRun, wA oAcqExport [5, 15, 1, 2, 3, 4], 5, 15, 1, 2, 3, 4, 3, 7, wInvoked _ _ _ _ _ (by decide +kernel) rfl (by decide +kernel)
     (by decide +kernel) (by decide +kernel) (by decide +kernel), by decide +kernel⟩,
   ⟨wWu { WUnit.reset with state := .pre, slot := 1, closed := [(0, some wCap)] } 2, wA oAcqExport [5, 0, 1, 0, 0, 0], 5, 0, 1, 0, 0, 0,
     3, 7, wCap, wInvoked _ _ _ _ _ (by decide +kernel) rfl (by decide +kernel) (by decide +kernel) (by decide +kernel)
     (by decide +kernel), by decide +kernel⟩,
   ⟨wRun, 5, WUnit.reset, by decide +kernel⟩,
   ⟨cfgd (wWu
     { WUnit.reset with state := .post, trigFrame := 900, capseq := 6, recs := [⟨0x1005, 0, 0, 950, 9#64⟩, ⟨0x1005, 2, 0, 900, 8#64⟩, ⟨0x1005, 0, 0, 800, 7#64⟩] }
     2) oWuPost 5 101, 5,
     { WUnit.reset with state := .post, trigFrame := 900, capseq := 6, recs := [⟨0x1005, 0, 0, 950, 9#64⟩, ⟨0x1005, 2, 0, 900, 8#64⟩, ⟨0x1005, 0, 0, 800, 7#64⟩] },
     by decide +kernel⟩,
   ⟨cfgd (wWu
     { WUnit.reset with state := .post, trigFrame := 900, capseq := 6, recs := [⟨0x1005, 0, 0, 950, 9#64⟩, ⟨0x1005, 2, 0, 900, 8#64⟩, ⟨0x1005, 0, 0, 800, 7#64⟩] }
     2) oWuPost 5 100, 5,
     { WUnit.reset with state := .post, trigFrame := 900, capseq := 6, recs := [⟨0x1005, 0, 0, 950, 9#64⟩, ⟨0x1005, 2, 0, 900, 8#64⟩, ⟨0x1005, 0, 0, 800, 7#64⟩] },
     by decide +kernel⟩,
   ⟨cfgd wRun oWuHoldFr 5 10, 5, WUnit.reset, true, by decide +kernel⟩,
   ⟨cfgd (cfgd (wWu { WUnit.reset with state := .holdoff, closeFrame := 991, holdTrigs := 4 } 2) oWuHoldFr 5 10) oWuHoldTrig 5 5, 5,
     { WUnit.reset with state := .holdoff, closeFrame := 991, holdTrigs := 4 }, false, by decide +kernel⟩,
   ⟨cfgd (cfgd (wWu { WUnit.reset with state := .holdoff, closeFrame := 990, holdTrigs := 4 } 2) oWuHoldFr 5 10) oWuHoldTrig 5 5, 5,
     { WUnit.reset with state := .holdoff, closeFrame := 990, holdTrigs := 4 }, true, 0, by decide +kernel⟩,
   ⟨cfgd (cfgd (wWu { WUnit.reset with state := .holdoff, closeFrame := 991, holdTrigs := 5 } 2) oWuHoldFr 5 10) oWuHoldTrig 5 5, 5,
     { WUnit.reset with state := .holdoff, closeFrame := 991, holdTrigs := 5 }, true, 0, by decide +kernel⟩,
   ⟨cfgd (cfgd (wWu { WUnit.reset with state := .holdoff, closeFrame := 991, holdTrigs := 0 } 2) oWuHoldFr 5 0) oWuHoldTrig 5 0, 5,
     { WUnit.reset with state := .holdoff, closeFrame := 991, holdTrigs := 0 }, true, 0, by decide +kernel⟩⟩

set_option maxRecDepth 20000 in
/-- Witnesses of the hypotheses of JournalStreamAndReplaysComplete. -/
theorem witness_JournalStreamAndReplaysComplete :
    (∃ (s : State) (q : Req) (lvl : Nat) (sid : Nat), s.Invoked q oJrnlHold [] 2 false lvl sid ∧ s.jrnl.hold = none) ∧
    (∃ (s : State) (q : Req) (lvl : Nat) (sid : Nat), s.Invoked q oJrnlHold [] 2 false lvl sid ∧ s.jrnl.hold ≠ none) ∧
    (∃ (s : State) (q : Req) (lvl : Nat) (sid : Nat), s.Invoked q oJrnlRelease [] 2 false lvl sid) ∧
    (∃ (s : State) (q : Req) (lvl : Nat) (sid : Nat), s.Invoked q oJrnlRelease [] 2 false lvl sid) ∧
    (∃ (s : State) (q : Req) (args : List Byte) (lvl : Nat) (sid : Nat) (h : Hold), s.Invoked q oJrnlExport args 1 false lvl sid ∧
      args.length = 4 ∧ s.jrnl.hold = some h ∧ h.complete = true) ∧
    (∃ (s : State) (q : Req) (args : List Byte) (lvl : Nat) (sid : Nat), s.Invoked q oJrnlExport args 1 false lvl sid ∧ args.length = 4 ∧
      (∀ h, s.jrnl.hold = some h → h.complete = false)) ∧
    (∃ (s : State) (q : Req) (args : List Byte) (lvl : Nat) (sid : Nat), s.Invoked q oJrnlExport args 1 false lvl sid ∧ args.length = 4 ∧
      (∀ h, s.jrnl.hold = some h → h.complete = false)) ∧
    (∃ (s : State), (s.jrnl.jobs = [] ∨ ((∃ x ∈ s.jrnl.jobs, x.ready = true) ∧ (s.cv oStreamIp 0 = 0 ∨ s.time.up < s.jrnl.nextAt)))) ∧
    (∃ (s : State), (s.jrnl.jobs = [] ∨ ((∃ x ∈ s.jrnl.jobs, x.ready = true) ∧ (s.cv oStreamIp 0 = 0 ∨ s.time.up < s.jrnl.nextAt)))) ∧
    (∃ (s : State), (s.jrnl.jobs = [] ∨ ((∃ x ∈ s.jrnl.jobs, x.ready = true) ∧ (s.cv oStreamIp 0 = 0 ∨ s.time.up < s.jrnl.nextAt)))) ∧
    (∃ (s : State) (x : SJob) (r : List SJob) (p : List Byte) (m : List Byte) (last : Bool), s.jrnl.jobs = x :: r ∧ x.ready = true ∧
      (x.kind = 3 ∨ (∀ y ∈ r, y.kind ≠ 3)) ∧ (∀ y ∈ r, y.growing = true ∨ y.ready = true) ∧ s.cv oStreamIp 0 ≠ 0 ∧ s.jrnl.nextAt ≤
      s.time.up ∧ p = (x.octets.drop x.offset).take 1436 ∧ last = (!x.growing && decide (x.octets.length ≤ x.offset + p.length)) ∧ m = le
      4 0x31535256 ++ le 1 x.kind ++ le 1 (ofBool last) ++ zeros 2 ++ le 8 Config.serial.toNat ++ le 4 s.jrnl.seq ++ le 4 x.id ++ le 4
      x.offset ++ le 2 p.length ++ zeros 2 ++ p) ∧
    (∃ (s : State) (x : SJob) (r : List SJob) (p : List Byte) (m : List Byte) (last : Bool), s.jrnl.jobs = x :: r ∧ x.ready = true ∧
      (x.kind = 3 ∨ (∀ y ∈ r, y.kind ≠ 3)) ∧ (∀ y ∈ r, y.growing = true ∨ y.ready = true) ∧ s.cv oStreamIp 0 ≠ 0 ∧ s.jrnl.nextAt ≤
      s.time.up ∧ p = (x.octets.drop x.offset).take 1436 ∧ last = (!x.growing && decide (x.octets.length ≤ x.offset + p.length)) ∧ m = le
      4 0x31535256 ++ le 1 x.kind ++ le 1 (ofBool last) ++ zeros 2 ++ le 8 Config.serial.toNat ++ le 4 s.jrnl.seq ++ le 4 x.id ++ le 4
      x.offset ++ le 2 p.length ++ zeros 2 ++ p) ∧
    (∃ (s : State) (q : Req) (args : List Byte) (lvl : Nat) (sid : Nat), s.Invoked q oRrStart args 2 false lvl sid ∧ args.length = 20 ∧
      octet args 0 ≤ 1 ∧ octet args 1 ≤ 1 ∧ fieldLe args 2 2 < 2 ^ 15 ∧ fieldLe args 4 8 ≤ fieldLe args 12 8 ∧ (s.jrnl.run ≠ none ∨ 31 <
      s.cv oRrUnit 0 ∨ (smGet WUnit.reset s.watch (s.cv oRrUnit 0)).state ≠ .off)) ∧
    (∃ (s : State) (q : Req) (args : List Byte) (lvl : Nat) (sid : Nat), s.Invoked q oRrStart args 2 false lvl sid ∧ args.length = 20 ∧
      octet args 0 ≤ 1 ∧ octet args 1 ≤ 1 ∧ fieldLe args 2 2 < 2 ^ 15 ∧ fieldLe args 4 8 ≤ fieldLe args 12 8 ∧ s.jrnl.run = none ∧ s.cv
      oRrUnit 0 ≤ 31 ∧ (smGet WUnit.reset s.watch (s.cv oRrUnit 0)).state = .off ∧ octet args 1 = 1 ∧ badImport s.jrnl.image = true) ∧
    (∃ (s : State) (q : Req) (args : List Byte) (lvl : Nat) (sid : Nat), s.Invoked q oRrStart args 2 false lvl sid ∧ args.length = 20 ∧
      octet args 0 ≤ 1 ∧ octet args 1 ≤ 1 ∧ fieldLe args 2 2 < 2 ^ 15 ∧ fieldLe args 4 8 ≤ fieldLe args 12 8 ∧ s.jrnl.run = none ∧ s.cv
      oRrUnit 0 ≤ 31 ∧ (smGet WUnit.reset s.watch (s.cv oRrUnit 0)).state = .off ∧ (octet args 1 = 1 → badImport s.jrnl.image = false) ∧
      (Eff.start s).sourceFits (octet args 1 == 1) (fieldLe args 4 8) (fieldLe args 12 8) = true) ∧
    (∃ (s : State) (q : Req) (lvl : Nat) (sid : Nat), s.Invoked q oRrStop [] 2 false lvl sid ∧ s.jrnl.run = none) ∧
    (∃ (s : State) (q : Req) (lvl : Nat) (sid : Nat), s.Invoked q oRrStop [] 2 false lvl sid ∧ s.jrnl.run ≠ none) ∧
    (∃ (s : State) (q : Req) (args : List Byte) (lvl : Nat) (sid : Nat) (off : Nat) (n : Nat), s.Invoked q oRrImport args 2 false lvl sid
      ∧ off = fieldLe args 0 4 ∧ n = fieldLe args 4 2 ∧ args.length = 6 + n ∧ n ≤ 1024 ∧ off + n ≤ 20971520 ∧ s.devState ≠ .ready ∧
      s.devState ≠ .safe) ∧
    (∃ (s : State) (q : Req) (args : List Byte) (lvl : Nat) (sid : Nat) (off : Nat) (n : Nat), s.Invoked q oRrImport args 2 false lvl sid
      ∧ off = fieldLe args 0 4 ∧ n = fieldLe args 4 2 ∧ args.length = 6 + n ∧ n ≤ 1024 ∧ off + n ≤ 20971520 ∧ (s.devState = .ready ∨
      s.devState = .safe)) ∧
    (∃ (s : State) (q : Req) (args : List Byte) (lvl : Nat) (sid : Nat) (off : Nat) (n : Nat), s.Invoked q oRrImport args 2 false lvl sid
      ∧ off = fieldLe args 0 4 ∧ n = fieldLe args 4 2 ∧ args.length = 6 + n ∧ n ≤ 1024 ∧ off + n ≤ 20971520 ∧ (s.devState = .ready ∨
      s.devState = .safe)) ∧
    (∃ (s : State), s.jrnl.run = none) ∧
    (∃ (s : State) (r : RRun), s.jrnl.run = some r ∧ (Eff.start s).rrPaused = true) ∧
    (∃ (s : State) (r : RRun), s.jrnl.run = some r ∧ (Eff.start s).rrPaused = false) ∧
    (∃ (s : State) (r : RRun), s.jrnl.run = some r ∧ (Eff.start s).rrPaused = false) ∧
    (∃ (s : State) (r : RRun), s.jrnl.run = some r ∧ (Eff.start s).rrPaused = false) ∧
    (∃ (s : State) (r : RRun), s.jrnl.run = some r ∧ (Eff.start s).rrPaused = false) :=
  ⟨⟨jr wRun fun j => { j with entries := [(999, [2]), (990, [1])], holdNum := 3, slotA := some { wCkpt with done := true } }, wA
     oJrnlHold [], 3, 7, wInvoked _ _ _ _ _ (by decide +kernel) rfl (by decide +kernel) (by decide +kernel) (by decide +kernel)
     (by decide +kernel), by decide +kernel⟩,
   ⟨jr wRun fun j => { j with hold := some wHold, holdNum := 1 }, wA oJrnlHold [], 3, 7, wInvoked _ _ _ _ _ (by decide +kernel) rfl
     (by decide +kernel) (by decide +kernel) (by decide +kernel) (by decide +kernel), by decide +kernel⟩,
   ⟨jr wRun fun j => { j with hold := some wHold, holdNum := 1 }, wA oJrnlRelease [], 3, 7, wInvoked _ _ _ _ _ (by decide +kernel) rfl
     (by decide +kernel) (by decide +kernel) (by decide +kernel) (by decide +kernel)⟩,
   ⟨wRun, wA oJrnlRelease [], 3, 7, wInvoked _ _ _ _ _ (by decide +kernel) rfl (by decide +kernel) (by decide +kernel)
     (by decide +kernel) (by decide +kernel)⟩,
   ⟨jr wRun fun j => { j with hold := some { wHold with ckpt := none } }, wA oJrnlExport [1, 0, 0, 0], [1, 0, 0, 0], 3, 7,
     { wHold with ckpt := none }, wInvoked _ _ _ _ _ (by decide +kernel) rfl (by decide +kernel) (by decide +kernel) (by decide +kernel)
     (by decide +kernel), by decide +kernel⟩,
   ⟨wRun, wA oJrnlExport [1, 0, 0, 0], [1, 0, 0, 0], 3, 7, wInvoked _ _ _ _ _ (by decide +kernel) rfl (by decide +kernel)
     (by decide +kernel) (by decide +kernel) (by decide +kernel), by decide +kernel, fun _ h => nomatch h⟩,
   ⟨jr wRun fun j => { j with hold := some { wHold with complete := false } }, wA oJrnlExport [1, 0, 0, 0], [1, 0, 0, 0], 3, 7, wInvoked
     _ _ _ _ _ (by decide +kernel) rfl (by decide +kernel) (by decide +kernel) (by decide +kernel) (by decide +kernel),
     by decide +kernel, fun h e => by cases e; rfl⟩,
   ⟨wRun, by decide +kernel⟩,
   ⟨cfgd (jr wRun fun j => { j with jobs := [⟨1, 9, zeros 9, 0, false⟩] }) oStreamIp 0 0, by decide +kernel⟩,
   ⟨cfgd (jr wRun fun j => { j with jobs := [⟨1, 9, zeros 9, 0, false⟩], nextAt := 100000000001 }) oStreamIp 0 0xA000001,
     by decide +kernel⟩,
   ⟨cfgd (jr wRun fun j => { j with jobs := ⟨1, 9, zeros 20, 3, false⟩ :: [], seq := 4, nextAt := 100000000000 }) oStreamIp 0 0xA000001,
     ⟨1, 9, zeros 20, 3, false⟩, [], zeros 17, le 4 0x31535256 ++ le 1 1 ++ le 1 (ofBool true) ++ zeros 2 ++ le 8 Config.serial.toNat ++
     le 4 4 ++ le 4 9 ++ le 4 3 ++ le 2 17 ++ zeros 2 ++ zeros 17, true, by decide +kernel, by decide +kernel, by decide +kernel,
     by decide +kernel, by decide +kernel, by decide +kernel, by decide +kernel, by decide +kernel, rfl⟩,
   ⟨cfgd (jr wRun fun j =>
     { j with jobs := ⟨3, 9, zeros 1440, 0, false⟩ :: [⟨1, 8, zeros 5, 0, false⟩], seq := 4, nextAt := 100000000000 }) oStreamIp 0
     0xA000001, ⟨3, 9, zeros 1440, 0, false⟩, [⟨1, 8, zeros 5, 0, false⟩], zeros 1436, le 4 0x31535256 ++ le 1 3 ++ le 1 (ofBool false)
     ++ zeros 2 ++ le 8 Config.serial.toNat ++ le 4 4 ++ le 4 9 ++ le 4 0 ++ le 2 1436 ++ zeros 2 ++ zeros 1436, false,
     by decide +kernel, by decide +kernel, by decide +kernel, by decide +kernel, by decide +kernel, by decide +kernel, by decide +kernel,
     by decide +kernel, rfl⟩,
   ⟨jr wRun fun j => { j with run := some wRR }, wA oRrStart (le 1 0 ++ le 1 0 ++ le 2 0 ++ le 8 901 ++ le 8 902), le 1 0 ++ le 1 0 ++ le
     2 0 ++ le 8 901 ++ le 8 902, 3, 7, wInvoked _ _ _ _ _ (by decide +kernel) rfl (by decide +kernel) (by decide +kernel)
     (by decide +kernel) (by decide +kernel), by decide +kernel⟩,
   ⟨jr wRun (fun j => { j with image := [1] }), wA oRrStart (le 1 0 ++ le 1 1 ++ le 2 0 ++ le 8 901 ++ le 8 902), le 1 0 ++ le 1 1 ++ le
     2 0 ++ le 8 901 ++ le 8 902, 3, 7, wInvoked _ _ _ _ _ (by decide +kernel) rfl (by decide +kernel) (by decide +kernel)
     (by decide +kernel) (by decide +kernel), by decide +kernel⟩,
   ⟨jr { wRun with doms := [(5, { Domain.reset with owner := 7 }), (6, { Domain.reset with owner := 8 })] } fun j =>
     { j with hold := some wHold, runs := 8 }, wA oRrStart (le 1 1 ++ le 1 0 ++ le 2 0x60 ++ le 8 901 ++ le 8 902), le 1 1 ++ le 1 0 ++
     le 2 0x60 ++ le 8 901 ++ le 8 902, 3, 7, wInvoked _ _ _ _ _ (by decide +kernel) rfl (by decide +kernel) (by decide +kernel)
     (by decide +kernel) (by decide +kernel), by decide +kernel⟩,
   ⟨wRun, wA oRrStop [], 3, 7, wInvoked _ _ _ _ _ (by decide +kernel) rfl (by decide +kernel) (by decide +kernel) (by decide +kernel)
     (by decide +kernel), by decide +kernel⟩,
   ⟨jr wRun fun j => { j with run := some wRR, status := 2 }, wA oRrStop [], 3, 7, wInvoked _ _ _ _ _ (by decide +kernel) rfl
     (by decide +kernel) (by decide +kernel) (by decide +kernel) (by decide +kernel), by decide +kernel⟩,
   ⟨wRun, wA oRrImport (le 4 3 ++ le 2 2 ++ [8, 9]), le 4 3 ++ le 2 2 ++ [8, 9], 3, 7, 3, 2, wInvoked _ _ _ _ _ (by decide +kernel) rfl
     (by decide +kernel) (by decide +kernel) (by decide +kernel) (by decide +kernel), by decide +kernel⟩,
   ⟨jr (wS .ready .active) fun j => { j with image := [1] }, wA oRrImport (le 4 3 ++ le 2 2 ++ [8, 9]), le 4 3 ++ le 2 2 ++ [8, 9], 3, 7,
     3, 2, wInvoked _ _ _ _ _ (by decide +kernel) rfl (by decide +kernel) (by decide +kernel) (by decide +kernel) (by decide +kernel),
     by decide +kernel⟩,
   ⟨jr (wS .safe .standby) fun j => { j with image := [1, 2, 3, 4, 5, 6, 7] }, wA oRrImport (le 4 3 ++ le 2 2 ++ [8, 9]), le 4 3 ++ le 2
     2 ++ [8, 9], 3, 7, 3, 2, wInvoked _ _ _ _ _ (by decide +kernel) rfl (by decide +kernel) (by decide +kernel) (by decide +kernel)
     (by decide +kernel), by decide +kernel⟩,
   ⟨wRun, by decide +kernel⟩,
   ⟨pr (jr wRun fun j => { j with run := some wRR }) fun p => { p with replay := true }, wRR, by decide +kernel⟩,
   ⟨jr wRun fun j => { j with run := some wRR }, wRR, by decide +kernel⟩,
   ⟨jr wRun fun j => { j with run := some { wRR with next := 902 }, firstDiff := some 900 }, { wRR with next := 902 }, by decide +kernel⟩,
   ⟨jr wRun fun j => { j with run := some wRR }, wRR, by decide +kernel⟩,
   ⟨jr wRun fun j => { j with run := some { wRR with next := 902 }, firstDiff := some 900 }, { wRR with next := 902 }, by decide +kernel⟩⟩

/-! ### Well-formedness: each check refuses an ill-formed term -/

/-- A request whose TAG has three octets. -/
def badTag : Req := { wQ 3 [] with tag := zeros 3 }

theorem wf_accepts_commit : (Instr.commit (wA oCommit [2]) [2]).wf = true := by decide +kernel
theorem wf_refuses_tag_of_three_octets : (Instr.keepalive badTag).wf = false := by decide +kernel
theorem wf_refuses_payload_beyond_len : (Instr.dapProve (wQ 1 []) (zeros 65536)).wf = false := by
  simp [Instr.wf, fitsLen, zeros, -List.reduceReplicate]
theorem wf_refuses_empty_segment : (Instr.dapcSegment 1 []).wf = false := by decide +kernel
theorem wf_refuses_segment_of_65_octets : (Instr.dapcSegment 1 (zeros 65)).wf = false := by decide +kernel
theorem wf_refuses_chain_named_twice : (Instr.discoveryEnd [(4, []), (4, [])] []).wf = false := by decide +kernel
theorem wf_refuses_256_terminals : (Instr.discoveryEnd [] [(3, List.replicate 256 1)]).wf = false := by decide +kernel
theorem wf_refuses_slot_named_twice : (Instr.overrun [9, 9]).wf = false := by decide +kernel
theorem wf_refuses_17_conversions : (Instr.entryResult 2 (List.replicate 17 ⟨0⟩) []).wf = false := by decide +kernel
theorem wf_refuses_sample_below_bit_12 : (Instr.entryResult 2 [⟨256⟩] []).wf = false := by decide +kernel
theorem wf_refuses_valid_sample_with_reason : (Instr.sdOutput 3 ⟨0x88⟩).wf = false := by decide +kernel
theorem wf_refuses_probe_voltage : (Instr.auxTestDone 4 65536 0 24000).wf = false := by decide +kernel
theorem wf_refuses_requester : (Instr.faultReport 0x001 2 0 16 0).wf = false := by decide +kernel
theorem wf_refuses_access_type : (Instr.faultReport 0x001 2 0 3 4).wf = false := by decide +kernel
theorem wf_refuses_sync_interval : (Instr.ptpSyncReceive 0 1 false 0 0 0 128).wf = false := by decide +kernel
theorem wf_refuses_clock_class : (Instr.ptpAnnounceReceive 0 1 128 256 0x20 0 128 37 true true true 0).wf = false := by decide +kernel
theorem wf_refuses_line_of_another_bank : (Instr.transferPost 3 2 false [(9, 255, [])]).wf = false := by decide +kernel
theorem wf_refuses_empty_burst : (Instr.transferPost 3 2 false []).wf = false := by decide +kernel
theorem wf_refuses_point_changed_twice : (Instr.replayFrame true [(5, 0), (5, 1)]).wf = false := by decide +kernel
theorem wf_refuses_rail_voltage : (Instr.supplyReset 1 65536 300).wf = false := by decide +kernel
theorem wf_refuses_temperature : (Instr.junctionHot 32768).wf = false := by decide +kernel

/-! ### The spec's worked examples

Every expected value below stands in the example named in the test's docstring. -/

/-- The state a command leads to, or the state itself. -/
def run1 (i : Instr) (s : State) : State :=
  match exec i s with
  | .next t => t
  | _ => s

/-- R48 (02, the example of a cell that misses two records): the word after frame k + 2. -/
theorem test_missing_record_word :
    missWord (missWord (mkPoint 0x46666666 0 0 0) 2500 false) 2500 false = 0x0001EC7846666666#64 := by decide +kernel

/-- R63 (02): +2.5 LSB narrows to 3 and −2.5 LSB to −2. -/
theorem test_narrow_rounds_half_up : narrow 1 5 = 3 ∧ narrow 1 (-5) = -2 := by decide +kernel

/-- R81 (03, the WRITE of DEADLINE): the octets of the request before its tag. -/
theorem test_write_request_octets :
    dapOctets 0 2 0x107 0x2A ([1, 0, 0x28] ++ [0] ++ [0, 0, 1, 0] ++ [0x40, 0x1F, 0, 0]) =
      [0x10, 2, 7, 1, 0x2A, 0, 0, 0, 0x0C, 0, 0, 0, 1, 0, 0x28, 0, 0, 0, 1, 0, 0x40, 0x1F, 0, 0] := by decide +kernel

/-- R52 (03): a set with DEADLINE 8,000 leaves no core time, which is refused with BUDGET, code 3. -/
theorem test_deadline_leaves_no_core_time :
    ((Eff.start (cfgd wRun oDeadline 0 8000)).schedFails).map (·.reason) = [3] := by decide +kernel

/-- R79 (03): the commit result of that refusal. -/
theorem test_commit_result_octets :
    commitBlock 8 3 2 oDeadline 0 0 5 = [8, 3, 2, 0, 1, 0, 0x28, 0, 0, 0, 0, 0, 0, 0, 0, 0, 0, 0, 0, 0, 5, 0, 0, 0] := by decide +kernel

/-- The record of C17 in R186 and 07: ACTIVE in frame 999,999, with the example's points. -/
def wC17 : State := { wRun with
  frame := { wRun.frame with k := 999999 }
  cells := [(17, { Cell.reset with state := .active, bypClosed := false })]
  sched := { SchedSt.reset with cells := [(17, ⟨2, true, false, none, none⟩)] }
  pts := [(0x011120, mkPoint 0x30666666 0 0 0), (0x011121, mkPoint (-0x50000000) 0 0 0), (0x011122, mkPoint 0x028F5C29 0 0 0),
          (0x011123, mkPoint (-21474836) 0 0 0), (0x011124, mkPoint 0x00418937 0 0 0)] }

/-- R186, R216 to R219 (06, 07): octets 0 to 59 of the record. -/
theorem test_record_of_c17 :
    ((((Eff.start wC17).buildRecord (fun _ => true) (fun _ => true) 17 2).st.sched.recs.headD (0, [])).2).take 60 =
      [0x11, 6, 0, 0, 0, 0, 0x88, 0x13, 0x60, 9, 0x64, 0x40, 6, 0x64, 0, 0, 0x0F, 0x32, 0xC8, 0, 0, 0, 0, 0, 1, 0, 0, 0, 0, 0, 0, 0,
       2, 0x20, 0x4E, 0, 6, 0x20, 0x4E, 0, 2, 0x60, 0x54, 0, 6, 0x60, 0x54, 0, 2, 0xA0, 0x4B, 0, 6, 0xA0, 0x4B, 0, 0, 0, 0, 0] := by
  decide +kernel

/-- R219 (07): PHI_B_OUT of the same record, without a quality bit. -/
theorem test_phi_b_out_of_c17 :
    ((Eff.start wC17).buildRecord (fun _ => true) (fun _ => true) 17 2).pt 0x011126 = 0x00000000FEF9DB23#64 := by decide +kernel

/-- R228 (07, leg U6): a ratio of 0.375 over 384,000 q_E; R229: an absolute compare beyond PER is clipped. -/
theorem test_hub_compare :
    compareOf false 384000 0x60000000 = (144000, false) ∧ compareOf true 320000 336000 = (319999, true) := by decide +kernel

/-- R248 (08, frame 1 of the resonant loop): section 1. -/
theorem test_resonant_section :
    let r := runSection 1073742 (-1073737) 0 (-2147473051) 1073741824 0 1 137438953472 0 0
    (r.y = 137438976 ∧ r.n1 = 137438260 ∧ r.n2 = -137438976) ∧ r.sat = false := by decide +kernel

/-- R249 (08): the sum on a half LSB rounds up to 0x0C04_1894. -/
theorem test_slot_output_rounds_up : narrow 9 (103079215104 + 137438976) = 0x0C041894 := by decide

/-- The station's phase C (09): its cells. -/
def phaseC : List Nat := (List.range 16).map (3 * · + 2)

/-- The station of 09 with some cells ACTIVE, in frame k. -/
def station (l : List Nat) (k : Nat) : State := { wRun with
  frame := { wRun.frame with k := k }
  cfg := (List.range 48).map fun c => (key oCellPhase c, some (c % 3))
  cells := l.map fun c => (c, { Cell.reset with state := .active, bypClosed := false }) }

/-- R289 (09): CARR_PH of C20 before C17 is bypassed. -/
theorem test_carrier_of_sixteen :
    ((Eff.start (station phaseC 351199)).countCells).pv 0x011421 = 0x4D555555 := by decide +kernel

/-- R289, R291 (09): CARR_PH of C20 once C17 has left. -/
theorem test_carrier_of_fifteen :
    ((Eff.start (station (phaseC.filter (· != 17)) 351200)).countCells).pv 0x011421 = 0x5B05B05B := by decide +kernel

/-- The cells in phase C at 1,100 V with the voltage slot at 8,800 V (09). -/
def modulated (l : List Nat) : State :=
  { cfgd (station l 351200) oVrefPt 2 0x2003 with
    pts := (0x2003, mkPoint 0x23333333 0 0 0) :: phaseC.map fun c => (cellPt c, mkPoint 0x46666666 0 0 0) }

/-- R287 (09): M_H of C20 with 16 and with 15 cells. -/
theorem test_modulation_index :
    ((Eff.start (modulated phaseC)).modulate 2).pv 0x011420 = 0x40000000 ∧
    ((Eff.start (modulated (phaseC.filter (· != 17)))).modulate 2).pv 0x011420 = 0x44444444 := by decide +kernel

/-- Weights and limits of the four ports of 10, from R312 and R313. -/
def fourPorts : List (Int × Int) :=
  let one : Int := 2147483647
  let w (fs fh ft fb : Int) : Int := narrow 31 (narrow 31 (narrow 31 (fs * fh) * ft) * fb)
  let h (x : Int) : Int := rdiv (x * 2 ^ 31) 1000000
  [(w (factor 62 80) (factor 92 100) one one, h 65000), (w (factor 45 80) (factor 80 100) (factor 3 5) (factor 12 30), h 117000),
   (w (factor 78 80) (factor 97 100) one one, h 71500), (0, 0)]

/-- R315 (10): the sum at 2²⁸ lies three units above D. -/
theorem test_dispatch_sum : fourPorts.foldl (fun a p => a + share (2 ^ 28) p) 0 = 322122547 := by decide +kernel

/-- R315 (10): the water level settles one grid step below 2²⁸. -/
theorem test_water_level : waterLevel 322122544 fourPorts 24 0 (2 ^ 35) = 2 ^ 28 - 2 ^ 11 := by decide +kernel

/-- R362 (12): the corrected value of the grid voltage. -/
theorem test_converter_correction : correct 0x4020C49C 0 0x4B5F1000 = 0x4B85A713 := by decide

/-- FA2 in the FRAME sequence of 12. -/
def wGridSeq : State :=
  cfgd (cfgd (cfgd (cfgd (wFa { ConvF.reset with prev := some (17, 0), calOk := true }) oSeqCfg 8 0x4001) oEntry 64 0x40) oEntry 65 0x41)
    oChGain 64 0x4020C49C

/-- Three samples of 12's word. -/
def threeSamples : List Sample := List.replicate 3 ⟨0x4B5F1080#32⟩

/-- R363, R364, R368 (12): the two results with TOFF 6 and 15, and four invalid conversions. -/
theorem test_grid_sequence :
    let s := run1 (.entryResult 2 threeSamples []) (run1 (.entryResult 2 threeSamples []) (run1 (.conversionTrigger 2 0) wGridSeq))
    (smGet 0 s.pts 0x1010 = mkPoint 0x4B85A713 6 0 0 ∧ ptToff (smGet 0 s.pts 0x1011) = 15) ∧
      (smGet ConvF.reset s.conv.fs 2).invalid = 4 := by decide +kernel

/-- R417 (13): AX4 passes and AX9 is open. -/
theorem test_aux_results : auxResult 4 487 0 24000 20 = 1 ∧ auxResult 9 24000 22800 24000 20 = 2 := by decide

/-- R421 (13): AX_PROBE and AX_STATUS of AX9, whose wire is loose. -/
theorem test_aux_probe :
    let s := run1 (.auxTestDone 9 24000 22800 24000) (wAux 9 { Aux.reset with testing := true })
    (smGet Aux.reset s.aux 9).va = 0x5DC0 ∧ (smGet Aux.reset s.aux 9).vb = 0x5910 ∧ (smGet Aux.reset s.aux 9).result = 2 := by
  decide +kernel

/-- A hub gate that is OFF with its supplies good and its sense input clear. -/
def calm : Gate := { Gate.reset with st := .off, sense := false, supPos := true, supNeg := true, offAt := some 0 }

/-- U6 and U7 of 13's escalation, DG15 in ON, time running from the start of U6's period. -/
def wU6 : State :=
  cfgd (cfgd (cfgd (cfgd (hb (gt ((List.range 24).map fun k => (k, if k = 15 then { calm with st := .on, cmd := true } else calm))
    ((List.range 12).map fun u => (u, wLeg))) fun h => { h with running := true, legs := [(6, { HubLeg.reset with begun := true })] })
    oLegEn 6 1) oLegEn 7 1) oBlankHub 6 1000) oGateDtMin 6 200

/-- A later instant. -/
def later (ns : Nat) (s : State) : State := { s with time := { s.time with up := s.time.up + ns, clock := s.time.clock + ns * nsq } }

/-- U6 trips when its blanking ends (13). -/
def wU6Trip : State :=
  run1 (.blankingEnd 12) (later 580 (run1 (.senseQualified 12 true 1000) (later 420 (run1 (.gateCommand 12 true) (later 200 wU6)))))

/-- R399, R409, R410 (13): GATE_STATUS[6] and GATE_TROUBLE[6] after the escalation, with DSC12 released. -/
theorem test_escalation :
    let s := run1 (.senseQualified 12 false 1000) (run1 (.senseQualified 15 true 1000) (later 90 wU6Trip))
    (Eff.start s).gateStatus 6 = 0x1D33 ∧ (smGet Leg.reset s.gate.legs 6).trouble = 0x11 := by decide +kernel

/-- R399 (13, 14): DG15's trip carries the instant of U6's. -/
theorem test_escalation_instant :
    let s := run1 (.senseQualified 15 true 1000) (later 90 wU6Trip)
    (smGet Leg.reset s.gate.legs 7).tripAt = (smGet Leg.reset wU6Trip.gate.legs 6).tripAt := by decide +kernel

/-- R422, R442 (14): the Ledger entry of the DG12 trip. -/
theorem test_ledger_octets :
    Entry.octets { addr := 0x800C, kind := 0x60, sev := 4, source := 0x070, time := 1956528100200001200 * 65536, frame := 731000420
                   merges := 0, access := none, forced := false, notActed := false, peer := false, pfTail := false, seq := 18204, rid := 0 } =
      [0x0C, 0x80, 0, 0, 0x60, 4, 7, 0, 0xE4, 0x3F, 0x9E, 0x74, 0, 0, 0xB0, 0xC6, 0xEB, 0x0B, 0, 0, 0x64, 0x2E, 0x92, 0x2B, 0, 0, 0, 0,
       0x1C, 0x47, 0, 0] := by decide +kernel

/-- The station of 17: 48 installed cells, each with a port. -/
def wStation : State := { wRun with
  cfg := (List.range 48).map (fun c => (key oCellPhase c, some (c % 3))) ++ (List.range 48).map fun c => (key oPackVnom c, some 650) }

/-- R532, R533 (17): NEED and the guarantee of LG0 in bank 0. -/
theorem test_point_store_need : (Eff.start wStation).need 0 0 = 288 ∧ (Eff.start wStation).guaranteed 0 0 = 624 := by decide +kernel

/-- Lane 0 of 08's station: three resonant loops and 24 port loops. -/
def wLoops : State := { wRun with
  cfg := (List.range 3).map (fun i => (key oSlotCfg i, some 0xA0001)) ++ (List.range 24).map (fun i => (key oSlotCfg (3 + i), some 0x20001)) ++
    (List.range 3).map (fun i => (key oBrLen i, some 0x11)) ++ (List.range 24).map fun i => (key oBrLen (3 + i), some 1) }

/-- R264 to R266 (08): the load of lane 0 and the core time W. -/
theorem test_core_time : (Eff.start wLoops).laneLoad 0 = 526 ∧ (Eff.start wLoops).coreTime = 1319 := by decide +kernel

/-- R2, R6, R7 (00): C17.P2H is gate index 6 on chain 2, position 1, global index 278; DG9 is U4.L. -/
theorem test_names :
    cellAt 2 1 = 17 ∧ gateIndex .p 2 true = 6 ∧ remoteGate 17 6 = 278 ∧ hubChannel 4 false = 9 := by decide

/-- R591 (20): the balls of CH5 and of E1. -/
theorem test_lane_balls :
    (laneBalls 5).map (fun b => (rowName b.row, b.col)) = [("B", 18), ("B", 19), ("E", 18), ("E", 19)] ∧
    (laneBalls 27).map (fun b => (rowName b.row, b.col)) = [("BG", 42), ("BG", 43), ("BD", 42), ("BD", 43)] := by decide +kernel

/-- R594 (20): every operating range lies inside the monitor window of R577. -/
theorem test_operating_in_window : ∀ r ∈ List.range 10,
    10 * (railWindow r).1 ≤ (railOperating r).1 ∧ (railOperating r).2 ≤ 10 * (railWindow r).2.1 := by decide

/-- R329: twice the base point of P-256. -/
theorem test_p256_double : ecAdd (some p256G) (some p256G) =
    some (0x7cf27b188d034f7e8a52380304b51ac3c08969e277f21b35a60b48fc47669978,
      0x7775510db8ed040293d9ac69f7430dbba7dade63ce982299e04b79d227873d1) := by decide +kernel

end Sys2Proof.Tests
end

