-- ==== Sys2Proof/Proofs/Time96.lean ====
section
/-! SUPPORT. Little-endian fields read back, and the round trip of TIME96 (R10, R67). -/

namespace Sys2Proof.Machine

/-! ### Little-endian fields -/

/-- `n` octets are written, whatever the value. -/
@[simp] theorem length_le (n v : Nat) : (le n v).length = n := by
  induction n generalizing v with
  | zero => rfl
  | succ n ih => simp [le, ih]

/-- The value of `n` octets of `v` is `v` cut to `n` octets. -/
theorem unle_le (n v : Nat) : unle (le n v) = v % 256 ^ n := by
  induction n generalizing v with
  | zero => simp [le, unle, Nat.mod_one]
  | succ n ih => simp [le, unle, ih, Nat.pow_succ', Nat.mod_mul]

/-- A field behind the octets of another one. -/
theorem fieldLe_le_append_add (m v : Nat) (bs : List Byte) (i n : Nat) : fieldLe (le m v ++ bs) (m + i) n = fieldLe bs i n := by
  have drop_front : (le m v ++ bs).drop (m + i) = bs.drop i := by
    simpa using List.drop_length_add_append (l₁ := le m v) (l₂ := bs) i
  rw [fieldLe, drop_front, fieldLe]

/-- The field at the front reads the value it was made from, where its octets hold that value. -/
theorem fieldLe_le_append (n v : Nat) (bs : List Byte) (hv : v < 256 ^ n) : fieldLe (le n v ++ bs) 0 n = v := by
  simp [fieldLe, unle_le, Nat.mod_eq_of_lt hv]

/-- A value that is not negative and fits in `w` bits is its own raw bits (R9). -/
theorem rawBits_of_lt (w : Nat) (i : Int) (h0 : 0 ≤ i) (hw : i < 2 ^ w) : (rawBits w i : Int) = i := by
  have hmod : i % ((2 ^ w : Nat) : Int) = i := Int.emod_eq_of_lt h0 (by exact_mod_cast hw)
  rw [rawBits, hmod, Int.toNat_of_nonneg h0]

/-! ### TIME96 -/

/-- A TIME96 has the 12 octets of its type (R67). -/
@[simp] theorem length_time96 (t : Int) : (time96 t).length = 12 := by
  simp [time96]

/-- Twelve octets of seconds, nanoseconds and fraction, each in its range of octets, read as their sum in 2⁻¹⁶ ns (R10). -/
theorem untime96_fields (s ns f : Nat) (hs : s < 256 ^ 6) (hns : ns < 256 ^ 4) (hf : f < 256 ^ 2) :
    untime96 (le 6 s ++ le 4 ns ++ le 2 f) = ((s * 1000000000 + ns) * 65536 + f : Nat) := by
  have seconds : fieldLe (le 6 s ++ (le 4 ns ++ le 2 f)) 0 6 = s := fieldLe_le_append 6 s _ hs
  have nanoseconds : fieldLe (le 6 s ++ (le 4 ns ++ le 2 f)) 6 4 = ns :=
    (fieldLe_le_append_add 6 s _ 0 4).trans (fieldLe_le_append 4 ns _ hns)
  have fraction : fieldLe (le 6 s ++ (le 4 ns ++ le 2 f)) 10 2 = f := by
    rw [fieldLe_le_append_add 6 s _ 4 2, fieldLe_le_append_add 4 ns _ 0 2, ← List.append_nil (le 2 f)]
    exact fieldLe_le_append 2 f [] hf
  rw [untime96, List.append_assoc, seconds, nanoseconds, fraction]

/-- The seconds of an instant below 2⁴⁸ s fit their six octets, so no part of the instant is cut. -/
theorem untime96_time96 (t : Int) (h0 : 0 ≤ t) (ht : t < 2 ^ 48 * 1000000000 * 65536) : untime96 (time96 t) = t := by
  have seconds : (rawBits 48 (t / 65536 / 1000000000) : Int) = t / 65536 / 1000000000 :=
    rawBits_of_lt 48 _ (by omega) (by omega)
  rw [time96, untime96_fields _ _ _ (by omega) (by omega) (by omega)]
  omega

/-- Settles O11: seconds, nanoseconds and fraction are quotient and remainders of the instant, and each fits its octets. -/
theorem time96RoundTrips : Obligations.Time96RoundTrips := by
  intro t h0 ht
  exact ⟨length_time96 t, untime96_time96 t h0 ht⟩

end Sys2Proof.Machine
end

