-- ==== Sys2Proof/Proofs/Invariant.lean ====
section
/-! SUPPORT. Every step is an effect, so every step keeps what effects keep. -/

namespace Sys2Proof.Machine

/-- A check of a command answers an effect where both its sides do. -/
theorem ite_reaches {s : State} {c : Prop} [Decidable c] {a b : Host.Outcome State Fault Refusal}
    (ha : ∃ e : Act s, a = .next e.st) (hb : ∃ e : Act s, b = .next e.st) : ∃ e : Act s, (if c then a else b) = .next e.st := by
  split
  · exact ha
  · exact hb

/-- ENTRY_RESULT branches by a match and then by two checks, over named values that a case split would copy. -/
theorem execEntryResult_reaches (f : Fin 4) (lower upper : List Sample) (s : State) :
    ∃ e : Act s, execEntryResult f lower upper s = .next e.st := by
  unfold execEntryResult
  extract_lets e f x
  split
  · exact ⟨_, rfl⟩
  · exact ite_reaches ⟨_, rfl⟩ (ite_reaches ⟨_, rfl⟩ ⟨_, rfl⟩)

/-- Every command answers a next state that effects reach from the present one; none faults or is refused (log 98). The cases go by how the
command's meaning branches before it answers: after one check, after two, by a match, or not at all. -/
theorem exec_reaches (i : Instr) (s : State) : ∃ e : Act s, exec i s = .next e.st := by
  cases i with
  | spiStatus | resetNRise | resetNLow | jtagSysreset | repeatedDiscovery | frameStart | canarySend | beaconSend | chargeTimeout |
    cellLost | cellSuspect | adaptationEnd | laneAcquireDone | losAssert | losClear | lolAssert | lolClear | warmAcquireTimeout |
    laneDown | tripBlockReceive | standbyAbsent | joinNoCanary | selfReplayDone | replayResultTimeout | hubMidReload | fastTick |
    triggerCompareMatch | commEdge | gateEnNRise | gateEnNFall | auxTestDone | auxTestAbort | auxOvercurrent | auxOcBlankEnd |
    ptpSyncReceive | announceTimeout | timeHold | calendarCompare | storeCycle | watchRead | islandClockFault | debugHalt | supplyOor |
    supplyReset | railReturn =>
    exact ite_reaches ⟨_, rfl⟩ ⟨_, rfl⟩
  | spiPut | sramSelfTestDone | dictionaryRestore | discoveryEnd | pwrFailNAssert | blockLock | roleOkHigh | hubPeriodStart |
    blankingEnd | conversionTrigger | refclkLoss =>
    exact ite_reaches ⟨_, rfl⟩ (ite_reaches ⟨_, rfl⟩ ⟨_, rfl⟩)
  | entryResult f lower upper => exact execEntryResult_reaches f lower upper _
  | proveTimeout | sessionTimeout | dapcSegment | dapcMessageTimeout | spiGet | storeComplete | firmwareVerifyDone | roleNegotiation |
    roleWaitExpiry | checkpointComplete | brkFail | derateClearTimeout | bypassOpenTimeout | joinReplayDone | joinStepTimeout |
    gateCommand | senseQualified | supplyFail | sdStuck | pllLock | sequenceEnd | tripRepeat | queueAccept | holdingDrop | ledgerDrain |
    injectExpiry | eventNotification | meterSign | ptpFollowUpReceive | ptpDelayRespReceive | ptpPdelayRespReceive | bankWatchdog |
    streamDatagram | replayFrame =>
    dsimp only [exec, execProveTimeout, execSessionTimeout, execDapcSegment, execDapcMessageTimeout, execSpiGet, execStoreComplete,
      execFirmwareVerifyDone, execRoleNegotiation, execRoleWaitExpiry, execCheckpointComplete, execBrkFail, execDerateClearTimeout,
      execBypassOpenTimeout, execJoinReplayDone, execJoinStepTimeout, execGateCommand, execSenseQualified, execSupplyFail, execSdStuck,
      execPllLock, execSequenceEnd, execTripRepeat, execQueueAccept, execHoldingDrop, execLedgerDrain, execInjectExpiry,
      execEventNotification, execMeterSign, execPtpFollowUpReceive, execPtpDelayRespReceive, execPtpPdelayRespReceive, execBankWatchdog,
      execStreamDatagram, execReplayFrame]
    repeat' split
    all_goals exact ⟨_, rfl⟩
  | _ => exact ⟨_, rfl⟩

/-- A tick without a command is an effect as well. -/
theorem idle_reaches (s : State) : ∃ e : Act s, idle s = e.st := by
  dsimp only [idle]
  split
  · exact ⟨_, rfl⟩
  · exact ⟨_, rfl⟩

/-- A step leaves a state that effects reach from the present one without the command it takes. -/
theorem step_moves {s t : State} (h : step s = .next t) : Moves { s with pending := s.pending.tail } t := by
  unfold step at h
  split at h
  next c rest hq =>
    obtain ⟨e, he⟩ := exec_reaches c { s with pending := rest }
    obtain rfl : e.st = t := by simpa [he] using h
    simpa [hq] using e.ok
  next hq =>
    obtain ⟨e, he⟩ := idle_reaches s
    obtain rfl : e.st = t := by simpa [he] using h
    have hs : { s with pending := s.pending.tail } = s := by rw [hq, List.tail_nil, ← hq]
    rw [hs]
    exact e.ok

/-- Effects keep the invariant: each of its parts is a part of `Moves`. -/
theorem Moves.inv {a b : State} (h : Moves a b) (hi : a.Inv) : b.Inv := by
  obtain ⟨hpts, hcfg, hstg, hqueue, hring, hout⟩ := hi
  exact ⟨h.pts hpts, h.cfg hcfg, h.stg hstg, h.queue hqueue, h.ring hring, h.outputs hout⟩

/-- Settles O5: a step is an effect, and the queue of commands is no part of the invariant. -/
theorem everyStepKeepsTheInvariant : Obligations.EveryStepKeepsTheInvariant := by
  intro s t hi hs
  have hq : ({ s with pending := s.pending.tail } : State).Inv := hi
  exact (step_moves hs).inv hq

end Sys2Proof.Machine
end

