-- ==== Sys2Proof/Proofs/Points.lean ====
section
/-! SUPPORT. The point store and the fields of a point word (R45), and what the points read at reset. -/

namespace Sys2Proof.Machine

variable {s0 : Root}

/-! ### The point store -/

/-- A point write keeps the point store canonical. -/
theorem Eff.setPoint_wf (e : Eff s0) (n : Nat) (w : PointWord) (h : Memory.wf e.st.pts = true) :
    Memory.wf (e.setPoint n w).st.pts = true := by
  unfold Eff.setPoint
  split
  next hn =>
    simp only [Memory.wf, Bool.and_eq_true] at h ⊢
    exact ⟨smWf_set _ _ _ _ h.1, all_smSet _ _ _ _ _ h.2 (by simpa using hn)⟩
  · exact h

/-- A point of a canonical store reads the word written to it, and every other point as before. -/
theorem Eff.setPoint_pt (e : Eff s0) (n : Nat) (w : PointWord) (h : Memory.wf e.st.pts = true) (i : Nat) :
    (e.setPoint n w).st.pt i = if i = n ∧ n < pointCount then w else e.st.pt i := by
  have hwf : smAbove pointReset none e.st.pts = true := by
    simp only [Memory.wf, Bool.and_eq_true] at h
    exact h.1
  rw [Eff.setPoint_st]
  by_cases hn : n < pointCount
  · simp [State.pt, hn, smGet_smSet _ _ _ _ _ hwf]
  · simp [State.pt, hn]

/-- Settles O9: a write is an insertion into the canonical list, and past the last point there is no write. -/
theorem pointStoreReadsWhatWasWritten : Obligations.PointStoreReadsWhatWasWritten := by
  intro s n w hwf
  exact ⟨(Eff.start s).setPoint_wf n w hwf, (Eff.start s).setPoint_pt n w hwf⟩

/-! ### Point words -/

/-- A value read from its raw bits (R9): any number whose low `w` bits they are reads as the value. -/
theorem signed_of_mod_eq_rawBits (w n : Nat) (v : Int) (hw : 0 < w) (hn : n % 2 ^ w = rawBits w v)
    (hlo : -2 ^ (w - 1) ≤ v) (hhi : v < 2 ^ (w - 1)) : signed w n = v := by
  obtain ⟨k, rfl⟩ : ∃ k, w = k + 1 := ⟨w - 1, by omega⟩
  have hpow : ((2 ^ (k + 1) : Nat) : Int) = 2 * 2 ^ k := by push_cast; ring
  have hk : ((2 ^ k : Nat) : Int) = 2 ^ k := by push_cast; rfl
  simp only [Nat.add_sub_cancel] at hlo hhi
  have hraw : ((n % 2 ^ (k + 1) : Nat) : Int) = v % (2 * 2 ^ k) := by
    rw [hn, rawBits, hpow, Int.toNat_of_nonneg (Int.emod_nonneg _ (by positivity))]
  simp only [signed, Nat.add_sub_cancel, hpow]
  rcases lt_or_ge v 0 with hv | hv
  · have hmod : v % (2 * 2 ^ k) = v + 2 * 2 ^ k := by
      rw [← Int.add_emod_right, Int.emod_eq_of_lt (by omega) (by omega)]
    rw [if_neg (by omega)]
    omega
  · have hmod : v % (2 * 2 ^ k) = v := Int.emod_eq_of_lt hv (by omega)
    rw [if_pos (by omega)]
    omega

/-- The raw bits of a value fit their width. -/
theorem rawBits_lt (w : Nat) (v : Int) : rawBits w v < 2 ^ w := by
  have h := Int.emod_lt_of_pos v (b := ((2 ^ w : Nat) : Int)) (by positivity)
  unfold rawBits
  omega

/-- The fields of a point word do not overlap (R45). -/
theorem mkPoint_toNat (v toff : Int) (q f : Nat) (hq : q < 256) (hf : f < 256) :
    (mkPoint v toff q f).toNat = rawBits 32 v + rawBits 16 toff * 2 ^ 32 + q * 2 ^ 48 + f * 2 ^ 56 := by
  have hv := rawBits_lt 32 v
  have ht := rawBits_lt 16 toff
  rw [mkPoint, BitVec.toNat_ofNat, Nat.mod_eq_of_lt hq, Nat.mod_eq_of_lt hf, Nat.mod_eq_of_lt (by omega)]

/-- VALUE reads back from a point word. -/
theorem ptVal_mkPoint (v toff : Int) (q f : Nat) (hq : q < 256) (hf : f < 256) (hlo : -2 ^ 31 ≤ v) (hhi : v < 2 ^ 31) :
    ptVal (mkPoint v toff q f) = v := by
  have hv := rawBits_lt 32 v
  refine signed_of_mod_eq_rawBits 32 _ v (by norm_num) ?_ hlo hhi
  rw [mkPoint_toNat v toff q f hq hf]
  omega

/-- TOFF reads back from a point word. -/
theorem ptToff_mkPoint (v toff : Int) (q f : Nat) (hq : q < 256) (hf : f < 256) (hlo : -2 ^ 15 ≤ toff) (hhi : toff < 2 ^ 15) :
    ptToff (mkPoint v toff q f) = toff := by
  have hv := rawBits_lt 32 v
  have ht := rawBits_lt 16 toff
  refine signed_of_mod_eq_rawBits 16 _ toff (by norm_num) ?_ hlo hhi
  rw [mkPoint_toNat v toff q f hq hf]
  omega

/-- QUALITY reads back from a point word. -/
theorem ptQual_mkPoint (v toff : Int) (q f : Nat) (hq : q < 256) (hf : f < 256) : ptQual (mkPoint v toff q f) = q := by
  have hv := rawBits_lt 32 v
  have ht := rawBits_lt 16 toff
  rw [ptQual, field, mkPoint_toNat v toff q f hq hf]
  omega

/-- FLAGS reads back from a point word. -/
theorem ptFlags_mkPoint (v toff : Int) (q f : Nat) (hq : q < 256) (hf : f < 256) : ptFlags (mkPoint v toff q f) = f := by
  have hv := rawBits_lt 32 v
  have ht := rawBits_lt 16 toff
  rw [ptFlags, field, mkPoint_toNat v toff q f hq hf]
  omega

/-- Settles O10: each field has bits of its own, wide enough for its value. -/
theorem pointWordsHoldTheirFields : Obligations.PointWordsHoldTheirFields := by
  intro v toff q f hvlo hvhi htlo hthi hq hf
  exact ⟨ptVal_mkPoint v toff q f hq hf hvlo hvhi, ptToff_mkPoint v toff q f hq hf htlo hthi, ptQual_mkPoint v toff q f hq hf,
    ptFlags_mkPoint v toff q f hq hf, mkPoint_toNat v toff q f hq hf⟩

/-! ### Reset -/

/-- A point that has never been written reads VALUE 0, TOFF 0, QUALITY 0x44 and FLAGS 0 (R45). -/
theorem pointReset_eq_mkPoint : pointReset = mkPoint 0 0 0x44 0 := by decide

/-- Settles O3: at reset no map lists an entry, so every point, output, lane, cell and configuration value reads its default. -/
theorem resetLeavesTheDeviceOff : Obligations.ResetLeavesTheDeviceOff := by
  have points (n : Nat) : State.reset.pt n = mkPoint 0 0 0x44 0 := pointReset_eq_mkPoint
  have outputs (n : Nat) : (smGet Aux.reset State.reset.aux n).energised = false := rfl
  have lanes (l : Nat) : (smGet Lane.reset State.reset.lanes l).state = .off := rfl
  have cells (c : Nat) : (smGet Cell.reset State.reset.cells c).state = .absent := rfl
  have config (obj elem : Nat) : State.reset.cv obj elem = objDefault State.reset.pair.strapB obj elem := rfl
  exact ⟨points, rfl, rfl, rfl, rfl, outputs, lanes, cells, config, rfl, rfl, rfl, rfl⟩

end Sys2Proof.Machine
end

