-- ==== Sys2Proof/Proofs/Frames.lean ====
section
/-! SUPPORT. Frame starts, deadlines, CANARY, BEACON and checkpoints: what each makes of the frame record. -/

namespace Sys2Proof.Machine

variable {s0 : Root} {b0 : State}

/-! ### What a frame keeps from its start on -/

/-- The frame number, whether frames run and whether this one is snapshot, and DEADLINE and SAMPLE_OFFSET as it started with them. -/
def FrameSt.fixed (f : FrameSt) : Nat × Bool × Bool × Nat × Nat := (f.k, f.running, f.snapped, f.dl, f.so)

/-- An effect that leaves the frame record leaves its fixed part. -/
@[simp] theorem Eff.keep_fixed (e : Eff s0) (f : {r : Root} → Eff r → Eff r) :
    (e.keep f).st.frame.fixed = e.st.frame.fixed := congrArg _ (e.keep_frame f)

/-- So does doing such an effect under a condition. -/
theorem Eff.when_fixed (e : Eff s0) (c : Bool) (f : Eff s0 → Eff s0) (h : (f e).st.frame.fixed = e.st.frame.fixed) :
    (e.when c f).st.frame.fixed = e.st.frame.fixed := by
  cases c
  · rfl
  · exact h

/-- A clock step moves the instants of the frame; its number follows on a JOINING device alone (R502). -/
theorem Eff.stepFrame_fixed (e : Act b0) (d : Int) : (e.stepFrame false d).st.frame.fixed = e.st.frame.fixed := by
  simp [Eff.stepFrame, FrameSt.fixed, Eff.keep_frame]

/-- The step at a frame start is a clock step or none. -/
theorem Eff.stepAtStart_fixed (e : Act b0) : (e.stepAtStart false).st.frame.fixed = e.st.frame.fixed := by
  unfold Eff.stepAtStart
  split
  · rfl
  · split
    · simp [Eff.stepFrame_fixed]
    · split
      · exact e.stepFrame_fixed _
      · simp

/-- The scheduled actions run as of the boundary, and the frame number is back after them. -/
theorem Eff.timedActions_fixed (e : Act b0) : e.timedActions.st.frame.fixed = e.st.frame.fixed := by
  unfold Eff.timedActions
  extract_lets k l
  split
  · rfl
  · simp [FrameSt.fixed, Eff.keep_frame, k]

/-- An overrun of the active device is taken over in its own frame, and the frame number is back after it. -/
theorem Eff.adoptOverrun_fixed (e : Act b0) (k : Nat) (slots : List Nat) :
    (e.adoptOverrun k slots).st.frame.fixed = e.st.frame.fixed := by
  unfold Eff.adoptOverrun
  split
  · rfl
  · simp [FrameSt.fixed, Eff.keep_frame]

/-- The comparison with the peer's digests. -/
theorem Eff.compareOutdig_fixed (e : Act b0) : e.compareOutdig.st.frame.fixed = e.st.frame.fixed := by
  unfold Eff.compareOutdig
  split
  · rfl
  · extract_lets k
    split
    · rfl
    · rw [Eff.keep_fixed, Eff.when_fixed _ _ _ (Eff.adoptOverrun_fixed _ _ _), Eff.keep_fixed]

/-- The shadow of an earlier snapshot is computed in its own frame, and the running frame is back after it. -/
theorem Eff.runShadow_fixed (e : Act b0) (own : Bool) : (e.runShadow own).st.frame.fixed = e.st.frame.fixed := by
  unfold Eff.runShadow
  split
  · rfl
  · extract_lets f k e1 av vec bad inc e2 e3 e4
    rw [Eff.compareOutdig_fixed]
    by_cases h : f.boundaryDue
    · simp [e4, e3, e2, e1, h, FrameSt.fixed, Eff.keep_frame, f]
    · simp [e4, e3, e2, e1, h, FrameSt.fixed, Eff.keep_frame]

/-- A takeover computes the shadow that waits, and nothing else of it concerns the frame record. -/
theorem Eff.takeOver_fixed (e : Act b0) : e.takeOver.st.frame.fixed = e.st.frame.fixed := by
  simp [Eff.takeOver, Eff.runShadow_fixed]

/-- A handover changes roles, not the frame. -/
theorem Eff.handoverFrame_fixed (e : Act b0) : e.handoverFrame.st.frame.fixed = e.st.frame.fixed := by
  unfold Eff.handoverFrame
  split
  · rfl
  · split
    · rfl
    · split
      · simp
      · split
        · exact e.takeOver_fixed
        · simp

/-! ### Frame starts -/

/-- A frame start counts on (R177), takes DEADLINE and SAMPLE_OFFSET as they are committed (R53), and begins without a snapshot. -/
theorem Eff.frameStart_fixed (e : Act b0) (hdue : e.frame.boundaryDue = false)
    (hjoin : e.pair.role ≠ .joining ∨ e.time.beaconFrame = 0) :
    e.frameStart.st.frame.fixed =
      (if e.frame.running = true then e.frame.k + 1 else 0, true, false, e.cv oDeadline, e.cv oSampleOffset) := by
  have notJoining : (e.pair.role == .joining && e.time.beaconFrame != 0) = false := by
    rcases hjoin with h | h <;> simp [h]
  unfold Eff.frameStart
  simp only [hdue, notJoining, Eff.when_false, Eff.keep_fixed, Eff.handoverFrame_fixed, Eff.timedActions_fixed, Eff.stepAtStart_fixed]
  simp only [FrameSt.fixed, Eff.modFrame_st, Eff.keep_frame]
  cases e.frame.running <;> rfl

/-! ### Deadlines -/

/-- With no shadow due, nothing is computed. -/
theorem Eff.runShadow_idle (e : Act b0) (own : Bool) (hs : e.frame.snapped = false) (hb : e.frame.boundaryDue = false) :
    e.runShadow own = e := by
  have idle : e.shadowDue = false := by simp [Eff.shadowDue, hs, hb]
  simp [Eff.runShadow, idle]

/-- A takeover before the deadline leaves the frame record. -/
theorem Eff.takeOver_frame (e : Act b0) (hs : e.frame.snapped = false) (hb : e.frame.boundaryDue = false) :
    e.takeOver.st.frame = e.st.frame := by
  rw [Eff.takeOver, e.runShadow_idle true hs hb, Eff.keep_frame]

/-- The judgement of the peer before the deadline leaves the frame record. -/
theorem Eff.judgePeer_frame (e : Act b0) (hs : e.frame.snapped = false) (hb : e.frame.boundaryDue = false) :
    e.judgePeer.st.frame = e.st.frame := by
  unfold Eff.judgePeer
  split
  · rfl
  · extract_lets e1 p failed
    have h1 : e1.st.frame = e.st.frame := e.keep_frame _
    cases failed
    · exact h1
    · rw [Eff.when_true, Eff.takeOver_frame e1 (by simpa [h1] using hs) (by simpa [h1] using hb), h1]

/-- A device that is not a standby has no peer to judge. -/
theorem Eff.judgePeer_of_active (e : Act b0) (h : e.pair.role = .active) : e.judgePeer = e := by
  simp [Eff.judgePeer, h]

/-- Letting time pass changes the time unit alone. -/
theorem Eff.advance_st (e : Eff s0) (t : Int) : (e.advance t).st = { e.st with time := (e.advance t).st.time } := by
  unfold Eff.advance
  split <;> rfl

/-- The paths to the peer change the pair unit, but for its role. -/
theorem Eff.peerPaths_role (e : Eff s0) : e.peerPaths.st.pair.role = e.st.pair.role := by
  unfold Eff.peerPaths
  extract_lets k
  split <;> rfl

/-- The snapshot of an ACTIVE device is that of the running frame. -/
theorem Eff.activeDeadline_frame (e : Act b0) (ovr : Option (List Nat)) :
    (e.activeDeadline ovr).st.frame = e.snapInputs.st.frame := e.snapInputs.keep_frame _

/-- A running frame without its snapshot, on a device out of OFF and BOOT with no boundary waiting: its deadline may come. -/
def State.DeadlineOpen (s : State) : Prop :=
  s.frame.running = true ∧ s.frame.snapped = false ∧ s.frame.boundaryDue = false ∧ s.dev.state ≠ .off ∧ s.dev.state ≠ .boot

/-- The frame record before the snapshot is the one the deadline found; the role of an ACTIVE device as well. -/
theorem Eff.deadline_frame (e : Act b0) (given : Option (List Nat)) (h : e.st.DeadlineOpen) :
    ∃ e' : Act b0, e'.st.frame = e.st.frame ∧ (e.pair.role = .active → e'.pair.role = .active) ∧
      e.deadline given =
        (if e'.isActive || (e'.pair.role == .retired && e'.pair.finishing) then e'.activeDeadline given
        else if e'.shadows then
          e'.snapInputs.keep fun e => (e.each e.usedChains fun e n => e.sendDigest n).clearFills.requestFills
        else e'.modFrame fun f => { f with snapped := true }) := by
  obtain ⟨hrun, hsnap, hdue, hoff, hboot⟩ := h
  let e1 : Act b0 := (e.keep (·.advance (e.frame.tk + e.frame.dl * nsq))).keep (·.peerPaths)
  have frame1 : e1.st.frame = e.st.frame := by simp [e1, Eff.keep_frame]
  refine ⟨e1.judgePeer, ?_, ?_, ?_⟩
  · rw [e1.judgePeer_frame (by simpa [frame1] using hsnap) (by simpa [frame1] using hdue), frame1]
  · intro hact
    have role1 : e1.st.pair.role = e.st.pair.role :=
      (Eff.peerPaths_role _).trans (congrArg (·.pair.role) (Eff.advance_st _ _))
    rw [e1.judgePeer_of_active (role1.trans hact)]
    exact role1.trans hact
  · unfold Eff.deadline
    simp [hrun, hsnap, hoff, hboot, Eff.keep_frame, hdue, e1]
/-- A deadline makes the snapshot of the running frame; on an ACTIVE device it is recorded as that frame's. -/
theorem Eff.deadline_snapped (e : Act b0) (given : Option (List Nat)) (h : e.st.DeadlineOpen) :
    (e.deadline given).st.frame.snapped = true ∧ (e.deadline given).st.frame.k = e.st.frame.k ∧
      (e.deadline given).st.frame.running = true ∧
      (e.st.pair.role = .active → (e.deadline given).st.frame.snapK = e.st.frame.k) := by
  obtain ⟨e', hframe, hrole, heq⟩ := e.deadline_frame given h
  obtain ⟨hrun, -⟩ := h
  have inputs : e'.snapInputs.st.frame.snapped = true ∧ e'.snapInputs.st.frame.k = e.st.frame.k ∧
      e'.snapInputs.st.frame.running = true ∧ e'.snapInputs.st.frame.snapK = e.st.frame.k := by
    simp [Eff.snapInputs, hframe, hrun]
  obtain ⟨hsnap, hk, hr, hsk⟩ := inputs
  rw [heq]
  split
  · rw [Eff.activeDeadline_frame]
    exact ⟨hsnap, hk, hr, fun _ => hsk⟩
  next hact =>
    have notActive : e.st.pair.role ≠ .active := fun ha => by simp [Eff.isActive, hrole ha] at hact
    split
    · rw [Eff.keep_frame]
      exact ⟨hsnap, hk, hr, fun ha => absurd ha notActive⟩
    · exact ⟨rfl, by simp [hframe], by simp [hframe, hrun], fun ha => absurd ha notActive⟩

/-- Without a running frame, or after its snapshot, a deadline does nothing. -/
theorem Eff.deadline_closed (e : Act b0) (given : Option (List Nat)) (h : e.frame.snapped = true ∨ e.frame.running = false) :
    e.deadline given = e := by
  rcases h with h | h <;> simp [Eff.deadline, h]

/-! ### Rounds of sends -/

/-- The check of a lane before a send is that it is LOCKED. -/
theorem Eff.locked_iff (e : Eff s0) (l : Nat) : e.locked l = true ↔ e.st.locked l := beq_iff_eq

/-- Sending under a condition. -/
theorem Eff.whenEmit_st (e : Eff s0) (c : Bool) (o : Out) :
    (e.when c (·.emit o)).st = { e.st with sent := (if c then [o] else []) ++ e.st.sent } := by
  cases c <;> rfl

/-- A round in which each turn sends something that does not depend on what was sent: nothing else changes. -/
theorem Eff.each_sends {α : Type} (s : State) (f : Eff s0 → α → Eff s0) (out : α → List Out)
    (hf : ∀ (e : Eff s0) (sent : List Out) (x : α), e.st = { s with sent := sent } →
      (f e x).st = { s with sent := out x ++ sent })
    (l : List α) (e : Eff s0) (sent : List Out) (he : e.st = { s with sent := sent }) :
    (e.each l f).st = { s with sent := l.reverse.flatMap out ++ sent } := by
  induction l generalizing e sent with
  | nil => exact he
  | cons a r ih =>
    rw [Eff.each_cons, ih (f e a) _ (hf e sent a he)]
    simp

/-! ### CANARY (R198, R501) -/

/-- The instant at which a CANARY leaves on peer lane m: t_k + C, or t_k + 2C − ρ on an ACTIVE device whose peer follows it (R501). -/
def State.canaryAt (s : State) (m : Nat) : Int :=
  match smGet none s.time.canaryRho m with
  | some (f, rho) =>
    if s.pair.role == .active && (s.pair.peerWord % 16 == 1 || s.pair.peerWord % 16 == 2) && f + 1 == s.frame.k &&
        decide (0 ≤ rho ∧ rho ≤ 2 * canaryC) then
      s.frame.tk / 65536 + 2 * canaryC - rho
    else s.frame.tk / 65536 + canaryC
  | none => s.frame.tk / 65536 + canaryC

/-- A device that is not ACTIVE sends its CANARY at t_k + C. -/
theorem State.canaryAt_of_not_active (s : State) (m : Nat) (h : s.pair.role ≠ .active) :
    s.canaryAt m = s.frame.tk / 65536 + canaryC := by
  unfold State.canaryAt
  split
  · simp [h]
  · rfl

/-- What CANARY_SEND sends on peer lane m. -/
def State.canaryOut (s : State) (m : Nat) : List Out :=
  if (Eff.start s).locked (24 + m) then [.canary (24 + m) (s.canaryAt m) (frameBlocks (Eff.start s).canary)] else []

/-- CANARY_SEND on a device out of OFF and BOOT whose frames run: its CANARY on each LOCKED peer lane, and nothing else. -/
theorem execCanarySend_sends (s : State) (hrun : s.frame.running = true) (hoff : s.dev.state ≠ .off) (hboot : s.dev.state ≠ .boot) :
    execCanarySend s = .next { s with sent := s.canaryOut 1 ++ s.canaryOut 0 ++ s.sent } := by
  unfold execCanarySend
  extract_lets e tk peer
  rw [if_neg (by simp [e, hrun, hoff, hboot])]
  congr 1
  rw [Eff.each_sends s _ s.canaryOut ?_ [0, 1] e s.sent rfl]
  · simp
  · rintro ⟨_, _, _⟩ sent m rfl
    exact Eff.whenEmit_st _ _ _

/-! ### BEACON (R187, R505) -/

/-- The BEACON that goes out on chain n with the j-th free value from now on, where the chain is LOCKED. -/
def State.beaconOut (s : State) (n j : Nat) : List Out :=
  if (Eff.start s).locked n then [.wynlink n (frameBlocks ((Eff.start { s with free := s.free + j }).beacon n))] else []

/-- One BEACON uses one free value. -/
theorem Eff.beaconTurn_st (s : State) (e : Eff s0) (n j : Nat) (sent : List Out) (he : e.st = { s with sent := sent, free := s.free + j }) :
    ((e.sendChain n (e.beacon n)).tick).st = { s with sent := s.beaconOut n j ++ sent, free := s.free + (j + 1) } := by
  obtain ⟨_, _, _⟩ := e
  subst he
  rw [Eff.tick_st, Eff.sendChain, Eff.whenEmit_st]
  rfl

/-- A BEACON goes out on each LOCKED chain of a list, each with a free value of its own. -/
theorem Eff.beacons_sent (s : State) (l : List Nat) (e : Eff s0) (j : Nat) (sent : List Out)
    (he : e.st = { s with sent := sent, free := s.free + j }) :
    ∃ new, (e.each l fun e n => (e.sendChain n (e.beacon n)).tick).st =
        { s with sent := new ++ sent, free := s.free + (j + l.length) } ∧
      ∀ n ∈ l, ∃ i < j + l.length, ∀ o ∈ s.beaconOut n i, o ∈ new := by
  induction l generalizing e j sent with
  | nil => exact ⟨[], he, by simp⟩
  | cons n r ih =>
    obtain ⟨new, hst, hnew⟩ := ih _ (j + 1) _ (Eff.beaconTurn_st s e n j sent he)
    have count : j + 1 + r.length = j + (n :: r).length := by simp [Nat.add_comm, Nat.add_left_comm]
    rw [count] at hst hnew
    refine ⟨new ++ s.beaconOut n j, by simpa using hst, ?_⟩
    intro m hm
    rcases List.mem_cons.mp hm with rfl | hm
    · exact ⟨j, by simp, fun o ho => List.mem_append_right _ ho⟩
    · obtain ⟨i, hi, hmem⟩ := hnew m hm
      exact ⟨i, hi, fun o ho => List.mem_append_left _ (hmem o ho)⟩

/-- An instant that has passed is not waited for. -/
theorem Eff.advance_past (e : Eff s0) (t : Int) (h : t ≤ e.time.clock) : e.advance t = e := if_neg (not_lt.mpr h)

/-- BEACON_SEND of an ACTIVE device between its two instants. -/
theorem execBeaconSend_sends (s : State) (hrun : s.frame.running = true) (hact : s.pair.role = .active)
    (hsnap : s.frame.snapped = true) (hk : s.chain.beaconK ≠ some s.frame.k)
    (hfrom : s.frame.tk + ((s.frame.dl : Int) + 100) * nsq ≤ s.time.clock) (hto : s.time.clock < (Eff.start s).schedAt) :
    ∃ t, execBeaconSend s = .next t ∧
      (∀ n ∈ (Eff.start s).usedChains, s.locked n → ∃ j < (Eff.start s).usedChains.length,
        Out.wynlink n (frameBlocks ((Eff.start { s with free := s.free + j }).beacon n)) ∈ t.sent) ∧
      t = { s with
        sent := t.sent, free := s.free + (Eff.start s).usedChains.length, chain := { s.chain with beaconK := some s.frame.k } } := by
  unfold execBeaconSend
  extract_lets e e1
  rw [if_neg (by simp [e, hrun, hsnap, hk, not_le.mpr hto])]
  have st1 : e1.st = { s with chain := { s.chain with beaconK := some s.frame.k } } :=
    congrArg (fun x : Act s => (x.modChain fun h => { h with beaconK := some s.frame.k }).st) (e.advance_past _ hfrom)
  have active : (Eff.start e1.st).isActive = true := by simp [Eff.isActive, st1, hact]
  have used : (Eff.start e1.st).usedChains = (Eff.start s).usedChains := by rw [st1]; rfl
  have chains : (e1.usedChains.filter fun n => e1.isActive || e1.relays n) = (Eff.start s).usedChains := by
    change ((Eff.start e1.st).usedChains.filter fun n => (Eff.start e1.st).isActive || e1.relays n) = _
    simp [active, used]
  obtain ⟨new, hst, hnew⟩ := Eff.beacons_sent { s with chain := { s.chain with beaconK := some s.frame.k } }
    (Eff.start s).usedChains e1 0 s.sent st1
  rw [Nat.zero_add] at hst hnew
  refine ⟨_, rfl, ?_⟩
  rw [chains, hst]
  refine ⟨fun n hn hlock => ?_, rfl⟩
  obtain ⟨j, hj, hmem⟩ := hnew n hn
  have locked : (Eff.start s).locked n = true := (Eff.locked_iff _ _).mpr hlock
  have sent : Out.wynlink n (frameBlocks ((Eff.start { s with free := s.free + j }).beacon n)) ∈ s.beaconOut n j := by
    simp [State.beaconOut, locked]
  exact ⟨j, hj, List.mem_append_left _ (hmem _ sent)⟩

/-- No BEACON leaves before the snapshot of its frame, and none twice in a frame. -/
theorem execBeaconSend_done (s : State) (h : s.frame.snapped = false ∨ s.chain.beaconK = some s.frame.k) :
    execBeaconSend s = .next s := by
  rcases h with h | h <;> simp [execBeaconSend, h]

/-! ### Checkpoints (R552) -/

/-- A checkpoint that is complete is CKPT_LAST; NONDET clears where it was taken clean. -/
theorem execCheckpointComplete_slotA (s : State) (c : Ckpt) (hc : s.jrnl.slotA = some c) (hopen : c.done = false) :
    execCheckpointComplete s = .next { s with
      jrnl := { s.jrnl with ckptLast := c.frame, slotA := some { c with done := true } }
      trouble := if c.clean = true ∧ bitOf s.trouble 0 = true then s.trouble - 1 else s.trouble } := by
  unfold execCheckpointComplete
  extract_lets e open' finish
  have slotA : open' e.jrnl.slotA = some c := by simp [open', e, hc, hopen, Option.filter]
  rw [slotA]
  change Host.Outcome.next ((finish c).modJrnl fun j => { j with slotA := some { c with done := true } }).st = _
  cases hclean : c.clean
  · simp only [finish, hclean, Bool.false_eq_true, false_and, if_false]
    rfl
  · simp only [finish, hclean, true_and]
    rfl

/-! ### The statement -/

/-- Settles O27: a frame start by `FrameSt.fixed`, a deadline by the snapshot it makes, CANARY and BEACON by what their rounds send. -/
theorem framesComplete : Obligations.FramesComplete := by
  refine ⟨?_, ?_, ?_, ?_, ?_, ?_, ?_⟩
  · intro s hrun hdue hjoin
    refine ⟨_, if_pos hrun, ?_⟩
    have h := (Eff.start s).frameStart_fixed hdue hjoin
    simp only [FrameSt.fixed, Prod.mk.injEq] at h
    obtain ⟨hk, hr, hs, hdl, hso⟩ := h
    exact ⟨hk, hr, hs, hdl, hso⟩
  · intro s hrun hsnap hdue hoff hboot
    have hopen : s.DeadlineOpen := ⟨hrun, hsnap, hdue, hoff, hboot⟩
    exact ⟨⟨_, rfl, (Eff.start s).deadline_snapped none hopen⟩, fun slots => ⟨_, rfl, (Eff.start s).deadline_snapped _ hopen⟩⟩
  · intro s h
    exact ⟨congrArg (fun e : Act s => Host.Outcome.next e.st) ((Eff.start s).deadline_closed none h),
      fun slots => congrArg (fun e : Act s => Host.Outcome.next e.st) ((Eff.start s).deadline_closed _ h)⟩
  · intro s hrun hoff hboot
    refine ⟨_, execCanarySend_sends s hrun hoff hboot, ?_, rfl⟩
    intro m hm hlock
    refine ⟨s.canaryAt m, ?_, s.canaryAt_of_not_active m⟩
    have locked : (Eff.start s).locked (24 + m) = true := (Eff.locked_iff _ _).mpr hlock
    have sent : Out.canary (24 + m) (s.canaryAt m) (frameBlocks (Eff.start s).canary) ∈ s.canaryOut m := by
      simp [State.canaryOut, locked]
    obtain rfl | rfl : m = 0 ∨ m = 1 := by omega
    · simp [sent]
    · simp [sent]
  · intro s hrun hact hsnap hk hfrom hto
    exact execBeaconSend_sends s hrun hact hsnap hk hfrom hto
  · exact execBeaconSend_done
  · exact execCheckpointComplete_slotA

end Sys2Proof.Machine
end

