-- ==== Sys2Proof/Proofs/PeerFrames.lean ====
section
/-! SUPPORT. What the frames of the peer make of the state: CANARY, AVAIL, DIGEST, relayed frames and fills. -/

namespace Sys2Proof.Machine

variable {s0 : Root}

/-! ### Indexed state in any form -/

/-- Reading after writing a value that is no default, in a list of any form: the place written reads the value, every other as before. -/
theorem smGet_smSet_of_ne {β : Type} [DecidableEq β] (d : β) (m : SMap β) (n : Nat) (v : β) (hv : v ≠ d) (i : Nat) :
    smGet d (smSet d m n v) i = if i = n then v else smGet d m i := by
  by_cases hi : i = n
  · rw [if_pos hi, hi, smGet_smSet_self d m n v hv]
  rw [if_neg hi]
  induction m with
  | nil => simp [smSet, smGet, hv, hi]
  | cons p r ih =>
    obtain ⟨k, w⟩ := p
    by_cases h1 : n < k
    · by_cases h2 : i < n
      · simp [smSet, smGet, hv, h1, h2, h2.trans h1]
      · simp [smSet, smGet, hv, h1, h2, hi]
    · by_cases h2 : n = k
      · subst h2
        simp [smSet, smGet, hv, hi]
      · simp [smSet, smGet, h1, h2, ih]

/-! ### Frames that arrive whole -/

/-- Hearing blocks moves on the lane's receiver alone. -/
theorem State.took_eq (s : State) (l : Nat) (bl : List Block) : s.took l bl = { s with lanes := (s.took l bl).lanes } := by
  unfold State.took
  split <;> rfl

/-- Every lane is LOCKED after a frame has been heard on one where it was before. -/
theorem State.took_locked (s : State) (l : Nat) (bl : List Block) (bs : List Byte) (hl : s.locked l)
    (hh : (s.hears l bl).2 = [.frame bs]) (n : Nat) :
    (smGet Lane.reset (s.took l bl).lanes n).state = .locked ↔ s.locked n := by
  have kept : (s.hears l bl).1.state = (smGet Lane.reset s.lanes l).state := by
    rcases (smGet Lane.reset s.lanes l).takes_state (26 ≤ l) (s.time.clock / (1000000000 * nsq)).toNat bl with h | h
    · exact h
    · change Heard.lost ∈ (s.hears l bl).2 at h
      simp [hh] at h
  have listed : (s.hears l bl).1 ≠ Lane.reset := by
    intro hreset
    rw [hreset, hl] at kept
    exact absurd kept (by decide)
  unfold State.took
  split
  · exact Iff.rfl
  · rw [smGet_smSet_of_ne _ _ _ _ listed]
    split
    next hn => rw [kept, hn]; exact Iff.rfl
    · exact Iff.rfl

/-- What a command answers that receives an intact frame of its kind. -/
theorem Eff.received_next {s t : State} {l kind : Nat} {bl : List Block} {bs : List Byte} {f : List Byte → Act s → Act s}
    (h : s.Intact l kind bl bs)
    (hf : ∀ e : Act s, e.st = { s with lanes := (s.took l bl).lanes } → (f bs e).st = t) :
    (Host.Outcome.next ((Eff.start s).received l kind bl f).st : Host.Outcome State Fault Refusal) = .next t := by
  obtain ⟨e, he, hr⟩ := (Eff.start s).received_intact l kind bl bs f h
  rw [hr, hf e (he.trans (s.took_eq l bl))]

/-- A property of what such a command answers. -/
theorem Eff.received_exists {s : State} {l kind : Nat} {bl : List Block} {bs : List Byte} {f : List Byte → Act s → Act s}
    {Q : State → Prop} (h : s.Intact l kind bl bs)
    (hf : ∀ e : Act s, e.st = { s with lanes := (s.took l bl).lanes } → Q (f bs e).st) :
    ∃ t, (Host.Outcome.next ((Eff.start s).received l kind bl f).st : Host.Outcome State Fault Refusal) = .next t ∧ Q t := by
  obtain ⟨e, he, hr⟩ := (Eff.start s).received_intact l kind bl bs f h
  exact ⟨_, rfl, by rw [hr]; exact hf e (he.trans (s.took_eq l bl))⟩

/-! ### AVAIL (R61, R199) -/

/-- No fills are requested while no shadow waits. -/
theorem Eff.requestFills_idle (e : Eff s0) (h : e.shadowDue = false) : e.requestFills = e := by
  unfold Eff.requestFills
  split
  · rfl
  · simp [h]

/-- The first AVAIL of a frame, on a device that is not ACTIVE and whose shadow does not wait. -/
theorem execAvailReceive_keeps (s : State) (m : Fin 2) (bl : List Block) (bs : List Byte) (h : s.Intact (24 + m.val) 0x22 bl bs)
    (hlen : bs.length = 104) (hrole : s.pair.role ≠ .active) (hnew : ∀ a, s.pair.avail = some a → a.1 ≠ fieldLe bs 4 8)
    (hdue : (Eff.start s).shadowDue = false) :
    execAvailReceive m bl s = .next { s with
      lanes := (s.took (24 + m.val) bl).lanes
      pair := { s.pair with avail := some (fieldLe bs 4 8, (bs.drop 12).take 64) }
      chain := { s.chain with
        relayReq := octetBits ((bs.drop 76).take 24)
        peerNow := s.chain.peerNow ++ (octetBits ((bs.drop 12).take 64)).filter fun c =>
          decide (c < 192) && !(octetBits ((bs.drop 76).take 24)).contains c } } := by
  refine Eff.received_next h fun e he => ?_
  obtain ⟨_, _, _⟩ := e
  subst he
  have first : (s.pair.avail.any fun a => a.1 == fieldLe bs 4 8) = false := by
    cases hav : s.pair.avail with
    | none => rfl
    | some a => simpa using hnew a hav
  simp only [Eff.pair, first, hlen, Eff.isActive, beq_eq_false_iff_ne.mpr hrole, Bool.or_false, bne_self_eq_false, Bool.false_eq_true, if_false]
  refine congrArg Eff.st (Eff.requestFills_idle _ ?_)
  exact hdue

/-! ### CANARY (R460) -/

/-- What a CANARY of a standby strapped differently tells an ACTIVE device: the standby is there, and the straps are no conflict. -/
theorem Eff.canaryNews_standby (e : Eff s0) (serial epoch word : Nat) (hact : e.st.pair.role = .active) (hr : word % 16 = 1)
    (hs : bitOf word 11 = !e.st.pair.strapB) :
    (e.canaryNews serial epoch word).st = { e.st with
      dev := { e.st.dev with conds := e.st.dev.conds.filter (· != (kRoleConflict, 1)) }
      pair := { e.st.pair with
        peerSerial := serial, peerWord := word, peerAt := e.st.time.up, standby := true, peerMiss := 0
        rxDone := (e.canaryNews serial epoch word).st.pair.rxDone, rxSegs := (e.canaryNews serial epoch word).st.pair.rxSegs } } := by
  have apart : (bitOf word 11 == e.st.pair.strapB) = false := by rw [hs]; cases e.st.pair.strapB <;> rfl
  unfold Eff.canaryNews
  simp [hr, apart, Eff.setCond, Eff.isActive, hact]

/-- The pair unit once a CANARY of frame f has come on peer lane m. -/
def PairSt.canaryOn (p : PairSt) (m f : Nat) : PairSt :=
  { p with
    lastP0 := if m = 0 then (f :: p.lastP0).take 4 else p.lastP0
    lastP1 := if m = 0 then p.lastP1 else (f :: p.lastP1).take 4 }

/-- The first copy of an intact CANARY of a standby strapped differently, on an ACTIVE device. -/
theorem execCanaryReceive_standby (s : State) (m : Fin 2) (bl : List Block) (bs : List Byte) (at1 : Int) (f word : Nat)
    (h : s.Intact (24 + m.val) 0x21 bl bs) (hlen : bs.length = 32) (hact : s.pair.role = .active) (hf : fieldLe bs 4 8 = f)
    (hword : fieldLe bs 24 4 = word) (hr : word % 16 = 1) (hs : bitOf word 11 = !s.pair.strapB)
    (hfirst : if m.val = 0 then f ∉ s.pair.lastP1 else f ∉ s.pair.lastP0) :
    ∃ t, execCanaryReceive m bl at1 s = .next t ∧ t.pair.standby = true ∧ t.pair.peerMiss = 0 ∧ t.pair.peerWord = word ∧
      t.pair.peerSerial = fieldLe bs 12 8 ∧ t.pair.peerAt = s.time.up ∧ f ∈ (if m.val = 0 then t.pair.lastP0 else t.pair.lastP1) ∧
      t = { s with
        lanes := (s.took (24 + m.val) bl).lanes, pair := t.pair, time := t.time
        dev := { s.dev with conds := s.dev.conds.filter (· != (kRoleConflict, 1)) } } := by
  refine Eff.received_exists h fun e he => ?_
  extract_lets f' word' second e1 e2 g rho
  have first : second = false := by
    simp only [second, Eff.pair, he, f', hf]
    split at hfirst <;> simp [*]
  have st1 : e1.st = { s with lanes := (s.took (24 + m.val) bl).lanes, pair := s.pair.canaryOn m.val f } := by
    simp only [e1, Eff.modPair_st, he, f', hf, PairSt.canaryOn]
    split <;> rfl
  have news : e2 = e1.canaryNews (fieldLe bs 12 8) (fieldLe bs 20 2) word' := by simp only [e2, first, Bool.not_false, Eff.when_true]
  have st2 := e1.canaryNews_standby (fieldLe bs 12 8) (fieldLe bs 20 2) word' (by rw [st1]; exact hact)
    (by rw [show word' = word from hword]; exact hr) (by rw [show word' = word from hword, st1]; exact hs)
  rw [← news, st1] at st2
  have active : e2.isActive = true := beq_iff_eq.mpr ((congrArg (fun t : State => t.pair.role) st2).trans hact)
  rw [if_neg (by simp [hlen]), if_pos active, Eff.modTime_st, st2]
  have held : f ∈ (if m.val = 0 then (s.pair.canaryOn m.val f).lastP0 else (s.pair.canaryOn m.val f).lastP1) := by
    unfold PairSt.canaryOn
    split <;> simp [*]
  exact ⟨rfl, rfl, hword, rfl, rfl, held, rfl⟩

/-! ### Cells -/

/-- Changing a cell to a value that is no default changes what that cell reads, and no other. -/
theorem Eff.modCell_cell (e : Eff s0) (c : Nat) (f : Cell → Cell) (h : f (e.cell c) ≠ Cell.reset) (j : Nat) :
    (e.modCell c f).cell j = if j = c then f (e.cell c) else e.cell j := smGet_smSet_of_ne _ _ _ _ h j

/-- Changing a cell changes the cells alone. -/
theorem Eff.modCell_st (e : Eff s0) (c : Nat) (f : Cell → Cell) : (e.modCell c f).st = { e.st with cells := (e.modCell c f).st.cells } := rfl

/-- Without a digest of the peer nothing is compared. -/
theorem Eff.compareCopies_no_digest (e : Eff s0) (c : Nat) (h : (e.cell c).dig = none) : e.compareCopies c = e := by
  simp [Eff.compareCopies, h]

/-- Without a record and a segment of its own the device finds no difference. -/
theorem Eff.compareCopies_no_copy (e : Eff s0) (c : Nat) (d : Option Nat × Nat) (hd : (e.cell c).dig = some d)
    (hm : (e.cell c).meas = none) (hb : (e.cell c).batt = none) : e.compareCopies c = e.modCell c fun x => x := by
  simp [Eff.compareCopies, hd, hm, hb]

/-! ### DIGEST (R205) -/

/-- The entry p of a DIGEST of chain n, into a cell whose record and segment are not there yet. -/
def Eff.digestTurn (e : Eff s0) (n : Nat) (d : Nat → Option Nat × Nat) (p : Nat) : Eff s0 :=
  (e.modCell (8 * n + p) fun x => { x with dig := some (d p) }).compareCopies (8 * n + p)

/-- It is kept in the cell, and nothing else changes. -/
theorem Eff.digestTurn_cell (e : Eff s0) (n : Nat) (d : Nat → Option Nat × Nat) (p : Nat)
    (hm : (e.cell (8 * n + p)).meas = none) (hb : (e.cell (8 * n + p)).batt = none) :
    (e.digestTurn n d p).st = { e.st with cells := (e.digestTurn n d p).st.cells } ∧
      ∀ j, (e.digestTurn n d p).cell j = if j = 8 * n + p then { e.cell j with dig := some (d p) } else e.cell j := by
  have listed (x : Cell) : { x with dig := some (d p) } ≠ Cell.reset := fun h => by simpa [Cell.reset] using congrArg Cell.dig h
  have cell1 := e.modCell_cell (8 * n + p) (fun x => { x with dig := some (d p) }) (listed _)
  have own := (cell1 (8 * n + p)).trans (if_pos rfl)
  have same := Eff.compareCopies_no_copy (e.modCell (8 * n + p) fun x => { x with dig := some (d p) }) (8 * n + p) (d p)
    (by rw [own]) (by rw [own]; exact hm) (by rw [own]; exact hb)
  unfold Eff.digestTurn
  rw [same]
  refine ⟨rfl, fun j => ?_⟩
  rw [Eff.modCell_cell _ _ _ (by rw [own]; exact listed _), own, cell1]
  split <;> simp [*]

/-- The entries of a DIGEST are kept in the cells of their chain, and nothing else changes. -/
theorem Eff.digestTurns (n : Nat) (d : Nat → Option Nat × Nat) (l : List Nat) (e : Eff s0)
    (hnone : ∀ p ∈ l, (e.cell (8 * n + p)).meas = none ∧ (e.cell (8 * n + p)).batt = none) :
    (e.each l fun e p => e.digestTurn n d p).st = { e.st with cells := (e.each l fun e p => e.digestTurn n d p).st.cells } ∧
      ∀ p, p ∈ l ∨ (e.cell (8 * n + p)).dig = some (d p) → ((e.each l fun e p => e.digestTurn n d p).cell (8 * n + p)).dig = some (d p) := by
  induction l generalizing e with
  | nil => exact ⟨rfl, fun p h => h.resolve_left (by simp)⟩
  | cons a r ih =>
    obtain ⟨ha, hr⟩ := List.forall_mem_cons.mp hnone
    obtain ⟨hst, hcell⟩ := e.digestTurn_cell n d a ha.1 ha.2
    obtain ⟨ihst, ihdig⟩ := ih (e.digestTurn n d a) fun p hp => by
      rw [hcell]
      split
      · exact hr p hp
      · exact hr p hp
    rw [Eff.each_cons]
    refine ⟨by rw [ihst, hst], fun p hp => ihdig p ?_⟩
    rw [hcell]
    by_cases h : p = a
    · exact .inr (by simp [h])
    · rw [if_neg (by omega)]
      exact hp.imp_left fun hm => (List.mem_cons.mp hm).resolve_left h

/-- The state once a DIGEST of chain n has been heard on lane l: its entries count as there on the peer. -/
def State.digestHeard (s : State) (l : Nat) (bl : List Block) (n : Nat) (valid : List Nat) : State :=
  { s with lanes := (s.took l bl).lanes, chain := { s.chain with peerNow := s.chain.peerNow ++ valid.map (8 * n + ·) } }

theorem Eff.digestHeard_st {s : State} {l n : Nat} {bl : List Block} {valid : List Nat} (e : Act s)
    (he : e.st = { s with lanes := (s.took l bl).lanes }) :
    (e.modChain fun h => { h with peerNow := h.peerNow ++ valid.map (8 * n + ·) }).st = s.digestHeard l bl n valid := by
  rw [Eff.modChain_st, he]
  rfl

/-- What DIGEST_RECEIVE makes of an intact DIGEST of a chain on an ACTIVE device. -/
theorem execDigestReceive_takes (s : State) (m : Fin 2) (bl : List Block) (bs : List Byte) (n : Nat) (valid : List Nat)
    (h : s.Intact (24 + m.val) 0x23 bl bs) (hlen : bs.length = 80) (hact : s.pair.role = .active) (hn : octet bs 4 = n) (hn24 : n < 24)
    (hvalid : valid = (List.range 8).filter (bitOf (octet bs 5))) (hzero : ∀ p < 8, p ∉ valid → fieldLe bs (16 + 8 * p) 4 = 0) :
    (s.frame.snapped = true → execDigestReceive m bl s = .next { s with
      lanes := (s.took (24 + m.val) bl).lanes
      chain := { s.chain with
        peerNow := s.chain.peerNow ++ valid.map (8 * n + ·), digestLate := (s.chain.digestLate + valid.length) % 2 ^ 32 } }) ∧
    (s.frame.snapped = false → fieldLe bs 8 4 = s.frame.k % 2 ^ 32 →
      (∀ p < 8, (smGet Cell.reset s.cells (8 * n + p)).meas = none ∧ (smGet Cell.reset s.cells (8 * n + p)).batt = none) →
      ∃ t, execDigestReceive m bl s = .next t ∧
        (∀ p ∈ valid, (smGet Cell.reset t.cells (8 * n + p)).dig = some (some (fieldLe bs (12 + 8 * p) 4), fieldLe bs (16 + 8 * p) 4)) ∧
        t = { s with
          lanes := (s.took (24 + m.val) bl).lanes, chain := { s.chain with peerNow := s.chain.peerNow ++ valid.map (8 * n + ·) }
          cells := t.cells }) := by
  have entries : ((List.range 8).filter fun p => bitOf (octet bs 5) p || fieldLe bs (16 + 8 * p) 4 != 0) = valid := by
    rw [hvalid]
    refine List.filter_congr fun p hp => ?_
    by_cases hv : bitOf (octet bs 5) p
    · simp [hv]
    · simp [hv, hzero p (List.mem_range.mp hp) (by simp [hvalid, hv])]
  subst hn
  have addressed (e : Act s) (he : e.st = { s with lanes := (s.took (24 + m.val) bl).lanes }) :
      ¬(!e.isActive || bs.length != 80 || decide (24 ≤ octet bs 4)) = true := by
    simp [Eff.isActive, he, hact, hlen, hn24]
  constructor
  · intro hsnap
    refine Eff.received_next h fun e he => ?_
    extract_lets _ _ _ _ en e1
    have st1 : e1.st = s.digestHeard (24 + m.val) bl (octet bs 4) valid := by rw [hvalid]; exact Eff.digestHeard_st e he
    have frame1 : e1.st.frame = s.frame := by rw [st1]; rfl
    have listed : en = valid := entries
    rw [if_neg (addressed e he), if_pos (by simp [frame1, hsnap]), Eff.modChain_st, st1, listed]
    rfl
  · intro hsnap hk hnone
    refine Eff.received_exists h fun e he => ?_
    extract_lets _ holds rcrc scrc en e1
    have st1 : e1.st = s.digestHeard (24 + m.val) bl (octet bs 4) valid := by rw [hvalid]; exact Eff.digestHeard_st e he
    have frame1 : e1.st.frame = s.frame := by rw [st1]; rfl
    have cells1 : e1.st.cells = s.cells := by rw [st1]; rfl
    have listed : en = valid := entries
    have small (p : Nat) (hp : p ∈ valid) : p < 8 ∧ bitOf (octet bs 5) p = true := by
      simpa [hvalid] using hp
    obtain ⟨hst, hdig⟩ := Eff.digestTurns (octet bs 4) (fun p => (rcrc p, scrc p)) valid e1 fun p hp => by
      rw [Eff.cell, cells1]
      exact hnone p (small p hp).1
    rw [if_neg (addressed e he), if_neg (by simp [frame1, hsnap, hk]), listed]
    refine ⟨fun p hp => (hdig p (.inl hp)).trans ?_, hst.trans (by rw [st1]; rfl)⟩
    simp [rcrc, holds, (small p hp).2, scrc]

/-! ### Relayed SCHEDULEs (R202) -/

/-- A LOCKED chain carries a frame. -/
theorem Eff.sendChain_locked (e : Eff s0) (n : Nat) (octets : List Byte) (h : e.st.locked n) :
    (e.sendChain n octets).st = { e.st with sent := .wynlink n (frameBlocks octets) :: e.st.sent } := by
  rw [Eff.sendChain, (e.locked_iff n).mpr h, Eff.when_true, Eff.emit_st]

/-- A relayed SCHEDULE goes out on its LOCKED chain, with RELAYED set, the device's own DEVB, and its checksums anew. -/
theorem execRelayDnReceive_sends (s : State) (m : Fin 2) (bl : List Block) (bs hd f : List Byte)
    (h : s.Intact (24 + m.val) 0x24 bl bs) (hlen : 36 ≤ bs.length) (hn : octet bs 4 < 24)
    (hrole : s.pair.role = .standby ∨ s.pair.role = .joining) (hlock : s.locked (octet bs 4))
    (hhd : hd = [0x01#8] ++ le 1 (17 + (Eff.start s).devb) ++ le 2 (28 + (bs.length - 36)) ++ (bs.drop 12).take 16)
    (hf : f = hd ++ le 4 (crc32c hd).toNat ++ (bs.drop 32).take (bs.length - 36)) :
    execRelayDnReceive m bl s = .next { s with
      lanes := (s.took (24 + m.val) bl).lanes, sent := .wynlink (octet bs 4) (frameBlocks (f ++ le 4 (crc32c f).toNat)) :: s.sent } := by
  refine Eff.received_next h fun e he => ?_
  extract_lets n recs hd' f' ok
  have length : recs.length = bs.length - 36 := by simp only [recs, List.length_take, List.length_drop]; omega
  have devb : e.devb = (Eff.start s).devb := by simp [Eff.devb, he]
  have header : hd' = hd := by simp only [hd', length, devb, hhd]
  have frame : f' = f := by simp only [f', header, hf, recs]
  have passes : ok = true := by rcases hrole with hr | hr <;> simp [ok, n, hn, hlen, he, hr]
  have locked : e.st.locked n := by
    rw [he]
    exact (s.took_locked (24 + m.val) bl bs h.1 h.2.1 n).mpr hlock
  rw [passes, Eff.when_true, frame, e.sendChain_locked n _ locked, he]

/-! ### Relayed MEASUREs (R202) -/

/-- A record without gate faults, undervoltages and early trips is taken over without a report. -/
theorem Eff.remoteFaults_none (e : Eff s0) (c : Nat) (r : List Byte) (hg : fieldLe r 84 2 = 0) (hu : fieldLe r 86 2 = 0)
    (hy : fieldLe r 88 2 = 0) : e.remoteFaults c r = e.modCell c fun x => { x with gfault := 0, uvlo := 0, early := 0 } := by
  have none16 : bits16 0 = [] := by decide
  unfold Eff.remoteFaults
  simp [hg, hu, hy, none16]

/-- No epoch is newer that is 0xFFFF, or not newer than the device's own. -/
theorem Eff.newerEpoch_seen (e : Eff s0) (ep : Nat) (h : ep = 0xFFFF ∨ newerThan ep e.st.pair.epoch = false) :
    e.when (ep != 0xFFFF) (·.newerEpoch ep) = e := by
  rcases h with h | h
  · simp [h]
  · simp [Eff.newerEpoch, h, Eff.when]

/-- A relayed MEASURE of a cell, with an intact record of the running frame, that is the first of the cell. -/
structure FirstRelayed (s : State) (bs : List Byte) (c : Nat) (x : Cell) : Prop where
  rcrc : rcrcOk bs = true
  cell : octet (measRec bs) 0 = c
  inTable : c < 192
  frame : fieldLe (measRec bs) 4 4 = s.frame.k % 2 ^ 32
  unsnapped : s.frame.snapped = false
  was : smGet Cell.reset s.cells c = x
  meas : x.meas = none
  dig : x.dig = none
  listed : x.state ≠ .absent ∨ fieldLe (measRec bs) 10 2 ≠ 0xFFFF
  trips : fieldLe (measRec bs) 84 2 = 0
  uvlos : fieldLe (measRec bs) 86 2 = 0
  earlies : fieldLe (measRec bs) 88 2 = 0
  epoch : fieldLe (measRec bs) 8 2 = 0xFFFF ∨ newerThan (fieldLe (measRec bs) 8 2) s.pair.epoch = false

/-- The cell once that MEASURE is taken: it is kept as a relayed one, with its segment where that is intact and the first. -/
def Cell.relayed (x : Cell) (bs : List Byte) : Cell :=
  { x with
    accEpoch := fieldLe (measRec bs) 8 2, hops := fieldLe (measRec bs) 10 2, meas := some ⟨measRec bs, true⟩
    batt := if scrcOk bs = true ∧ x.batt = none then some (battSeg bs) else x.batt, gfault := 0, uvlo := 0, early := 0 }

/-- A relayed MEASURE is taken into its cell, and nothing else changes. -/
theorem Eff.measure_relayed (e : Eff s0) (bs : List Byte) (c : Nat) (x : Cell) (h : FirstRelayed e.st bs c x) :
    (e.measure bs true).st = { e.st with cells := (e.measure bs true).st.cells } ∧ (e.measure bs true).cell c = x.relayed bs := by
  obtain ⟨hrcrc, rfl, hc, hk, hsnap, hx, hmeas, hdig, hlisted, hg, hu, hy, hep⟩ := h
  unfold Eff.measure
  extract_lets r c onTime e1 e2 e3 e4 scrc e5
  have was : e.cell c = x := hx
  have timely : onTime = true := by simp [onTime, hsnap, hk, r, hc, c]
  have took : (rcrcOk bs && decide (c < 192)) = true := by simp [hrcrc, hc, c, r]
  have heard1 : e1 = e.modCell c fun x => { x with accEpoch := fieldLe r 8 2, hops := fieldLe r 10 2 } := by
    simp only [e1, took, Eff.when_true, e.newerEpoch_seen (fieldLe r 8 2) hep]
  have cell1 : e1.cell c = { x with accEpoch := fieldLe r 8 2, hops := fieldLe r 10 2 } := by
    rw [heard1, Eff.modCell_cell, if_pos rfl, was]
    rw [was]
    intro hreset
    rcases hlisted with hl | hl
    · exact hl (congrArg Cell.state hreset)
    · exact hl (congrArg Cell.hops hreset)
  have first2 : (rcrcOk bs && (e1.cell c).meas.isNone) = true := by simp [cell1, hrcrc, hmeas]
  have heard2 : e2 = (e1.modCell c fun x => { x with meas := some ⟨r, true⟩, direct := x.direct || !true }).modCell c
      fun x => { x with gfault := 0, uvlo := 0, early := 0 } := by
    simp only [e2, first2, Eff.when_true, Eff.remoteFaults_none _ c r hg hu hy]
  have full (y : Cell) (hy : y.meas = some ⟨r, true⟩) : y ≠ Cell.reset := by
    rintro rfl
    exact absurd hy (by simp [Cell.reset])
  have cell2 : e2.cell c = { x with
      accEpoch := fieldLe r 8 2, hops := fieldLe r 10 2, meas := some ⟨r, true⟩, gfault := 0, uvlo := 0, early := 0 } := by
    rw [heard2, Eff.modCell_cell _ _ _ (full _ _), if_pos rfl, Eff.modCell_cell _ _ _ (full _ rfl), if_pos rfl, cell1]
    · simp
    · rw [Eff.modCell_cell _ _ _ (full _ rfl), if_pos rfl]
  have same3 : e3 = e2 := by simp [e3]
  have cell4 : e4.cell c = x.relayed bs := by
    by_cases hb : scrcOk bs = true ∧ x.batt = none
    · have first4 : (scrcOk bs && (e3.cell c).batt.isNone) = true := by simp [same3, cell2, hb]
      simp only [e4, first4, Eff.when_true]
      rw [Eff.modCell_cell _ _ _ (full _ (by rw [same3, cell2])), if_pos rfl, same3, cell2]
      simp [Cell.relayed, hb, r]
    · have full4 : (scrcOk bs && (e3.cell c).batt.isNone) = false := by simpa [same3, cell2, ← Option.ne_none_iff_isSome] using hb
      simp only [e4, full4, Eff.when_false]
      rw [same3, cell2, Cell.relayed, if_neg hb]
  have st4 : e4.st = { e.st with cells := e4.st.cells } := by
    have st3 : e3.st = { e.st with cells := e3.st.cells } := by rw [same3, heard2, heard1]; rfl
    simp only [e4, Eff.when]
    split
    · rw [Eff.modCell_st, st3]
    · exact st3
  have same5 : e5 = e4 := by simp [e5]
  rw [timely, if_neg (by decide), same5, Eff.compareCopies_no_digest e4 c (by rw [cell4]; exact hdig)]
  exact ⟨st4, cell4⟩

/-- A relayed MEASURE is taken as a direct one but for its mark. -/
theorem execRelayUpReceive_measures (s : State) (m : Fin 2) (bl : List Block) (out bs : List Byte) (c : Nat) (x : Cell)
    (hl : s.locked (24 + m.val)) (hh : (s.hears (24 + m.val) bl).2 = [.frame out]) (hw : wynLen (24 + m.val) out = true)
    (hkind : octet out 0 = 0x25) (hbs : bs = (out.drop 8).take (out.length - 12)) (hact : s.pair.role = .active)
    (hframe : measFrame bs = true) (hlen : fieldLe bs 2 2 = bs.length) (h : FirstRelayed s bs c x) :
    ∃ t, execRelayUpReceive m bl s = .next t ∧ smGet Cell.reset t.cells c = x.relayed bs ∧
      (fcrcOk out = true → t.lanes = (s.took (24 + m.val) bl).lanes) ∧ t = { s with lanes := t.lanes, cells := t.cells } := by
  subst hbs
  unfold execRelayUpReceive
  extract_lets l
  obtain ⟨e, he, heard⟩ := (Eff.start s).heard_frame l bl out _ hh
  rw [heard]
  extract_lets bs
  rw [if_neg (by simp [hkind, hw, l])]
  have he : e.st = { s with lanes := (s.took l bl).lanes } := he.trans (s.took_eq l bl)
  have counted : (e.when (!fcrcOk out) (·.frameErr l)).st = { s with lanes := (e.when (!fcrcOk out) (·.frameErr l)).st.lanes } := by
    cases hf : fcrcOk out with
    | true => rw [Bool.not_true, Eff.when_false, he]
    | false =>
      have locked : (smGet Lane.reset e.st.lanes l).state = .locked := by
        rw [he]
        exact (s.took_locked l bl out hl hh l).mpr hl
      have listed (n : Nat) : { e.lane l with frameErr := n } ≠ Lane.reset := by
        intro hreset
        have off : (e.lane l).state = .off := congrArg Lane.state hreset
        exact absurd (off.symm.trans locked) (by decide)
      rw [Bool.not_false, Eff.when_true, Eff.frameErr, e.modLane_st _ _ rfl (listed _), he]
  have asked : (e.isActive && measFrame bs && fieldLe bs 2 2 == bs.length) = true := by
    simp [Eff.isActive, he, hact, hframe, hlen, bs]
  obtain ⟨hst, hcell⟩ := Eff.measure_relayed (e.when (!fcrcOk out) (·.frameErr l)) bs c x (by
    rw [counted]
    obtain ⟨h1, h2, h3, h4, h5, h6, h7, h8, h9, h10, h11, h12, h13⟩ := h
    exact ⟨h1, h2, h3, h4, h5, h6, h7, h8, h9, h10, h11, h12, h13⟩)
  rw [asked, Eff.when_true]
  refine ⟨_, rfl, hcell, fun hf => ?_, ?_⟩
  · refine (congrArg State.lanes hst).trans ?_
    rw [hf, Bool.not_true, Eff.when_false, he]
  · rw [hst, counted]

/-! ### Fill requests (R452, R453) -/

/-- What goes out where a frame is sent to the peer on lane m: on the other lane while that one is not LOCKED. -/
def State.peerOut (s : State) (m : Nat) (octets : List Byte) : List Out :=
  if (Eff.start s).locked (24 + m) then [.wynlink (24 + m) (frameBlocks octets)]
  else if (Eff.start s).locked (25 - m) then [.wynlink (25 - m) (frameBlocks octets)]
  else []

theorem Eff.sendPeer_st (e : Eff s0) (m : Nat) (octets : List Byte) :
    (e.sendPeer m octets).st = { e.st with sent := e.st.peerOut m octets ++ e.st.sent } := by
  have locked (n : Nat) : e.locked n = (Eff.start e.st).locked n := rfl
  unfold Eff.sendPeer State.peerOut
  simp only [locked]
  split
  · rfl
  · split <;> rfl

/-- The FILL of a cell from the snapshot, where that holds its record. -/
def State.fillOut (s : State) (c : Nat) : List Out :=
  match smGet none s.frame.snapMeas c with
  | some r => s.peerOut (c / 8 % 2) (wynFrame 0x27 0 (le 1 (c / 8) ++ zeros 3 ++ wynFrame 0x11 0 (r.octets ++
      (smGet none s.frame.snapBatt c).getD (zeros 4 ++ le 4 (crc32c (zeros 4)).toNat))))
  | none => []

/-- On a LOCKED lane of its own the FILL of a cell goes out, whichever lane the request was heard on. -/
theorem State.mem_fillOut (s : State) (l : Nat) (bl : List Block) (bs : List Byte) (hl : s.locked l) (hh : (s.hears l bl).2 = [.frame bs])
    (c : Nat) (r : MeasRec) (hr : smGet none s.frame.snapMeas c = some r) (hlock : s.locked (24 + c / 8 % 2)) :
    Out.wynlink (24 + c / 8 % 2) (frameBlocks (wynFrame 0x27 0 (le 1 (c / 8) ++ zeros 3 ++ wynFrame 0x11 0 (r.octets ++
      (smGet none s.frame.snapBatt c).getD (zeros 4 ++ le 4 (crc32c (zeros 4)).toNat))))) ∈ (s.took l bl).fillOut c := by
  have locked : (Eff.start (s.took l bl)).locked (24 + c / 8 % 2) = true :=
    (Eff.locked_iff _ _).mpr ((s.took_locked l bl bs hl hh _).mpr hlock)
  have frame : (s.took l bl).frame = s.frame := by rw [s.took_eq]
  unfold State.fillOut State.peerOut
  simp only [frame, hr, locked, if_true]
  exact List.mem_singleton.mpr rfl

/-- One cell of a request for the snapshot. -/
def Eff.fillTurn (e : Eff s0) (c : Nat) : Eff s0 :=
  match smGet none e.frame.snapMeas c with
  | some r => e.sendFill c r (smGet none e.frame.snapBatt c)
  | none => e

theorem Eff.fillTurn_st (e : Eff s0) (c : Nat) : (e.fillTurn c).st = { e.st with sent := e.st.fillOut c ++ e.st.sent } := by
  unfold Eff.fillTurn State.fillOut
  cases smGet none e.frame.snapMeas c with
  | none => rfl
  | some r => exact e.sendPeer_st _ _

/-- What FILL_REQ_RECEIVE makes of an intact request on an ACTIVE device. -/
theorem execFillReqReceive_answers (s : State) (m : Fin 2) (bl : List Block) (bs : List Byte) (cells : List Nat)
    (h : s.Intact (24 + m.val) 0x26 bl bs) (hlen : bs.length = 44) (hact : s.pair.role = .active)
    (hcells : cells = (octetBits ((bs.drop 16).take 24)).filter (· < 192)) :
    (octet bs 12 = 1 → execFillReqReceive m bl s = .next { s with
      lanes := (s.took (24 + m.val) bl).lanes
      pair := { s.pair with peerStanding := s.pair.peerStanding ++ cells.filter fun c => !s.pair.peerStanding.contains c } }) ∧
    (octet bs 12 = 2 → execFillReqReceive m bl s = .next { s with
      lanes := (s.took (24 + m.val) bl).lanes
      pair := { s.pair with peerStanding := s.pair.peerStanding.filter fun c => !cells.contains c } }) ∧
    (octet bs 12 = 0 → s.frame.snapK = fieldLe bs 4 8 → execFillReqReceive m bl s = .next { s with
      lanes := (s.took (24 + m.val) bl).lanes, sent := cells.reverse.flatMap (s.took (24 + m.val) bl).fillOut ++ s.sent }) := by
  have addressed (e : Act s) (he : e.st = { s with lanes := (s.took (24 + m.val) bl).lanes }) :
      ¬(bs.length != 44 || !e.isActive) = true := by
    simp [Eff.isActive, he, hact, hlen]
  subst hcells
  refine ⟨fun hmode => ?_, fun hmode => ?_, fun hmode hk => ?_⟩
  · refine Eff.received_next h fun e he => ?_
    extract_lets k mode cells
    rw [if_neg (addressed e he), if_neg (by simp [mode, hmode]), if_pos hmode, Eff.modPair_st, he]
  · refine Eff.received_next h fun e he => ?_
    extract_lets k mode cells
    rw [if_neg (addressed e he), if_neg (by simp [mode, hmode]), if_neg (by simp [mode, hmode]), if_pos hmode, Eff.modPair_st, he]
  · refine Eff.received_next h fun e he => ?_
    extract_lets k mode cells
    rw [if_neg (addressed e he), if_pos hmode]
    rw [s.took_eq]
    refine Eff.each_sends { s with lanes := (s.took (24 + m.val) bl).lanes } _ _ ?_ cells e s.sent he
    rintro ⟨_, _, _⟩ sent c rfl
    rw [if_pos hk]
    exact Eff.fillTurn_st _ c

/-! ### Fills (R453, R464) -/

/-- A fill completes the snapshot that waits for its shadow. -/
theorem execFillReceive_completes (s : State) (m : Fin 2) (bl : List Block) (out bs : List Byte) (c : Nat)
    (h : s.Intact (24 + m.val) 0x27 bl out) (hbs : bs = (out.drop 8).take (out.length - 12))
    (hframe : measFrame bs = true) (hlen : fieldLe bs 2 2 = bs.length) (hdue : (Eff.start s).shadowDue = true) (hrcrc : rcrcOk bs = true)
    (hc : octet (measRec bs) 0 = c) (hc192 : c < 192) (hk : fieldLe (measRec bs) 4 4 = s.frame.snapK % 2 ^ 32)
    (hnone : smGet none s.frame.snapMeas c = none) :
    execFillReceive m bl s = .next { s with
      lanes := (s.took (24 + m.val) bl).lanes
      frame := { s.frame with
        snapMeas := smSet none s.frame.snapMeas c (some ⟨measRec bs, true⟩)
        snapBatt := if scrcOk bs = true ∧ smGet none s.frame.snapBatt c = none then
          smSet none s.frame.snapBatt c (some (battSeg bs)) else s.frame.snapBatt }
      pair := { s.pair with onceWait := s.pair.onceWait.filter (· != c) } } := by
  subst hbs hc
  have shadows : s.pair.role ≠ .active := by
    intro hact
    simp [Eff.shadowDue, Eff.shadows, hact] at hdue
  refine Eff.received_next h fun e he => ?_
  extract_lets bs r c e1 e2
  have due : (Eff.start e.st).shadowDue = true := by rw [he]; exact hdue
  have st1 : e1.st = { s with
      lanes := (s.took (24 + m.val) bl).lanes
      frame := { s.frame with snapMeas := smSet none s.frame.snapMeas c (some ⟨r, true⟩) } } := by
    have lacks : (rcrcOk bs && (smGet none e.frame.snapMeas c).isNone) = true := by
      rw [Eff.frame, he, hnone]
      exact (Bool.and_true _).trans hrcrc
    simp only [e1, lacks, Eff.when_true, Eff.modFrame_st, he]
  have st2 : e2.st = { s with
      lanes := (s.took (24 + m.val) bl).lanes
      frame := { s.frame with
        snapMeas := smSet none s.frame.snapMeas c (some ⟨r, true⟩)
        snapBatt := if scrcOk bs = true ∧ smGet none s.frame.snapBatt c = none then
          smSet none s.frame.snapBatt c (some (battSeg bs)) else s.frame.snapBatt } } := by
    by_cases hb : scrcOk bs = true ∧ smGet none s.frame.snapBatt c = none
    · simp only [e2, Eff.frame, hb, Option.isNone_none, Bool.and_self, Eff.when_true, Eff.modFrame_st, st1, and_self, if_true]
    · have full : (scrcOk bs && (smGet none e1.frame.snapBatt c).isNone) = false := by
        simpa [st1, ← Option.ne_none_iff_isSome] using hb
      simp only [e2, full, Eff.when_false, st1, if_neg hb]
  rw [if_neg (by simp [Eff.isActive, he, shadows, hframe, hlen, bs]),
    if_pos (by rw [show e.shadowDue = true from due]; simp [he, hk, hc192, r, c, bs]), Eff.modPair_st, st2]

/-- Settles O32: each clause is what its command makes of an intact frame of its kind. -/
theorem peerFramesComplete : Obligations.PeerFramesComplete := by
  unfold Obligations.PeerFramesComplete
  refine ⟨execCanaryReceive_standby, execAvailReceive_keeps, execDigestReceive_takes, execRelayDnReceive_sends, ?_, ?_, execFillReceive_completes⟩
  · intro s m bl out bs c x hl hh hw hkind hbs hact hframe hlen h1 h2 h3 h4 h5 h6 h7 h8 h9 h10 h11 h12 h13
    obtain ⟨t, ht, hcell, hlanes, hst⟩ := execRelayUpReceive_measures s m bl out bs c x hl hh hw hkind hbs hact hframe hlen
      ⟨h1, h2, h3, h4, h5, h6, h7, h8, h9, h10, h11, h12, h13⟩
    exact ⟨t, _, ht, hcell, rfl, rfl, rfl, fun hs hb => if_pos ⟨hs, hb⟩, hlanes, hst⟩
  · intro s m bl bs cells h hlen hact hcells
    obtain ⟨standing, ended, once⟩ := execFillReqReceive_answers s m bl bs cells h hlen hact hcells
    refine ⟨standing, ended, fun hmode hk => ⟨_, once hmode hk, fun c hc r hr hlock => ?_, rfl⟩⟩
    refine List.mem_append_left _ (List.mem_flatMap.mpr ⟨c, List.mem_reverse.mpr hc, ?_⟩)
    exact s.mem_fillOut (24 + m.val) bl bs h.1 h.2.1 c r hr hlock

end Sys2Proof.Machine
end

