-- ==== Sys2Proof/Proofs/HubEvents.lean ====
section
/-! SUPPORT. A halted hub on a list of gates in which one entry hides another of the same gate. -/

namespace Sys2Proof.Machine

/-- A device after reset that drives its hub outputs, with two entries for gate 0: the first, DISABLED and commanded on, hides one that
owes the report of an EARLY. -/
def State.hiddenEarly : State :=
  { State.reset with gate := { GateSt.reset with
      hiZ := false, gates := [(0, { Gate.reset with cmd := true }), (0, { Gate.reset with earlyDue := true })] } }

/-- Every gate reads as without an EARLY, latched or due. -/
theorem hiddenEarly_reads_none (k : Nat) :
    (smGet Gate.reset State.hiddenEarly.gate.gates k).early = false ∧ (smGet Gate.reset State.hiddenEarly.gate.gates k).earlyDue = false := by
  by_cases hk : k = 0
  · rw [hk]
    decide
  · simp [State.hiddenEarly, smGet, hk, Gate.reset]

/-- The halt of the hub commands gate 0 off. That gate then reads its reset value, so its entry leaves the list and the hidden one comes
to light: its EARLY is reported, with the event of a new fault. -/
theorem hiddenEarly_halt_reports : ∀ t, exec (.hubHaltDetect 64) State.hiddenEarly = .next t → t.faults.evPend = 1 := by
  rintro t ⟨⟩
  rfl

/-- Refutes O38 in its last clause, the halt of a silent hub: where the list of gates is not canonical, that every gate reads as without an
EARLY does not keep the halt from reporting one. -/
theorem not_hubEventsComplete : ¬ Obligations.HubEventsComplete := by
  unfold Obligations.HubEventsComplete
  rintro ⟨-, -, -, -, -, halts⟩
  obtain ⟨t, ht, -, kept⟩ := (halts State.hiddenEarly 64).2 le_rfl fun k _ => hiddenEarly_reads_none k
  have quiet : t.faults.evPend = 0 := congrArg (fun x : State => x.faults.evPend) kept
  exact absurd ((hiddenEarly_halt_reports t ht).symm.trans quiet) (by decide)

end Sys2Proof.Machine
end

