-- ==== Sys2Proof/Proofs/CanSegments.lean ====
section
/-! SUPPORT. The CAN FD segments of a message (R88): what they carry and how each is marked. -/

namespace Sys2Proof.Machine

/-- The first octet of segment `i` (R88): FIRST in bit 7, LAST in bit 6, the count modulo 64 below. -/
def segmentHead (i : Nat) (last : Bool) : Nat := (if i = 0 then 128 else 0) + (if last then 64 else 0) + i % 64

theorem segmentHead_lt (i : Nat) (last : Bool) : segmentHead i last < 256 := by
  unfold segmentHead
  split <;> split <;> omega

/-- A segment starts with its head. -/
theorem octet_segmentHead (i : Nat) (last : Bool) (bs : List Byte) :
    octet (BitVec.ofNat 8 (segmentHead i last) :: bs) 0 = segmentHead i last :=
  Nat.mod_eq_of_lt (segmentHead_lt i last)

/-! ### Data lengths -/

/-- Up to 64 octets there is a data length that holds them. -/
theorem le_canLen (n : Nat) (h : n ≤ 64) : n ≤ canLen n := by
  unfold canLen
  split_ifs <;> omega

/-- The data length of a segment with its head is one of CAN FD, at most 64. -/
theorem canLen_mem (n : Nat) (h : 0 < n) : canLen n ∈ [1, 2, 3, 4, 5, 6, 7, 8, 12, 16, 20, 24, 32, 48, 64] := by
  unfold canLen
  split_ifs
  · interval_cases n <;> decide
  all_goals decide

/-- Padding to a sufficient length keeps the octets and adds zeros. -/
theorem padTo_of_le (n : Nat) (bs : List Byte) (h : bs.length ≤ n) : padTo n bs = bs ++ zeros (n - bs.length) := by
  rw [padTo, List.take_of_length_le h]

/-! ### Segments -/

/-- What does not fill a segment goes out in one, padded to a data length. -/
theorem canSegments_last (fuel i : Nat) (bs : List Byte) (h : bs.length ≤ 63) :
    canSegments (fuel + 1) i bs =
      [BitVec.ofNat 8 (segmentHead i true) :: (bs ++ zeros (canLen (bs.length + 1) - (bs.length + 1)))] := by
  have fits : bs.length + 1 ≤ canLen (bs.length + 1) := le_canLen _ (by omega)
  simp only [canSegments, h, if_true, List.take_of_length_le h, List.length_cons]
  rw [padTo_of_le _ _ (by simpa using fits)]
  rfl

/-- Of a longer message 63 octets go out in a full segment, and the rest follows. -/
theorem canSegments_more (fuel i : Nat) (bs : List Byte) (h : 63 < bs.length) :
    canSegments (fuel + 1) i bs =
      (BitVec.ofNat 8 (segmentHead i false) :: bs.take 63) :: canSegments fuel (i + 1) (bs.drop 63) := by
  have long : ¬bs.length ≤ 63 := by omega
  simp only [canSegments, long, if_false]
  rfl

/-- A message has a segment. -/
theorem canSegments_length_pos (fuel i : Nat) (bs : List Byte) : 0 < (canSegments (fuel + 1) i bs).length := by
  rcases Nat.lt_or_ge 63 bs.length with h | h
  · simp [canSegments_more fuel i bs h]
  · simp [canSegments_last fuel i bs h]

/-- Behind its head the last segment holds the rest of the message, padded to a data length. -/
theorem canSegments_body_last (fuel i : Nat) (bs : List Byte) (h : bs.length ≤ 63) :
    ∃ k < 64, (canSegments (fuel + 1) i bs).flatMap (·.drop 1) = bs ++ zeros k := by
  have pad := canLen_mem (bs.length + 1) (by omega)
  rw [canSegments_last fuel i bs h]
  refine ⟨canLen (bs.length + 1) - (bs.length + 1), ?_, by simp⟩
  simp only [List.mem_cons, List.not_mem_nil, or_false] at pad
  omega

/-- Behind their heads the segments hold the message, padded to a data length. -/
theorem canSegments_bodies (fuel i : Nat) (bs : List Byte) (h : bs.length ≤ 63 * (fuel + 1)) :
    ∃ k < 64, (canSegments (fuel + 1) i bs).flatMap (·.drop 1) = bs ++ zeros k := by
  induction fuel generalizing i bs with
  | zero => exact canSegments_body_last 0 i bs (by omega)
  | succ fuel ih =>
    rcases Nat.lt_or_ge 63 bs.length with long | short
    · obtain ⟨k, hk, rest⟩ := ih (i + 1) (bs.drop 63) (by rw [List.length_drop]; omega)
      refine ⟨k, hk, ?_⟩
      rw [canSegments_more _ i bs long, List.flatMap_cons, rest, List.drop_succ_cons, List.drop_zero, ← List.append_assoc,
        List.take_append_drop]
    · exact canSegments_body_last _ i bs short

/-- The segment at place `j` of `n` (R88), where the first has count `i`: its head, full unless it is the last, of a CAN FD data length. -/
def SegmentAt (i j n : Nat) (seg : List Byte) : Prop :=
  octet seg 0 = segmentHead (i + j) (j + 1 = n) ∧ (j + 1 < n → seg.length = 64) ∧
    seg.length ∈ [1, 2, 3, 4, 5, 6, 7, 8, 12, 16, 20, 24, 32, 48, 64]

/-- What does not fill a segment goes out in one that is marked as the last. -/
theorem canSegments_at_last (fuel i : Nat) (bs : List Byte) (h : bs.length ≤ 63) (j : Nat) (seg : List Byte)
    (hj : (canSegments (fuel + 1) i bs)[j]? = some seg) : SegmentAt i j (canSegments (fuel + 1) i bs).length seg := by
  have fits : bs.length + 1 ≤ canLen (bs.length + 1) := le_canLen _ (by omega)
  rw [canSegments_last fuel i bs h] at hj ⊢
  obtain ⟨rfl, rfl⟩ : j = 0 ∧ BitVec.ofNat 8 (segmentHead i true) :: (bs ++ zeros (canLen (bs.length + 1) - (bs.length + 1))) = seg := by
    simpa [List.getElem?_singleton] using hj
  have length : (BitVec.ofNat 8 (segmentHead i true) :: (bs ++ zeros (canLen (bs.length + 1) - (bs.length + 1)))).length =
      canLen (bs.length + 1) := by
    simp only [List.length_cons, List.length_append, zeros, List.length_replicate]
    omega
  exact ⟨octet_segmentHead i true _, fun h => absurd h (by simp), by rw [length]; exact canLen_mem _ (by omega)⟩

/-- Every segment is marked with its place, where the fuel suffices for the message. -/
theorem canSegments_at (fuel i : Nat) (bs : List Byte) (h : bs.length ≤ 63 * (fuel + 1)) (j : Nat) (seg : List Byte)
    (hj : (canSegments (fuel + 1) i bs)[j]? = some seg) : SegmentAt i j (canSegments (fuel + 1) i bs).length seg := by
  induction fuel generalizing i bs j with
  | zero => exact canSegments_at_last 0 i bs (by omega) j seg hj
  | succ fuel ih =>
    rcases Nat.lt_or_ge 63 bs.length with long | short
    · rw [canSegments_more _ i bs long] at hj ⊢
      have more := canSegments_length_pos fuel (i + 1) (bs.drop 63)
      cases j with
      | zero =>
        obtain rfl : BitVec.ofNat 8 (segmentHead i false) :: bs.take 63 = seg := by simpa using hj
        have full : (BitVec.ofNat 8 (segmentHead i false) :: bs.take 63).length = 64 := by
          simp only [List.length_cons, List.length_take]
          omega
        have notLast : ¬0 + 1 = (canSegments (fuel + 1) (i + 1) (bs.drop 63)).length + 1 := by omega
        refine ⟨?_, fun _ => full, by rw [full]; decide⟩
        rw [octet_segmentHead, List.length_cons, decide_eq_false notLast]
        rfl
      | succ j =>
        obtain ⟨head, full, length⟩ := ih (i + 1) (bs.drop 63) (by rw [List.length_drop]; omega) j (by simpa using hj)
        refine ⟨?_, fun hn => full (by simpa using hn), length⟩
        rw [head, List.length_cons, Nat.add_assoc, Nat.add_comm 1 j]
        simp
    · exact canSegments_at_last _ i bs short j seg hj

/-- Settles O12: 64 segments of 63 octets hold any message of at most 4,032 octets, so the fuel suffices. -/
theorem canSegmentsCarryTheWholeMessage : Obligations.CanSegmentsCarryTheWholeMessage := by
  intro m hm
  refine ⟨canSegments_bodies 63 0 m hm, fun i seg hi => ?_⟩
  obtain ⟨head, full, length⟩ := canSegments_at 63 0 m hm i seg hi
  refine ⟨?_, full, length⟩
  rw [head, segmentHead, Nat.zero_add]
  simp only [decide_eq_true_eq]

end Sys2Proof.Machine
end

