-- ==== Sys2Proof/Proofs/SessionTimers.lean ====
section
/-! SUPPORT. The timers that end sessions and lockouts (R90 to R92). -/

namespace Sys2Proof.Machine

variable {s0 : Root}

/-- The session leaves its slot; no other session changes. -/
theorem Eff.endSession_sess (e : Eff s0) (id n : Nat) (y : Session) (h : e.st.findSession id = some (n, y)) :
    (e.endSession id).st.sess = { e.st.sess with slots := smSet none e.st.sess.slots n none } := by
  have locks : (e.unlockAll id).st.sess = e.st.sess := by rw [Eff.unlockAll_st]
  have faults : ((e.unlockAll id).dropFaults id).st.sess = e.st.sess := by rw [(Eff.dropFaults_st _ id).1, locks]
  have found : ((e.unlockAll id).dropFaults id).st.findSession id = some (n, y) := by rw [State.findSession, faults]; exact h
  unfold Eff.endSession Eff.dropSlot
  rw [found, Eff.modSess_st, faults]

/-- What the end of the session x leaves (R77, R90, R447). -/
def State.Ended (s : State) (x : Session) (t : State) : Prop :=
  (∀ b ∈ t.faults.subs, b.sess ≠ x.id) ∧
    (∀ n y, s.findSession x.id = some (n, y) → t.sess = { s.sess with slots := smSet none s.sess.slots n none }) ∧
    t = { s with sess := t.sess, stg := t.stg, doms := t.doms, faults := t.faults }

theorem Eff.endSession_ended (s : State) (x : Session) : s.Ended x ((Eff.start s).endSession x.id).st := by
  obtain ⟨hst, hsubs, -⟩ := (Eff.start s).endSession_st x.id
  exact ⟨hsubs, fun n y h => (Eff.start s).endSession_sess x.id n y h, hst⟩

/-- PROVE_TIMEOUT on a session: it ends where it is not proved and its 5 s have passed. -/
theorem execProveTimeout_of_session (s : State) (slot : Fin 8) (x : Session) (h : smGet none s.sess.slots slot.val = some x) :
    execProveTimeout slot s =
      .next (if !x.proved && x.opened + 5000000000 ≤ s.time.up then (Eff.start s).endSession x.id else Eff.start s).st := by
  unfold execProveTimeout
  simp only [Eff.start_st, Eff.sess, Eff.time, h]
  rfl

/-- SESSION_TIMEOUT on a session: it ends where SESSION_TIMEOUT has passed since its last valid request. -/
theorem execSessionTimeout_of_session (s : State) (slot : Fin 8) (x : Session) (h : smGet none s.sess.slots slot.val = some x) :
    execSessionTimeout slot s =
      .next (if x.lastValid + s.cv oSessionTimeout 0 * 1000000000 ≤ s.time.up then (Eff.start s).endSession x.id else Eff.start s).st := by
  unfold execSessionTimeout
  simp only [Eff.start_st, Eff.sess, Eff.time, h]
  rfl

/-- Settles O15: each timer ends its session by `Eff.endSession` once its time has passed, and a lockout goes by a filter. -/
theorem sessionTimersEndSessions : Obligations.SessionTimersEndSessions := by
  refine ⟨?_, ?_, ?_, ?_, ?_⟩
  · intro s slot x hx hp ht
    refine ⟨_, (execProveTimeout_of_session s slot x hx).trans ?_, Eff.endSession_ended s x⟩
    rw [if_pos (by simp [hp, ht])]
  · intro s slot x hx hnot
    refine (execProveTimeout_of_session s slot x hx).trans ?_
    rw [if_neg, Eff.start_st]
    rcases hnot with proved | early
    · simp [proved]
    · simp [Nat.not_le.mpr early]
  · intro s slot x hx ht
    refine ⟨_, (execSessionTimeout_of_session s slot x hx).trans ?_, Eff.endSession_ended s x⟩
    rw [if_pos ht]
  · intro s slot x hx ht
    refine (execSessionTimeout_of_session s slot x hx).trans ?_
    rw [if_neg (Nat.not_le.mpr ht), Eff.start_st]
  · intro s src
    refine ⟨_, rfl, fun p => ?_, rfl⟩
    change p ∈ s.sess.lockouts.filter (fun p => p.1 != src || decide (s.time.up < p.2)) ↔ _
    simp [imp_iff_not_or]

end Sys2Proof.Machine
end

