-- ==== Sys2Proof/Proofs/Transports.lean ====
section
/-! SUPPORT. Host SPI, CAN FD segments and the host interrupt pins (R87 to R89, R446). -/

namespace Sys2Proof.Machine

variable {s0 : Root}

/-! ### Octets of a message -/

/-- The first octet of a list. -/
theorem octet_cons_zero (b : Byte) (bs : List Byte) : octet (b :: bs) 0 = b.toNat := rfl

/-- Above a number's bits there is none set. -/
theorem bitOf_of_lt (n b : Nat) (h : n < 2 ^ b) : bitOf n b = false := by
  simp [bitOf, field, Nat.div_eq_of_lt h]

/-! ### A KEEPALIVE as octets (R81, R82) -/

/-- The octets of a request of an opcode without payload. -/
def plainRequest (msg : List Byte) (op : Nat) : Prop :=
  12 ≤ msg.length ∧ octet msg 0 = 0x10 ∧ octet msg 1 = op ∧ fieldLe msg 8 2 = 0

/-- The header of such a request, as it comes from a source. -/
def plainReq (src : Src) (msg : List Byte) : Req :=
  { src := src, seq := BitVec.ofNat 16 (fieldLe msg 2 2), session := BitVec.ofNat 32 (fieldLe msg 4 4), tag := (msg.drop 12).take 16
    rsv := BitVec.ofNat 16 (fieldLe msg 10 2) }

/-- A KEEPALIVE that passes is answered OK, at once; only the sessions change before the answer. -/
theorem Eff.keepaliveReq_go (e : Eff s0) (q : Req) (lvl sid : Nat) (h : e.st.Accepts q 0x13 [] lvl sid) :
    ∃ e' : Eff s0, e'.st = { e.st with sess := e'.st.sess } ∧ e.keepaliveReq q = e'.answer q 0x13 ansOk := by
  obtain ⟨e', hgo, hst⟩ := e.admit_go q 0x13 [] lvl sid h
  refine ⟨e', hst, ?_⟩
  rw [Eff.keepaliveReq, hgo]

theorem Eff.serve_keepalive (e : Eff s0) (src : Src) (msg : List Byte) (lvl sid : Nat) (hm : plainRequest msg 0x13)
    (h : e.st.Accepts (plainReq src msg) 0x13 [] lvl sid) :
    ∃ e' : Eff s0, e'.st = { e.st with sess := e'.st.sess } ∧
      e.serve src msg = (e'.answer (plainReq src msg) 0x13 ansOk, false) := by
  obtain ⟨hlen, hver, hop, hpay⟩ := hm
  obtain ⟨e', hst, hkeep⟩ := e.keepaliveReq_go _ lvl sid h
  refine ⟨e', hst, ?_⟩
  have whole : ¬msg.length < 12 := by omega
  unfold Eff.serve
  simp only [hpay, hver, hop, whole, Eff.serveBody, Nat.add_zero, ne_eq, not_true_eq_false, or_self, if_false, List.take_zero]
  exact congrArg (·, false) hkeep

/-! ### Host SPI (R89) -/

/-- SPI_GET answers the oldest response. -/
theorem execSpiGet_of_response (s : State) (m : List Byte) (r : List (List Byte)) (hserving : s.serving = true) (h : s.sess.spiResp = m :: r) :
    execSpiGet s = .next { s with
      sent := .spi (le 2 m.length ++ m ++ le 4 (crc32c m).toNat) :: s.sent, sess := { s.sess with spiResp := r } } := by
  simp only [execSpiGet, Eff.start_st, Eff.sess, hserving, h, Bool.not_true, Bool.false_eq_true, if_false,
    Eff.emit_st, Eff.modSess_st, spiReply]

/-- SPI_GET without a response answers the oldest notification. -/
theorem execSpiGet_of_notification (s : State) (m : List Byte) (r : List (List Byte)) (hserving : s.serving = true)
    (hresp : s.sess.spiResp = []) (h : s.sess.spiNote = m :: r) :
    execSpiGet s = .next { s with
      sent := .spi (le 2 m.length ++ m ++ le 4 (crc32c m).toNat) :: s.sent, sess := { s.sess with spiNote := r } } := by
  simp only [execSpiGet, Eff.start_st, Eff.sess, hserving, hresp, h, Bool.not_true, Bool.false_eq_true, if_false,
    Eff.emit_st, Eff.modSess_st, spiReply]

/-- SPI_GET with nothing pending answers LEN16 0. -/
theorem execSpiGet_empty (s : State) (hserving : s.serving = true) (hresp : s.sess.spiResp = []) (h : s.sess.spiNote = []) :
    execSpiGet s = .next { s with sent := .spi (le 2 0) :: s.sent } := by
  simp only [execSpiGet, Eff.start_st, Eff.sess, hserving, hresp, h, Bool.not_true, Bool.false_eq_true, if_false,
    Eff.emit_st, spiReply]

/-- The octets of SPI_PUT reach `Eff.serve` where they are whole and the interface is free. -/
theorem execSpiPut_serves (s : State) (msg : List Byte) (hserving : s.serving = true) (hfree : s.sess.spiBusy = false)
    (hlen : msg.length < 65536) :
    execSpiPut (BitVec.ofNat 16 msg.length) msg (crc32c msg) s =
      (let r := ((Eff.start s).modSess fun t => { t with spiBusy := true }).serve .spi msg
       .next (r.1.modSess fun t => { t with spiBusy := r.2 && t.spiBusy }).st) := by
  have length : msg.length = (BitVec.ofNat 16 msg.length).toNat := by
    rw [BitVec.toNat_ofNat, Nat.mod_eq_of_lt hlen]
  unfold execSpiPut
  simp only [Eff.start_st, Eff.sess, hserving, hfree, ← length, bne_self_eq_false, Bool.not_true, Bool.or_self, Bool.false_eq_true, if_false]

/-- SPI_PUT of a KEEPALIVE that passes. -/
theorem execSpiPut_keepalive (s : State) (msg : List Byte) (lvl sid : Nat) (hserving : s.serving = true) (hfree : s.sess.spiBusy = false)
    (hlen : msg.length < 65536) (hm : plainRequest msg 0x13)
    (h : State.Accepts { s with sess := { s.sess with spiBusy := true } } (plainReq .spi msg) 0x13 [] lvl sid) :
    ∃ t, execSpiPut (BitVec.ofNat 16 msg.length) msg (crc32c msg) s = .next t ∧ t.Replied (plainReq .spi msg) 0x13 ansOk ∧
      t.sess.spiBusy = false ∧ t = { s with sess := t.sess } := by
  obtain ⟨e', hst, hserve⟩ := ((Eff.start s).modSess fun t => { t with spiBusy := true }).serve_keepalive .spi msg lvl sid hm h
  rw [execSpiPut_serves s msg hserving hfree hlen, hserve]
  refine ⟨_, rfl, (e'.answer_replied (plainReq .spi msg) 0x13 ansOk :), rfl, ?_⟩
  have answered : (e'.answer (plainReq .spi msg) 0x13 ansOk).st = { s with sess := (e'.answer (plainReq .spi msg) 0x13 ansOk).st.sess } := by
    have unsent : (e'.answer (plainReq .spi msg) 0x13 ansOk).st.sent = e'.st.sent := by
      change (e'.modSession _ _).st.sent = _
      rw [Eff.modSession_st]
    rw [Eff.answer_st, unsent, hst]
    rfl
  simp only [Eff.modSess_st]
  rw [answered]

/-! ### CAN FD (R88) -/

/-- A segment in order joins the partial message of its controller, which a FIRST segment begins. -/
theorem execDapcSegment_joins (s : State) (c : Fin 2) (h : Byte) (bs : List Byte) (p : Partial) (hserving : s.serving = true)
    (hrate : s.cv oDapcRate c.val ≠ 2)
    (hp : (if bitOf h.toNat 7 then some ⟨[], 0, s.time.up⟩ else
      (smGet none s.sess.canPart c.val).filter fun p => decide (s.time.up < p.started + 100000000)) = some p)
    (hnext : p.next = h.toNat % 64) (hlen : bs.length ≤ 63) (hfull : bitOf h.toNat 6 = false → bs.length = 63) :
    execDapcSegment c (h :: bs) s =
      (if bitOf h.toNat 6 then .next (((Eff.start s).dropPartial c.val).serveCan c (p.octets ++ bs)).st
       else .next (((Eff.start s).dropPartial c.val).modSess fun t => { t with
         canPart := smSet none t.canPart c.val (some ⟨p.octets ++ bs, (h.toNat % 64 + 1) % 64, p.started⟩) }).st) := by
  unfold execDapcSegment
  extract_lets e h' first last n held p' e1
  rw [if_neg (by simp [e, hserving, hrate])]
  have found : p' = some p := hp
  have inOrder : ¬(p.next ≠ n ∨ 64 < (h :: bs).length ∨ (!last && decide ((h :: bs).length ≠ 64)) = true) := by
    have next : p.next = n := hnext
    cases hlast : last with
    | false => simp [next, hfull hlast]
    | true => simp [next, Nat.lt_succ_of_le hlen]
  rw [found]
  change (if _ then _ else _) = _
  rw [if_neg inOrder]
  rfl

/-- A first segment that is not the last opens a partial message. -/
theorem execDapcSegment_first (s : State) (c : Fin 2) (bs : List Byte) (hserving : s.serving = true) (hrate : s.cv oDapcRate c.val ≠ 2)
    (hlen : bs.length = 63) :
    execDapcSegment c (0x80 :: bs) s = .next { s with sess := { s.sess with
      canPart := smSet none (smSet none s.sess.canPart c.val none) c.val (some ⟨bs, 1, s.time.up⟩) } } :=
  execDapcSegment_joins s c 0x80 bs ⟨[], 0, s.time.up⟩ hserving hrate rfl rfl hlen.le fun _ => hlen

/-- The next segment in order extends the partial message. -/
theorem execDapcSegment_next (s : State) (c : Fin 2) (p : Partial) (bs : List Byte) (hserving : s.serving = true)
    (hrate : s.cv oDapcRate c.val ≠ 2) (hlen : bs.length = 63) (hnext : p.next < 64) (hp : smGet none s.sess.canPart c.val = some p)
    (hyoung : s.time.up < p.started + 100000000) :
    execDapcSegment c (BitVec.ofNat 8 p.next :: bs) s = .next { s with sess := { s.sess with
      canPart := smSet none (smSet none s.sess.canPart c.val none) c.val (some ⟨p.octets ++ bs, (p.next + 1) % 64, p.started⟩) } } := by
  have head : (BitVec.ofNat 8 p.next).toNat = p.next := Nat.mod_eq_of_lt (by omega)
  have first : bitOf p.next 7 = false := bitOf_of_lt _ _ (by omega)
  have last : bitOf p.next 6 = false := bitOf_of_lt _ _ (by omega)
  have joins := execDapcSegment_joins s c (BitVec.ofNat 8 p.next) bs p hserving hrate
    (by rw [head, first, hp, if_neg (by decide)]; simp [Option.filter, hyoung]) (by rw [head]; omega) hlen.le fun _ => hlen
  rw [joins, head, last, Nat.mod_eq_of_lt hnext, if_neg (by decide)]
  rfl

/-- A KEEPALIVE that passes, whole on a controller that waits for no response, is answered in segments. -/
theorem Eff.serveCan_keepalive (e : Eff s0) (c : Fin 2) (msg : List Byte) (lvl sid : Nat) (hfree : c.val ∉ e.st.sess.canBusy)
    (hm : plainRequest msg 0x13)
    (h : State.Accepts { e.st with sess := { e.st.sess with canBusy := c.val :: e.st.sess.canBusy } } (plainReq (.can c) msg) 0x13 [] lvl sid) :
    (e.serveCan c msg).st.Replied (plainReq (.can c) msg) 0x13 ansOk ∧ c.val ∉ (e.serveCan c msg).st.sess.canBusy ∧
      (e.serveCan c msg).st = { e.st with sess := (e.serveCan c msg).st.sess, sent := (e.serveCan c msg).st.sent } := by
  obtain ⟨e', hst, hserve⟩ :=
    (e.modSess fun t => { t with canBusy := c.val :: t.canBusy }).serve_keepalive (.can c) msg lvl sid hm h
  have served : e.serveCan c msg = (e'.answer (plainReq (.can c) msg) 0x13 ansOk).modSess
      fun t => { t with canBusy := t.canBusy.filter (· != c.val) } := by
    unfold Eff.serveCan
    rw [if_neg (by simpa using hfree)]
    simp only [hserve, Bool.not_false, Eff.when_true]
  rw [served]
  refine ⟨(e'.answer_replied (plainReq (.can c) msg) 0x13 ansOk :), ?_, ?_⟩
  · simp
  · rw [Eff.modSess_st, Eff.answer_st, hst]
    rfl

/-- A single segment that holds a KEEPALIVE that passes. -/
theorem execDapcSegment_keepalive (s : State) (c : Fin 2) (msg : List Byte) (lvl sid : Nat) (hserving : s.serving = true)
    (hrate : s.cv oDapcRate c.val ≠ 2) (hfree : c.val ∉ s.sess.canBusy) (hlen : msg.length ≤ 63) (hm : plainRequest msg 0x13)
    (h : State.Accepts { s with sess := { s.sess with
      canPart := smSet none s.sess.canPart c.val none, canBusy := c.val :: s.sess.canBusy } } (plainReq (.can c) msg) 0x13 [] lvl sid) :
    ∃ t, execDapcSegment c (0xC0 :: msg) s = .next t ∧ t.Replied (plainReq (.can c) msg) 0x13 ansOk ∧ c.val ∉ t.sess.canBusy ∧
      t = { s with sess := t.sess, sent := t.sent } := by
  obtain ⟨replied, free, hst⟩ := ((Eff.start s).dropPartial c.val).serveCan_keepalive c msg lvl sid hfree hm h
  refine ⟨_, ?_, replied, free, hst⟩
  exact execDapcSegment_joins s c 0xC0 msg ⟨[], 0, s.time.up⟩ hserving hrate rfl rfl hlen (fun h => absurd h (by decide))

/-- A partial message older than 100 ms is discarded, a younger one stays. -/
theorem execDapcMessageTimeout_of_partial (s : State) (c : Fin 2) (p : Partial) (h : smGet none s.sess.canPart c.val = some p) :
    execDapcMessageTimeout c s = .next (if p.started + 100000000 ≤ s.time.up then
      { s with sess := { s.sess with canPart := smSet none s.sess.canPart c.val none } } else s) := by
  unfold execDapcMessageTimeout
  simp only [Eff.start_st, Eff.sess, Eff.time, h]
  by_cases old : p.started + 100000000 ≤ s.time.up
  · rw [if_pos old]
    exact congrArg (fun b => Host.Outcome.next ((Eff.start s).when b (·.dropPartial c.val)).st) (decide_eq_true old)
  · rw [if_neg old]
    exact congrArg (fun b => Host.Outcome.next ((Eff.start s).when b (·.dropPartial c.val)).st) (decide_eq_false old)

/-! ### Interrupt pins (R89, R446) -/

/-- The pins of a device that serves: responses, notifications, and the two that events are routed to. -/
theorem State.hostIrqLow_routed (s : State) (i : Fin 2) (h : s.serving = true) : s.hostIrqLow ⟨i.val + 2, by omega⟩ = s.routed i.val := by
  fin_cases i
  · simp [State.hostIrqLow, h]
  · simp [State.hostIrqLow, h]

/-- Settles O16: each clause is what its command makes of the transport's state; a KEEPALIVE goes through `Eff.serve`. -/
theorem hostTransportsComplete : Obligations.HostTransportsComplete := by
  refine ⟨?_, ?_, ?_, ?_, ?_, ?_, ?_, ?_, ?_, ?_⟩
  · intro s hserving
    refine ⟨if_neg (by simp [hserving]), fun m r hresp => ?_, fun m r hresp hnote => ?_, fun hresp hnote => ?_⟩
    · exact execSpiGet_of_response s m r hserving hresp
    · exact execSpiGet_of_notification s m r hserving hresp hnote
    · exact execSpiGet_empty s hserving hresp hnote
  · intro s len msg crc hserving hbad
    change execSpiPut len msg crc s = _
    unfold execSpiPut
    extract_lets e
    rw [if_neg (by simp [e, hserving]), if_pos (by simpa [e, or_assoc] using hbad)]
    rfl
  · rintro s msg q lvl sid hserving hfree hlo hhi hver hop hpay rfl hacc
    exact execSpiPut_keepalive s msg lvl sid hserving hfree hhi ⟨hlo, hver, hop, hpay⟩ hacc
  · exact execDapcMessageTimeout_of_partial
  · exact execDapcSegment_first
  · exact execDapcSegment_next
  · rintro s c msg q lvl sid hserving hrate hfree hlo hhi hver hop hpay rfl hacc
    exact execDapcSegment_keepalive s c msg lvl sid hserving hrate hfree hhi ⟨hlo, hver, hop, hpay⟩ hacc
  · intro s hserving
    simp [State.hostIrqLow, hserving]
  · intro s hserving
    simp [State.hostIrqLow, hserving]
  · intro s i hserving
    rw [s.hostIrqLow_routed i hserving]
    simp [State.routed]

end Sys2Proof.Machine
end

