-- ==== Sys2Proof/Proofs/Dictionary.lean ====
section
/-! SUPPORT. READ and WRITE of the dictionary (R65 to R71, R77, R99, R100, R607). -/

namespace Sys2Proof.Machine

variable {s0 : Root}

/-! ### Requests that pass -/

/-- A request that passes is admitted; what is done for it starts from the state with other sessions. -/
theorem Eff.vet_go (e : Eff s0) (q : Req) (op : Nat) (p : List Byte) (lvl sid : Nat) (h : e.st.Accepts q op p lvl sid) :
    ∃ (e' : Eff s0) (x : SessSt), e.vet q op p = .go e' lvl sid ∧ e'.st = { e.st with sess := x } := by
  obtain ⟨e', hgo, hst⟩ := e.admit_go q op p lvl sid h
  exact ⟨e', e'.st.sess, hgo, hst⟩

/-! ### Objects -/

/-- Objects that no set holds: those whose octets are not a value of fixed width, and those that read free values. -/
def unsettable : List Nat :=
  [oPart, oFwdigest, oMeterPubkey, oPersistMap, oLocalTime, oTimedSlot, oGateTripTime, oFirstErr, oHoldInfo, oEyeMargin, oLatTx, oSliceLive,
    oRailMv, oStoreStatus]

theorem unsettable_readOnly : ∀ o ∈ unsettable, (objRow? o).any (fun r => r.acc == .rw || r.acc == .rws) = false := by decide

theorem not_mem_unsettable (obj : Nat) (r : ObjRow) (h : objRow? obj = some r) (hacc : r.acc = .rw ∨ r.acc = .rws) : obj ∉ unsettable := by
  intro hmem
  have readOnly := unsettable_readOnly obj hmem
  rcases hacc with hacc | hacc <;> simp [h, hacc] at readOnly

/-- The value of an element of an RW or RWS object that a READ returns: the staged one where it is asked for and there is one. -/
def State.readValue (s : State) (obj elem : Nat) (staged : Bool) : Nat :=
  if staged = true then (smGet none s.stg (key obj elem)).getD (s.cv obj elem) else s.cv obj elem

/-- The octets of an element of an RW or RWS object. -/
theorem Eff.elemOctets_settable (e : Eff s0) (r : ObjRow) (obj elem : Nat) (staged : Bool) (h : objRow? obj = some r)
    (hacc : r.acc = .rw ∨ r.acc = .rws) (hkey : isKey obj = false) :
    e.elemOctets r obj elem staged = le r.ty.width (e.st.readValue obj elem staged) := by
  have plain := not_mem_unsettable obj r h hacc
  simp only [unsettable, List.mem_cons, not_or] at plain
  have noOctets : e.roOctets obj elem = none := by simp [Eff.roOctets, plain]
  unfold Eff.elemOctets State.readValue
  rw [hkey, if_neg (by decide), noOctets]
  generalize r.acc = acc at hacc
  cases staged with
  | false => rcases hacc with rfl | rfl <;> rfl
  | true => cases smGet none e.st.stg (key obj elem) <;> rcases hacc with rfl | rfl <;> rfl

/-- The objects that read free values are none of the point mirror. -/
theorem freeObject_of_ge (obj : Nat) (h : 0x80_0000 ≤ obj) : freeObject obj = false := by
  simp only [freeObject, oEyeMargin, oLatTx, oSliceLive, oRailMv, oStoreStatus, Bool.or_eq_false_iff, beq_eq_false_iff_ne]
  omega

/-- Nor are they RW or RWS. -/
theorem freeObject_of_settable (obj : Nat) (r : ObjRow) (h : objRow? obj = some r) (hacc : r.acc = .rw ∨ r.acc = .rws) :
    freeObject obj = false := by
  have plain := not_mem_unsettable obj r h hacc
  simp only [unsettable, List.mem_cons, not_or] at plain
  simp [freeObject, plain]

/-! ### READ -/

/-- What a READ that passes answers, for an object that reads no free values. -/
theorem Eff.dapRead_go (e : Eff s0) (q : Req) (obj : Nat) (flags : Byte) (first count lvl sid : Nat) (hfree : freeObject obj = false)
    (h : e.st.Accepts q 1 (le 3 obj ++ [flags] ++ le 2 first ++ le 2 count) lvl sid) :
    ∃ (e' : Eff s0) (x : SessSt), e'.st = { e.st with sess := x } ∧
      e.dapRead q obj flags first count =
        (e'.when (mirrored obj && (e'.readAns obj (flags.getLsbD 0) first count).status == stOk) fun e =>
          e.each (List.range count) fun e i => e.consume 12 (obj - 0x80_0000 + i)).answer q 1
            (e'.readAns obj (flags.getLsbD 0) first count) := by
  obtain ⟨e', x, hgo, hst⟩ := e.vet_go q 1 _ lvl sid h
  refine ⟨e', x, hst, ?_⟩
  simp only [Eff.dapRead, hgo, hfree, Eff.when_false]

/-- The point mirror answers the words of the points. -/
theorem Eff.readAns_mirror (e : Eff s0) (n count : Nat) (staged : Bool) (hpos : 1 ≤ count) (hmax : count ≤ 179)
    (hn : n + count ≤ 2097152) (hon : e.islandOff 3 = false) :
    e.readAns (0x80_0000 + n) staged 0 count =
      ansOk ([5, 0] ++ le 2 count ++ (List.range count).flatMap fun i => le 8 (e.st.pt (n + i)).toNat) := by
  have mirror : mirrored (0x80_0000 + n) = true := by
    simp only [mirrored, Bool.and_eq_true, decide_eq_true_eq]
    omega
  have fits : ((List.range count).flatMap fun i => le 8 (e.st.pt (n + i)).toNat).length = 8 * count := by
    simp [List.length_flatMap, Nat.mul_comm]
  unfold Eff.readAns
  rw [mirror, if_pos rfl]
  simp only [Nat.add_sub_cancel_left]
  rw [if_neg (by omega), if_neg (by simp [hon]), if_neg (by omega), if_neg (by rw [fits]; omega)]
  rfl

/-- An RW or RWS object answers its values. -/
theorem Eff.readAns_settable (e : Eff s0) (r : ObjRow) (obj first count : Nat) (staged : Bool) (h : objRow? obj = some r)
    (hacc : r.acc = .rw ∨ r.acc = .rws) (hmir : mirrored obj = false) (hkey : isKey obj = false) (hpos : 1 ≤ count)
    (hn : first + count ≤ r.n) (hmax : count ≤ 1444) (hfits : 10 + count * r.ty.width ≤ 1444)
    (hon : ∀ i < count, ∀ j, islandOf obj (first + i) = some j → e.islandOff j = false) :
    e.readAns obj staged first count = ansOk ([r.ty.code, 0] ++ le 2 count ++
      (List.range count).flatMap fun i => le r.ty.width (e.st.readValue obj (first + i) staged)) := by
  have notAct : r.acc ≠ .act := by rcases hacc with hacc | hacc <;> simp [hacc]
  have chosen : selects r.n first count = true := by simp [selects, hn, Nat.pos_of_ne_zero (by omega : count ≠ 0)]
  have on : (((List.range count).map (first + ·)).any fun i => (islandOf obj i).any e.islandOff) = false := by
    simp only [List.any_map, List.any_eq_false, List.mem_range, Function.comp]
    intro i hi hany
    obtain ⟨j, hj, hoff⟩ := Option.any_eq_true .. |>.mp hany
    simp [hon i hi j hj] at hoff
  have body : (((List.range count).map (first + ·)).flatMap fun i => e.elemOctets r obj i staged) =
      (List.range count).flatMap fun i => le r.ty.width (e.st.readValue obj (first + i) staged) := by
    simp only [List.flatMap_map, e.elemOctets_settable r obj _ staged h hacc hkey]
  have fits : ((List.range count).flatMap fun i => le r.ty.width (e.st.readValue obj (first + i) staged)).length = count * r.ty.width := by
    simp [List.length_flatMap]
  unfold Eff.readAns
  rw [hmir, if_neg (by decide), h]
  simp only [notAct, chosen, on, body]
  rw [if_neg (by simp), if_neg (by decide), if_neg (by omega), if_neg (by rw [fits]; omega)]

/-- What requesters have consumed is noted in the collector alone. -/
theorem Eff.consumes_st (e : Eff s0) (c : Bool) (l : List Nat) (r n : Nat) (t : State)
    (ht : t = (e.when c fun e => e.each l fun e i => e.consume r (n + i)).st) :
    t = { e.st with faults := { e.st.faults with consumed := t.faults.consumed } } := by
  subst ht
  cases c with
  | false => rfl
  | true =>
    exact Eff.foldl_rel (s0 := s0) (fun a b => b = { a with faults := { a.faults with consumed := b.faults.consumed } }) (fun _ => rfl)
      (fun a b c h1 h2 => by rw [h2, h1]) (fun e i => e.consume r (n + i)) (fun _ _ => rfl) l e

/-- READ of the point mirror. -/
theorem execDapRead_mirror (s : State) (q : Req) (obj : ObjNo) (flags : Byte) (count : BitVec 16) (n lvl sid : Nat)
    (hobj : obj.toNat = 0x80_0000 + n) (hpos : 1 ≤ count.toNat) (hmax : count.toNat ≤ 179) (hn : n + count.toNat ≤ 2097152)
    (hon : (Eff.start s).islandOff 3 = false) (h : s.Accepts q 1 (le 3 obj.toNat ++ [flags] ++ le 2 0 ++ le 2 count.toNat) lvl sid) :
    ∃ t, execDapRead q obj flags 0 count s = .next t ∧
      t.Replied q 1 (ansOk ([5, 0] ++ le 2 count.toNat ++ (List.range count.toNat).flatMap fun i => le 8 (s.pt (n + i)).toNat)) ∧
      t = { s with sess := t.sess, sent := t.sent, faults := { s.faults with consumed := t.faults.consumed } } := by
  have fixed : freeObject obj.toNat = false := freeObject_of_ge _ (by omega)
  obtain ⟨e', x, hst, hread⟩ := (Eff.start s).dapRead_go q obj.toNat flags 0 count.toNat lvl sid fixed h
  have on : e'.islandOff 3 = false := by
    obtain ⟨_, _, _⟩ := e'
    subst hst
    exact hon
  have points : e'.st.pts = s.pts := by rw [hst]; rfl
  have ans := e'.readAns_mirror n count.toNat (flags.getLsbD 0) hpos hmax hn on
  simp only [State.pt, points] at ans
  rw [hobj, ans] at hread
  refine ⟨_, congrArg (fun e : Act s => Host.Outcome.next e.st) (by rw [hobj]; exact hread), Eff.answer_replied .., ?_⟩
  rw [Eff.answer_st, Eff.consumes_st e' _ _ _ _ _ rfl, hst]
  rfl

/-- READ of an RW or RWS object. -/
theorem execDapRead_settable (s : State) (q : Req) (obj : ObjNo) (flags : Byte) (first count : BitVec 16) (r : ObjRow) (lvl sid : Nat)
    (hrow : objRow? obj.toNat = some r) (hacc : r.acc = .rw ∨ r.acc = .rws) (hmir : mirrored obj.toNat = false)
    (hkey : isKey obj.toNat = false) (hpos : 1 ≤ count.toNat) (hn : first.toNat + count.toNat ≤ r.n) (hmax : count.toNat ≤ 1444)
    (hfits : 10 + count.toNat * r.ty.width ≤ 1444)
    (hon : ∀ i < count.toNat, ∀ j, islandOf obj.toNat (first.toNat + i) = some j → (Eff.start s).islandOff j = false)
    (h : s.Accepts q 1 (le 3 obj.toNat ++ [flags] ++ le 2 first.toNat ++ le 2 count.toNat) lvl sid) :
    ∃ t, execDapRead q obj flags first count s = .next t ∧
      t.Replied q 1 (ansOk ([r.ty.code, 0] ++ le 2 count.toNat ++ (List.range count.toNat).flatMap fun i =>
        le r.ty.width (s.readValue obj.toNat (first.toNat + i) (flags.getLsbD 0)))) ∧
      t = { s with sess := t.sess, sent := t.sent } := by
  obtain ⟨e', x, hst, hread⟩ := (Eff.start s).dapRead_go q obj.toNat flags first.toNat count.toNat lvl sid
    (freeObject_of_settable _ r hrow hacc) h
  have on (i : Nat) (hi : i < count.toNat) (j : Nat) (hj : islandOf obj.toNat (first.toNat + i) = some j) : e'.islandOff j = false := by
    obtain ⟨_, _, _⟩ := e'
    subst hst
    exact hon i hi j hj
  have values : e'.st.readValue = s.readValue := by rw [hst]; rfl
  have ans := e'.readAns_settable r obj.toNat first.toNat count.toNat (flags.getLsbD 0) hrow hacc hmir hkey hpos hn hmax hfits on
  rw [values] at ans
  rw [hmir, Bool.false_and, Eff.when_false, ans] at hread
  refine ⟨_, congrArg (fun e : Act s => Host.Outcome.next e.st) hread, Eff.answer_replied .., ?_⟩
  rw [Eff.answer_st, hst]
  rfl

/-! ### WRITE -/

/-- What a WRITE that passes does. -/
theorem Eff.dapWrite_go (e : Eff s0) (q : Req) (obj : Nat) (flags : Byte) (first count : Nat) (vals : List Byte) (lvl sid : Nat)
    (h : e.st.Accepts q 2 (le 3 obj ++ [flags] ++ le 2 first ++ le 2 count ++ vals) lvl sid) :
    ∃ (e' : Eff s0) (x : SessSt), e'.st = { e.st with sess := x } ∧
      e.dapWrite q obj flags first count vals =
        (e'.writeAns lvl sid obj first count vals).1.answer q 2 (e'.writeAns lvl sid obj first count vals).2 := by
  obtain ⟨e', x, hgo, hst⟩ := e.vet_go q 2 _ lvl sid h
  refine ⟨e', x, hst, ?_⟩
  simp only [Eff.dapWrite, hgo]

/-- Staging a list of values. -/
theorem Eff.setStgs_st (e : Eff s0) (l : List (Nat × Nat)) :
    (e.each l fun e p => e.setStg p.1 (some p.2)).st = { e.st with stg := l.foldl (fun m p => smSet none m p.1 (some p.2)) e.st.stg } := by
  induction l generalizing e with
  | nil => rfl
  | cons a r ih => rw [Eff.each_cons, ih]; rfl

/-- Staging takes the lock, and what is staged anew has not left idle. -/
theorem Eff.stage_st (e : Eff s0) (d sess : Nat) (l : List (Nat × Nat)) :
    (e.stage d sess l).st = { e.st with
      stg := l.foldl (fun m p => smSet none m p.1 (some p.2)) e.st.stg
      doms := smMod Domain.reset e.st.doms d fun x => { x with owner := sess, left := x.left.filter fun k => !(l.map (·.1)).contains k } } := by
  have listed (k : Nat) : (l.any fun p => p.1 == k) = (l.map (·.1)).contains k := by
    rw [List.contains_eq_any_beq, List.any_map]
    exact congrArg l.any (funext fun p => BEq.comm)
  unfold Eff.stage Eff.modDom
  simp only [Eff.modDoms_st, Eff.setStgs_st, listed]

/-- A WRITE to an RW or RWS object that passes its checks stages its values. -/
theorem Eff.writeAns_stages (e : Eff s0) (level sess obj first count : Nat) (vals : List Byte) (r : ObjRow) (vs : List Nat)
    (hrow : objRow? obj = some r) (hacc : r.acc = .rw ∨ r.acc = .rws) (hmir : mirrored obj = false) (hrole : e.st.pair.role = .active)
    (hpos : 1 ≤ count) (hn : first + count ≤ r.n) (hright : obj / 65536 = 1 ∨ r.right ≤ level)
    (hvals : writtenValues r obj count vals = some vs) (hlock : (e.dom r.dom).owner = 0 ∨ (e.dom r.dom).owner = sess)
    (hidle : r.acc = .rws → ∀ i < vs.length, e.idleFor obj (first + i) = true) :
    e.writeAns level sess obj first count vals =
      (e.stage r.dom sess (vs.zipIdx.map fun p => (key obj (first + p.2), p.1)), ansOk) := by
  have notAct : r.acc ≠ .act := by rcases hacc with hacc | hacc <;> simp [hacc]
  have notRo : r.acc ≠ .ro := by rcases hacc with hacc | hacc <;> simp [hacc]
  have staged : (r.acc == .rw || r.acc == .rws) = true := by simpa using hacc
  have chosen : selects r.n first count = true := by simp [selects, hn, Nat.pos_of_ne_zero (by omega : count ≠ 0)]
  have entitled : ¬(obj / 65536 ≠ 1 ∧ level < r.right) := by omega
  have active : e.isActive = true := by simp [Eff.isActive, hrole]
  have unlocked : ¬((e.dom r.dom).owner ≠ 0 ∧ (e.dom r.dom).owner ≠ sess) := fun ⟨h0, hs⟩ => hlock.elim h0 hs
  have idle : ¬(r.acc = .rws ∧ (vs.zipIdx.map fun p => (first + p.2, p.1)).any fun p => !e.idleFor obj p.1) := by
    rintro ⟨hrws, hany⟩
    simp only [List.any_map, List.any_eq_true, Function.comp, Bool.not_eq_true'] at hany
    obtain ⟨p, hp, hbusy⟩ := hany
    obtain ⟨-, hlt, -⟩ := List.mem_zipIdx hp
    rw [hidle hrws p.2 (by simpa using hlt)] at hbusy
    exact absurd hbusy (by decide)
  unfold Eff.writeAns
  simp only [hmir, hrow, hvals, staged, active, chosen, notAct, notRo, entitled, unlocked, idle, Bool.false_eq_true, if_false, Bool.not_true,
    Bool.and_false, Bool.false_and, or_self, List.map_map]
  rfl

/-- WRITE to an RW or RWS object. -/
theorem execDapWrite_stages (s : State) (q : Req) (obj : ObjNo) (flags : Byte) (first count : BitVec 16) (vals : List Byte) (r : ObjRow)
    (vs : List Nat) (lvl sid : Nat) (hrow : objRow? obj.toNat = some r) (hacc : r.acc = .rw ∨ r.acc = .rws)
    (hmir : mirrored obj.toNat = false) (hrole : s.pair.role = .active) (hpos : 1 ≤ count.toNat)
    (hn : first.toNat + count.toNat ≤ r.n) (hright : obj.toNat / 65536 = 1 ∨ r.right ≤ lvl)
    (hvals : writtenValues r obj.toNat count.toNat vals = some vs)
    (hlock : (smGet Domain.reset s.doms r.dom).owner = 0 ∨ (smGet Domain.reset s.doms r.dom).owner = sid)
    (hidle : r.acc = .rws → ∀ i < vs.length, (Eff.start s).idleFor obj.toNat (first.toNat + i) = true)
    (h : s.Accepts q 2 (le 3 obj.toNat ++ [flags] ++ le 2 first.toNat ++ le 2 count.toNat ++ vals) lvl sid) :
    ∃ t, execDapWrite q obj flags first count vals s = .next t ∧ t.Replied q 2 ansOk ∧
      t.stg = vs.zipIdx.foldl (fun m p => smSet none m (key obj.toNat (first.toNat + p.2)) (some p.1)) s.stg ∧
      t.doms = smMod Domain.reset s.doms r.dom (fun x => { x with owner := sid, left := x.left.filter fun k =>
        !(vs.zipIdx.map fun p => key obj.toNat (first.toNat + p.2)).contains k }) ∧
      t = { s with sess := t.sess, sent := t.sent, stg := t.stg, doms := t.doms } := by
  obtain ⟨e', x, hst, hwrite⟩ := (Eff.start s).dapWrite_go q obj.toNat flags first.toNat count.toNat vals lvl sid h
  have idle (hrws : r.acc = .rws) (i : Nat) (hi : i < vs.length) : e'.idleFor obj.toNat (first.toNat + i) = true := by
    obtain ⟨_, _, _⟩ := e'
    subst hst
    exact hidle hrws i hi
  have role : e'.st.pair.role = .active := by rw [hst]; exact hrole
  have doms : e'.st.doms = s.doms := by rw [hst]; rfl
  have ans := e'.writeAns_stages lvl sid obj.toNat first.toNat count.toNat vals r vs hrow hacc hmir role hpos hn hright hvals
    (by rw [Eff.dom, doms]; exact hlock) idle
  rw [ans] at hwrite
  refine ⟨_, congrArg (fun e : Act s => Host.Outcome.next e.st) hwrite, Eff.answer_replied .., ?_⟩
  rw [Eff.answer_st, Eff.stage_st, hst]
  simp only [List.foldl_map, List.map_map]
  exact ⟨rfl, rfl, rfl⟩

/-! ### Reports that are only recorded -/

/-- Committed values depend on the committed set, and defaults on the strap. -/
theorem State.cv_congr {s t : State} (hcfg : t.cfg = s.cfg) (hstrap : t.pair.strapB = s.pair.strapB) : t.cv = s.cv := by
  funext obj elem
  simp only [State.cv, hcfg, hstrap]

/-- So does the class of a kind. -/
theorem State.Quiet.congr {s t : State} {kind addr : Nat} (h : s.Quiet kind addr) (hcfg : t.cfg = s.cfg)
    (hstrap : t.pair.strapB = s.pair.strapB) : t.Quiet kind addr := by
  simpa only [State.Quiet, Eff.classOf, Eff.cv, Eff.start_st, State.cv_congr hcfg hstrap] using h

/-! ### W1C writes -/

/-- The objects with sticky bits (R100, R167, R242, R384, R408, R448, R483). -/
def stickyObjects : List Nat := [oTrouble, oPairTrouble, oLaneTrouble, oLegTrouble, oConvTrouble, oGateTrouble, oEvPending]

/-- They are W1C, of 32 bits. -/
theorem stickyObjects_row (obj : Nat) (h : obj ∈ stickyObjects) (r : ObjRow) (hrow : objRow? obj = some r) :
    r.acc = .w1c ∧ r.ty = .u32 := by
  have rows : ∀ o ∈ stickyObjects, (objRow? o).all fun r => r.acc == .w1c && r.ty == .u32 := by decide
  simpa [hrow] using rows obj h

/-- A W1C write of one element that passes its checks clears the bits written 1. -/
theorem Eff.writeAns_clears (e : Eff s0) (level sess obj first : Nat) (vals : List Byte) (r : ObjRow) (hobj : obj ∈ stickyObjects)
    (hrow : objRow? obj = some r) (hfirst : first < r.n) (hlen : vals.length = 4) (hright : r.right ≤ level) :
    e.writeAns level sess obj first 1 vals = (e.clearAll obj sess [(first, maskedValue r (fieldLe vals 0 4))], ansOk) := by
  obtain ⟨hacc, hty⟩ := stickyObjects_row obj hobj r hrow
  obtain ⟨hmir, hkey⟩ := (by decide : ∀ o ∈ stickyObjects, mirrored o = false ∧ isKey o = false) obj hobj
  have chosen : selects r.n first 1 = true := by simp [selects]; omega
  have written : writtenValues r obj 1 vals = some [maskedValue r (fieldLe vals 0 4)] := by
    simp [writtenValues, hkey, hty, hlen, Ty.width]
  unfold Eff.writeAns
  simp [hmir, hrow, hacc, chosen, written, Nat.not_lt.mpr hright]

/-- A clear is reported in the collector, where its report is only recorded; that of events is not reported. -/
theorem Eff.clearAll_st (e : Eff s0) (obj sess elem v : Nat) (hq : (e.clearSticky obj elem v).st.Quiet kTroubleClear sess) :
    (e.clearAll obj sess [(elem, v)]).st = { (e.clearSticky obj elem v).st with faults := (e.clearAll obj sess [(elem, v)]).st.faults } ∧
      (obj = oEvPending → (e.clearAll obj sess [(elem, v)]).st = (e.clearSticky obj elem v).st) := by
  unfold Eff.clearAll
  rw [Eff.each_cons, Eff.each_nil]
  constructor
  · cases obj != oEvPending && [(elem, v)].any (·.2 != 0) with
    | true => rw [Eff.when_true, Eff.fault_quiet _ _ _ _ hq]
    | false => rfl
  · rintro rfl
    rfl

/-- A round over legs of the hub changes the hub alone. -/
theorem Eff.whenLegs_st (e : Eff s0) (c : Bool) (l : List Nat) (f : HubLeg → HubLeg) (t : State)
    (ht : t = (e.when c fun e => e.each l fun e u => e.modHleg u f).st) : t = { e.st with hub := t.hub } := by
  subst ht
  cases c with
  | false => rfl
  | true =>
    exact Eff.foldl_rel (s0 := s0) (fun a b => b = { a with hub := b.hub }) (fun _ => rfl) (fun a b c h1 h2 => by rw [h2, h1])
      (fun e u => e.modHleg u f) (fun _ _ => rfl) l e

/-- A round over converters changes the converters alone. -/
theorem Eff.whenConvs_st (e : Eff s0) (c : Bool) (l : List Nat) (f : Nat → ConvSt → ConvSt) (t : State)
    (ht : t = (e.when c fun e => e.each l fun e i => e.modConv (f i)).st) : t = { e.st with conv := t.conv } := by
  subst ht
  cases c with
  | false => rfl
  | true =>
    exact Eff.foldl_rel (s0 := s0) (fun a b => b = { a with conv := b.conv }) (fun _ => rfl) (fun a b c h1 h2 => by rw [h2, h1])
      (fun e i => e.modConv (f i)) (fun _ _ => rfl) l e

/-- The bits of the trouble record, with the CLIP bits of the legs and the OVERRUN bits of the converters (R99). -/
theorem Eff.clearSticky_trouble (e : Eff s0) (elem v : Nat) (t : State) (ht : t = (e.clearSticky oTrouble elem v).st) :
    t = { e.st with trouble := e.st.trouble - (e.st.trouble &&& v), hub := t.hub, conv := t.conv } := by
  have convs := Eff.whenConvs_st _ _ _ _ t ht
  rw [Eff.whenLegs_st _ _ _ _ _ rfl] at convs
  rw [convs]
  rfl

/-- Changing a lane changes the lanes, and with an event the collector. -/
theorem Eff.modLane_faults (e : Eff s0) (n : Nat) (f : Lane → Lane) (t : State) (ht : t = (e.modLane n f).st) :
    t = { e.st with lanes := smMod Lane.reset e.st.lanes n f, faults := t.faults } := by
  have events (e : Eff s0) (c : Bool) (ev : Nat) : (e.when c (·.event ev)).st = { e.st with faults := (e.when c (·.event ev)).st.faults } := by
    cases c <;> rfl
  subst ht
  exact events (e.modLanes (smMod Lane.reset · n f)) _ _

/-- What a W1C write of one element that passes does: its bits are cleared, and the answer goes out. -/
theorem Eff.dapWrite_clears (s : State) (q : Req) (obj first : Nat) (vals : List Byte) (r : ObjRow) (lvl sid : Nat)
    (hobj : obj ∈ stickyObjects) (hrow : objRow? obj = some r) (hfirst : first < r.n) (hlen : vals.length = 4) (hright : r.right ≤ lvl)
    (h : s.Accepts q 2 (le 3 obj ++ [0] ++ le 2 first ++ le 2 1 ++ vals) lvl sid) :
    ∃ (e' : Act s) (x : SessSt), e'.st = { s with sess := x } ∧
      (Eff.start s).dapWrite q obj 0 first 1 vals =
        (e'.clearAll obj sid [(first, maskedValue r (fieldLe vals 0 4))]).answer q 2 ansOk := by
  obtain ⟨e', x, hst, hwrite⟩ := (Eff.start s).dapWrite_go q obj 0 first 1 vals lvl sid h
  rw [e'.writeAns_clears lvl sid obj first vals r hobj hrow hfirst hlen hright] at hwrite
  exact ⟨e', x, hst, hwrite⟩

/-- The bits of a lane. Where the lane's entry goes with its last bit, an older one may come to light, with an event. -/
theorem Eff.clearSticky_lane (e : Eff s0) (elem v : Nat) (t : State) (ht : t = (e.clearSticky oLaneTrouble elem v).st) :
    t = { e.st with
      lanes := smMod Lane.reset e.st.lanes elem fun l => { l with trouble := l.trouble - (l.trouble &&& v) }, faults := t.faults } :=
  e.modLane_faults elem _ t ht

/-- No clear changes the committed set or the strap. -/
theorem Eff.clearSticky_keeps (e : Eff s0) (obj elem v : Nat) :
    (e.clearSticky obj elem v).st.cfg = e.st.cfg ∧ (e.clearSticky obj elem v).st.pair.strapB = e.st.pair.strapB := by
  by_cases htrouble : obj = oTrouble
  · subst htrouble
    rw [e.clearSticky_trouble elem v _ rfl]
    exact ⟨rfl, rfl⟩
  by_cases hlane : obj = oLaneTrouble
  · subst hlane
    rw [e.clearSticky_lane elem v _ rfl]
    exact ⟨rfl, rfl⟩
  · unfold Eff.clearSticky
    rw [if_neg htrouble, if_neg hlane]
    split_ifs
    all_goals exact ⟨rfl, rfl⟩

/-- What an answered clear leaves, where its report is only recorded: that of events is not reported at all. -/
theorem State.Quiet.cleared {s : State} {sid : Nat} (hq : s.Quiet kTroubleClear sid) (e : Act s) (x : SessSt)
    (he : e.st = { s with sess := x }) (q : Req) (obj elem v : Nat) (u t : State) (hu : u = (e.clearSticky obj elem v).st)
    (ht : t = ((e.clearAll obj sid [(elem, v)]).answer q 2 ansOk).st) :
    t = { u with sess := t.sess, sent := t.sent, faults := t.faults } ∧ (obj = oEvPending → t.faults = u.faults) := by
  subst hu ht
  obtain ⟨hcfg, hstrap⟩ := e.clearSticky_keeps obj elem v
  obtain ⟨hst, hev⟩ := e.clearAll_st obj sid elem v (hq.congr (by rw [hcfg, he]) (by rw [hstrap, he]))
  rw [Eff.answer_st]
  constructor
  · rw [hst]
  · intro hobj
    rw [hev hobj]

/-- W1C write to the trouble record. -/
theorem execTroubleW1c_clears (s : State) (q : Req) (vals : List Byte) (lvl sid : Nat) (hlen : vals.length = 4) (hright : 2 ≤ lvl)
    (hq : s.Quiet kTroubleClear sid) (h : s.Accepts q 2 (le 3 oTrouble ++ [0] ++ le 2 0 ++ le 2 1 ++ vals) lvl sid) :
    ∃ t, execTroubleW1c q vals s = .next t ∧ t.Replied q 2 ansOk ∧
      t.trouble = s.trouble - (s.trouble &&& (fieldLe vals 0 4 &&& 0x1FFF)) ∧
      t = { s with sess := t.sess, sent := t.sent, trouble := t.trouble, hub := t.hub, conv := t.conv, faults := t.faults } := by
  obtain ⟨e', x, hst, hwrite⟩ := Eff.dapWrite_clears s q oTrouble 0 vals _ lvl sid (by decide) rfl (by decide) hlen hright h
  refine ⟨((e'.clearAll oTrouble sid [(0, fieldLe vals 0 4 &&& 0x1FFF)]).answer q 2 ansOk).st,
    congrArg (fun e : Act s => Host.Outcome.next e.st) hwrite, Eff.answer_replied .., ?_⟩
  obtain ⟨ht, -⟩ := hq.cleared e' x hst q oTrouble 0 (fieldLe vals 0 4 &&& 0x1FFF) _ _ rfl rfl
  rw [e'.clearSticky_trouble 0 _ _ rfl, hst] at ht
  rw [ht]
  exact ⟨rfl, rfl⟩

/-- What a W1C write to the sticky bits of a block leaves, by its object (R169, R244, R388, R410, R446, R485). -/
def State.Cleared (s : State) (obj first v : Nat) (t : State) : Prop :=
  (obj = oPairTrouble → t.pair = { s.pair with trouble := s.pair.trouble - (s.pair.trouble &&& v) } ∧
    t = { s with sess := t.sess, sent := t.sent, faults := t.faults, pair := t.pair }) ∧
  (obj = oLaneTrouble → t.lanes = smMod Lane.reset s.lanes first (fun l => { l with trouble := l.trouble - (l.trouble &&& v) }) ∧
    t = { s with sess := t.sess, sent := t.sent, faults := t.faults, lanes := t.lanes }) ∧
  (obj = oLegTrouble → t.hub = { s.hub with legs := smMod HubLeg.reset s.hub.legs first fun l =>
      { l with trouble := l.trouble - (l.trouble &&& v) } } ∧
    t = { s with sess := t.sess, sent := t.sent, faults := t.faults, hub := t.hub }) ∧
  (obj = oConvTrouble → t.conv = { s.conv with trouble := smMod 0 s.conv.trouble first fun x => x - (x &&& v) } ∧
    t = { s with sess := t.sess, sent := t.sent, faults := t.faults, conv := t.conv }) ∧
  (obj = oGateTrouble → t.gate = { s.gate with legs := smMod Leg.reset s.gate.legs first fun l =>
      { l with trouble := l.trouble - (l.trouble &&& v) } } ∧
    t = { s with sess := t.sess, sent := t.sent, faults := t.faults, gate := t.gate }) ∧
  (obj = oEvPending → t.faults = { s.faults with evPend := s.faults.evPend - (s.faults.evPend &&& (v * 2 ^ (32 * first))) } ∧
    t = { s with sess := t.sess, sent := t.sent, faults := t.faults })

theorem State.Quiet.cleared_sticky {s : State} {sid : Nat} (hq : s.Quiet kTroubleClear sid) (e : Act s) (x : SessSt)
    (he : e.st = { s with sess := x }) (q : Req) (obj first v : Nat) (t : State)
    (ht : t = ((e.clearAll obj sid [(first, v)]).answer q 2 ansOk).st) : s.Cleared obj first v t := by
  obtain ⟨hst, hev⟩ := hq.cleared e x he q obj first v _ t rfl ht
  clear ht
  obtain ⟨_, _, _⟩ := e
  subst he
  refine ⟨?_, ?_, ?_, ?_, ?_, ?_⟩
  · rintro rfl
    rw [hst]
    exact ⟨rfl, rfl⟩
  · rintro rfl
    rw [Eff.clearSticky_lane _ first v _ rfl] at hst
    rw [hst]
    exact ⟨rfl, rfl⟩
  · rintro rfl
    rw [hst]
    exact ⟨rfl, rfl⟩
  · rintro rfl
    rw [hst]
    exact ⟨rfl, rfl⟩
  · rintro rfl
    rw [hst]
    exact ⟨rfl, rfl⟩
  · rintro rfl
    rw [hst, hev rfl]
    exact ⟨rfl, rfl⟩

/-- W1C write to the sticky bits of a block. -/
theorem execStickyClear_clears (s : State) (q : Req) (obj : ObjNo) (first : BitVec 16) (vals : List Byte) (r : ObjRow) (lvl sid : Nat)
    (hobj : obj.toNat ∈ stickyObjects) (hrow : objRow? obj.toNat = some r) (hfirst : first.toNat < r.n) (hlen : vals.length = 4)
    (hright : r.right ≤ lvl) (hq : s.Quiet kTroubleClear sid)
    (h : s.Accepts q 2 (le 3 obj.toNat ++ [0] ++ le 2 first.toNat ++ le 2 1 ++ vals) lvl sid) :
    ∃ t, execStickyClear q obj first 1 vals s = .next t ∧ t.Replied q 2 ansOk ∧
      s.Cleared obj.toNat first.toNat (maskedValue r (fieldLe vals 0 4)) t := by
  obtain ⟨e', x, hst, hwrite⟩ := Eff.dapWrite_clears s q obj.toNat first.toNat vals r lvl sid hobj hrow hfirst hlen hright h
  exact ⟨_, congrArg (fun e : Act s => Host.Outcome.next e.st) hwrite, Eff.answer_replied ..,
    hq.cleared_sticky e' x hst q obj.toNat first.toNat _ _ rfl⟩

/-- Settles O17: each request is admitted, and what it answers is what the checks of its object let through. -/
theorem dictionaryRequestsComplete : Obligations.DictionaryRequestsComplete := by
  refine ⟨execDapRead_mirror, execDapRead_settable, execDapWrite_stages, execTroubleW1c_clears, ?_⟩
  rintro s q obj first vals r v lvl sid hobj hrow hfirst hlen rfl hright hq h
  exact execStickyClear_clears s q obj first vals r lvl sid (List.mem_cons_of_mem _ hobj) hrow hfirst hlen hright hq h

end Sys2Proof.Machine
end

