-- ==== Sys2Proof/Proofs/StartUp.lean ====
section
/-! SUPPORT. Start-up steps 1 to 5 (R103, R107 to R110, R566, R567, R576). -/

namespace Sys2Proof.Machine

variable {s0 : Root}

/-- Start-up stands after step n and goes on: the device is in BOOT, and no step has failed. -/
def State.BootAt (s : State) (n : Nat) : Prop := s.dev.state = .boot ∧ s.dev.bootStage = n ∧ s.dev.bootFail = false

theorem State.BootAt.check {s : State} {n : Nat} (h : s.BootAt n) : (Eff.start s).bootAt n = true := by
  obtain ⟨hstate, hstage, hfail⟩ := h
  simp [Eff.bootAt, hstate, hstage, hfail]

/-! ### Step 1 -/

/-- A device in OFF enters BOOT: it has no role, and its outputs are dead. -/
theorem Eff.enterBoot_st (e : Eff s0) (h : e.st.dev.state = .off) :
    e.enterBoot.st = { e.st with
      dev := { e.st.dev with state := .boot, cause := 0, releasedAt := e.st.time.up }
      pair := { e.st.pair with role := .unset, claim := false }, gate := { e.st.gate with hiZ := true }
      aux := deadAux e.st.aux, faults := e.enterBoot.st.faults } := by
  have boot : e.setState .boot 0 = (e.putState .boot 0).event 8 := by
    unfold Eff.setState
    rw [show e.dev.state = .off from h]
    rfl
  unfold Eff.enterBoot
  rw [boot]
  rfl

/-- RESET_N rises in OFF: the pin is noted, and with the supplies in range step 1 begins. -/
theorem execResetNRise_off (s : State) (hstate : s.dev.state = .off) (hpin : s.clk.resetN = false) (ok : Bool) :
    execResetNRise ok s = .next ((((Eff.start s).modClk fun c => { c with resetN := true }).modDev fun v =>
      { v with releasedAt := s.time.up }).when ok fun e => (e.modClk fun c => { c with notOk := [] }).enterBoot).st :=
  if_neg (by simp [hstate, hpin])

/-- SUPPLIES_IN_RANGE ends step 1 from 10 ms after the rise of RESET_N. -/
theorem execSuppliesInRange_due (s : State) (h : s.BootAt 0) (hpin : s.clk.resetN = true)
    (hdue : s.dev.releasedAt + 10000000 ≤ s.time.up) :
    execSuppliesInRange s = .next { s with
      dev := { s.dev with bootStage := 1 }, clk := { s.clk with notOk := [], stepAt := s.time.up } } := by
  obtain ⟨hstate, hstage, hfail⟩ := h
  simp [execSuppliesInRange, Eff.bootAt, Eff.bootDone, hstate, hstage, hfail, hpin, hdue]

/-! ### Step 2 -/

/-- The CLKOUT pins change in the clock unit alone. -/
theorem Eff.clkoutFollow_st (e : Eff s0) :
    e.clkoutFollow.st = { e.st with clk := { e.st.clk with clkouts := e.clkoutFollow.st.clk.clkouts } } := by
  unfold Eff.clkoutFollow Eff.each
  refine Eff.foldl_rel (s0 := s0) (fun a b => b = { a with clk := { a.clk with clkouts := b.clk.clkouts } }) (fun _ => rfl)
    (fun a b c h1 h2 => by rw [h2, h1]) _ (fun e i => ?_) (List.range 4) e
  extract_lets
  split
  · rfl
  · rfl

/-- Turns that change nothing. -/
theorem Eff.each_same {α : Type} (e : Eff s0) (l : List α) (f : Eff s0 → α → Eff s0) (h : ∀ x ∈ l, f e x = e) : e.each l f = e := by
  induction l with
  | nil => rfl
  | cons a r ih =>
    obtain ⟨ha, hr⟩ := List.forall_mem_cons.mp h
    rw [Eff.each_cons, ha]
    exact ih hr

/-- Pins at rest stay so while the hub outputs are high-impedance. -/
theorem Eff.clkoutFollow_rest (e : Eff s0) (hz : e.st.gate.hiZ = true) (h : ∀ i < 4, smGet ClkPin.reset e.st.clk.clkouts i = ClkPin.reset) :
    e.clkoutFollow = e := by
  refine e.each_same _ _ fun i hi => ?_
  have code : (smGet ClkPin.reset e.st.clk.clkouts i).code = 0 := by rw [h i (List.mem_range.mp hi)]; rfl
  extract_lets p want
  exact if_pos (by simp [want, p, hz, code])

/-- Lock is declared (R567): the PLL is locked, it is no longer in holdover, and its condition is over. -/
def Eff.lockPll (e : Eff s0) (x : Nat) : Eff s0 :=
  ((e.modDev fun v => { v with pllLocked := x :: v.pllLocked }).modClk fun c => { c with
    riseFail := c.riseFail.filter (· != x), holdover := c.holdover.filter (· != x) }).setCond kPllUnlock x false

/-- PLL_LOCK in step 2, with its reference and in time: the PLL is locked, and the third ends the step. -/
theorem execPllLock_inStep (s : State) (pll : Fin 3) (us : Nat) (h : s.BootAt 1) (hnew : pll.val ∉ s.dev.pllLocked)
    (href : (if pll.val = 1 then s.clk.refLaneLost else s.clk.refSysLost) = false) (hlo : 1200 ≤ us) (hhi : us ≤ 5000)
    (htime : s.time.up ≤ s.clk.stepAt + 20000000) :
    execPllLock pll us s = .next ((((Eff.start s).lockPll pll.val).clkoutFollow).when
      ((List.range 3).all (pll.val :: s.dev.pllLocked).contains) (·.bootDone 2)).st := by
  have ref : (Eff.start s).refOk pll.val = true := by
    unfold Eff.refOk
    split at href <;> simp [*]
  unfold execPllLock
  extract_lets e x inStep running e1 e2 e3
  have step : inStep = true := h.check
  have inTime : ¬(inStep && decide (s.clk.stepAt + 20000000 < s.time.up)) = true := by simp [htime]
  rw [if_neg (by simp [e, x, ref, step, hnew]), if_neg (by simp [hlo, hhi])]
  refine (if_neg inTime).trans ?_
  rw [step, Bool.true_and]
  rfl

/-- A PLL that locks in step 2 changes what says so, and the CLKOUT pins. -/
theorem Eff.lockPll_inStep (s : State) (x : Nat) (h : s.BootAt 1) (t : State) (ht : t = ((((Eff.start s).lockPll x).clkoutFollow).when
      ((List.range 3).all (x :: s.dev.pllLocked).contains) (·.bootDone 2)).st) :
    t = { s with
      dev := { s.dev with
        pllLocked := x :: s.dev.pllLocked, conds := s.dev.conds.filter (· != (kPllUnlock, x))
        bootStage := if (List.range 3).all (fun y => (x :: s.dev.pllLocked).contains y) = true then 2 else 1 }
      clk := { s.clk with
        riseFail := s.clk.riseFail.filter (· != x), holdover := s.clk.holdover.filter (· != x), clkouts := t.clk.clkouts } } ∧
    (s.gate.hiZ = true → (∀ i < 4, smGet ClkPin.reset s.clk.clkouts i = ClkPin.reset) → t.clk.clkouts = s.clk.clkouts) := by
  obtain ⟨-, hstage, -⟩ := h
  have follow := ((Eff.start s).lockPll x).clkoutFollow_st
  have rest := ((Eff.start s).lockPll x).clkoutFollow_rest
  subst ht
  cases (List.range 3).all (x :: s.dev.pllLocked).contains with
  | true =>
    rw [Eff.when_true, Eff.bootDone, Eff.modDev_st, follow]
    exact ⟨rfl, fun hz pins => congrArg (fun e : Act s => e.st.clk.clkouts) (rest hz pins)⟩
  | false =>
    rw [Eff.when_false]
    refine ⟨?_, fun hz pins => congrArg (fun e : Act s => e.st.clk.clkouts) (rest hz pins)⟩
    rw [if_neg (by decide), ← hstage]
    exact follow

/-- PLL_LOCK_FAIL ends step 2 where a PLL has not locked within 20 ms. -/
theorem execPllLockFail_due (s : State) (h : s.BootAt 1) (hdue : s.clk.stepAt + 20000000 ≤ s.time.up)
    (hmissing : ∃ x < 3, x ∉ s.dev.pllLocked) :
    execPllLockFail s = .next { s with
      dev := { s.dev with bootFail := true }
      clk := { s.clk with pllFail := (List.range 3).filter fun x => !s.dev.pllLocked.contains x } } := by
  obtain ⟨x, hx, hnot⟩ := hmissing
  unfold execPllLockFail
  extract_lets e missing due
  have some : x ∈ missing := List.mem_filter.mpr ⟨List.mem_range.mpr hx, by simpa [e] using hnot⟩
  have isDue : due = true := by
    simp only [due, h.check, e, Bool.true_and, Bool.and_eq_true, Bool.not_eq_true', List.isEmpty_eq_false_iff]
    exact ⟨List.ne_nil_of_mem some, decide_eq_true hdue⟩
  rw [isDue, Eff.when_true]
  rfl

/-! ### Steps 3 and 4 -/

/-- The memory test ends step 3, or fails it. -/
theorem execSramSelfTestDone_inStep (s : State) (h : s.BootAt 2) (ue : Bool) (n : Nat) :
    execSramSelfTestDone ue n s = .next (if ue = true ∨ 64 < n then
      { s with dev := { s.dev with bootFail := true }, clk := { s.clk with sramFail := true } }
      else { s with dev := { s.dev with bootStage := 3 } }) := by
  unfold execSramSelfTestDone
  extract_lets e
  rw [if_neg (by simp [e, h.check])]
  by_cases bad : ue = true ∨ 64 < n
  · rw [if_pos bad, if_pos (by simpa using bad)]
    rfl
  · rw [if_neg bad, if_neg (by simpa using bad)]
    rfl

/-- The copy of the firmware whose turn it is (R109): the one of higher version, or the other once that one has been tried. -/
theorem fwOrder_turn (v0 v1 c : Nat) (tried : List Nat) (hc : c < 2) (hnew : c ∉ tried)
    (hturn : 1 - c ∈ tried ∨ if c = 0 then v1 ≤ v0 else v0 < v1) :
    ((fwOrder v0 v1).find? fun c => !tried.contains c) = some c := by
  unfold fwOrder
  obtain rfl | rfl : c = 0 ∨ c = 1 := by omega
  · rcases hturn with other | higher
    · split <;> simp_all
    · rw [if_neg (Nat.not_lt.mpr higher)]
      simp [hnew]
  · rcases hturn with other | higher
    · split <;> simp_all
    · rw [if_pos (by simpa using higher)]
      simp [hnew]

/-- What FIRMWARE_VERIFY_DONE makes of step 4, for the copy whose turn it is. -/
theorem execFirmwareVerifyDone_inStep (s : State) (f : FlashRead) (c count : Nat) (h : s.BootAt 3)
    (hcount : count = if f.density0 ≠ 0 ∧ f.density1 = f.density0 then 2 else 1) (hc : c < 2) (hnew : c ∉ s.dev.fwTried)
    (hturn : 1 - c ∈ s.dev.fwTried ∨ if c = 0 then f.version1 ≤ f.version0 else f.version0 < f.version1) :
    (∀ digest : BitVec 384, execFirmwareVerifyDone f (some digest) s = .next { s with
      dev := { s.dev with
        bootStage := 4, fwVer := if c = 0 then f.version0.toNat else f.version1.toNat, fwDigest := digest.toNat }
      persist := { s.persist with count := count, small := decide (count * f.density0 < 64) } }) ∧
    execFirmwareVerifyDone f none s = .next { s with
      dev := { s.dev with fwTried := c :: s.dev.fwTried, bootFail := decide (1 ≤ s.dev.fwTried.length) }
      clk := { s.clk with fwBad := c :: s.clk.fwBad }
      persist := { s.persist with count := count, small := decide (count * f.density0 < 64) } } := by
  have turn : ((fwOrder f.version0.toNat f.version1.toNat).find? fun c => !s.dev.fwTried.contains c) = some c :=
    fwOrder_turn _ _ c _ hc hnew hturn
  subst hcount
  constructor
  · intro digest
    refine (if_neg (by simp [h.check])).trans ?_
    simp only [Eff.countFlash, Eff.modPersist_st, Eff.dev, Eff.start_st, turn]
    rfl
  · refine (if_neg (by simp [h.check])).trans ?_
    simp only [Eff.countFlash, Eff.modPersist_st, Eff.dev, Eff.start_st, turn]
    obtain ⟨-, -, hfail⟩ := h
    by_cases both : 1 ≤ s.dev.fwTried.length
    · simp [both, Eff.bootFails]
    · simp [both, hfail]

/-! ### Step 5 -/

/-- Step 5 ends with the local clock as the calendar clock gives it, whatever was restored before. -/
theorem Eff.timeFromCalendar_ends (e : Eff s0) (t : State) (h : t = (e.timeFromCalendar.modDev fun v => { v with bootStage := 5 }).st) :
    t.dev.bootStage = 5 ∧ t.time.valid = t.time.calValid ∧
      t.time.clock = if t.time.calValid = true then
        ((Eff.start t).calNow : Int) * (1000000000 * nsq) / 32768 + signed 16 (t.cv oUtcOffset 0) * (1000000000 * nsq) else 0 := by
  subst h
  exact ⟨rfl, rfl, rfl⟩

/-- DICTIONARY_RESTORE of readable flash ends step 5, and the local clock starts from the calendar clock (R491). -/
theorem execDictionaryRestore_inStep (s : State) (h : s.BootAt 4) :
    ∃ t, execDictionaryRestore true s = .next t ∧ t.dev.bootStage = 5 ∧ t.time.valid = t.time.calValid ∧
      t.time.clock = if t.time.calValid = true then
        ((Eff.start t).calNow : Int) * (1000000000 * nsq) / 32768 + signed 16 (t.cv oUtcOffset 0) * (1000000000 * nsq) else 0 := by
  obtain ⟨hstate, hstage, hfail⟩ := h
  unfold execDictionaryRestore
  extract_lets e e1 e2
  rw [if_neg (by simp [e, hstate, hstage, hfail]), if_neg (by decide)]
  exact ⟨_, rfl, e2.timeFromCalendar_ends _ rfl⟩

/-- Settles O21: each step goes forward or fails by the check of its command. -/
theorem startUpStepsComplete : Obligations.StartUpStepsComplete := by
  refine ⟨?_, ?_, ?_, ?_, ?_, ?_, ?_, ?_⟩
  · intro s hstate hpin
    refine ⟨⟨_, execResetNRise_off s hstate hpin true, ?_⟩, execResetNRise_off s hstate hpin false⟩
    rw [Eff.when_true, Eff.enterBoot_st _ hstate]
    exact ⟨rfl, rfl, rfl, rfl, rfl⟩
  · intro s hstate hstage hfail hpin hdue
    exact execSuppliesInRange_due s ⟨hstate, hstage, hfail⟩ hpin hdue
  · intro s pll us hstate hstage hfail hnew href hlo hhi htime
    exact ⟨_, execPllLock_inStep s pll us ⟨hstate, hstage, hfail⟩ hnew href hlo hhi htime,
      Eff.lockPll_inStep s pll.val ⟨hstate, hstage, hfail⟩ _ rfl⟩
  · intro s hstate hstage hfail hdue hmissing
    exact execPllLockFail_due s ⟨hstate, hstage, hfail⟩ hdue hmissing
  · intro s ue n hstate hstage hfail
    exact execSramSelfTestDone_inStep s ⟨hstate, hstage, hfail⟩ ue n
  · intro s f digest c count hstate hstage hfail hcount hc hnew hturn
    obtain ⟨verified, bad⟩ := execFirmwareVerifyDone_inStep s f c count ⟨hstate, hstage, hfail⟩ hcount hc hnew hturn
    exact ⟨verified digest, bad⟩
  · intro s hstate hstage hfail
    refine ⟨?_, execDictionaryRestore_inStep s ⟨hstate, hstage, hfail⟩⟩
    exact (if_neg (by simp [hstate, hstage, hfail])).trans (if_pos rfl)
  · intro s h7 h4
    have on : (!s.clk.notOk.contains 7 && !s.clk.notOk.contains 4) = true := by simp [h7, h4]
    exact congrArg (fun b => Host.Outcome.next ((Eff.start s).when b fun e => e.emit (.bootstat (BitVec.ofNat 32 e.bootstat))).st) on

end Sys2Proof.Machine
end

