-- ==== Sys2Proof/Proofs/Commits.lean ====
section
/-! SUPPORT. COMMIT, ABANDON and what becomes of a waiting set (R72 to R79, R85). -/

namespace Sys2Proof.Machine

variable {s0 : Root}

/-! ### Acknowledgement -/

/-- The domains whose sets become active at the next frame start, whatever their values (R72). -/
def nextFrameDomains : List Nat := [dLink, dSched, dLoop, dCasc, dAssay, dGate, dFault, dTime, dPair]

/-- None of them has a boundary or an activation of its own kind. -/
theorem nextFrameDomains_ne : ∀ d ∈ nextFrameDomains,
    d < 15 ∧ d ≠ dDevice ∧ d ≠ dHub ∧ d ≠ dDisp ∧ d ≠ dAcq ∧ d ≠ dConv ∧ d ≠ dStore := by decide

/-- Their ACT_AT is the frame asked for. -/
theorem Eff.actPoint_nextFrame (e : Eff s0) (d : Nat) (hd : d ∈ nextFrameDomains) (l : List (Nat × Nat)) (t : Int) (k : Nat) :
    e.actPoint d l t k = k := by
  obtain ⟨-, hdevice, hhub, hdisp, hacq, hconv, hstore⟩ := nextFrameDomains_ne d hd
  unfold Eff.actPoint
  rw [if_neg hdevice, if_neg hhub, if_neg hdisp, if_neg hacq, if_neg hconv, if_neg hstore]

/-- A domain given a waiting set reads as given. -/
theorem Eff.dom_setPend (e : Eff s0) (d : Nat) (p : PendCommit) :
    (e.modDom d fun x => { x with pend := some p }).dom d = { e.dom d with pend := some p } :=
  smGet_smMod_self Domain.reset e.st.doms d (fun x => { x with pend := some p }) fun h =>
    Option.some_ne_none p (congrArg Domain.pend h)

/-- What is left of a waiting set once it is acknowledged: it waits for its boundary alone. -/
def PendCommit.acked (p : PendCommit) : PendCommit := { p with waitPeer := false, answer := .nobody }

/-- The acknowledgement of a waiting set answers the request with the result block. -/
theorem Eff.ackCommit_nextFrame (e : Eff s0) (d : Nat) (p : PendCommit) (q : Req) (hd : d ∈ nextFrameDomains)
    (hp : (e.dom d).pend = some p) (hq : p.answer = .req q) :
    e.ackCommit d = (e.modDom d fun x => { x with pend := some p.acked }).answer q 3
      (commitAns 0 0 d 0xFF_FFFF 0 p.actAt ((e.dom d).seq + 1)) := by
  obtain ⟨-, hdevice, hhub, -, -, hconv, -⟩ := nextFrameDomains_ne d hd
  have noSwitch : (d == dConv) = false := by simpa using hconv
  have notNow (e : Eff s0) : (d == dDevice || (d == dHub && !e.hub.running)) = false := by simp [hdevice, hhub]
  unfold Eff.ackCommit
  simp only [hp, hq, Eff.finish, noSwitch, notNow, Eff.when_false]
  rw [← PendCommit.acked, Eff.dom_setPend]

/-- What an acknowledgement to request `q` of the set `p` of domain `d`, which waits in state `s`, leaves. -/
def State.Acked (s : State) (d : Nat) (p : PendCommit) (q : Req) (t : State) : Prop :=
  (smGet Domain.reset t.doms d).pend = some p.acked ∧
    t.Replied q 3 (commitAns 0 0 d 0xFF_FFFF 0 p.actAt ((smGet Domain.reset t.doms d).seq + 1)) ∧
    t = { s with sess := t.sess, sent := t.sent, doms := t.doms }

theorem Eff.ackCommit_acked (e : Eff s0) (d : Nat) (p : PendCommit) (q : Req) (hd : d ∈ nextFrameDomains)
    (hp : (e.dom d).pend = some p) (hq : p.answer = .req q) : e.st.Acked d p q (e.ackCommit d).st := by
  have waits := e.dom_setPend d p.acked
  have kept : (e.ackCommit d).st.doms = (e.modDom d fun x => { x with pend := some p.acked }).st.doms := by
    rw [e.ackCommit_nextFrame d p q hd hp hq, Eff.answer_st]
  have read : smGet Domain.reset (e.ackCommit d).st.doms d = { e.dom d with pend := some p.acked } := by rw [kept]; exact waits
  refine ⟨by rw [read], ?_, ?_⟩
  · rw [read, e.ackCommit_nextFrame d p q hd hp hq]
    exact Eff.answer_replied ..
  · rw [e.ackCommit_nextFrame d p q hd hp hq, Eff.answer_st]
    rfl

/-! ### COMMIT -/

/-- No relation of the sets reads a session. -/
theorem Eff.failures_sess (s : State) (x : SessSt) : (Eff.start { s with sess := x }).failures = (Eff.start s).failures := rfl

/-- Nor does the check of a commit. -/
theorem Eff.checkSet_sess (s : State) (x : SessSt) (d : Nat) (l others : List (Nat × Nat)) (running : Bool) :
    (Eff.start { s with sess := x }).checkSet d l others running = (Eff.start s).checkSet d l others running := rfl

/-- A COMMIT that passes every check without standby. -/
theorem actCommit_passes (e : Eff s0) (c : Ctx) (b : Byte) (l : List (Nat × Nat)) (hd : b.toNat ∈ nextFrameDomains)
    (hgate : e.commitGate c b.toNat = none) (hl : e.st.stagedOf b.toNat = l) (hne : l ≠ []) (hfree : (e.dom b.toNat).pend = none)
    (hcheck : e.checkSet b.toNat l [] true = none) (hpair : e.pair.standby = false) :
    actCommit e c [b] = (((e.unstage b.toNat).modDom b.toNat fun x => { x with
      pend := some ⟨l, c.ret, false, e.frame.k, e.frame.k + 1, e.time.clock⟩ }).ackCommit b.toNat, none) := by
  obtain ⟨hdom, -⟩ := nextFrameDomains_ne _ hd
  have staged : l.isEmpty = false := by simpa using hne
  have code : octet [b] 0 = b.toNat := rfl
  have frame : (e.unstage b.toNat).frame = e.frame := by rw [Eff.frame, Eff.unstage_st]
  unfold actCommit
  simp only [code, List.length_singleton, ne_eq, not_true_eq_false, if_false, Nat.not_le.mpr hdom, hgate, hl, staged, hfree, hcheck, hpair,
    Option.isSome_none, Bool.false_eq_true, e.actPoint_nextFrame _ hd, frame]

/-- COMMIT on a device without standby. -/
theorem execCommit_passes (s : State) (q : Req) (b : Byte) (l : List (Nat × Nat)) (lvl sid : Nat) (h : s.Invoked q oCommit [b] 0 false lvl sid)
    (hd : b.toNat ∈ nextFrameDomains) (hgate : (Eff.start s).commitGate ⟨lvl, sid, .req q⟩ b.toNat = none)
    (hl : s.stagedOf b.toNat = l) (hne : l ≠ []) (hfree : (smGet Domain.reset s.doms b.toNat).pend = none)
    (hcheck : (Eff.start s).checkSet b.toNat l [] true = none) (hpair : s.pair.standby = false) :
    ∃ t x, execCommit q [b] s = .next t ∧ smGet Domain.reset t.doms b.toNat = x ∧
      x.pend = some ⟨l, .nobody, false, s.frame.k, s.frame.k + 1, s.time.clock⟩ ∧
      t.Replied q 3 (commitAns 0 0 b.toNat 0xFF_FFFF 0 (s.frame.k + 1) (x.seq + 1)) ∧
      t = { s with sess := t.sess, sent := t.sent, stg := t.stg, doms := t.doms } := by
  obtain ⟨e', hst, hrun⟩ := (Eff.start s).invoke_go q oCommit [b] 0 false lvl sid actCommit h
  have run : actCommit e' ⟨lvl, sid, .req q⟩ [b] = (((e'.unstage b.toNat).modDom b.toNat fun x => { x with
      pend := some ⟨l, .req q, false, s.frame.k, s.frame.k + 1, s.time.clock⟩ }).ackCommit b.toNat, none) := by
    obtain ⟨st, _, _⟩ := e'
    generalize st.sess = x at hst
    subst hst
    exact actCommit_passes _ _ b l hd hgate hl hne hfree ((Eff.checkSet_sess s x b.toNat l [] true).trans hcheck) hpair
  rw [run] at hrun
  obtain ⟨waits, answered, kept⟩ := Eff.ackCommit_acked _ b.toNat _ q hd
    (congrArg Domain.pend ((e'.unstage b.toNat).dom_setPend b.toNat ⟨l, .req q, false, s.frame.k, s.frame.k + 1, s.time.clock⟩)) rfl
  refine ⟨_, _, congrArg (fun e : Act s => Host.Outcome.next e.st) hrun, rfl, waits, answered, ?_⟩
  rw [kept, Eff.modDom, Eff.modDoms_st, Eff.unstage_st, hst]
  rfl

/-! ### ABANDON -/

/-- In canonical form, what is listed is what reads so. -/
theorem mem_iff_smGet {β : Type} [DecidableEq β] (d : β) (m : SMap β) (b : Option Nat) (h : smAbove d b m = true) (k : Nat) (v : β) (hv : v ≠ d) :
    (k, v) ∈ m ↔ smGet d m k = v := by
  induction m generalizing b with
  | nil => simp [smGet, hv.symm]
  | cons p r ih =>
    obtain ⟨i, w⟩ := p
    simp only [smAbove, Bool.and_eq_true] at h
    obtain ⟨-, h⟩ := h
    have above (hk : k ≤ i) : smGet d r k = d := smGet_above d (some i) r h k (fun c hc => Option.some.inj hc ▸ hk) (by simp)
    rw [List.mem_cons, Prod.mk.injEq, ih (some i) h, smGet]
    rcases Nat.lt_trichotomy k i with hlt | heq | hgt
    · simp [hlt, hlt.ne, above hlt.le, hv.symm]
    · subst heq
      simp [above le_rfl, hv.symm, eq_comm]
    · simp [hgt.ne', Nat.not_lt.mpr hgt.le]

/-- What a staged set holds: the values staged for elements of its domain. -/
theorem State.mem_stagedOf (s : State) (h : smWf none s.stg = true) (d k v : Nat) :
    (k, v) ∈ s.stagedOf d ↔ smGet none s.stg k = some v ∧ objDomain (k / 65536) = d := by
  rw [← mem_iff_smGet none s.stg none h k (some v) (by simp), State.stagedOf, List.mem_filterMap]
  constructor
  · rintro ⟨⟨k', _ | v'⟩, hmem, hval⟩
    · simp at hval
    · simp only [Option.ite_none_right_eq_some, Option.some.injEq, Prod.mk.injEq] at hval
      obtain ⟨hdom, rfl, rfl⟩ := hval
      exact ⟨hmem, hdom⟩
  · rintro ⟨hmem, hdom⟩
    exact ⟨_, hmem, by simp [hdom]⟩

/-- Unstaging a list of elements keeps the canonical form, and none of them stays staged. -/
theorem unstaged_get (l : List (Nat × Nat)) (m : SMap (Option Nat)) (h : smWf none m = true) :
    smWf none (l.foldl (fun m p => smSet none m p.1 none) m) = true ∧
      ∀ k, smGet none (l.foldl (fun m p => smSet none m p.1 none) m) k = if k ∈ l.map (·.1) then none else smGet none m k := by
  induction l generalizing m with
  | nil => simp [h]
  | cons p r ih =>
    obtain ⟨hwf, hget⟩ := ih (smSet none m p.1 none) (smWf_set _ _ _ _ h)
    refine ⟨hwf, fun k => ?_⟩
    rw [List.foldl_cons, hget, smGet_smSet none m p.1 none none h, List.map_cons]
    by_cases hk : k = p.1
    · rw [if_pos hk, ite_self, if_pos (hk ▸ List.mem_cons_self)]
    · rw [if_neg hk]
      exact if_congr (by simp [hk]) rfl rfl

/-- The staged values that are left once a set is discarded. -/
theorem Eff.unstage_stg (e : Eff s0) (d : Nat) :
    (e.unstage d).st.stg = (e.st.stagedOf d).foldl (fun m p => smSet none m p.1 none) e.st.stg := by
  have fold (l : List (Nat × Nat)) (e : Eff s0) : (l.foldl (fun (e : Eff s0) p => e.setStg p.1 none) e).st.stg =
      l.foldl (fun m p => smSet none m p.1 none) e.st.stg := by
    induction l generalizing e with
    | nil => rfl
    | cons p r ih => exact ih _
  exact fold _ e

/-- A discarded set is empty. -/
theorem Eff.unstage_stagedOf (e : Eff s0) (d : Nat) (h : smWf none e.st.stg = true) : (e.unstage d).st.stagedOf d = [] := by
  obtain ⟨hwf, hget⟩ := unstaged_get (e.st.stagedOf d) e.st.stg h
  rw [← e.unstage_stg d] at hwf hget
  refine List.eq_nil_iff_forall_not_mem.mpr ?_
  rintro ⟨k, v⟩ hmem
  obtain ⟨hval, hdom⟩ := ((e.unstage d).st.mem_stagedOf hwf d k v).mp hmem
  rw [hget] at hval
  split at hval
  · exact absurd hval (by simp)
  · next hnot => exact hnot (List.mem_map_of_mem ((e.st.mem_stagedOf h d k v).mpr ⟨hval, hdom⟩))

/-- ABANDON. -/
theorem execAbandon_passes (s : State) (q : Req) (b : Byte) (lvl sid : Nat) (hinv : s.Inv) (h : s.Invoked q oAbandon [b] 0 false lvl sid)
    (hdom : b.toNat < 15) (hgate : (Eff.start s).commitGate ⟨lvl, sid, .req q⟩ b.toNat = none) :
    ∃ t, execAbandon q [b] s = .next t ∧ t.Replied q 3 ansOk ∧ t.stagedOf b.toNat = [] ∧
      t = { s with sess := t.sess, sent := t.sent, stg := t.stg, doms := t.doms } := by
  obtain ⟨-, -, hwf, -⟩ := hinv
  obtain ⟨e', hst, hrun⟩ := (Eff.start s).invoke_go q oAbandon [b] 0 false lvl sid actAbandon h
  have code : octet [b] 0 = b.toNat := rfl
  have gate : e'.commitGate ⟨lvl, sid, .req q⟩ b.toNat = none := by
    obtain ⟨st, _, _⟩ := e'
    generalize st.sess = x at hst
    subst hst
    exact hgate
  have run : actAbandon e' ⟨lvl, sid, .req q⟩ [b] = (e'.unstage b.toNat, some ansOk) := by
    simp [actAbandon, code, gate, Nat.not_le.mpr hdom]
  have stg : e'.st.stg = s.stg := by rw [hst]; rfl
  rw [run] at hrun
  refine ⟨_, congrArg (fun e : Act s => Host.Outcome.next e.st) hrun, Eff.answer_replied .., ?_⟩
  rw [Eff.answer_st]
  refine ⟨e'.unstage_stagedOf b.toNat (by rw [stg]; exact hwf), ?_⟩
  rw [Eff.unstage_st, hst]
  rfl

/-! ### COMMIT_ACTIVATION -/

/-- Committing a list of values. -/
theorem Eff.putCfgs_st (e : Eff s0) (l : List (Nat × Nat)) :
    (e.each l fun e kv => e.putCfg kv.1 kv.2).st = { e.st with cfg := l.foldl (fun m kv =>
      smSet none m kv.1 (if kv.2 = objDefault e.st.pair.strapB (kv.1 / 65536) (kv.1 % 65536) then none else some kv.2)) e.st.cfg } := by
  induction l generalizing e with
  | nil => rfl
  | cons a r ih => rw [Eff.each_cons, ih]; rfl

/-- An item of the journal is the journal's alone. -/
theorem Eff.jitem_st (e : Eff s0) (itype id : Nat) (body : List Byte) :
    (e.jitem itype id body).st = { e.st with jrnl := (e.jitem itype id body).st.jrnl } := by
  unfold Eff.jitem
  cases e.frame.running <;> rfl

/-- What a set whose boundary has come makes of the state. -/
theorem Eff.activate_st (e : Eff s0) (d : Nat) (p : PendCommit) (hp : (e.dom d).pend = some p) (hpeer : p.waitPeer = false) (t : State)
    (ht : t = (e.activate d).st) :
    t.cfg = p.values.foldl (fun m kv =>
        smSet none m kv.1 (if kv.2 = objDefault e.st.pair.strapB (kv.1 / 65536) (kv.1 % 65536) then none else some kv.2)) e.st.cfg ∧
      t.doms = smMod Domain.reset e.st.doms d (fun x => { x with pend := none, seq := (x.seq + 1) % 2 ^ 32 }) ∧
      t.faults.evPend = e.st.faults.evPend ||| 2 ^ 13 ∧
      t = { e.st with cfg := t.cfg, doms := t.doms, jrnl := t.jrnl, faults := t.faults } := by
  subst ht
  simp only [Eff.activate, hp, hpeer, Bool.false_eq_true, if_false, Eff.event, Eff.modFaults_st]
  rw [Eff.jitem_st, Eff.modDom, Eff.modDoms_st, Eff.putCfgs_st]
  exact ⟨rfl, rfl, rfl, rfl⟩

/-- The domains of COMMIT_ACTIVATION whose sets change committed values and nothing else of their blocks. -/
def plainDomains : List Nat := [dLink, dGate, dFault, dPair]

theorem plainDomains_ne : ∀ d ∈ plainDomains, frameDomains.contains d = true ∧ d ≠ dSched ∧ d ≠ dHub ∧ d ≠ dLoop ∧ d ≠ dCasc ∧ d ≠ dDisp ∧
    d ≠ dAssay ∧ d ≠ dConv ∧ d ≠ dTime ∧ d ≠ dAcq ∧ d ≠ dStore := by decide

/-- Their boundary is the start of the frame ACT_AT. -/
theorem Eff.boundary_plain (e : Eff s0) (d : Nat) (p : PendCommit) (hd : d ∈ plainDomains) (hp : (e.dom d).pend = some p) :
    e.boundary d = (!p.waitPeer && decide (p.actAt ≤ e.frame.k)) := by
  obtain ⟨hframe, -⟩ := plainDomains_ne d hd
  simp only [Eff.boundary, hp, hframe, if_true]

/-- COMMIT_ACTIVATION of their sets does nothing more. -/
theorem Eff.activateSet_plain (e : Eff s0) (d : Nat) (p : PendCommit) (hd : d ∈ plainDomains) (hp : (e.dom d).pend = some p)
    (hpeer : p.waitPeer = false) : e.activateSet d = e.activate d := by
  obtain ⟨-, hsched, hhub, hloop, hcasc, hdisp, hassay, hconv, htime, hacq, hstore⟩ := plainDomains_ne d hd
  have waits : e.committing d = true := by simp only [Eff.committing, hp, hpeer, Bool.not_false]
  unfold Eff.activateSet
  simp only [waits, hsched, hhub, hloop, hcasc, hdisp, hassay, hconv, htime, hacq, hstore, Bool.not_true, Bool.false_eq_true, if_false]

/-- COMMIT_ACTIVATION once the frame has come. -/
theorem execCommitActivation_due (s : State) (d : Fin 15) (p : PendCommit) (hd : d.val ∈ plainDomains)
    (hp : (smGet Domain.reset s.doms d.val).pend = some p) (hpeer : p.waitPeer = false) (hdue : p.actAt ≤ s.frame.k) :
    execCommitActivation d s = .next ((Eff.start s).activate d.val).st := by
  have hp : ((Eff.start s).dom d.val).pend = some p := hp
  have due : (Eff.start s).boundary d.val = true := by
    rw [Eff.boundary_plain _ _ p hd hp, hpeer]
    exact decide_eq_true hdue
  unfold execCommitActivation
  simp only [due, Eff.when_true, Eff.activateSet_plain _ _ p hd hp hpeer]

/-- COMMIT_ACTIVATION before, or while the set waits for the standby. -/
theorem execCommitActivation_early (s : State) (d : Fin 15) (p : PendCommit) (hp : (smGet Domain.reset s.doms d.val).pend = some p)
    (h : p.waitPeer = true ∨ (d.val ∈ plainDomains ∧ s.frame.k < p.actAt)) : execCommitActivation d s = .next s := by
  have early : (Eff.start s).boundary d.val = false := by
    rcases h with hpeer | ⟨hd, hk⟩
    · have hp : ((Eff.start s).dom d.val).pend = some p := hp
      simp only [Eff.boundary, hp, hpeer, Bool.not_true, Bool.false_and]
    · have notYet : decide (p.actAt ≤ (Eff.start s).frame.k) = false := decide_eq_false (Nat.not_le.mpr hk)
      rw [Eff.boundary_plain _ _ p hd hp, notYet, Bool.and_false]
  unfold execCommitActivation
  simp only [early, Eff.when_false, Eff.start_st]

/-! ### PEER_COMMIT_MISSED -/

/-- What a missed confirmation makes of the state, where its report is only recorded. -/
theorem Eff.peerMissed_st (e : Eff s0) (hq : e.st.Quiet kPeerCommitMissed 0) :
    e.peerMissed.st = { e.st with
      trouble := e.st.trouble ||| 2 ^ 11
      pair := { e.st.pair with ckptReq := some (e.st.pair.ckptReq.getD e.st.frame.k) }
      faults := e.peerMissed.st.faults } := by
  have quiet : (e.setTrouble 11).st.Quiet kPeerCommitMissed 0 := by
    rw [Eff.setTrouble_st]
    exact hq.congr rfl rfl
  unfold Eff.peerMissed
  rw [Eff.modPair_st, Eff.fault_quiet _ _ _ _ quiet, Eff.setTrouble_st]

/-- The device goes on alone: the set is acknowledged for the next frame. -/
theorem Eff.commitAlone_acked (e : Eff s0) (d : Nat) (p : PendCommit) (q : Req) (hd : d ∈ nextFrameDomains)
    (hp : (e.dom d).pend = some p) (hq : p.answer = .req q) :
    e.st.Acked d { p with actAt := e.st.frame.k + 1, ackAt := e.st.time.clock } q (e.commitAlone d).st := by
  have alone : e.commitAlone d = (e.modDom d fun x => { x with
      pend := some { p with actAt := e.st.frame.k + 1, ackAt := e.st.time.clock } }).ackCommit d := by
    simp only [Eff.commitAlone, hp, e.actPoint_nextFrame d hd]
  obtain ⟨waits, answered, kept⟩ := Eff.ackCommit_acked _ d _ q hd
    (congrArg Domain.pend (e.dom_setPend d { p with actAt := e.st.frame.k + 1, ackAt := e.st.time.clock })) hq
  rw [alone]
  exact ⟨waits, answered, kept⟩

/-- PEER_COMMIT_MISSED 2 frames after the set was sent. -/
theorem execPeerCommitMissed_late (s : State) (d : Fin 15) (p : PendCommit) (hp : (smGet Domain.reset s.doms d.val).pend = some p)
    (hpeer : p.waitPeer = true) (hlate : p.sentFrame + 2 ≤ s.frame.k) :
    execPeerCommitMissed d s = .next ((Eff.start s).peerMissed.commitAlone d.val).st := by
  have hp : ((Eff.start s).dom d.val).pend = some p := hp
  have late : (p.waitPeer && decide (p.sentFrame + 2 ≤ (Eff.start s).frame.k)) = true := by
    rw [hpeer]
    exact decide_eq_true hlate
  unfold execPeerCommitMissed
  simp only [hp, late, Eff.when_true, Eff.commitMissed]

/-- Settles O18, a request or event at a time: the checks of a COMMIT read no session, and an acknowledgement leaves the set waiting and
answers with the domain as it then is. -/
theorem commitsComplete : Obligations.CommitsComplete := by
  unfold Obligations.CommitsComplete
  refine ⟨?commit, ?abandon, ?due, ?early, ?missed⟩
  case commit =>
    intro s q b l lvl sid h hd hgate hl hne hfree hcheck hpair
    exact execCommit_passes s q b l lvl sid h hd hgate hl hne hfree hcheck hpair
  case abandon =>
    intro s q b lvl sid hinv h hdom hgate
    exact execAbandon_passes s q b lvl sid hinv h hdom hgate
  case due =>
    intro s d p hd hp hpeer hdue
    exact ⟨_, execCommitActivation_due s d p hd hp hpeer hdue, (Eff.start s).activate_st d.val p hp hpeer _ rfl⟩
  case early =>
    intro s d p hp h
    exact execCommitActivation_early s d p hp h
  case missed =>
    intro s d p q hd hp hpeer hlate hq hquiet
    have missed := (Eff.start s).peerMissed_st hquiet
    have hp' : ((Eff.start s).peerMissed.dom d.val).pend = some p := by
      rw [Eff.dom, missed]
      exact hp
    obtain ⟨waits, answered, kept⟩ := (Eff.start s).peerMissed.commitAlone_acked d.val p q hd hp' hq
    rw [missed] at waits answered kept
    refine ⟨_, _, execPeerCommitMissed_late s d p hp hpeer hlate, ?_, rfl, waits, ?_, answered, ?_⟩ <;> rw [kept] <;> rfl

end Sys2Proof.Machine
end

