-- ==== Sys2Proof/Proofs/Outputs.lean ====
section
/-! SUPPORT. The hub and the auxiliary outputs follow role, claim and state at every step (R102, R412, R476). -/

namespace Sys2Proof.Machine

/-- Where the outputs follow the role, a device that is not ACTIVE holds no claim, its hub outputs are high-impedance and its auxiliary
outputs de-energised. -/
theorem State.OutputsOk.inactive {s : State} (h : s.OutputsOk) (hrole : s.pair.role ≠ .active) :
    s.gate.hiZ = true ∧ s.pair.claim = false ∧ auxDead s.aux = true := by
  obtain ⟨driven, claimed, -, dead⟩ := h
  have claim : s.pair.claim = false := Bool.eq_false_iff.mpr fun hc => hrole (claimed hc)
  have hiZ : s.gate.hiZ = true := (Bool.eq_false_or_eq_true _).resolve_right fun hz => absurd (driven hz) (by simp [claim])
  exact ⟨hiZ, claim, dead hrole⟩

/-- No device is ACTIVE in OFF or BOOT. -/
theorem State.OutputsOk.role_ne_active {s : State} (h : s.OutputsOk) (hstate : s.dev.state = .off ∨ s.dev.state = .boot) :
    s.pair.role ≠ .active := by
  obtain ⟨-, -, states, -⟩ := h
  intro hrole
  obtain ⟨off, boot⟩ := states hrole
  exact hstate.elim off boot

/-- Settles O6: a step is an effect, effects keep the outputs with role, claim and state, and the rest is what that says of a device that
is not ACTIVE. -/
theorem hubIsDrivenOnlyUnderTheClaimOfAnActiveDevice : Obligations.HubIsDrivenOnlyUnderTheClaimOfAnActiveDevice := by
  refine ⟨?step, ?inactive, ?off⟩
  case step =>
    intro s t hs hstep
    have hqueue : ({ s with pending := s.pending.tail } : State).OutputsOk := hs
    exact (step_moves hstep).outputs hqueue
  case inactive =>
    intro s hs hrole
    obtain ⟨hiZ, claim, dead⟩ := hs.inactive hrole
    refine ⟨hiZ, claim, fun n a ha => ?_⟩
    simpa using List.all_eq_true.mp dead (n, a) ha
  case off =>
    intro s hs hstate
    obtain ⟨hiZ, -, -⟩ := hs.inactive (hs.role_ne_active hstate)
    exact hiZ

end Sys2Proof.Machine
end

