-- ==== Sys2Proof/Proofs/BackupLoss.lean ====
section
/-! SUPPORT. A loss of both supplies of the BACKUP domain on a list of rail readings in which one entry hides another of the same rail. -/

namespace Sys2Proof.Machine

/-- A device in READY with a valid calendar and VBAT at 0 V, and two readings of VDD_FD (rail 7): the first hides one within the rail's
window. -/
def State.hiddenRail : State :=
  { State.reset with
    dev := { DevSt.reset with state := .ready }
    time := { TimeSt.reset with calValid := true }
    clk := { ClkSt.reset with notOk := [9], railMv := [(7, 1), (7, 1800)] } }

/-- VDD_FD goes to 0 V. It then reads as a rail not listed, so its entry leaves the list and the hidden one comes to light: the BACKUP
check finds VDD_FD there, and the calendar stays valid. -/
theorem hiddenRail_keeps_calendar : ∀ t, exec (.supplyReset 7 0 1000) State.hiddenRail = .next t → t.time.calValid = true := by
  rintro t ⟨⟩
  decide

/-- Refutes O20 in its last clause, the loss of the BACKUP domain: where the list of rail readings is not canonical, a VDD_FD reported at
0 V does not read 0 V, and the domain stays. -/
theorem not_resetsReturnTheDeviceToOff : ¬ Obligations.ResetsReturnTheDeviceToOff := by
  unfold Obligations.ResetsReturnTheDeviceToOff
  rintro ⟨-, -, -, -, -, -, -, backup⟩
  obtain ⟨t, ht, -, -, invalid, -⟩ := backup State.hiddenRail 0 1000 (by decide) (by decide) le_rfl (by decide) (by decide)
  exact absurd ((hiddenRail_keeps_calendar t ht).symm.trans invalid) (by decide)

end Sys2Proof.Machine
end

