-- ==== Sys2Proof/Proofs/HubReloads.lean ====
section
/-! SUPPORT. A period start on a list of gates in which one entry hides another of the same gate. -/

namespace Sys2Proof.Machine

/-- The device with the hidden EARLY, its hub running: no leg is enabled or has begun. -/
def State.hiddenEarlyRuns : State := { State.hiddenEarly with hub := { HubSt.reset with running := true } }

/-- The disabled leg 0 starts a period and commands its gates off. Gate 0 then reads its reset value, so its entry leaves the list and the
hidden one comes to light: its EARLY is reported, with the event of a new fault. -/
theorem hiddenEarlyRuns_period_reports : ∀ t, exec (.hubPeriodStart 0) State.hiddenEarlyRuns = .next t → t.faults.evPend = 1 := by
  rintro t ⟨⟩
  rfl

/-- Refutes O37 in its clause on disabled legs: where the list of gates is not canonical, that every gate reads as without an EARLY does
not keep the period start from reporting one. -/
theorem not_hubReloadsComplete : ¬ Obligations.HubReloadsComplete := by
  unfold Obligations.HubReloadsComplete
  rintro ⟨-, disabled, -, -, -, -⟩
  obtain ⟨t, y, ht, -, -, kept⟩ := disabled State.hiddenEarlyRuns 0 HubLeg.reset rfl rfl rfl (fun k _ => hiddenEarly_reads_none k) rfl rfl
    rfl rfl
  have quiet : t.faults.evPend = 0 := congrArg (fun x : State => x.faults.evPend) kept
  exact absurd ((hiddenEarlyRuns_period_reports t ht).symm.trans quiet) (by decide)

end Sys2Proof.Machine
end

