-- ==== Sys2Proof/Proofs/Trips.lean ====
section
/-! SUPPORT. Gates commanded by their legs, legs held at SAFE levels, and the cascade-wide trip (R129, R131, R230, R236, R393, R437). -/

namespace Sys2Proof.Machine

variable {s0 : Root}

/-! ### Commands to gates -/

/-- The state `b` is `a` with hub gates and hub legs commanded anew; whether the hub is driven stays. -/
def State.Driven (a b : State) : Prop := b = { a with gate := { b.gate with hiZ := a.gate.hiZ }, hub := b.hub }

theorem State.Driven.refl (a : State) : a.Driven a := rfl

theorem State.Driven.trans {a b c : State} (h : a.Driven b) (k : b.Driven c) : a.Driven c := by
  unfold State.Driven at *
  rw [k, h]

theorem Eff.when_driven (e : Eff s0) (c : Bool) (f : Eff s0 → Eff s0) (h : e.st.Driven (f e).st) : e.st.Driven (e.when c f).st := by
  cases c with
  | true => exact h
  | false => exact .refl _

theorem Eff.each_driven {α : Type} (e : Eff s0) (l : List α) (f : Eff s0 → α → Eff s0)
    (h : ∀ (e : Eff s0) (x : α), e.st.Driven (f e x).st) : e.st.Driven (e.each l f).st :=
  Eff.foldl_rel State.Driven .refl (fun _ _ _ => .trans) f h l e

/-- The state `b` is `a` with hub gates commanded anew, and nothing of the hub. -/
def State.Gated (a b : State) : Prop := b = { a with gate := { b.gate with hiZ := a.gate.hiZ } }

theorem State.Gated.refl (a : State) : a.Gated a := rfl

theorem State.Gated.trans {a b c : State} (h : a.Gated b) (k : b.Gated c) : a.Gated c := by
  unfold State.Gated at *
  rw [k, h]

theorem State.Gated.hub {a b : State} (h : a.Gated b) : b.hub = a.hub := by rw [h]

theorem State.Gated.driven {a b : State} (h : a.Gated b) : a.Driven b := by
  unfold State.Gated at h
  unfold State.Driven
  rw [h]

theorem Eff.when_gated (e : Eff s0) (c : Bool) (f : Eff s0 → Eff s0) (h : e.st.Gated (f e).st) : e.st.Gated (e.when c f).st := by
  cases c with
  | true => exact h
  | false => exact .refl _

theorem Eff.modGch_gated (e : Eff s0) (k : Nat) (f : Gate → Gate) : e.st.Gated (e.modGch k f).st := rfl

theorem Eff.modLeg_gated (e : Eff s0) (u : Nat) (f : Leg → Leg) : e.st.Gated (e.modLeg u f).st := rfl

theorem Eff.latchEarly_gated (e : Eff s0) (k : Nat) : e.st.Gated (e.latchEarly k).st :=
  (e.modGch_gated k _).trans (Eff.modLeg_gated _ _ _)

theorem Eff.leaveWait_gated (e : Eff s0) (k : Nat) : e.st.Gated (e.leaveWait k).st := by
  unfold Eff.leaveWait
  split
  · exact (e.modGch_gated k _).trans (Eff.when_gated _ _ _ (Eff.latchEarly_gated _ k))
  · exact .refl _

theorem Eff.gateTo_gated (e : Eff s0) (k : Nat) (on : Bool) : e.st.Gated (e.gateTo k on).st := by
  unfold Eff.gateTo
  split
  · exact ((e.modGch_gated k _).trans (Eff.when_gated _ _ _ (Eff.modLeg_gated _ _ _))).trans (Eff.leaveWait_gated _ k)
  · exact e.modGch_gated k _

/-- The gates asked for are noted with the leg; the gates themselves follow without the hub. -/
theorem Eff.driveGates_gated (e : Eff s0) (u : Nat) (h l : Bool) (dt : Nat) : (e.want u h l).st.Gated (e.driveGates u h l dt).st := by
  unfold Eff.driveGates
  extract_lets e0 e1 e2 e3
  have off : e0.st.Gated e2.st :=
    (Eff.when_gated e0 _ _ (Eff.gateTo_gated _ _ _)).trans (Eff.when_gated e1 _ _ (Eff.gateTo_gated _ _ _))
  split
  · exact off
  · exact (off.trans (Eff.when_gated e2 _ _ (Eff.gateTo_gated _ _ _))).trans (Eff.when_gated e3 _ _ (Eff.gateTo_gated _ _ _))

theorem Eff.want_driven (e : Eff s0) (u : Nat) (h l : Bool) : e.st.Driven (e.want u h l).st := Eff.when_driven _ _ _ rfl

theorem Eff.driveGates_driven (e : Eff s0) (u : Nat) (h l : Bool) (dt : Nat) : e.st.Driven (e.driveGates u h l dt).st :=
  (e.want_driven u h l).trans (e.driveGates_gated u h l dt).driven

/-! ### SAFE levels -/

/-- Leg u of the hub is held at SAFE levels. -/
def State.heldSafe (s : State) (u : Nat) : Prop := (smGet HubLeg.reset s.hub.legs u).safeHeld = true

/-- A leg at its reset value is not held. -/
theorem HubLeg.ne_reset_of_safeHeld (x : HubLeg) (h : x.safeHeld = true) : x ≠ HubLeg.reset := by
  rintro rfl
  exact absurd h (by decide)

/-- A change that leaves leg u held leaves every other leg held that was. -/
theorem Eff.modHleg_heldSafe (e : Eff s0) (u v : Nat) (f : HubLeg → HubLeg) (hf : (f (e.hleg u)).safeHeld = true)
    (h : v = u ∨ e.st.heldSafe v) : (e.modHleg u f).st.heldSafe v := by
  have read := smGet_smSet_of_ne HubLeg.reset e.st.hub.legs u (f (e.hleg u)) (HubLeg.ne_reset_of_safeHeld _ hf) v
  refine (congrArg HubLeg.safeHeld read).trans ?_
  split
  · exact hf
  · next hv => exact h.resolve_left hv

/-- One leg's turn to SAFE levels, `lv` being SAFE_LEVELS. -/
def Eff.safeLevel (lv : Nat) (e : Eff s0) (u : Nat) : Eff s0 :=
  let e := e.modHleg u fun l => { l with safeHeld := true }
  e.driveGates u (bitOf lv (2 * u)) (bitOf lv (2 * u + 1)) (e.cv oDt u)

theorem Eff.safeLevels_eq (e : Eff s0) (l : List Nat) : e.safeLevels l = e.each l (Eff.safeLevel (e.cv oSafeLevels)) := rfl

theorem Eff.safeLevels_driven (e : Eff s0) (l : List Nat) : e.st.Driven (e.safeLevels l).st := by
  rw [Eff.safeLevels_eq]
  refine Eff.each_driven _ _ _ fun e u => ?_
  have held : e.st.Driven (e.modHleg u fun l => { l with safeHeld := true }).st := rfl
  exact held.trans (Eff.driveGates_driven _ _ _ _ _)

/-- A turn holds its leg, and lets none go. -/
theorem Eff.safeLevel_heldSafe (e : Eff s0) (lv u v : Nat) (h : v = u ∨ e.st.heldSafe v) : (e.safeLevel lv u).st.heldSafe v := by
  have own : ∀ w, w = u ∨ e.st.heldSafe w → (e.modHleg u fun l => { l with safeHeld := true }).st.heldSafe w := fun w hw =>
    e.modHleg_heldSafe u w _ rfl hw
  have wanted : ∀ h l, ((e.modHleg u fun l => { l with safeHeld := true }).want u h l).st.heldSafe v := by
    intro h l
    unfold Eff.want
    extract_lets x
    cases x.wantH != h || x.wantL != l with
    | true => exact Eff.modHleg_heldSafe _ u v _ (own u (.inl rfl)) (.inr (own v ‹_›))
    | false => exact own v ‹_›
  unfold Eff.safeLevel State.heldSafe
  extract_lets e1
  rw [(e1.driveGates_gated u _ _ _).hub]
  exact wanted _ _

/-- Legs ordered to SAFE levels are held there. -/
theorem Eff.safeLevels_heldSafe (e : Eff s0) (l : List Nat) (u : Nat) (hu : u ∈ l) : (e.safeLevels l).st.heldSafe u := by
  have turns : ∀ (lv : Nat) (l : List Nat) (e : Eff s0), u ∈ l ∨ e.st.heldSafe u → (e.each l (Eff.safeLevel lv)).st.heldSafe u := by
    intro lv l
    induction l with
    | nil => exact fun e h => h.resolve_left List.not_mem_nil
    | cons v r ih =>
      intro e h
      rw [Eff.each_cons]
      rcases h with h | h
      · rcases List.mem_cons.mp h with hv | hr
        · exact ih _ (.inr (e.safeLevel_heldSafe lv v u (.inl hv)))
        · exact ih _ (.inl hr)
      · exact ih _ (.inr (e.safeLevel_heldSafe lv v u (.inr h)))
  exact turns _ l e (.inl hu)

/-! ### The trip of the cascade -/

/-- What a lane is sent of a TRIP block. -/
def State.tripOut (s : State) (block : Block) (l : Nat) : List Out := if (Eff.start s).locked l then [.trip l block] else []

theorem Eff.tripOn_st (e : Eff s0) (ls : List Nat) (block : Block) :
    (e.tripOn ls block).st = { e.st with sent := ls.reverse.flatMap (e.st.tripOut block) ++ e.st.sent } := by
  refine Eff.each_sends e.st _ (e.st.tripOut block) (fun e' sent l he => ?_) ls e e.st.sent rfl
  rw [Eff.whenEmit_st, Eff.locked, Eff.lane, he]
  rfl

/-- A trip with a code and a STATE_CAUSE takes the device from `s` to `t` (R131, R434, R437): TRIP blocks are out on the LOCKED lanes and
armed for their repeat, every leg is held at SAFE levels, and SAFE is ordered. -/
def State.TripsTo (s : State) (code cause : Nat) (t : State) : Prop :=
  s.Tripped t code ∧ (∀ u < 12, (smGet HubLeg.reset t.hub.legs u).safeHeld = true) ∧
    t.dev = { s.dev with
      tripRepeat := some (tripBlock code s.pair.epoch s.frame.k, s.time.up), events := s.dev.events ++ [⟨.safe, cause, .nobody⟩] }

theorem Eff.tripCascade_tripsTo (e : Eff s0) (code cause : Nat) (hlive : e.live = true) (hstate : e.st.dev.state ≠ .safe) :
    ∃ t, t = (e.tripCascade code cause).st ∧ e.st.TripsTo code cause t ∧
      t = { e.st with sent := t.sent, dev := t.dev, hub := t.hub, gate := t.gate } := by
  refine ⟨_, rfl, ?_⟩
  unfold Eff.tripCascade
  rw [hlive, Eff.when_true]
  extract_lets block e1 e2
  have sent : e1.st = { e.st with
      sent := (List.range 26).reverse.flatMap (e.st.tripOut block) ++ e.st.sent
      dev := { e.st.dev with tripRepeat := some (block, e.st.time.up) } } := by
    simp only [e1, Eff.modDev_st, Eff.tripOn_st, Eff.time]
  have driven : e1.st.Driven e2.st := e1.safeLevels_driven (List.range 12)
  have held : ∀ u < 12, e2.st.heldSafe u := fun u hu => e1.safeLevels_heldSafe _ u (List.mem_range.mpr hu)
  rw [State.Driven, sent] at driven
  clear_value e2
  have order : (e2.dev.state != .safe) = true := by
    rw [Eff.dev, driven]
    simpa using hstate
  rw [order, Eff.when_true, Eff.pushEv, Eff.modDev_st]
  refine ⟨⟨fun l hl hlocked => ?_, held, ?_⟩, ?_⟩
  · rw [driven]
    refine List.mem_append_left _ (List.mem_flatMap.mpr ⟨l, by simpa using hl, ?_⟩)
    rw [State.tripOut, if_pos (((Eff.start e.st).locked_iff l).mpr hlocked)]
    exact List.mem_singleton_self _
  · rw [driven]
  · rw [driven]

end Sys2Proof.Machine
end

