-- ==== Sys2Proof/Proofs/DeviceActions.lean ====
section
/-! SUPPORT. START, STOP, TRIP and SAFE_EXIT (R103 to R105, R131, R436, R437). -/

namespace Sys2Proof.Machine

variable {s0 : Root}

/-! ### A report of class HALT -/

/-- A report of class HALT on an ACTIVE device, with no EARLY latched: it is recorded and the reaction follows; a hold of the journal may
start. -/
theorem Eff.fault_halt (e : Eff s0) (source kind addr : Nat) (hclass : e.classOf kind addr = 5) (hrole : e.st.pair.role = .active)
    (hearly : e.earlyGates = []) :
    ∃ (e1 : Eff s0) (hold : Bool), e1.st = { e.st with faults := e1.st.faults } ∧
      e.fault source kind addr = (e1.react 5 kind addr e.now16).when hold (·.startHold) := by
  have active : e.isActive = true := by simp [Eff.isActive, hrole]
  unfold Eff.fault Eff.report Eff.reportN
  simp only [hclass, active, hearly, Bool.false_and, Bool.not_true, Bool.false_or, Bool.false_eq_true, if_false, List.filter_nil,
    List.foldl_nil, Bool.not_false, Bool.true_and]
  refine ⟨_, _, ?_, rfl⟩
  rfl

/-- The reaction of class HALT trips the cascade, for TRIP_ACTION with STATE_CAUSE 1. -/
theorem Eff.react_tripAction (e : Eff s0) (addr : Nat) (t : Int) : e.react 5 kTripAction addr t = e.tripCascade 5 1 := rfl

/-- TRIP_ACTION of class HALT trips the cascade, with its report and, it may be, a hold of the journal. -/
theorem Eff.fault_tripAction (e : Eff s0) (source addr : Nat) (hclass : e.classOf kTripAction addr = 5) (hrole : e.st.pair.role = .active)
    (hearly : e.earlyGates = []) (hstate : e.st.dev.state ∉ [.off, .boot, .safe]) :
    ∃ t, t = (e.fault source kTripAction addr).st ∧ e.st.TripsTo 5 1 t ∧
      t = { e.st with sent := t.sent, dev := t.dev, hub := t.hub, gate := t.gate, faults := t.faults, jrnl := t.jrnl } := by
  obtain ⟨e1, hold, recorded, halted⟩ := e.fault_halt source kTripAction addr hclass hrole hearly
  simp only [List.mem_cons, List.not_mem_nil, or_false, not_or] at hstate
  obtain ⟨off, boot, safe⟩ := hstate
  have state : e1.st.dev = e.st.dev := by rw [recorded]
  have role : e1.st.pair = e.st.pair := by rw [recorded]
  have live : e1.live = true := by simp [Eff.live, Eff.isActive, state, role, hrole, off, boot]
  obtain ⟨t, ht, ⟨tripped, held, dev⟩, kept⟩ := e1.tripCascade_tripsTo 5 1 live (by rw [state]; exact safe)
  have after : (e.fault source kTripAction addr).st = { t with jrnl := (e.fault source kTripAction addr).st.jrnl } := by
    rw [halted, Eff.react_tripAction, ht]
    cases hold <;> rfl
  rw [recorded] at tripped dev kept
  refine ⟨_, rfl, ⟨?_, ?_, ?_⟩, ?_⟩
  · rw [after]; exact tripped
  · rw [after]; exact held
  · rw [after]; exact dev
  · rw [after, kept]

/-! ### Requests for a device state -/

/-- A request that needs an ACTIVE device passes the checks that do not ask for one. -/
theorem State.Invoked.anyRole {s : State} {q : Req} {obj right lvl sid : Nat} {args : List Byte} (h : s.Invoked q obj args right true lvl sid) :
    s.Invoked q obj args right false lvl sid := by
  obtain ⟨accepted, rights, -⟩ := h
  exact ⟨accepted, rights, nofun⟩

theorem State.Invoked.role {s : State} {q : Req} {obj right lvl sid : Nat} {args : List Byte} (h : s.Invoked q obj args right true lvl sid) :
    s.pair.role = .active := by
  obtain ⟨-, -, active⟩ := h
  exact active rfl

/-- What the four actions share lets an ACTIVE device outside BOOT pass. -/
theorem Eff.stateAction_pass (e : Eff s0) (f : ActRes s0) (hrole : e.st.pair.role = .active) (hboot : e.st.dev.state ≠ .boot) :
    e.stateAction [] f = f := by
  simp [Eff.stateAction, Eff.isActive, hrole, hboot]

/-- An action that orders a transition and answers later. -/
theorem invoke_orders (s : State) (q : Req) (obj right lvl sid : Nat) (run : Act s → Ctx → List Byte → ActRes ⟨s, false⟩) (d : DevState)
    (h : s.Invoked q obj [] right true lvl sid)
    (hrun : ∀ e : Act s, e.st.dev = s.dev → e.st.pair = s.pair → e.st = { s with sess := e.st.sess } →
      run e ⟨lvl, sid, .req q⟩ [] = (e.pushEv d 1 (.req q), none)) :
    ∃ t, (.next ((Eff.start s).invoke q obj [] right false run).st : Host.Outcome State Fault Refusal) = .next t ∧
      t = { s with sess := t.sess, dev := { s.dev with events := s.dev.events ++ [⟨d, 1, .req q⟩] } } := by
  obtain ⟨e, hst, hinvoke⟩ := (Eff.start s).invoke_go q obj [] right false lvl sid run h.anyRole
  have hst : e.st = { s with sess := e.st.sess } := hst
  rw [hrun e (by rw [hst]) (by rw [hst]) hst] at hinvoke
  refine ⟨_, rfl, ?_⟩
  rw [hinvoke, Eff.pushEv, Eff.modDev_st, hst]

/-- An action that answers at once: the answer goes out on the state it makes of the one it is given. -/
theorem invoke_answers (s : State) (q : Req) (obj right lvl sid : Nat) (run : Act s → Ctx → List Byte → ActRes ⟨s, false⟩) (a : Ans)
    (f : Act s → Act s) (h : s.Invoked q obj [] right true lvl sid)
    (hrun : ∀ e : Act s, e.st.dev = s.dev → e.st.pair = s.pair → e.st = { s with sess := e.st.sess } →
      run e ⟨lvl, sid, .req q⟩ [] = (f e, some a)) :
    ∃ e : Act s, e.st = { s with sess := e.st.sess } ∧
      (Eff.start s).invoke q obj [] right false run = (f e).answer q 3 a := by
  obtain ⟨e, hst, hinvoke⟩ := (Eff.start s).invoke_go q obj [] right false lvl sid run h.anyRole
  have hst : e.st = { s with sess := e.st.sess } := hst
  rw [hrun e (by rw [hst]) (by rw [hst]) hst] at hinvoke
  exact ⟨e, hst, hinvoke⟩

/-- An action that finds nothing to change. -/
theorem invoke_noChange (s : State) (q : Req) (obj right lvl sid : Nat) (run : Act s → Ctx → List Byte → ActRes ⟨s, false⟩)
    (h : s.Invoked q obj [] right true lvl sid)
    (hrun : ∀ e : Act s, e.st.dev = s.dev → e.st.pair = s.pair → run e ⟨lvl, sid, .req q⟩ [] = (e, some ansNoChange)) :
    ∃ t, (.next ((Eff.start s).invoke q obj [] right false run).st : Host.Outcome State Fault Refusal) = .next t ∧
      t.Replied q 3 ansNoChange ∧ t = { s with sess := t.sess, sent := t.sent } := by
  obtain ⟨e, hst, hinvoke⟩ := invoke_answers s q obj right lvl sid run ansNoChange id h fun e hdev hpair _ => hrun e hdev hpair
  refine ⟨_, congrArg (fun e : Act s => Host.Outcome.next e.st) hinvoke, Eff.answer_replied .., ?_⟩
  rw [Eff.answer_st, id, hst]

/-! ### What each action does -/

/-- START. -/
theorem actStart_eq (e : Eff s0) (c : Ctx) (hrole : e.st.pair.role = .active) :
    (e.st.dev.state = .ready → actStart e c [] = (e.pushEv .discover 1 c.ret, none)) ∧
    (e.st.dev.state = .discover ∨ e.st.dev.state = .run → actStart e c [] = (e, some ansNoChange)) := by
  refine ⟨fun h => ?_, fun h => ?_⟩
  · rw [actStart, Eff.stateAction_pass e _ hrole (by simp [h]), Eff.dev, h]
  · rcases h with h | h <;> rw [actStart, Eff.stateAction_pass e _ hrole (by simp [h]), Eff.dev, h]

/-- STOP: R103 lists STOPPING from five states. -/
theorem actStop_eq (e : Eff s0) (c : Ctx) (hrole : e.st.pair.role = .active) :
    (e.st.dev.state ∈ [.discover, .charge, .sync, .run, .derated] → actStop e c [] = (e.pushEv .stopping 1 c.ret, none)) ∧
    (e.st.dev.state = .ready ∨ e.st.dev.state = .stopping → actStop e c [] = (e, some ansNoChange)) := by
  refine ⟨fun h => ?_, fun h => ?_⟩
  · simp only [List.mem_cons, List.not_mem_nil, or_false] at h
    rcases h with h | h | h | h | h <;> rw [actStop, Eff.stateAction_pass e _ hrole (by simp [h]), Eff.dev, h] <;> rfl
  · rcases h with h | h <;> rw [actStop, Eff.stateAction_pass e _ hrole (by simp [h]), Eff.dev, h]

/-- TRIP. -/
theorem actTrip_eq (e : Eff s0) (c : Ctx) (hrole : e.st.pair.role = .active) :
    (e.st.dev.state = .safe → actTrip e c [] = (e, some ansNoChange)) ∧
    (e.st.dev.state ∉ [.off, .boot, .safe] → actTrip e c [] = (e.fault 0x0F0 kTripAction c.sess, some ansOk)) := by
  refine ⟨fun h => ?_, fun h => ?_⟩
  · rw [actTrip, Eff.stateAction_pass e _ hrole (by simp [h]), Eff.dev, h]
  · simp only [List.mem_cons, List.not_mem_nil, or_false, not_or] at h
    obtain ⟨off, boot, safe⟩ := h
    rw [actTrip, Eff.stateAction_pass e _ hrole boot]
    split
    · next h => exact absurd h safe
    · next h => exact absurd h off
    · rfl

/-- SAFE_EXIT. -/
theorem actSafeExit_eq (e : Eff s0) (c : Ctx) (hrole : e.st.pair.role = .active) :
    (e.st.dev.state = .safe → e.condAtLeast 7 = false → actSafeExit e c [] = (e.pushEv .ready 1 c.ret, none)) ∧
    (e.st.dev.state = .ready → actSafeExit e c [] = (e, some ansNoChange)) := by
  refine ⟨fun h hcond => ?_, fun h => ?_⟩
  · rw [actSafeExit, Eff.stateAction_pass e _ hrole (by simp [h]), Eff.dev, h]
    simp [hcond]
  · rw [actSafeExit, Eff.stateAction_pass e _ hrole (by simp [h]), Eff.dev, h]

/-! ### The requests -/

/-- An answer takes nothing back of what was sent. -/
theorem Eff.answer_keeps_sent (e : Eff s0) (q : Req) (op : Nat) (a : Ans) (o : Out) (h : o ∈ e.st.sent) : o ∈ (e.answer q op a).st.sent := by
  unfold Eff.answer
  extract_lets m e1
  have kept : o ∈ e1.st.sent := by rw [Eff.modSession_st]; exact h
  cases q.src with
  | udp x y z => exact List.mem_cons_of_mem _ kept
  | can c =>
    simp only [Eff.transmit, Bool.false_eq_true, if_false, Eff.modSess_st, Eff.emitAll_st]
    exact List.mem_append_right _ kept
  | spi => exact kept

/-- TRIP of class HALT. -/
theorem execTrip_trips (s : State) (q : Req) (lvl sid : Nat) (h : s.Invoked q oTrip [] 1 true lvl sid)
    (hstate : s.dev.state ∉ [.off, .boot, .safe]) (hclass : (Eff.start s).classOf kTripAction sid = 5)
    (hearly : (Eff.start s).earlyGates = []) :
    ∃ t, execTrip q [] s = .next t ∧ t.Replied q 3 ansOk ∧ s.TripsTo 5 1 t ∧
      t = { s with sess := t.sess, sent := t.sent, dev := t.dev, hub := t.hub, gate := t.gate, faults := t.faults, jrnl := t.jrnl } := by
  obtain ⟨e, hst, hinvoke⟩ := invoke_answers s q oTrip 1 lvl sid actTrip ansOk (fun e => e.fault 0x0F0 kTripAction sid) h
    fun e hdev hpair _ => (actTrip_eq e ⟨lvl, sid, .req q⟩ (by rw [hpair]; exact h.role)).2 (by rw [hdev]; exact hstate)
  have class5 : e.classOf kTripAction sid = 5 := by
    obtain ⟨st, _, _⟩ := e
    generalize st.sess = x at hst
    subst hst
    exact hclass
  have noEarly : e.earlyGates = [] := by
    obtain ⟨st, _, _⟩ := e
    generalize st.sess = x at hst
    subst hst
    exact hearly
  obtain ⟨_, rfl, ⟨tripped, held, dev⟩, kept⟩ := e.fault_tripAction 0x0F0 sid class5 (by rw [hst]; exact h.role) noEarly
    (by rw [hst]; exact hstate)
  generalize e.fault 0x0F0 kTripAction sid = x at hinvoke tripped held dev kept
  have answered := x.answer_st q 3 ansOk
  rw [hst] at tripped dev kept
  refine ⟨_, congrArg (fun e : Act s => Host.Outcome.next e.st) hinvoke, Eff.answer_replied .., ⟨?_, ?_, ?_⟩, ?_⟩
  · exact fun l hl hlocked => x.answer_keeps_sent q 3 ansOk _ (tripped l hl hlocked)
  · rw [answered]; exact held
  · rw [answered]; exact dev
  · rw [answered, kept]

/-- Settles O24: an order waits for the frame boundary, a trip acts at once. -/
theorem deviceActionsComplete : Obligations.DeviceActionsComplete := by
  unfold Obligations.DeviceActionsComplete
  refine ⟨?start, ?stop, ?trip, ?safeExit⟩
  case start =>
    intro s q lvl sid h
    refine ⟨fun hstate => ?_, fun hstate => ?_⟩
    · exact invoke_orders s q oStart 1 lvl sid actStart .discover h fun e hdev hpair _ =>
        (actStart_eq e _ (by rw [hpair]; exact h.role)).1 (by rw [hdev]; exact hstate)
    · exact invoke_noChange s q oStart 1 lvl sid actStart h fun e hdev hpair =>
        (actStart_eq e _ (by rw [hpair]; exact h.role)).2 (by rw [hdev]; exact hstate)
  case stop =>
    intro s q lvl sid h
    refine ⟨fun hstate => ?_, fun hstate => ?_⟩
    · exact invoke_orders s q oStop 1 lvl sid actStop .stopping h fun e hdev hpair _ =>
        (actStop_eq e _ (by rw [hpair]; exact h.role)).1 (by rw [hdev]; exact hstate)
    · exact invoke_noChange s q oStop 1 lvl sid actStop h fun e hdev hpair =>
        (actStop_eq e _ (by rw [hpair]; exact h.role)).2 (by rw [hdev]; exact hstate)
  case trip =>
    intro s q lvl sid h
    refine ⟨fun hstate => ?_, fun hstate hclass hearly => ?_⟩
    · exact invoke_noChange s q oTrip 1 lvl sid actTrip h fun e hdev hpair =>
        (actTrip_eq e _ (by rw [hpair]; exact h.role)).1 (by rw [hdev]; exact hstate)
    · obtain ⟨t, ht, replied, ⟨tripped, held, dev⟩, kept⟩ := execTrip_trips s q lvl sid h hstate hclass hearly
      exact ⟨t, ht, replied, tripped, held, dev, kept⟩
  case safeExit =>
    intro s q lvl sid h
    refine ⟨fun hstate hcond => ?_, fun hstate => ?_⟩
    · refine invoke_orders s q oSafeExit 2 lvl sid actSafeExit .ready h fun e hdev hpair hst =>
        (actSafeExit_eq e _ (by rw [hpair]; exact h.role)).1 (by rw [hdev]; exact hstate) ?_
      obtain ⟨st, _, _⟩ := e
      generalize st.sess = x at hst
      subst hst
      exact hcond
    · exact invoke_noChange s q oSafeExit 2 lvl sid actSafeExit h fun e hdev hpair =>
        (actSafeExit_eq e _ (by rw [hpair]; exact h.role)).2 (by rw [hdev]; exact hstate)

end Sys2Proof.Machine
end

