-- ==== Sys2Proof/Proofs/StateTimers.lean ====
section
/-! SUPPORT. The timeouts of the device states (R121, R125, R127, R130, R430). -/

namespace Sys2Proof.Machine

variable {s0 : Root}

/-- Cells that depart for one cause are listed with it, and nothing else changes. -/
theorem Eff.departs_st (e : Eff s0) (cells : List Nat) (cause : Nat) :
    (e.each cells fun e c => e.depart c cause).st =
      { e.st with chain := { e.st.chain with departs := e.st.chain.departs ++ cells.map fun c => (c, cause) } } := by
  induction cells generalizing e with
  | nil => simp
  | cons c r ih =>
    rw [Eff.each_cons, ih]
    simp only [Eff.depart, Eff.modChain_st, List.map_cons, List.append_assoc, List.singleton_append]

/-- Ordering a transition changes the orders alone. -/
theorem Eff.pushEv_st (e : Eff s0) (d : DevState) (cause : Nat) (r : Ret) :
    (e.pushEv d cause r).st = { e.st with dev := { e.st.dev with events := e.st.dev.events ++ [⟨d, cause, r⟩] } } := rfl

/-- Some used phase has fewer than NMIN charged cells (R121). -/
def Eff.chargeShort (e : Eff s0) : Bool :=
  e.usedPhases.any fun p => decide ((e.idleCells.filter fun c => e.phase c == p && e.linkInTol c).length < e.nmin p)

/-- CHARGE_TIMEOUT, due on an ACTIVE device: the count of charged cells does not depend on the departures. -/
theorem execChargeTimeout_due (s : State) (hstate : s.dev.state = .charge) (hrole : s.pair.role = .active)
    (hdue : s.dev.chargeAt + s.cv oChargeTimeout 0 * 1000000 ≤ s.time.up) :
    execChargeTimeout s = .next { s with
      chain := { s.chain with departs := s.chain.departs ++
        ((Eff.start s).idleCells.filter fun c => !(Eff.start s).linkInTol c).map fun c => (c, 6) }
      dev := { s.dev with events := s.dev.events ++ if (Eff.start s).chargeShort = true then [⟨.stopping, 3, .nobody⟩] else [] } } := by
  unfold execChargeTimeout
  extract_lets e bad e1 short
  rw [if_neg (by simp [e, hstate, hrole, Eff.isActive, Nat.not_lt.mpr hdue])]
  have departed : e1.st = { s with chain := { s.chain with departs := s.chain.departs ++ bad.map fun c => (c, 6) } } := e.departs_st bad 6
  have same : short = e.chargeShort := by
    change e1.chargeShort = e.chargeShort
    clear_value e1
    obtain ⟨st, _, _⟩ := e1
    subst departed
    rfl
  rw [same]
  cases hshort : e.chargeShort with
  | true => rw [Eff.when_true, Eff.pushEv_st, departed]; rfl
  | false => rw [Eff.when_false, departed, if_neg Bool.false_ne_true, List.append_nil]

/-- A timer that is armed acts once it is due. -/
theorem Eff.when_armed_st (e : Eff s0) (armed : Bool) (due : Prop) [Decidable due] (f : Eff s0 → Eff s0) (h : armed = true) :
    (e.when (armed && decide due) f).st = if due then (f e).st else e.st := by
  by_cases hdue : due <;> simp [h, hdue]

/-- SYNC_TIMEOUT on an ACTIVE device in SYNC. -/
theorem execSyncTimeout_active (s : State) (hstate : s.dev.state = .sync) (hrole : s.pair.role = .active) :
    execSyncTimeout s = .next (if s.dev.syncAt + s.cv oSyncTimeout 0 * 1000000 ≤ s.time.up then
      { s with dev := { s.dev with events := s.dev.events ++ [⟨.stopping, 4, .nobody⟩] } } else s) :=
  congrArg Host.Outcome.next ((Eff.start s).when_armed_st _ _ (·.pushEv .stopping 4) (by simp [hstate, hrole, Eff.isActive]))

/-- BRK_FAIL, due on an ACTIVE device in SYNC that has not ordered it yet. -/
theorem execBrkFail_due (s : State) (a : Nat) (hat : s.dev.brkAt = some a) (hstate : s.dev.state = .sync) (hrole : s.pair.role = .active)
    (haux : s.cv oBrkAux 0 ≠ 0xFF) (hopen : (Eff.start s).brkClosed = false) (hnew : ∀ v ∈ s.dev.events, v.cause ≠ 7)
    (hdue : a + s.cv oBrkTime 0 * 1000000 ≤ s.time.up) (hquiet : s.Quiet kBrkFail 0) :
    execBrkFail s = .next { s with
      faults := s.noted 0x0F0 kBrkFail 0, dev := { s.dev with events := s.dev.events ++ [⟨.stopping, 7, .nobody⟩] } } := by
  have fresh : (s.dev.events.any fun v => v.cause == 7) = false := by simpa using hnew
  have reported : ((Eff.start s).fault 0x0F0 kBrkFail).st = { s with faults := s.noted 0x0F0 kBrkFail 0 } :=
    (Eff.start s).fault_quiet _ _ _ hquiet
  unfold execBrkFail
  extract_lets e
  rw [show e.dev.brkAt = some a from hat]
  refine congrArg Host.Outcome.next ((e.when_armed_st _ _ _ ?_).trans ((if_pos hdue).trans ?_))
  · simp [e, hstate, hrole, haux, hopen, fresh, Eff.isActive]
  · rw [Eff.pushEv_st, reported]

/-- STOP_TIMEOUT, due on an ACTIVE device in STOPPING, trips the cascade. -/
theorem execStopTimeout_due (s : State) (hstate : s.dev.state = .stopping) (hrole : s.pair.role = .active) (haux : s.cv oBrkAux 0 ≠ 0xFF)
    (hdue : s.dev.stopAt + (s.cv oStopRamp 0 + 1000) * 1000000 ≤ s.time.up) :
    execStopTimeout s = .next ((Eff.start s).tripCascade 5 6).st :=
  congrArg Host.Outcome.next (((Eff.start s).when_armed_st _ _ (·.tripCascade 5 6) (by simp [hstate, hrole, haux, Eff.isActive])).trans
    (if_pos hdue))

/-- DERATE_CLEAR_TIMEOUT on an ACTIVE device in DERATED whose causes have cleared. -/
theorem execDerateClearTimeout_active (s : State) (a : Nat) (hclear : s.dev.derateClear = some a) (hstate : s.dev.state = .derated)
    (hrole : s.pair.role = .active) (hderate : s.dev.derate = 0) (hauto : s.cv oDerateAuto 0 = 1) :
    execDerateClearTimeout s = .next (if a + 1000000000 ≤ s.time.up then { s with
      dev := { s.dev with derateClear := none, events := s.dev.events ++ [⟨.run, 0, .nobody⟩] } } else s) := by
  unfold execDerateClearTimeout
  extract_lets e
  rw [show e.dev.derateClear = some a from hclear]
  exact congrArg Host.Outcome.next (e.when_armed_st _ _ _ (by simp [e, hstate, hrole, hderate, hauto, Eff.isActive]))

/-- Bit 0 of DERATE_CAUSES clears, and where it was the only one the time without a cause starts. -/
theorem Eff.derateUnset_hold (e : Eff s0) (hbit : bitOf e.st.dev.derate 0 = true) :
    (e.derateUnset 0).st = { e.st with dev := { e.st.dev with
      derate := e.st.dev.derate - 1
      derateClear := if e.st.dev.derate = 1 then some e.st.time.up else e.st.dev.derateClear } } := by
  have one : (e.st.dev.derate - 1 = 0 && e.st.dev.derate != 0) = decide (e.st.dev.derate = 1) := by
    have : e.st.dev.derate ≠ 0 := by
      intro h
      rw [h] at hbit
      exact absurd hbit (by decide)
    rw [bne_iff_ne.mpr this, Bool.and_true]
    exact decide_eq_decide.mpr (by omega)
  simp only [Eff.derateUnset, Eff.modDev_st, hbit, if_true, pow_zero, one, decide_eq_true_eq, Eff.time]

/-- DERATE_HOLD_EXPIRY in every role. -/
theorem execDerateHoldExpiry_set (s : State) (hbit : bitOf s.dev.derate 0 = true) :
    execDerateHoldExpiry s = .next (if s.dev.derateSince + s.cv oDerateHold 0 * 1000000000 ≤ s.time.up then { s with
      dev := { s.dev with
        derate := s.dev.derate - 1, derateClear := if s.dev.derate = 1 then some s.time.up else s.dev.derateClear } } else s) := by
  refine congrArg Host.Outcome.next (((Eff.start s).when_armed_st _ _ (·.derateUnset 0) hbit).trans ?_)
  rw [(Eff.start s).derateUnset_hold hbit]
  rfl

/-- Settles O28, a timer at a time: each is its check, and orders a transition or, for DERATE_HOLD_EXPIRY, clears its bit. -/
theorem stateTimersComplete : Obligations.StateTimersComplete := by
  unfold Obligations.StateTimersComplete
  refine ⟨?charge, execSyncTimeout_active, execBrkFail_due, ?stop, execDerateClearTimeout_active, execDerateHoldExpiry_set⟩
  case charge =>
    intro s hstate hrole hdue
    exact ⟨_, execChargeTimeout_due s hstate hrole hdue, rfl, rfl, rfl⟩
  case stop =>
    intro s hstate hrole haux hdue
    have live : (Eff.start s).live = true := by simp [Eff.live, Eff.isActive, hstate, hrole]
    obtain ⟨t, ht, ⟨tripped, held, dev⟩, kept⟩ := (Eff.start s).tripCascade_tripsTo 5 6 live (by simp [hstate])
    exact ⟨t, ht ▸ execStopTimeout_due s hstate hrole haux hdue, tripped, held, dev, kept⟩

end Sys2Proof.Machine
end

