-- ==== Sys2Proof/Proofs/Roles.lean ====
section
/-! SUPPORT. Start-up step 6: the role that PRESENT_N, ROLE_OK and the ROLE strap give (R112, R177, R450, R472, R476). -/

namespace Sys2Proof.Machine

variable {s0 : Root}

/-! ### What step 6 decides -/

/-- What step 6 decides, with what it must leave alone: what was sent, the points, and the committed set with the strap its defaults read. -/
structure Standing where
  sent : List Out
  pts : SMap PointWord
  cfg : SMap (Option Nat)
  state : DevState
  stage : Nat
  role : Role
  claim : Bool
  epoch : Nat
  roleOk : Bool
  strapB : Bool
  hiZ : Bool

/-- The standing of a state. -/
def State.standing (s : State) : Standing :=
  ⟨s.sent, s.pts, s.cfg, s.dev.state, s.dev.bootStage, s.pair.role, s.pair.claim, s.pair.epoch, s.pair.roleOk,
    s.pair.strapB, s.gate.hiZ⟩

theorem State.Driven.standing {a b : State} (h : a.Driven b) : b.standing = a.standing := by
  rw [h]
  rfl

theorem Eff.each_standing {α : Type} (e : Eff s0) (l : List α) (f : Eff s0 → α → Eff s0)
    (h : ∀ (e : Eff s0) (x : α), (f e x).st.standing = e.st.standing) : (e.each l f).st.standing = e.st.standing :=
  Eff.foldl_rel (fun a b => b.standing = a.standing) (fun _ => rfl) (fun _ _ _ h k => k.trans h) f h l e

theorem Eff.when_standing (e : Eff s0) (c : Bool) (f : Eff s0 → Eff s0) (h : (f e).st.standing = e.st.standing) :
    (e.when c f).st.standing = e.st.standing := by
  cases c with
  | true => exact h
  | false => rfl

/-! ### Operations that leave the standing as it is -/

theorem Eff.event_standing (e : Eff s0) (n : Nat) : (e.event n).st.standing = e.st.standing := rfl

theorem Eff.modHub_standing (e : Eff s0) (f : HubSt → HubSt) : (e.modHub f).st.standing = e.st.standing := rfl

theorem Eff.modMeter_standing (e : Eff s0) (f : MeterSt → MeterSt) : (e.modMeter f).st.standing = e.st.standing := rfl

theorem Eff.modDev_standing (e : Eff s0) (f : DevSt → DevSt) (h : ∀ v, (f v).bootStage = v.bootStage) :
    (e.modDev f).st.standing = e.st.standing := by
  rw [Eff.modDev_st, State.standing, h]
  rfl

theorem Eff.driveLeg_driven (e : Eff s0) (u pos : Nat) : e.st.Driven (e.driveLeg u pos).st := by
  unfold Eff.driveLeg
  split
  · exact .refl _
  · split
    · exact .refl _
    · exact e.driveGates_driven _ _ _ _

theorem Eff.driveLegs_driven (e : Eff s0) : e.st.Driven e.driveLegs.st := e.each_driven _ _ fun e u => e.driveLeg_driven u _

theorem Eff.allGatesOff_driven (e : Eff s0) : e.st.Driven e.allGatesOff.st := e.each_driven _ _ fun e k => (e.modGch_gated k _).driven

theorem Eff.setOut_standing (e : Eff s0) (n : Nat) (f : Aux → Aux) : (e.setOut n f).st.standing = e.st.standing :=
  Eff.when_standing (e.modOut n _) _ _ rfl

theorem Eff.auxOff_standing (e : Eff s0) : e.auxOff.st.standing = e.st.standing :=
  e.each_standing _ _ fun e n => e.setOut_standing n _

theorem Eff.clkoutGap_standing (e : Eff s0) : e.clkoutGap.st.standing = e.st.standing := e.each_standing _ _ fun _ _ => rfl

theorem Eff.clkoutFollow_standing (e : Eff s0) : e.clkoutFollow.st.standing = e.st.standing := by
  rw [Eff.clkoutFollow_st]
  rfl

theorem Eff.endSessions_standing (e : Eff s0) : e.endSessions.st.standing = e.st.standing := by
  have ended : ∀ (e : Eff s0) (id : Nat), (e.endSession id).st.standing = e.st.standing := by
    intro e id
    obtain ⟨h, -, -⟩ := e.endSession_st id
    generalize (e.endSession id).st = t at h
    rw [h]
    rfl
  unfold Eff.endSessions
  exact (Eff.when_standing _ _ (·.endInjection) rfl).trans (Eff.each_standing e _ (fun e id => e.endSession id) ended)

theorem Eff.updateSource_standing (e : Eff s0) : e.updateSource.st.standing = e.st.standing := by
  unfold Eff.updateSource
  extract_lets
  split <;> rfl

theorem Eff.joinLanes_standing (e : Eff s0) : e.joinLanes.st.standing = e.st.standing := Eff.when_standing _ _ _ rfl

/-! ### READY -/

/-- A state entered from BOOT, other than OFF and BOOT. -/
theorem Eff.setState_standing (e : Eff s0) (d : DevState) (cause : Nat) (hstate : e.st.dev.state = .boot) (hd : ¬(d = .off ∨ d = .boot)) :
    (e.setState d cause).st.standing = { e.st.standing with state := d } := by
  have plain : e.setState d cause = (e.putState d cause).event 8 := by
    unfold Eff.setState
    rw [show e.dev.state = .boot from hstate]
    rfl
  rw [plain, Eff.event_st, Eff.putState_st e d cause hd]
  rfl

/-- What else goes with READY (R103): the hub stops, emergency support and the tests of the outputs end. -/
def Eff.readied (e : Eff s0) : Eff s0 :=
  let e := (e.endEmergency.stopHub.modHub fun h => { h with halted := [] }).modDev fun v => { v with brkAt := none, auxTodo := [] }
  let e := e.each (List.range 16) fun e n => e.when (e.out n).testing (·.setOut n fun a => { a with testing := false, result := 5 })
  e.when (e.isActive && !e.gate.hiZ) (·.safeLevels (List.range 12))

theorem Eff.readied_standing (e : Eff s0) : e.readied.st.standing = e.st.standing := by
  unfold Eff.readied
  extract_lets e1 e2
  have tests : e2.st.standing = e1.st.standing := e1.each_standing _ _ fun e n => Eff.when_standing _ _ _ (e.setOut_standing n _)
  have stops : e1.st.standing = e.st.standing := by
    refine (Eff.modDev_standing _ _ ?_).trans ?_
    · exact fun _ => rfl
    · rw [Eff.modHub_standing, Eff.stopHub, Eff.modHub_standing, Eff.endEmergency, Eff.modMeter_standing]
  rw [Eff.when_standing _ _ _ (Eff.safeLevels_driven _ _).standing, tests, stops]

/-- A device in BOOT becomes READY. -/
theorem Eff.enterReady_standing (e : Eff s0) (cause : Nat) (hstate : e.st.dev.state = .boot) :
    (e.enterState .ready cause).st.standing = { e.st.standing with state := .ready } := by
  have entered : e.enterState .ready cause = (e.setState .ready cause).readied := if_neg (by simp [hstate])
  rw [entered, Eff.readied_standing, e.setState_standing .ready cause hstate (by decide)]

/-- Step 6 ends in READY. -/
theorem Eff.bootReady_standing (e : Eff s0) (hstate : e.st.dev.state = .boot) :
    e.bootReady.st.standing = { e.st.standing with state := .ready, stage := 6 } := by
  unfold Eff.bootReady
  generalize hx : (e.bootDone 6).modPair _ = x
  have done : x.st.standing = { e.st.standing with stage := 6 } := by
    rw [← hx]
    rfl
  rw [x.enterReady_standing 0 ((congrArg Standing.state done).trans hstate), done]

/-! ### A role is taken -/

/-- A device neither in OFF nor in BOOT becomes ACTIVE. -/
theorem Eff.setRole_active_standing (e : Eff s0) (h : e.st.dev.state ≠ .off ∧ e.st.dev.state ≠ .boot) :
    (e.setRole .active).st.standing = { e.st.standing with role := .active } := by
  rw [Eff.setRole, dif_pos rfl, dif_pos h]
  rfl

theorem Eff.setRole_passive_standing (e : Eff s0) (r : Role) (h : r ≠ .active) :
    (e.setRole r).st.standing = { e.st.standing with role := r, claim := false, hiZ := true } := by
  rw [Eff.setRole_st e r h]
  rfl

/-- A change of role, but for what the device reports of it. -/
def Eff.roleSet (e : Eff s0) (r : Role) : Eff s0 :=
  ((e.endSessions.when (r != .active) fun e => e.releaseClaim.auxOff).setRole r).event 10

theorem Eff.becomeRole_standing (e : Eff s0) (r : Role) : (e.becomeRole r).st.standing = (e.roleSet r).st.standing := by
  unfold Eff.becomeRole
  extract_lets e1 was e2
  have set : e2 = e.roleSet r := rfl
  rw [← set]
  refine Eff.when_standing _ _ _ ?_
  rw [Eff.event_standing]
  exact Eff.modDev_standing _ _ fun _ => rfl

/-- A READY device becomes ACTIVE. -/
theorem Eff.becomeActive_standing (e : Eff s0) (h : e.st.dev.state = .ready) :
    (e.becomeRole .active).st.standing = { e.st.standing with role := .active } := by
  have ended := e.endSessions_standing
  have ready : e.endSessions.st.dev.state = .ready := (congrArg Standing.state ended).trans h
  have set : e.roleSet .active = (e.endSessions.setRole .active).event 10 := rfl
  rw [Eff.becomeRole_standing, set, Eff.event_standing, Eff.setRole_active_standing _ (by simp [ready]), ended]

/-- The claim is released and the outputs go high-impedance. -/
theorem Eff.releaseClaim_standing (e : Eff s0) : e.releaseClaim.st.standing = { e.st.standing with claim := false, hiZ := true } := by
  unfold Eff.releaseClaim
  generalize he : (e.when (!e.gate.hiZ) (·.clkoutGap)).allGatesOff = x
  have off : x.st.standing = e.st.standing := by
    rw [← he, (Eff.allGatesOff_driven _).standing, Eff.when_standing _ _ _ e.clkoutGap_standing]
  have dropped : x.dropClaim.st.standing = { x.st.standing with claim := false, hiZ := true } := rfl
  rw [Eff.clkoutFollow_standing, dropped, off]

/-- A device takes a role other than ACTIVE. -/
theorem Eff.becomePassive_standing (e : Eff s0) (r : Role) (h : r ≠ .active) :
    (e.becomeRole r).st.standing = { e.st.standing with role := r, claim := false, hiZ := true } := by
  have set : e.roleSet r = (e.endSessions.releaseClaim.auxOff.setRole r).event 10 := by
    unfold Eff.roleSet
    rw [bne_iff_ne.mpr h, Eff.when_true]
  rw [Eff.becomeRole_standing, set, Eff.event_standing, Eff.setRole_passive_standing _ r h, Eff.auxOff_standing, Eff.releaseClaim_standing,
    Eff.endSessions_standing]

/-! ### The claim -/

/-- An ACTIVE device takes the claim and drives the hub. -/
theorem Eff.claimHub_standing (e : Eff s0) (h : e.st.pair.role = .active) :
    e.claimHub.st.standing = { e.st.standing with claim := true, roleOk := false, hiZ := false } := by
  unfold Eff.claimHub
  extract_lets e1 e2
  have noted : e1.st.standing = { e.st.standing with roleOk := false } := rfl
  have gap : e1.clkoutGap.st.standing = { e.st.standing with roleOk := false } := e1.clkoutGap_standing.trans noted
  have role : e1.clkoutGap.st.pair.role = .active := (congrArg Standing.role gap).trans h
  have claimed : e1.clkoutGap.takeClaim.st.standing = { e1.clkoutGap.st.standing with claim := true, hiZ := false } := by
    rw [Eff.takeClaim_st _ role]
    rfl
  have taken : e2.st.standing = { e.st.standing with claim := true, roleOk := false, hiZ := false } := by
    rw [show e2 = e1.clkoutGap.takeClaim.clkoutFollow from rfl, Eff.clkoutFollow_standing, claimed, gap]
  rw [← taken]
  split
  · exact e2.driveLegs_driven.standing
  · exact (e2.safeLevels_driven _).standing

/-- The claim at step 6, before what AUTOSTART adds. -/
def Eff.bootActive (e : Eff s0) : Eff s0 :=
  let e := (e.bootReady.becomeRole .active).modPair fun p => { p with epoch := 1 }
  let e := e.modMeter fun m => match m.pfArea with
    | some (_, _, l) => { m with closes := m.closes ++ l, pfArea := none }
    | none => m
  e.claimHub.updateSource

theorem Eff.bootClaim_eq (e : Eff s0) : e.bootClaim = e.bootActive.when (e.bootActive.cv oAutostart == 1) (·.enterState .discover 2) := rfl

theorem Eff.bootActive_standing (e : Eff s0) (hstate : e.st.dev.state = .boot) :
    e.bootActive.st.standing = { e.st.standing with
      state := .ready, stage := 6, role := .active, claim := true, epoch := 1, roleOk := false, hiZ := false } := by
  have ready := e.bootReady_standing hstate
  have active := e.bootReady.becomeActive_standing (congrArg Standing.state ready)
  unfold Eff.bootActive
  generalize e.bootReady.becomeRole .active = x at active
  extract_lets e1 e2
  have epoch : e2.st.standing = { x.st.standing with epoch := 1 } := rfl
  have role : e2.st.pair.role = .active := by
    rw [active] at epoch
    exact congrArg Standing.role epoch
  rw [Eff.updateSource_standing, Eff.claimHub_standing _ role, epoch, active, ready]

/-- What changes nothing. -/
theorem Eff.when_same (e : Eff s0) (c : Bool) (f : Eff s0 → Eff s0) (h : f e = e) : e.when c f = e := by
  cases c with
  | true => exact h
  | false => rfl

/-- The device joins at step 6. -/
theorem Eff.bootJoin_standing (e : Eff s0) (hstate : e.st.dev.state = .boot) :
    e.bootJoin.st.standing = { e.st.standing with state := .ready, stage := 6, role := .joining, claim := false, hiZ := true } := by
  have ready := e.bootReady_standing hstate
  have joining := e.bootReady.becomePassive_standing .joining (by decide)
  unfold Eff.bootJoin Eff.enterJoining
  generalize e.bootReady.becomeRole .joining = x at joining
  rw [ready] at joining
  have same : x.enterState .ready 10 = x := if_pos (congrArg Standing.state joining).symm
  extract_lets e0 e1 e2
  have stays : e1 = x := x.when_same _ _ same
  have noted : e2.st.standing = e1.st.standing := rfl
  rw [Eff.joinLanes_standing, Eff.modMeter_standing, noted, stays, joining]

/-! ### AUTOSTART -/

/-- What discovery may change: it sends, keeps its commands, and goes on in its own steps. -/
def State.Searched (a b : State) : Prop :=
  b = { a with sent := b.sent, chain := b.chain, dev := { b.dev with state := a.dev.state, cause := a.dev.cause } }

theorem Eff.sendCommand_searched (e : Eff s0) (n cmd target : Nat) (args : List Byte) : e.st.Searched (e.sendCommand n cmd target args).st := by
  unfold Eff.sendCommand Eff.sendChain
  extract_lets t body e1
  have sent : e1.st = { e.st with sent := e1.st.sent } := by
    rw [show e1.st = _ from Eff.whenEmit_st ..]
  unfold State.Searched
  rw [Eff.modChain_st, sent]

theorem State.Searched.trans (a b c : State) (h : a.Searched b) (k : b.Searched c) : a.Searched c := by
  unfold State.Searched at *
  rw [k, h]

theorem Eff.startDiscovery_searched (e : Eff s0) : e.st.Searched e.startDiscovery.st := by
  unfold Eff.startDiscovery
  extract_lets e1 e2
  have begun : e.st.Searched e2.st := rfl
  refine .trans _ _ _ begun (Eff.foldl_rel State.Searched (fun _ => rfl) .trans _ (fun e n => ?_) _ _)
  cases e.locked n with
  | true => exact e.sendCommand_searched n 1 255 []
  | false => rfl

theorem Eff.trainingStep_searched (e : Eff s0) : e.st.Searched e.trainingStep.st := by
  unfold Eff.trainingStep
  cases e.dev.state == .discover && e.dev.discStep == 7 && (e.usedChains ++ [24, 25]).all e.laneTrained with
  | false => rfl
  | true => exact e.startDiscovery_searched

/-- The owning blocks that leave idle are marked in the domains alone. -/
theorem Eff.leaveIdle_st (e : Eff s0) (owns : Nat → Bool) : (e.leaveIdle owns).st = { e.st with doms := (e.leaveIdle owns).st.doms } := by
  unfold Eff.leaveIdle Eff.each
  refine Eff.foldl_rel (fun a b => b = { a with doms := b.doms }) (fun _ => rfl) (fun a b c h k => by rw [k, h]) _ (fun e p => ?_) _ e
  split
  · next r _ _ => cases r.acc == .rws && owns p.1 && r.dom < 15 <;> rfl
  · rfl

/-- A READY device goes on to DISCOVER: role, claim and configuration stay. -/
theorem Eff.enterDiscover_of_ready (e : Eff s0) (cause : Nat) (hstate : e.st.dev.state = .ready) (t : State)
    (ht : t = (e.enterState .discover cause).st) :
    t.dev.state = .discover ∧ t.dev.cause = cause ∧ t.pair = e.st.pair ∧ t.gate = e.st.gate ∧ t.cfg = e.st.cfg := by
  have entered : e.enterState .discover cause = (((e.leaveIdle fun _ => true).putState .discover cause).event 8).enterDiscover := by
    unfold Eff.enterState Eff.setState
    simp only [Eff.dev, hstate]
    rfl
  have put : ((e.leaveIdle fun _ => true).putState .discover cause).st = { e.st with
      doms := (e.leaveIdle fun _ => true).st.doms, dev := { e.st.dev with state := .discover, cause := cause } } := by
    rw [Eff.putState_st _ _ _ (by decide), Eff.leaveIdle_st]
  rw [entered, Eff.enterDiscover] at ht
  have searched := Eff.trainingStep_searched ((((e.leaveIdle fun _ => true).putState .discover cause).event 8).modDev fun v =>
    { v with discStep := 7, discFaults := [] })
  rw [← ht, Eff.modDev_st, Eff.event_st, put] at searched
  rw [searched]
  exact ⟨rfl, rfl, rfl, rfl, rfl⟩

/-! ### The commands -/

/-- The levels of PRESENT_N and ROLE_OK are read. -/
def Eff.seesPins (e : Eff s0) (presentN roleOk : Bool) : Eff s0 := e.modPair fun p => { p with presentN := presentN, roleOk := roleOk }

/-- Step 6 looks at the pins where it does not wait already. -/
theorem execRoleNegotiation_inStep (s : State) (a b : Bool) (h : s.BootAt 5) (hwait : s.pair.waitAt = none) :
    execRoleNegotiation a b s = .next (match a, b with
      | true, true => ((Eff.start s).seesPins true true).bootClaim
      | false, false => ((Eff.start s).seesPins false false).bootJoin
      | false, true => if s.pair.strapB then ((Eff.start s).seesPins false true).modPair fun p => { p with waitAt := some s.time.up }
        else ((Eff.start s).seesPins false true).bootClaim
      | true, false => (((Eff.start s).seesPins true false).fault 0x050 kRoleLine).bootFails).st := by
  refine (if_neg (by simp [h.check, hwait])).trans ?_
  cases a <;> cases b <;> rfl

/-- What a claim at step 6 leaves of a state without AUTOSTART. -/
def State.Claims (s t : State) : Prop :=
  t.pair.role = .active ∧ t.pair.epoch = 1 ∧ t.pair.claim = true ∧ t.gate.hiZ = false ∧ t.dev.state = .ready ∧ t.dev.bootStage = 6 ∧
    t.sent = s.sent ∧ t.pts = s.pts ∧ t.cfg = s.cfg

/-- The claim of a device in BOOT. -/
theorem Eff.bootActive_claims (e : Eff s0) (hstate : e.st.dev.state = .boot) : e.st.Claims e.bootActive.st := by
  have claimed := e.bootActive_standing hstate
  generalize e.bootActive.st = t at claimed ⊢
  exact ⟨congrArg Standing.role claimed, congrArg Standing.epoch claimed, congrArg Standing.claim claimed, congrArg Standing.hiZ claimed,
    congrArg Standing.state claimed, congrArg Standing.stage claimed, congrArg Standing.sent claimed, congrArg Standing.pts claimed,
    congrArg Standing.cfg claimed⟩

/-- AUTOSTART is what it was before the claim. -/
theorem Eff.bootActive_cv (e : Eff s0) (hstate : e.st.dev.state = .boot) : e.bootActive.st.cv = e.st.cv := by
  have claimed := e.bootActive_standing hstate
  generalize e.bootActive.st = t at claimed ⊢
  exact State.cv_congr (congrArg Standing.cfg claimed) (congrArg Standing.strapB claimed)

/-- Without AUTOSTART the device stays READY. -/
theorem Eff.bootClaim_claims (e : Eff s0) (hstate : e.st.dev.state = .boot) (hauto : e.st.cv oAutostart 0 ≠ 1) :
    e.st.Claims e.bootClaim.st := by
  have off : (e.bootActive.cv oAutostart == 1) = false := by
    rw [Eff.cv, e.bootActive_cv hstate]
    exact beq_eq_false_iff_ne.mpr hauto
  rw [Eff.bootClaim_eq, off, Eff.when_false]
  exact e.bootActive_claims hstate

/-- With AUTOSTART it goes on to DISCOVER. -/
theorem Eff.bootClaim_discovers (e : Eff s0) (hstate : e.st.dev.state = .boot) (hauto : e.st.cv oAutostart 0 = 1) (t : State)
    (ht : t = e.bootClaim.st) :
    t.pair.role = .active ∧ t.pair.epoch = 1 ∧ t.pair.claim = true ∧ t.gate.hiZ = false ∧ t.dev.state = .discover ∧ t.dev.cause = 2 ∧
      t.cfg = e.st.cfg := by
  have on : (e.bootActive.cv oAutostart == 1) = true := by
    rw [Eff.cv, e.bootActive_cv hstate, hauto]
    rfl
  rw [Eff.bootClaim_eq, on, Eff.when_true] at ht
  obtain ⟨role, epoch, claim, hiZ, ready, -, -, -, cfg⟩ := e.bootActive_claims hstate
  obtain ⟨state, cause, pair, gate, kept⟩ := e.bootActive.enterDiscover_of_ready 2 ready t ht
  rw [pair, gate, kept]
  exact ⟨role, epoch, claim, hiZ, state, cause, cfg⟩

/-- What joining at step 6 leaves. -/
def State.Joins (s t : State) : Prop :=
  t.pair.role = .joining ∧ t.pair.claim = false ∧ t.gate.hiZ = true ∧ t.pair.roleOk = s.pair.roleOk ∧ t.dev.state = .ready ∧
    t.dev.bootStage = 6 ∧ t.sent = s.sent ∧ t.pts = s.pts ∧ t.cfg = s.cfg

theorem Eff.bootJoin_joins (e : Eff s0) (hstate : e.st.dev.state = .boot) : e.st.Joins e.bootJoin.st := by
  have joined := e.bootJoin_standing hstate
  generalize e.bootJoin.st = t at joined ⊢
  exact ⟨congrArg Standing.role joined, congrArg Standing.claim joined, congrArg Standing.hiZ joined, congrArg Standing.roleOk joined,
    congrArg Standing.state joined, congrArg Standing.stage joined, congrArg Standing.sent joined, congrArg Standing.pts joined,
    congrArg Standing.cfg joined⟩

/-- Alone, or as device A beside a peer that does not claim, the device claims. -/
theorem execRoleNegotiation_claims (s : State) (a : Bool) (h : s.BootAt 5) (hwait : s.pair.waitAt = none)
    (hfirst : a = true ∨ s.pair.strapB = false) :
    execRoleNegotiation a true s = .next ((Eff.start s).seesPins a true).bootClaim.st := by
  rw [execRoleNegotiation_inStep s a true h hwait]
  cases a with
  | true => rfl
  | false => simp [hfirst.resolve_left (by decide)]

/-- Beside a peer that claims it joins. -/
theorem execRoleNegotiation_joins (s : State) (h : s.BootAt 5) (hwait : s.pair.waitAt = none) :
    execRoleNegotiation false false s = .next ((Eff.start s).seesPins false false).bootJoin.st :=
  execRoleNegotiation_inStep s false false h hwait

/-- Device B beside a peer that does not claim waits. -/
theorem execRoleNegotiation_waits (s : State) (h : s.BootAt 5) (hwait : s.pair.waitAt = none) (hstrap : s.pair.strapB = true) :
    execRoleNegotiation false true s = .next { s with
      pair := { s.pair with presentN := false, roleOk := true, waitAt := some s.time.up } } := by
  rw [execRoleNegotiation_inStep s false true h hwait, hstrap]
  rfl

/-- An absent peer that claims is reported, and the start fails. -/
theorem execRoleNegotiation_roleLine (s : State) (h : s.BootAt 5) (hwait : s.pair.waitAt = none) (hquiet : s.Quiet kRoleLine 0) :
    execRoleNegotiation true false s = .next { s with
      pair := { s.pair with presentN := true, roleOk := false }, dev := { s.dev with bootFail := true }
      faults := s.noted 0x050 kRoleLine 0 } := by
  have quiet : ((Eff.start s).seesPins true false).st.Quiet kRoleLine 0 := hquiet.congr rfl rfl
  have reported := ((Eff.start s).seesPins true false).fault_quiet 0x050 kRoleLine 0 quiet
  rw [execRoleNegotiation_inStep s true false h hwait]
  dsimp only
  rw [Eff.bootFails, Eff.modDev_st, reported]
  rfl

/-- ROLE_WAIT_EXPIRY of device B, which waits: before the 2 s nothing happens. -/
theorem execRoleWaitExpiry_waits (s : State) (w : Nat) (hwait : s.pair.waitAt = some w) :
    (s.BootAt 5 → s.pair.roleOk = true → w + 2000000000 ≤ s.time.up → execRoleWaitExpiry s = .next (Eff.start s).bootClaim.st) ∧
    (s.time.up < w + 2000000000 → execRoleWaitExpiry s = .next s) := by
  unfold execRoleWaitExpiry
  extract_lets e
  rw [show e.pair.waitAt = some w from hwait]
  refine ⟨fun h hok hdue => ?_, fun hearly => ?_⟩
  · exact congrArg Host.Outcome.next ((e.when_armed_st _ _ (·.bootClaim) (by simp [e, h.check, hok])).trans (if_pos hdue))
  · simp [e, Nat.not_le.mpr hearly]

/-- ROLE_OK is seen to fall. -/
def Eff.roleOkFalls (e : Eff s0) : Eff s0 := e.modPair fun p => { p with roleOk := false, roleQual := false }

/-- ROLE_OK_FALL makes a device that waits join; of another it is noted. -/
theorem execRoleOkFall_eq (s : State) :
    (∀ w, s.BootAt 5 → s.pair.waitAt = some w → execRoleOkFall s = .next (Eff.start s).roleOkFalls.bootJoin.st) ∧
    (s.pair.waitAt = none → execRoleOkFall s = .next (Eff.start s).roleOkFalls.st) := by
  have meaning : execRoleOkFall s =
      .next ((Eff.start s).roleOkFalls.when ((Eff.start s).bootAt 5 && s.pair.waitAt.isSome) (·.bootJoin)).st := rfl
  rw [meaning]
  refine ⟨fun w h hwait => ?_, fun hwait => ?_⟩
  · rw [h.check, hwait, Option.isSome_some, Bool.and_self, Eff.when_true]
  · rw [hwait, Option.isSome_none, Bool.and_false, Eff.when_false]

/-- Settles O22, a command at a time: the pins decide between the claim, joining, waiting and a failed start. -/
theorem rolesAreDecidedAtStepSix : Obligations.RolesAreDecidedAtStepSix := by
  unfold Obligations.RolesAreDecidedAtStepSix
  refine ⟨?ready, ?autostart, ?pins, ?waiting, ?noted⟩
  case ready =>
    rintro s a _ hstate hstage hfail hwait rfl hfirst hauto
    exact ⟨_, execRoleNegotiation_claims s a ⟨hstate, hstage, hfail⟩ hwait hfirst,
      ((Eff.start s).seesPins a true).bootClaim_claims hstate hauto⟩
  case autostart =>
    rintro s a _ hstate hstage hfail hwait rfl hfirst hauto
    exact ⟨_, execRoleNegotiation_claims s a ⟨hstate, hstage, hfail⟩ hwait hfirst,
      ((Eff.start s).seesPins a true).bootClaim_discovers hstate hauto _ rfl⟩
  case pins =>
    intro s hstate hstage hfail hwait
    have step : s.BootAt 5 := ⟨hstate, hstage, hfail⟩
    obtain ⟨role, claim, hiZ, -, rest⟩ := ((Eff.start s).seesPins false false).bootJoin_joins hstate
    exact ⟨⟨_, execRoleNegotiation_joins s step hwait, role, claim, hiZ, rest⟩, execRoleNegotiation_waits s step hwait,
      execRoleNegotiation_roleLine s step hwait⟩
  case waiting =>
    intro s w hstate hstage hfail hwait
    have step : s.BootAt 5 := ⟨hstate, hstage, hfail⟩
    obtain ⟨due, early⟩ := execRoleWaitExpiry_waits s w hwait
    obtain ⟨joins, -⟩ := execRoleOkFall_eq s
    obtain ⟨role, -, -, roleOk, rest⟩ := (Eff.start s).roleOkFalls.bootJoin_joins hstate
    exact ⟨fun hok hdue hauto => ⟨_, due step hok hdue, (Eff.start s).bootClaim_claims hstate hauto⟩, early,
      ⟨_, joins w step hwait, role, roleOk, rest⟩⟩
  case noted =>
    intro s hwait
    obtain ⟨-, noted⟩ := execRoleOkFall_eq s
    exact noted hwait

end Sys2Proof.Machine
end

