-- ==== Sys2Proof/Proofs/LaneStates.lean ====
section
/-! SUPPORT. How a lane goes from state to state (R148 to R156): what it is after each qualified event, and that nothing but the lanes and
the collector changes with it. -/

namespace Sys2Proof.Machine

variable {s0 : Root}

/-! ### What a change of a lane leaves -/

/-- The state `b` is `a` but for the lanes and the collector. -/
def State.Laned (a b : State) : Prop := b = { a with lanes := b.lanes, faults := b.faults }

theorem State.Laned.refl (a : State) : a.Laned a := rfl

theorem State.Laned.trans {a b c : State} (h : a.Laned b) (k : b.Laned c) : a.Laned c := by
  unfold State.Laned at *
  rw [k, h]

theorem State.Laned.quiet {a b : State} {kind addr : Nat} (h : a.Laned b) (hq : a.Quiet kind addr) : b.Quiet kind addr :=
  hq.congr (by rw [h]) (by rw [h])

theorem Eff.modLane_lanes (e : Eff s0) (l : Nat) (f : Lane → Lane) :
    (e.modLane l f).st.lanes = smMod Lane.reset e.st.lanes l f :=
  congrArg State.lanes (e.modLane_faults l f _ rfl)

theorem Eff.modLane_laned (e : Eff s0) (l : Nat) (f : Lane → Lane) : e.st.Laned (e.modLane l f).st := by
  unfold State.Laned
  rw [e.modLane_lanes]
  exact e.modLane_faults l f _ rfl

/-- A lane out of OFF is listed. -/
theorem Lane.ne_reset {x : Lane} (h : x.state ≠ .off) : x ≠ Lane.reset := fun hreset => h (congrArg Lane.state hreset)

/-- A lane changed into one that is listed reads as that one. -/
theorem Eff.modLane_lane_of_ne (e : Eff s0) (l : Nat) (f : Lane → Lane) (h : f (e.lane l) ≠ Lane.reset) :
    (e.modLane l f).lane l = f (e.lane l) := by
  rw [Eff.lane, e.modLane_lanes]
  exact smGet_smMod_self _ _ _ _ h

theorem Eff.modLane_lane (e : Eff s0) (l : Nat) (f : Lane → Lane) (h : (f (e.lane l)).state ≠ .off) :
    (e.modLane l f).lane l = f (e.lane l) := e.modLane_lane_of_ne l f (Lane.ne_reset h)

/-- So does any lane where the lanes are in canonical form. -/
theorem Eff.modLane_lane_of_wf (e : Eff s0) (l : Nat) (f : Lane → Lane) (h : smWf Lane.reset e.st.lanes = true) :
    (e.modLane l f).lane l = f (e.lane l) := by
  rw [Eff.lane, e.modLane_lanes]
  exact (smGet_smSet _ _ _ _ none h l).trans (if_pos rfl)

/-- A lane out of OFF that is changed in its own state: the lanes change alone. -/
theorem Eff.modLane_same (e : Eff s0) (l : Nat) (f : Lane → Lane) (x : Lane) (hx : e.lane l = x) (hon : x.state ≠ .off)
    (h : (f x).state = x.state) : (e.modLane l f).st = { e.st with lanes := smMod Lane.reset e.st.lanes l f } := by
  subst hx
  exact e.modLane_st l f h (Lane.ne_reset (by rwa [h]))

/-! ### A lane that leaves LOCKED (R154, R155) -/

/-- A loss of lane l is counted, with a report that is only recorded: no disable takes effect in the same cycle. -/
def State.LosesLane (s : State) (l : Nat) : Prop := s.Quiet kLaneLost l ∧ (Eff.start s).laneDropped l = false

/-- Whether a disable takes effect depends, of the lane, on its stop alone. -/
theorem State.Laned.losesLane {a b : State} {l : Nat} (h : a.Laned b)
    (hreq : (smGet Lane.reset b.lanes l).stopReq = (smGet Lane.reset a.lanes l).stopReq)
    (hstop : (smGet Lane.reset b.lanes l).stopped = (smGet Lane.reset a.lanes l).stopped) (hl : a.LosesLane l) : b.LosesLane l := by
  obtain ⟨hquiet, hkept⟩ := hl
  refine ⟨h.quiet hquiet, ?_⟩
  have dropped : (Eff.start b).laneDropped l = (Eff.start a).laneDropped l := by
    unfold Eff.laneDropped
    simp only [Eff.lane, Eff.start_st, hreq, hstop]
    rw [h]
    rfl
  rw [dropped, hkept]

/-- The lane once it has left LOCKED (R154, R167). -/
def Lane.lostAt (x : Lane) (up : Nat) : Lane :=
  { x with
    lockLosses := min (x.lockLosses + 1) 65535, window := 0, windowBad := 0, rxLat := 0, downSince := up, downRaised := false }

theorem Eff.laneLost_lane (e : Eff s0) (l : Nat) (hon : (e.lane l).state ≠ .off) (h : e.st.LosesLane l) :
    (e.laneLost l).lane l = (e.lane l).lostAt e.st.time.up ∧ e.st.Laned (e.laneLost l).st := by
  obtain ⟨hquiet, hkept⟩ := h
  have kept : e.laneDropped l = false := hkept
  have moved := e.modLane_laned l fun x => x.lostAt e.st.time.up
  have lost : e.laneLost l = (e.modLane l fun x => x.lostAt e.st.time.up).fault (0x020 + l) kLaneLost l := by
    unfold Eff.laneLost
    simp only [kept, Bool.false_eq_true, if_false]
    rfl
  have st := Eff.fault_quiet _ (0x020 + l) kLaneLost l (moved.quiet hquiet)
  rw [lost, Eff.lane, st]
  exact ⟨e.modLane_lane l _ hon, moved.trans rfl⟩

/-- A lane that is changed, but for its stop, and leaves LOCKED with that. -/
theorem Eff.modLane_laneLost (e : Eff s0) (l : Nat) (f : Lane → Lane) (hon : (f (e.lane l)).state ≠ .off)
    (hreq : (f (e.lane l)).stopReq = (e.lane l).stopReq) (hstop : (f (e.lane l)).stopped = (e.lane l).stopped) (h : e.st.LosesLane l) :
    ((e.modLane l f).laneLost l).lane l = (f (e.lane l)).lostAt e.st.time.up ∧ e.st.Laned ((e.modLane l f).laneLost l).st := by
  have lane := e.modLane_lane l f hon
  have moved := e.modLane_laned l f
  have time : (e.modLane l f).st.time = e.st.time := by rw [moved]
  have loses : (e.modLane l f).st.LosesLane l :=
    moved.losesLane ((congrArg Lane.stopReq lane).trans hreq) ((congrArg Lane.stopped lane).trans hstop) h
  obtain ⟨read, laned⟩ := Eff.laneLost_lane (e.modLane l f) l (by rwa [lane]) loses
  rw [lane, time] at read
  exact ⟨read, moved.trans laned⟩

/-- The lane once block lock has been lost (R153), before that is counted. -/
def Lane.unlocked (x : Lane) (up : Nat) : Lane :=
  { x with
    state := .hunt, good := 0, trouble := x.trouble ||| 4, lockLostAt := if bitOf x.trouble 2 then none else some up }

/-- The lane once block lock has been lost. -/
def Lane.lostLock (x : Lane) (up : Nat) : Lane := (x.unlocked up).lostAt up

theorem Eff.lockLost_lane (e : Eff s0) (l : Nat) (h : e.st.LosesLane l) :
    (e.lockLost l).lane l = (e.lane l).lostLock e.st.time.up ∧ e.st.Laned (e.lockLost l).st :=
  e.modLane_laneLost l (fun x => x.unlocked e.st.time.up) nofun rfl rfl h

/-! ### LOS and LOL (R150, R151, R154) -/

/-- The lane once LOS or LOL has led it to a warm acquire. -/
def Lane.warmed (x : Lane) (up : Nat) : Lane :=
  { x with
    state := .acquire, warm := true, acquireAt := up, window := 0, windowBad := 0, rxLat := 0, lockLostAt := none
    trouble := if x.lockLostAt == some up then x.trouble - 4 else x.trouble }

/-- What LOS or LOL makes of a lane by its state. -/
def Lane.detected (x : Lane) (up : Nat) : Lane :=
  match x.state with
  | .hunt => x.warmed up
  | .locked => (x.warmed up).lostAt up
  | _ => x

theorem Eff.warmAcquire_lane (e : Eff s0) (l : Nat) (h : (e.lane l).state = .locked → e.st.LosesLane l) :
    (e.warmAcquire l).lane l = (e.lane l).detected e.st.time.up ∧ e.st.Laned (e.warmAcquire l).st := by
  unfold Eff.warmAcquire Lane.detected
  cases hstate : (e.lane l).state with
  | hunt => exact ⟨e.modLane_lane l (fun x => x.warmed e.st.time.up) nofun, e.modLane_laned l _⟩
  | locked => exact e.modLane_laneLost l (fun x => x.warmed e.st.time.up) nofun rfl rfl (h hstate)
  | off | wake | acquire => exact ⟨rfl, .refl _⟩

/-- A detector marks a lane, but for its state and its stop, and the lane follows. -/
theorem detector_leads (s : State) (l : Nat) (f : Lane → Lane) (x : Lane) (hx : smGet Lane.reset s.lanes l = x)
    (hlisted : x.state ≠ .off ∨ smWf Lane.reset s.lanes = true)
    (hf : (f x).state = x.state ∧ (f x).stopReq = x.stopReq ∧ (f x).stopped = x.stopped) (h : x.state = .locked → s.LosesLane l) :
    smGet Lane.reset (((Eff.start s).modLane l f).warmAcquire l).st.lanes l = (f x).detected s.time.up ∧
      s.Laned (((Eff.start s).modLane l f).warmAcquire l).st := by
  obtain ⟨hstate, hreq, hstop⟩ := hf
  subst hx
  have lane : ((Eff.start s).modLane l f).lane l = f (smGet Lane.reset s.lanes l) := by
    rcases hlisted with hon | hwf
    · exact (Eff.start s).modLane_lane l f (hstate.trans_ne hon)
    · exact (Eff.start s).modLane_lane_of_wf l f hwf
  have moved := (Eff.start s).modLane_laned l f
  have time : ((Eff.start s).modLane l f).st.time = s.time := by rw [moved]; rfl
  obtain ⟨read, laned⟩ := ((Eff.start s).modLane l f).warmAcquire_lane l fun hlock =>
    moved.losesLane ((congrArg Lane.stopReq lane).trans hreq) ((congrArg Lane.stopped lane).trans hstop)
      (h (hstate.symm.trans (by rwa [lane] at hlock)))
  rw [lane, time] at read
  exact ⟨read, moved.trans laned⟩

/-- What LOS or LOL leaves of a lane, by its state. -/
theorem Lane.detected_spec (x : Lane) (up : Nat) :
    (x.detected up).los = x.los ∧ (x.detected up).lol = x.lol ∧
      (x.state = .hunt ∨ x.state = .locked →
        (x.detected up).state = .acquire ∧ (x.detected up).warm = true ∧ (x.detected up).acquireAt = up) ∧
      (x.state = .wake ∨ x.state = .acquire → (x.detected up).state = x.state) ∧
      (x.state = .locked → (x.detected up).lockLosses = min (x.lockLosses + 1) 65535) := by
  unfold Lane.detected
  cases hstate : x.state <;> simp [Lane.warmed, Lane.lostAt, hstate]

/-- The lane with LOS asserted, and LOL with it; the sticky bit is an enabled lane's. -/
def Lane.losMarked (x : Lane) : Lane := { x with los := true, lol := true, trouble := x.trouble ||| (if x.state == .off then 0 else 1) }

/-- The lane with LOL asserted; the sticky bit is for LOS clear. -/
def Lane.lolMarked (x : Lane) : Lane := { x with lol := true, trouble := x.trouble ||| (if x.los then 0 else 2) }

theorem execLosAssert_leads (s : State) (l : Fin 28) (mv ns : Nat) (x : Lane) (hx : smGet Lane.reset s.lanes l.val = x)
    (hlisted : x.state ≠ .off ∨ smWf Lane.reset s.lanes = true) (hmv : mv < 60) (hns : 100 ≤ ns)
    (h : x.state = .locked → s.LosesLane l.val) :
    ∃ t, execLosAssert l mv ns s = .next t ∧ smGet Lane.reset t.lanes l.val = x.losMarked.detected s.time.up ∧ s.Laned t :=
  ⟨_, if_neg (by simp [hmv, hns]), detector_leads s l.val Lane.losMarked x hx hlisted ⟨rfl, rfl, rfl⟩ h⟩

theorem execLolAssert_leads (s : State) (l : Fin 28) (ppm ns : Nat) (out : Bool) (x : Lane) (hx : smGet Lane.reset s.lanes l.val = x)
    (hon : x.state ≠ .off) (hoff : 1000 < ppm ∨ out = true) (hns : 1000 ≤ ns) (h : x.state = .locked → s.LosesLane l.val) :
    ∃ t, execLolAssert l ppm ns out s = .next t ∧ smGet Lane.reset t.lanes l.val = x.lolMarked.detected s.time.up ∧ s.Laned t :=
  ⟨_, if_neg (by rcases hoff with off | off <;> simp [hx, hon, hns, off]),
    detector_leads s l.val Lane.lolMarked x hx (.inl hon) ⟨rfl, rfl, rfl⟩ h⟩

/-- A lane in OFF recovers no clock: its LOL stands (R157). -/
theorem execLolAssert_off (s : State) (l : Fin 28) (ppm ns : Nat) (out : Bool) (hoff : (smGet Lane.reset s.lanes l.val).state = .off) :
    execLolAssert l ppm ns out s = .next s := if_pos (by simp [hoff])

theorem execLolClear_off (s : State) (l : Fin 28) (ppm ns : Nat) (hoff : (smGet Lane.reset s.lanes l.val).state = .off) :
    execLolClear l ppm ns s = .next s := if_pos (by simp [hoff])

theorem execLosClear_clears (s : State) (l : Fin 28) (mv ns : Nat) (hon : (smGet Lane.reset s.lanes l.val).state ≠ .off)
    (hmv : 120 < mv) (hns : 1000 ≤ ns) :
    execLosClear l mv ns s = .next { s with lanes := smMod Lane.reset s.lanes l.val fun x => { x with los := false } } := by
  rw [execLosClear, if_neg (by simp [hmv, hns]), Eff.modLane_same _ _ _ _ rfl hon rfl, Eff.start_st]

theorem execLolClear_clears (s : State) (l : Fin 28) (ppm ns : Nat) (hon : (smGet Lane.reset s.lanes l.val).state ≠ .off)
    (hlos : (smGet Lane.reset s.lanes l.val).los = false) (hppm : ppm ≤ 300) (hns : 10000 ≤ ns) :
    execLolClear l ppm ns s = .next { s with lanes := smMod Lane.reset s.lanes l.val fun x => { x with lol := false } } := by
  rw [execLolClear, if_neg (by simp [hon, hlos, hppm, hns]), Eff.modLane_same _ _ _ _ rfl hon rfl, Eff.start_st]

/-! ### WAKE and ACQUIRE (R148, R154) -/

/-- The lane at the start of a cold acquire, with the peaking of RX_CTLE. -/
def Lane.cold (x : Lane) (ctle up : Nat) : Lane :=
  { x with state := .acquire, warm := false, adaptDone := false, eq := ctle % 16, acquireAt := up }

theorem execLaneWakeDone_acquires (s : State) (l : Fin 28) (h : (smGet Lane.reset s.lanes l.val).state = .wake) :
    ∃ t, execLaneWakeDone l s = .next t ∧
      t.lanes = smMod Lane.reset s.lanes l.val (fun x => x.cold (s.cv oRxCtle l.val) s.time.up) ∧ s.Laned t := by
  have woken : execLaneWakeDone l s = .next ((Eff.start s).coldAcquire l.val).st := by simp [execLaneWakeDone, h]
  exact ⟨_, woken, Eff.modLane_lanes .., Eff.modLane_laned ..⟩

theorem execWarmAcquireTimeout_warm (s : State) (l : Fin 28) (x : Lane) (hx : smGet Lane.reset s.lanes l.val = x)
    (hstate : x.state = .acquire) (hwarm : x.warm = true) :
    execWarmAcquireTimeout l s = .next (if x.acquireAt + 10000000 ≤ s.time.up then
      { s with lanes := smMod Lane.reset s.lanes l.val fun x => x.cold (s.cv oRxCtle l.val) s.time.up } else s) := by
  have cold := (Eff.start s).modLane_same l.val (fun x => x.cold (s.cv oRxCtle l.val) s.time.up) x hx (by simp [hstate]) hstate.symm
  by_cases hdue : x.acquireAt + 10000000 ≤ s.time.up
  · rw [if_pos hdue]
    exact (if_pos (by simp [hx, hstate, hwarm, hdue])).trans (congrArg _ cold)
  · rw [if_neg hdue]
    exact if_neg (by simp [hx, hdue])

/-- The lane once adaptation has ended with an equaliser (R169, R170). -/
def Lane.adapted (x : Lane) (eq : Nat) : Lane :=
  { x with adaptDone := true, eq := eq, trouble := x.trouble ||| (if adaptLimit eq = true then 16 else 0) }

/-- Initial adaptation of a cold acquire ends, or continuous adaptation past ACQUIRE goes on. -/
theorem execAdaptationEnd_adapts (s : State) (l : Fin 28) (quiet : Bool) (eq : BitVec 64) (x : Lane)
    (hx : smGet Lane.reset s.lanes l.val = x)
    (h : (x.state = .acquire ∧ x.warm = false ∧ x.los = false ∧ x.lol = false ∧ x.adaptDone = false ∧ s.cv oRxAdapt l.val ≠ 2 ∧
        (quiet = true ∨ x.acquireAt + 90000000 ≤ s.time.up)) ∨
      ((x.state = .hunt ∨ x.state = .locked) ∧ x.adaptDone = true ∧ s.cv oRxAdapt l.val = 0)) :
    execAdaptationEnd l quiet eq s = .next { s with
      lanes := smMod Lane.reset s.lanes l.val fun x => x.adapted (eq.toNat % 16 + field eq.toNat 8 40 * 256) } := by
  have hon : x.state ≠ .off := by
    rcases h with ⟨h, -⟩ | ⟨h | h, -⟩ <;> simp [h]
  have same := (Eff.start s).modLane_same l.val (fun x => x.adapted (eq.toNat % 16 + field eq.toNat 8 40 * 256)) x hx hon rfl
  refine (if_pos ?_).trans (congrArg _ same)
  rcases h with ⟨hstate, hwarm, hlos, hlol, hdone, hmode, hquiet⟩ | ⟨hstate, hdone, hmode⟩
  · simp [hx, hstate, hwarm, hlos, hlol, hdone, hmode, hquiet]
  · simp [hx, hstate, hdone, hmode]

theorem execLaneAcquireDone_hunts (s : State) (l : Fin 28) (x : Lane) (hx : smGet Lane.reset s.lanes l.val = x)
    (hstate : x.state = .acquire) (hlos : x.los = false) (hlol : x.lol = false)
    (h : x.warm = true ∨ x.adaptDone = true ∨ s.cv oRxAdapt l.val = 2) :
    ∃ t, execLaneAcquireDone l s = .next t ∧
      t.lanes = smMod Lane.reset s.lanes l.val (fun x => { x with state := .hunt, warm := false, good := 0, lockLostAt := none }) ∧
      s.Laned t :=
  ⟨_, if_pos (by simpa [hx, hstate, hlos, hlol, or_assoc] using h), Eff.modLane_lanes .., Eff.modLane_laned ..⟩

/-! ### Start-up step 7 and J1 (R113, R480) -/

/-- Outside DISCOVER no training waits. -/
theorem Eff.trainingStep_idle (e : Eff s0) (h : e.st.dev.state ≠ .discover) : e.trainingStep = e := by
  simp [Eff.trainingStep, beq_eq_false_iff_ne.mpr h]

/-- A device that does not join waits for no peer lane. -/
theorem Eff.joinLanes_idle (e : Eff s0) (h : e.st.pair.role ≠ .joining) : e.joinLanes = e := by
  simp [Eff.joinLanes, beq_eq_false_iff_ne.mpr h]

/-! ### HUNT (R149, R152) -/

theorem validSync_iff (h : BitVec 2) : validSync h = true ↔ h = 1 ∨ h = 2 := by simp [validSync]

/-- Valid headers are counted in a row, up to the 128th. -/
theorem Lane.hunts_valid (x : Lane) (hs : List (BitVec 2)) (hgood : x.good ≤ 128) (h : ∀ h ∈ hs, h = 1 ∨ h = 2) :
    x.hunts hs = { x with good := min 128 (x.good + hs.length) } := by
  induction hs generalizing x with
  | nil => simp [Lane.hunts, hgood]
  | cons a r ih =>
    obtain ⟨ha, hr⟩ := List.forall_mem_cons.mp h
    have valid : x.hunt a = { x with good := x.good + 1 } := by simp [Lane.hunt, (validSync_iff a).mpr ha]
    rw [Lane.hunts]
    split
    next full =>
      have last : min 128 (x.good + (a :: r).length) = x.good := by omega
      rw [last]
    next more =>
      rw [valid, ih _ (by simp only; omega) hr]
      simp only [List.length_cons, Nat.add_assoc, Nat.add_comm 1]

/-- The lane in HUNT once it has examined headers, or an Ethernet lane once it has found its position (R164). -/
def Lane.examined (x : Lane) (l : Nat) (hs : List (BitVec 2)) (slip : Nat) : Lane := if l < 26 then x.hunts hs else { x with slip := slip }

/-- Valid headers up to the 128th, or the position of an Ethernet lane, complete the examination and change nothing else. -/
theorem Lane.examined_full (x : Lane) (l : Nat) (hs : List (BitVec 2)) (slip : Nat) (hgood : x.good ≤ 128)
    (hvalid : ∀ h ∈ hs, h = 1 ∨ h = 2) (hmany : 128 ≤ x.good + hs.length ∨ 26 ≤ l) :
    ∃ g, x.examined l hs slip = { x with good := g, slip := if l < 26 then x.slip else slip } ∧ (128 ≤ g ∨ 26 ≤ l) := by
  unfold Lane.examined
  by_cases hl : l < 26
  · refine ⟨min 128 (x.good + hs.length), ?_, .inl (by omega)⟩
    rw [if_pos hl, if_pos hl, x.hunts_valid hs hgood hvalid]
  · exact ⟨x.good, by rw [if_neg hl, if_neg hl], .inr (by omega)⟩

/-- The lane at block lock, before its latencies. -/
def Lane.lockedOn (x : Lane) : Lane :=
  { x with state := .locked, good := 0, window := 0, windowBad := 0, rx := none, downRaised := false, lockLostAt := none }

/-- The lane with the latencies of a lock (R149): `tx` and `first` are the values the manual leaves open. -/
def Lane.timed (x : Lane) (tx first : Nat) : Lane :=
  { x with txLat := tx, rxBase := some (x.rxBase.getD first), rxLat := x.rxBase.getD first + (3200 * x.slip + 16) / 33 }

/-- A lock takes two free values for the latencies of its lane. -/
theorem Eff.lockLatency_lane (e : Eff s0) (l : Nat) (hon : (e.lane l).state ≠ .off) :
    (e.lockLatency l).lane l =
        (e.lane l).timed ((Config.freeWord e.st.free).toNat % 40001) ((Config.freeWord (e.st.free + 1)).toNat % 43698) ∧
      (e.lockLatency l).st = { e.st with lanes := (e.lockLatency l).st.lanes, free := e.st.free + 2 } := by
  have timed : e.lockLatency l = e.tick.tick.modLane l fun x =>
      x.timed ((Config.freeWord e.st.free).toNat % 40001) ((Config.freeWord (e.st.free + 1)).toNat % 43698) := rfl
  have st := e.tick.tick.modLane_same l (fun x =>
    x.timed ((Config.freeWord e.st.free).toNat % 40001) ((Config.freeWord (e.st.free + 1)).toNat % 43698)) _ rfl hon rfl
  rw [timed]
  exact ⟨e.tick.tick.modLane_lane l _ hon, by rw [st]; rfl⟩

/-- The headers that bring block lock: the 128th valid one in a row is among them, or the lane is an Ethernet lane. -/
theorem execBlockLock_locks (s : State) (l : Fin 28) (hs : List (BitVec 2)) (p : Fin 66) (x y : Lane)
    (hx : smGet Lane.reset s.lanes l.val = x) (hstate : x.state = .hunt) (hy : x.examined l.val hs p.val = y) (hhunt : y.state = .hunt)
    (hgood : 128 ≤ y.good ∨ 26 ≤ l.val) (hdev : s.dev.state ≠ .discover) (hrole : s.pair.role ≠ .joining) :
    ∃ t, execBlockLock l hs p s = .next t ∧
      smGet Lane.reset t.lanes l.val =
        y.lockedOn.timed ((Config.freeWord s.free).toNat % 40001) ((Config.freeWord (s.free + 1)).toNat % 43698) ∧
      t = { s with lanes := t.lanes, faults := t.faults, free := s.free + 2 } := by
  subst hx
  let e1 : Act s := (Eff.start s).modLane l.val fun _ => y
  let e2 : Act s := e1.modLane l.val Lane.lockedOn
  have lane1 : e1.lane l.val = y := (Eff.start s).modLane_lane l.val (fun _ => y) (by simp [hhunt])
  have lane2 : e2.lane l.val = y.lockedOn := (e1.modLane_lane l.val Lane.lockedOn nofun).trans (congrArg _ lane1)
  have moved : s.Laned e2.st := ((Eff.start s).modLane_laned l.val _).trans (e1.modLane_laned l.val _)
  have free : e2.st.free = s.free := by rw [moved]
  obtain ⟨lane, st⟩ := e2.lockLatency_lane l.val (by rw [lane2]; nofun)
  have lock : execBlockLock l hs p s = .next (e2.lockLatency l.val).trainingStep.joinLanes.st := by
    have full : ¬(decide (y.good < 128) && decide (l.val < 26)) = true := by
      simp only [Bool.and_eq_true, decide_eq_true_eq]
      omega
    subst hy
    exact (if_neg (by simp [hstate])).trans (if_neg full)
  rw [Eff.trainingStep_idle _ (by rw [st, moved]; exact hdev), Eff.joinLanes_idle _ (by rw [st, moved]; exact hrole)] at lock
  rw [lane2, free] at lane
  refine ⟨_, lock, lane, ?_⟩
  rw [st, free, moved]

/-- A header that does not bring block lock. -/
theorem execBlockLock_counts (s : State) (l : Fin 28) (h : BitVec 2) (p : Fin 66) (x : Lane) (hx : smGet Lane.reset s.lanes l.val = x)
    (hstate : x.state = .hunt) (hl : l.val < 26) (hgood : x.good < 127) :
    execBlockLock l [h] p s = .next { s with lanes := smMod Lane.reset s.lanes l.val fun x =>
      if h = 1 ∨ h = 2 then { x with good := x.good + 1 } else { x with good := 0, slip := (x.slip + 1) % 66 } } := by
  have examined : x.examined l.val [h] p.val =
      if h = 1 ∨ h = 2 then { x with good := x.good + 1 } else { x with good := 0, slip := (x.slip + 1) % 66 } := by
    simp only [Lane.examined, hl, if_true, Lane.hunts, Lane.hunt, validSync_iff]
    rw [if_neg (by omega)]
  have few : (decide ((x.examined l.val [h] p.val).good < 128) && decide (l.val < 26)) = true := by
    simp only [examined, hl, decide_true, Bool.and_true, decide_eq_true_eq]
    split
    · exact Nat.succ_lt_succ hgood
    · exact Nat.zero_lt_succ _
  have state : (x.examined l.val [h] p.val).state = x.state := by
    rw [examined]
    split <;> rfl
  have same := (Eff.start s).modLane_same l.val (fun _ => x.examined l.val [h] p.val) x hx (by simp [hstate]) state
  subst hx
  refine (if_neg (by simp [hstate])).trans ((if_pos few).trans (congrArg _ (same.trans ?_)))
  rw [smMod, examined]
  rfl

/-! ### LOCKED (R153, R164) -/

/-- A block that no frame precedes hands no frame over. -/
theorem rxStep_none (b : Block) : (rxStep none b).2 = [] := by
  simp only [rxStep, giveUp, Option.isSome_none, Bool.false_eq_true, if_false]
  split_ifs <;> rfl

/-- One block is heard as the lane takes it. -/
theorem State.hears_one (s : State) (l : Nat) (b : Block) (x : Lane) (hx : smGet Lane.reset s.lanes l = x) :
    s.hears l [b] = x.take (26 ≤ l) (s.time.clock / (1000000000 * nsq)).toNat b := by
  simp [State.hears, Lane.takes, hx]

/-- The lane reads as the blocks leave it. -/
theorem State.took_lane (s : State) (l : Nat) (bl : List Block) (h : (s.hears l bl).1 ≠ Lane.reset) :
    smGet Lane.reset (s.took l bl).lanes l = (s.hears l bl).1 := by
  unfold State.took
  split
  next same => exact same.symm
  · exact smGet_smSet_self _ _ _ _ h

/-- Blocks that a LOCKED lane hears nothing in move on its receiver. -/
theorem Eff.heard_nothing (e : Eff s0) (l : Nat) (bl : List Block) (f : List Byte → Eff s0 → Eff s0) (hlock : e.st.locked l)
    (h : (e.st.hears l bl).2 = []) (hkept : (e.st.hears l bl).1.state = .locked) : (e.heard l bl f).st = e.st.took l bl := by
  have h' : ((e.lane l).takes (26 ≤ l) (e.time.clock / (1000000000 * nsq)).toNat bl).2 = [] := h
  unfold Eff.heard State.took
  simp only [h', Eff.each_nil]
  split
  next same => exact (if_pos same).symm
  next moved =>
    exact (e.modLane_same l (fun _ => (e.st.hears l bl).1) _ rfl (by rw [Eff.lane, hlock]; nofun) (hkept.trans hlock.symm)).trans
      (if_neg moved).symm

/-- Blocks with which block lock is lost. -/
theorem Eff.heard_lost (e : Eff s0) (l : Nat) (bl : List Block) (f : List Byte → Eff s0 → Eff s0) (h : (e.st.hears l bl).2 = [.lost])
    (hon : (e.st.hears l bl).1.state ≠ .off) :
    ∃ e' : Eff s0, e.st.Laned e'.st ∧ e'.lane l = (e.st.hears l bl).1 ∧ e.heard l bl f = e'.lockLost l := by
  have h' : ((e.lane l).takes (26 ≤ l) (e.time.clock / (1000000000 * nsq)).toNat bl).2 = [.lost] := h
  unfold Eff.heard
  simp only [h', Eff.each_cons, Eff.each_nil]
  refine ⟨_, ?_, ?_, rfl⟩
  · split
    · exact .refl _
    · exact e.modLane_laned l _
  · split
    next same => exact same.symm
    · exact e.modLane_lane l (fun _ => (e.st.hears l bl).1) hon

/-- The lane once a sync header has been counted, whether or not it loses lock with it. -/
def Lane.counted (x : Lane) (sec : Nat) (ok : Bool) : Lane :=
  { (if ok then x else x.countBad sec) with
    window := (2 * x.window + ofBool (!ok)) % 2 ^ 256, windowBad := x.windowBad + ofBool (!ok) - ofBool (x.window.testBit 255) }

/-- Counting keeps the state of the lane and the frame it receives. -/
theorem Lane.counted_keeps (x : Lane) (sec : Nat) (ok : Bool) :
    (x.counted sec ok).state = x.state ∧ (x.counted sec ok).rx = x.rx := by
  cases ok <;> exact ⟨rfl, rfl⟩

/-- A Wynlink lane loses lock with an invalid header that is the 24th in the window. -/
theorem Lane.header_eq (x : Lane) (sec : Nat) (ok : Bool) :
    x.header false sec ok =
      if (ok || decide ((x.counted sec ok).windowBad < 24)) = true then x.counted sec ok
      else { x.counted sec ok with state := .hunt, good := 0 } := by
  rw [← Bool.or_false (ok || _)]
  cases ok <;> rfl

/-- A block that leaves a Wynlink lane LOCKED. -/
theorem Lane.take_counted (x : Lane) (sec : Nat) (b : Block) (hlock : x.state = .locked) (hrx : x.rx = none)
    (h : validSync b.sync = true ∨ (x.counted sec (validSync b.sync)).windowBad < 24) :
    x.take false sec b = ({ x.counted sec (validSync b.sync) with rx := (rxStep none b).1 }, []) := by
  obtain ⟨hstate, hpart⟩ := x.counted_keeps sec (validSync b.sync)
  have kept : x.header false sec (validSync b.sync) = x.counted sec (validSync b.sync) := by
    rw [x.header_eq, if_pos (by simpa using h)]
  simp [Lane.take, hlock, kept, hstate, hpart, hrx, rxStep_none]

/-- The block with which a Wynlink lane loses lock. -/
theorem Lane.take_lost (x : Lane) (sec : Nat) (b : Block) (hlock : x.state = .locked) (hbad : validSync b.sync = false)
    (h : 24 ≤ (x.counted sec false).windowBad) :
    x.take false sec b = ({ x.counted sec false with state := .hunt, good := 0 }, [.lost]) := by
  have lost : x.header false sec false = { x.counted sec false with state := .hunt, good := 0 } := by
    rw [x.header_eq, if_neg (by simpa using h)]
  simp [Lane.take, hlock, hbad, lost]

theorem execLockLoss_counts (s : State) (l : Fin 28) (b : Block) (x y : Lane) (hx : smGet Lane.reset s.lanes l.val = x)
    (hlock : x.state = .locked) (hl : l.val < 26) (hrx : x.rx = none) (ok : Bool) (hok : validSync b.sync = ok)
    (hy : x.counted (s.time.clock / (1000000000 * nsq)).toNat ok = y) (h : ok = true ∨ y.windowBad < 24) :
    ∃ t, execLockLoss l [b] s = .next t ∧ smGet Lane.reset t.lanes l.val = { y with rx := (rxStep none b).1 } ∧
      t = { s with lanes := t.lanes } := by
  subst hok hy
  obtain ⟨kept, -⟩ := x.counted_keeps (s.time.clock / (1000000000 * nsq)).toNat (validSync b.sync)
  have state := kept.trans hlock
  have hears : s.hears l.val [b] = 
      ({ x.counted (s.time.clock / (1000000000 * nsq)).toNat (validSync b.sync) with rx := (rxStep none b).1 }, []) := by
    rw [s.hears_one l.val b x hx, decide_eq_false (by omega)]
    exact x.take_counted _ b hlock hrx h
  have heard := (Eff.start s).heard_nothing l.val [b] (fun bs e => e.intact l.val 0 bs fun _ e => e)
    (by rw [State.locked, Eff.start_st, hx, hlock]) (by rw [Eff.start_st, hears]) (by rw [Eff.start_st, hears]; exact state)
  have wynlink : ¬26 ≤ l.val := by omega
  refine ⟨s.took l.val [b], ?_, ?_, s.took_eq l.val [b]⟩
  · simp only [execLockLoss, wynlink, decide_false, Bool.false_and, Eff.when_false]
    rw [heard, Eff.start_st]
  · rw [s.took_lane l.val [b] (by rw [hears]; exact Lane.ne_reset (by rw [state]; nofun)), hears]

theorem execLockLoss_loses (s : State) (l : Fin 28) (b : Block) (x : Lane) (hx : smGet Lane.reset s.lanes l.val = x)
    (hlock : x.state = .locked) (hl : l.val < 26) (hbad : validSync b.sync = false)
    (h : 24 ≤ (x.counted (s.time.clock / (1000000000 * nsq)).toNat false).windowBad) (hloses : s.LosesLane l.val) :
    ∃ t, execLockLoss l [b] s = .next t ∧
      smGet Lane.reset t.lanes l.val =
        { x.counted (s.time.clock / (1000000000 * nsq)).toNat false with state := .hunt, good := 0 }.lostLock s.time.up ∧ s.Laned t := by
  have hears : s.hears l.val [b] =
      ({ x.counted (s.time.clock / (1000000000 * nsq)).toNat false with state := .hunt, good := 0 }, [.lost]) := by
    rw [s.hears_one l.val b x hx, decide_eq_false (by omega)]
    exact x.take_lost _ b hlock hbad h
  obtain ⟨e, laned, lane, heard⟩ := (Eff.start s).heard_lost l.val [b] (fun bs e => e.intact l.val 0 bs fun _ e => e)
    (by rw [Eff.start_st, hears]) (by rw [Eff.start_st, hears]; nofun)
  rw [Eff.start_st, hears] at lane
  have loses : e.st.LosesLane l.val :=
    laned.losesLane (by rw [← Eff.lane, lane, Eff.start_st, hx]; rfl) (by rw [← Eff.lane, lane, Eff.start_st, hx]; rfl) hloses
  obtain ⟨read, lost⟩ := e.lockLost_lane l.val loses
  have time : e.st.time = s.time := by rw [laned]; rfl
  have wynlink : ¬26 ≤ l.val := by omega
  rw [lane, time] at read
  refine ⟨_, ?_, read, laned.trans lost⟩
  simp only [execLockLoss, wynlink, decide_false, Bool.false_and, Eff.when_false]
  rw [heard]

/-- An Ethernet lane loses lock by the rules of its own standard: the event is the loss. -/
theorem execLockLoss_ethernet (s : State) (l : Fin 28) (x : Lane) (hx : smGet Lane.reset s.lanes l.val = x) (hlock : x.state = .locked)
    (hl : 26 ≤ l.val) (hloses : s.LosesLane l.val) :
    ∃ t, execLockLoss l [] s = .next t ∧ smGet Lane.reset t.lanes l.val = x.lostLock s.time.up ∧ s.Laned t := by
  have lost : execLockLoss l [] s = .next ((Eff.start s).lockLost l.val).st := by
    simp [execLockLoss, Eff.heard, Lane.takes, hl, hx, hlock]
  subst hx
  exact ⟨_, lost, (Eff.start s).lockLost_lane l.val hloses⟩

/-- LOCK_LOST (R169) is bit 2 of the sticky bits. -/
theorem Lane.lostLock_trouble (x : Lane) (up : Nat) : bitOf (x.lostLock up).trouble 2 = true := by
  have bit : ∀ n : Nat, bitOf n 2 = n.testBit 2 := fun n => by
    rw [bitOf, field, Nat.testBit_eq_decide_div_mod_eq]
    exact beq_eq_decide ..
  rw [bit, Lane.lostLock, Lane.lostAt, Lane.unlocked, Nat.testBit_or]
  exact Bool.or_true _

/-- What one block makes of a LOCKED Wynlink lane that receives no frame. -/
theorem execLockLoss_header (s : State) (l : Fin 28) (b : Block) (x : Lane) (hx : smGet Lane.reset s.lanes l.val = x)
    (hlock : x.state = .locked) (hl : l.val < 26) (hrx : x.rx = none) (bad n : Nat)
    (hbad : bad = if b.sync = 1 ∨ b.sync = 2 then 0 else 1)
    (hn : n = x.windowBad + bad - (if x.window.testBit 255 = true then 1 else 0)) :
    (bad = 0 ∨ n < 24 → ∃ t y, execLockLoss l [b] s = .next t ∧ smGet Lane.reset t.lanes l.val = y ∧ y.state = .locked ∧
      y.windowBad = n ∧ y.window = (2 * x.window + bad) % 2 ^ 256 ∧ y.lockLosses = x.lockLosses ∧
      (bad = 0 → y.errBlocks = x.errBlocks) ∧ (bad = 1 → y.errBlocks = (x.errBlocks + 1) % 2 ^ 32) ∧ t = { s with lanes := t.lanes }) ∧
    (bad = 1 → 24 ≤ n → s.Quiet kLaneLost l.val → (Eff.start s).laneDropped l.val = false →
      ∃ t y, execLockLoss l [b] s = .next t ∧ smGet Lane.reset t.lanes l.val = y ∧ y.state = .hunt ∧ bitOf y.trouble 2 = true ∧
        y.errBlocks = (x.errBlocks + 1) % 2 ^ 32 ∧ y.lockLosses = min (x.lockLosses + 1) 65535 ∧ y.downSince = s.time.up ∧
        s.Laned t) := by
  cases hok : validSync b.sync with
  | true =>
    obtain rfl : bad = 0 := by rw [hbad, if_pos ((validSync_iff _).mp hok)]
    refine ⟨fun _ => ?_, nofun⟩
    obtain ⟨t, ht, lane, rest⟩ := execLockLoss_counts s l b x _ hx hlock hl hrx true hok rfl (.inl rfl)
    exact ⟨t, _, ht, lane, hlock, hn.symm, rfl, rfl, fun _ => rfl, nofun, rest⟩
  | false =>
    obtain rfl : bad = 1 := by rw [hbad, if_neg (fun valid => by simp [(validSync_iff _).mpr valid] at hok)]
    have window : (x.counted (s.time.clock / (1000000000 * nsq)).toNat false).windowBad = n := hn.symm
    refine ⟨fun hfew => ?_, fun _ hmany hquiet hkept => ?_⟩
    · have few : n < 24 := hfew.resolve_left nofun
      obtain ⟨t, ht, lane, rest⟩ := execLockLoss_counts s l b x _ hx hlock hl hrx false hok rfl (.inr (window.trans_lt few))
      exact ⟨t, _, ht, lane, hlock, window, rfl, rfl, nofun, fun _ => rfl, rest⟩
    · obtain ⟨t, ht, lane, laned⟩ := execLockLoss_loses s l b x hx hlock hl hok (hmany.trans_eq window.symm) ⟨hquiet, hkept⟩
      exact ⟨t, _, ht, lane, rfl, Lane.lostLock_trouble _ _, rfl, rfl, rfl, laned⟩

/-! ### LANE_DOWN (R156) -/

theorem execLaneDown_raises (s : State) (l : Fin 28) (x : Lane) (hx : smGet Lane.reset s.lanes l.val = x) (henabled : x.enabled = true)
    (hstate : x.state ≠ .locked) (hnew : x.downRaised = false) (hdue : x.downSince + 100000000 ≤ s.time.up)
    (hquiet : s.Quiet kLaneDown l.val) (hdev : s.dev.state ≠ .discover) (hrole : s.pair.role ≠ .joining) :
    execLaneDown l s = .next { s with
      lanes := smMod Lane.reset s.lanes l.val fun x => { x with downRaised := true }, faults := s.noted (0x020 + l.val) kLaneDown l.val } := by
  have marked : ((Eff.start s).modLane l.val fun x => { x with downRaised := true }).st =
      { s with lanes := smMod Lane.reset s.lanes l.val fun x => { x with downRaised := true } } :=
    (Eff.start s).modLane_st l.val (fun x => { x with downRaised := true }) rfl
      fun hreset => Bool.noConfusion (congrArg Lane.downRaised hreset)
  have moved := (Eff.start s).modLane_laned l.val fun x => { x with downRaised := true }
  have raised := Eff.fault_quiet _ (0x020 + l.val) kLaneDown l.val (moved.quiet hquiet)
  rw [marked] at raised
  refine (if_pos (by simp [hx, henabled, hstate, hnew, hdue])).trans (congrArg _ ?_)
  rw [Eff.trainingStep_idle _ (by rw [raised]; exact hdev), Eff.joinLanes_idle _ (by rw [raised]; exact hrole), raised]
  rfl

/-! ### The statement -/

/-- Settles O29: each clause is what its event makes of the lane in the state it finds it. -/
theorem laneStatesComplete : Obligations.LaneStatesComplete := by
  unfold Obligations.LaneStatesComplete
  refine ⟨execLaneWakeDone_acquires, ?_, execLaneAcquireDone_hunts, ?_, ?_, ?_, ?_, ?_, ?_, ?_, ?_, ?_, ?_⟩
  · intro s l quiet eq x hx hstate hwarm hlos hlol hdone hmode hquiet
    exact execAdaptationEnd_adapts s l quiet eq x hx (.inl ⟨hstate, hwarm, hlos, hlol, hdone, hmode, hquiet⟩)
  · intro s l eq quiet x hx hstate hdone hmode
    exact execAdaptationEnd_adapts s l quiet eq x hx (.inr ⟨hstate, hdone, hmode⟩)
  · rintro s l hs p x slip hx hstate hgood hvalid hmany rfl hdev hrole
    obtain ⟨g, full, enough⟩ := x.examined_full l.val hs p.val (by omega) hvalid hmany
    obtain ⟨t, ht, lane, rest⟩ := execBlockLock_locks s l hs p x _ hx hstate full hstate enough hdev hrole
    exact ⟨t, _, ht, rfl, lane, rest⟩
  · intro s l h p x hx hstate hl hgood
    exact execBlockLock_counts s l h p x hx hstate hl hgood
  · intro s l b x bad n hx hlock hl hrx hbad hn
    exact execLockLoss_header s l b x hx hlock hl hrx bad n hbad hn
  · intro s l x hx hlock hl hquiet hkept
    obtain ⟨t, ht, lane, laned⟩ := execLockLoss_ethernet s l x hx hlock hl ⟨hquiet, hkept⟩
    exact ⟨t, _, ht, lane, rfl, x.lostLock_trouble _, rfl, laned⟩
  · intro s l mv ppm ns out x c hx hon hc hloses
    rcases hc with ⟨rfl, hmv, hns⟩ | ⟨rfl, hout, hns⟩
    · obtain ⟨t, ht, lane, laned⟩ := execLosAssert_leads s l mv ns x hx (.inl hon) hmv hns hloses
      obtain ⟨los, lol, warm, stays, losses⟩ := x.losMarked.detected_spec s.time.up
      exact ⟨t, _, ht, lane, lol, fun _ => los, warm, stays, losses, laned⟩
    · obtain ⟨t, ht, lane, laned⟩ := execLolAssert_leads s l ppm ns out x hx hon hout hns hloses
      obtain ⟨-, lol, warm, stays, losses⟩ := x.lolMarked.detected_spec s.time.up
      exact ⟨t, _, ht, lane, lol, nofun, warm, stays, losses, laned⟩
  · intro s l mv ns ppm out hoff hwf
    refine ⟨fun hmv hns => ?_, execLolAssert_off s l ppm ns out hoff, execLolClear_off s l ppm ns hoff⟩
    obtain ⟨t, ht, lane, -⟩ := execLosAssert_leads s l mv ns _ rfl (.inr hwf) hmv hns (by simp [hoff])
    have stays : (smGet Lane.reset s.lanes l.val).losMarked.detected s.time.up =
        { smGet Lane.reset s.lanes l.val with los := true, lol := true } := by
      simp [Lane.detected, Lane.losMarked, hoff]
    exact ⟨t, _, ht, lane.trans stays, rfl, rfl, rfl, hoff⟩
  · intro s l mv ppm ns hon
    exact ⟨execLosClear_clears s l mv ns hon, execLolClear_clears s l ppm ns hon⟩
  · exact execWarmAcquireTimeout_warm
  · exact execLaneDown_raises

end Sys2Proof.Machine
end

