-- ==== Sys2Proof/Proofs/LaneActions.lean ====
section
/-! SUPPORT. LANE_STOP and LANE_START: what they answer and order, and what the order makes of the lane at the next frame start (R154, R158,
R159). -/

namespace Sys2Proof.Machine

variable {s0 : Root}

/-! ### The order and its answer -/

/-- A stop or a start waits for the next frame start. -/
def Eff.orderLane (e : Eff s0) (l : Nat) (stop : Bool) : Eff s0 := e.modLane l fun x => { x with stopReq := some stop }

theorem Eff.orderLane_st (e : Eff s0) (l : Nat) (stop : Bool) : (e.orderLane l stop).st =
    { e.st with lanes := smMod Lane.reset e.st.lanes l fun x => { x with stopReq := some stop } } :=
  e.modLane_st l (fun x => { x with stopReq := some stop }) rfl fun hreset => nomatch congrArg Lane.stopReq hreset

/-- The RESULT of LANE_STOP for lane l (R159). -/
def Eff.stopResult (e : Eff s0) (l : Nat) : Nat :=
  if (e.lane l).stopReq.getD (e.lane l).stopped then 1
  else if l < 24 && e.chainNeedsLane l then 2
  else if 24 ≤ l && l < 26 && !e.locked (49 - l) then 2 else 0

theorem Eff.stopResult_free (e : Eff s0) (l : Nat) (hrun : (e.lane l).stopReq.getD (e.lane l).stopped = false)
    (hcells : l < 24 → e.chainNeedsLane l = false) (hpeer : l = 24 ∨ l = 25 → e.st.locked (49 - l)) : e.stopResult l = 0 := by
  have cells : ¬(decide (l < 24) && e.chainNeedsLane l) = true := by simpa using hcells
  have peer : ¬(decide (24 ≤ l) && decide (l < 26) && !e.locked (49 - l)) = true := by
    simp only [Bool.and_eq_true, decide_eq_true_eq, Bool.not_eq_true', not_and, Bool.not_eq_false]
    exact fun hl => (e.locked_iff _).mpr (hpeer (by omega))
  rw [Eff.stopResult, hrun, if_neg nofun, if_neg cells, if_neg peer]

theorem Eff.stopResult_needed (e : Eff s0) (l : Nat) (hrun : (e.lane l).stopReq.getD (e.lane l).stopped = false)
    (hneed : l < 24 ∧ e.chainNeedsLane l = true ∨ (l = 24 ∨ l = 25) ∧ ¬e.st.locked (49 - l)) : e.stopResult l = 2 := by
  rw [Eff.stopResult, hrun, if_neg nofun]
  rcases hneed with ⟨hl, hcells⟩ | ⟨hl, hpeer⟩
  · exact if_pos (by simp [hl, hcells])
  · have unlocked : e.locked (49 - l) = false := by rwa [← e.locked_iff, Bool.not_eq_true] at hpeer
    have wynlink : ¬l < 24 := by omega
    have peer : 24 ≤ l ∧ l < 26 := by omega
    rw [if_neg (by simp [wynlink]), if_pos (by simp [peer, unlocked])]

/-- The RESULT of LANE_START for lane l (R159). -/
def Eff.startResult (e : Eff s0) (l : Nat) : Nat :=
  if !(e.lane l).stopReq.getD (e.lane l).stopped || e.cv oLaneMode l == 1 then 1 else 0

/-- A RESULT other than 0 comes without a frame. -/
theorem ansResultFrame_refused (r frame : Nat) (h : r ≠ 0) : ansResultFrame r frame = ansResultFrame r 0 := by
  simp [ansResultFrame, h]

/-- A lane's order as the action makes it of a RESULT. -/
def Eff.laneOrder (e : Eff s0) (l r : Nat) (stop : Bool) : ActRes s0 :=
  (e.when (r == 0) (·.orderLane l stop), some (ansResultFrame r ((e.when (r == 0) (·.orderLane l stop)).frame.k + 1)))

theorem actLaneStop_eq (e : Eff s0) (c : Ctx) (b : Byte) (hb : b.toNat < 28) :
    actLaneStop e c [b] = e.laneOrder b.toNat (e.stopResult b.toNat) true :=
  (if_neg (by simp)).trans (if_neg (not_le.mpr hb))

theorem actLaneStart_eq (e : Eff s0) (c : Ctx) (b : Byte) (hb : b.toNat < 28) :
    actLaneStart e c [b] = e.laneOrder b.toNat (e.startResult b.toNat) false :=
  (if_neg (by simp)).trans (if_neg (not_le.mpr hb))

section
variable {s : State} {q : Req} {obj lvl sid : Nat} {b : Byte} {run : Act s → Ctx → List Byte → ActRes ⟨s, false⟩} {r : Nat} {stop : Bool}

/-- A lane request that passes gives its order, or none, and is answered. -/
theorem invoke_laneOrder (h : s.Invoked q obj [b] 2 false lvl sid)
    (hrun : ∀ e : Act s, e.st = { s with sess := e.st.sess } → run e ⟨lvl, sid, .req q⟩ [b] = e.laneOrder b.toNat r stop) :
    ∃ e : Act s, e.st = { s with sess := e.st.sess } ∧ (Eff.start s).invoke q obj [b] 2 false run =
      (e.when (r == 0) (·.orderLane b.toNat stop)).answer q 3
        (ansResultFrame r ((e.when (r == 0) (·.orderLane b.toNat stop)).frame.k + 1)) := by
  obtain ⟨e, hst, hinvoke⟩ := (Eff.start s).invoke_go q obj [b] 2 false lvl sid run h
  rw [hrun e hst] at hinvoke
  exact ⟨e, hst, hinvoke⟩

/-- RESULT 0: the order stands. -/
theorem invoke_laneOrder_accepted (h : s.Invoked q obj [b] 2 false lvl sid)
    (hrun : ∀ e : Act s, e.st = { s with sess := e.st.sess } → run e ⟨lvl, sid, .req q⟩ [b] = e.laneOrder b.toNat 0 stop) :
    ∃ t, (.next ((Eff.start s).invoke q obj [b] 2 false run).st : Host.Outcome State Fault Refusal) = .next t ∧
      t.Replied q 3 (ansResultFrame 0 (s.frame.k + 1)) ∧
      t = { s with
        sess := t.sess, sent := t.sent, lanes := smMod Lane.reset s.lanes b.toNat fun x => { x with stopReq := some stop } } := by
  obtain ⟨e, hst, hinvoke⟩ := invoke_laneOrder h hrun
  have ordered : (e.when (0 == 0) (·.orderLane b.toNat stop)).st = { s with
      sess := e.st.sess, lanes := smMod Lane.reset s.lanes b.toNat fun x => { x with stopReq := some stop } } := by
    rw [beq_self_eq_true, Eff.when_true, Eff.orderLane_st, hst]
  refine ⟨_, congrArg (fun e : Act s => Host.Outcome.next e.st) hinvoke, ?_, ?_⟩
  · rw [Eff.frame, ordered]
    exact Eff.answer_replied ..
  · rw [Eff.answer_st, ordered]

/-- Another RESULT: nothing is ordered. -/
theorem invoke_laneOrder_refused (hr : r ≠ 0) (h : s.Invoked q obj [b] 2 false lvl sid)
    (hrun : ∀ e : Act s, e.st = { s with sess := e.st.sess } → run e ⟨lvl, sid, .req q⟩ [b] = e.laneOrder b.toNat r stop) :
    ∃ t, (.next ((Eff.start s).invoke q obj [b] 2 false run).st : Host.Outcome State Fault Refusal) = .next t ∧
      t.Replied q 3 (ansResultFrame r 0) ∧ t = { s with sess := t.sess, sent := t.sent } := by
  obtain ⟨e, hst, hinvoke⟩ := invoke_laneOrder h hrun
  rw [beq_eq_false_iff_ne.mpr hr, Eff.when_false, ansResultFrame_refused r _ hr] at hinvoke
  exact ⟨_, congrArg (fun e : Act s => Host.Outcome.next e.st) hinvoke, Eff.answer_replied .., by rw [Eff.answer_st, hst]⟩

end

/-- The session of the request does not bear on the RESULT. -/
theorem Eff.stopResult_sess {s : State} (e : Act s) (l : Nat) (h : e.st = { s with sess := e.st.sess }) :
    e.stopResult l = (Eff.start s).stopResult l := by
  change (Eff.start e.st).stopResult l = _
  rw [h]
  rfl

theorem Eff.startResult_sess {s : State} (e : Act s) (l : Nat) (h : e.st = { s with sess := e.st.sess }) :
    e.startResult l = (Eff.start s).startResult l := by
  change (Eff.start e.st).startResult l = _
  rw [h]
  rfl

theorem execLaneStop_orders (s : State) (q : Req) (b : Byte) (lvl sid : Nat) (h : s.Invoked q oLaneStop [b] 2 false lvl sid)
    (hb : b.toNat < 28) (hr : (Eff.start s).stopResult b.toNat = 0) :
    ∃ t, execLaneStop q [b] s = .next t ∧ t.Replied q 3 (ansResultFrame 0 (s.frame.k + 1)) ∧
      t = { s with
        sess := t.sess, sent := t.sent, lanes := smMod Lane.reset s.lanes b.toNat fun x => { x with stopReq := some true } } :=
  invoke_laneOrder_accepted h fun e he => by rw [actLaneStop_eq e _ b hb, e.stopResult_sess _ he, hr]

theorem execLaneStop_refuses (s : State) (q : Req) (b : Byte) (lvl sid r : Nat) (h : s.Invoked q oLaneStop [b] 2 false lvl sid)
    (hb : b.toNat < 28) (hr : (Eff.start s).stopResult b.toNat = r) (hr0 : r ≠ 0) :
    ∃ t, execLaneStop q [b] s = .next t ∧ t.Replied q 3 (ansResultFrame r 0) ∧ t = { s with sess := t.sess, sent := t.sent } :=
  invoke_laneOrder_refused hr0 h fun e he => by rw [actLaneStop_eq e _ b hb, e.stopResult_sess _ he, hr]

theorem execLaneStart_orders (s : State) (q : Req) (b : Byte) (lvl sid : Nat) (h : s.Invoked q oLaneStart [b] 2 false lvl sid)
    (hb : b.toNat < 28) (hr : (Eff.start s).startResult b.toNat = 0) :
    ∃ t, execLaneStart q [b] s = .next t ∧ t.Replied q 3 (ansResultFrame 0 (s.frame.k + 1)) ∧
      t = { s with
        sess := t.sess, sent := t.sent, lanes := smMod Lane.reset s.lanes b.toNat fun x => { x with stopReq := some false } } :=
  invoke_laneOrder_accepted h fun e he => by rw [actLaneStart_eq e _ b hb, e.startResult_sess _ he, hr]

theorem execLaneStart_refuses (s : State) (q : Req) (b : Byte) (lvl sid r : Nat) (h : s.Invoked q oLaneStart [b] 2 false lvl sid)
    (hb : b.toNat < 28) (hr : (Eff.start s).startResult b.toNat = r) (hr0 : r ≠ 0) :
    ∃ t, execLaneStart q [b] s = .next t ∧ t.Replied q 3 (ansResultFrame r 0) ∧ t = { s with sess := t.sess, sent := t.sent } :=
  invoke_laneOrder_refused hr0 h fun e he => by rw [actLaneStart_eq e _ b hb, e.startResult_sess _ he, hr]

/-! ### The next frame start -/

/-- The lane once its order has been taken. -/
def Lane.ordered (x : Lane) (stop : Bool) : Lane := { x with stopped := stop, stopReq := none }

/-- The order of lane l is taken; a start in a running device makes the lane's objects leave idle (R76). -/
def Eff.takeOrder (e : Eff s0) (l : Nat) (stop : Bool) : Eff s0 :=
  (e.when (!stop && !(e.st.devState == .ready || e.st.devState == .safe))
    (·.leaveIdle fun k => k / 65536 / 65536 == 0x20 && k % 65536 == l)).modLane l (·.ordered stop)

/-- The lane that is enabled out of OFF. -/
def Lane.woken (x : Lane) (up : Nat) : Lane := { x with state := .wake, enabled := true, downSince := up, downRaised := false }

/-- The lane that is disabled: what its LANE domain leaves over (R574). -/
def Lane.disabled (x : Lane) : Lane :=
  { Lane.reset with
    stopped := x.stopped, trouble := x.trouble, errBlocks := x.errBlocks, lockLosses := x.lockLosses
    frameErr := x.frameErr, rxBase := x.rxBase }

/-- Then the lane follows its enable conditions (R158). -/
def Eff.followEnable (e : Eff s0) (l : Nat) : Eff s0 :=
  if e.laneWanted l && (e.lane l).state == .off then e.modLane l (·.woken e.st.time.up)
  else if !e.laneWanted l && (e.lane l).state != .off then e.modLane l Lane.disabled
  else e

theorem Eff.laneFrame_eq (e : Eff s0) (l : Nat) (stop : Bool) (h : (e.lane l).stopReq = some stop) :
    e.laneFrame l = (e.takeOrder l stop).followEnable l := by
  unfold Eff.laneFrame
  rw [h]
  rfl

theorem Eff.followEnable_wakes (e : Eff s0) (l : Nat) (hwant : e.laneWanted l = true) (hoff : (e.lane l).state = .off) :
    ((e.followEnable l).lane l).state = .wake := by
  rw [Eff.followEnable, if_pos (by simp [hwant, hoff])]
  exact congrArg Lane.state (e.modLane_lane l (·.woken e.st.time.up) nofun)

theorem Eff.followEnable_stops (e : Eff s0) (l : Nat) (hwant : e.laneWanted l = false) (hstop : (e.lane l).stopped = true) :
    ((e.followEnable l).lane l).state = .off := by
  rw [Eff.followEnable, if_neg (by simp [hwant])]
  by_cases hoff : (e.lane l).state = .off
  · rw [if_neg (by simp [hoff])]
    exact hoff
  · rw [if_pos (by simp [hwant, hoff])]
    have listed : (e.lane l).disabled ≠ Lane.reset := by
      intro hreset
      have unstopped : (e.lane l).stopped = false := congrArg Lane.stopped hreset
      exact absurd (hstop.symm.trans unstopped) (by decide)
    exact congrArg Lane.state (e.modLane_lane_of_ne l Lane.disabled listed)

/-- A stopped lane is in OFF after the frame start that takes the stop. -/
theorem Eff.laneFrame_stops (e : Eff s0) (l : Nat) (h : (e.lane l).stopReq = some true) : ((e.laneFrame l).lane l).state = .off := by
  have lane : (e.takeOrder l true).lane l = (e.lane l).ordered true :=
    e.modLane_lane_of_ne l (·.ordered true) fun hreset => nomatch congrArg Lane.stopped hreset
  have unwanted : (e.takeOrder l true).laneWanted l = false := by
    rw [Eff.laneWanted, lane]
    simp [laneOn, Lane.ordered]
  rw [e.laneFrame_eq l true h]
  exact Eff.followEnable_stops _ l unwanted (congrArg Lane.stopped lane)

/-- A lane in OFF whose start is taken is in WAKE, where it is enabled. -/
theorem Eff.laneFrame_starts (e : Eff s0) (l : Nat) (h : (e.lane l).stopReq = some false) (hoff : (e.lane l).state = .off)
    (hwf : smWf Lane.reset e.st.lanes = true) (hmode : e.st.cv oLaneMode l = 0) (hlen : 24 ≤ l ∨ 0 < e.st.cv oChainLen l) :
    ((e.laneFrame l).lane l).state = .wake := by
  obtain ⟨e1, st, taken⟩ : ∃ e1 : Eff s0, e1.st = { e.st with doms := e1.st.doms } ∧
      e.takeOrder l false = e1.modLane l (·.ordered false) := by
    refine ⟨_, ?_, rfl⟩
    cases !false && !(e.st.devState == .ready || e.st.devState == .safe) with
    | false => rfl
    | true =>
      rw [Eff.when_true]
      exact e.leaveIdle_st _
  have lanes : e1.st.lanes = e.st.lanes := by rw [st]
  have lane : (e1.modLane l (·.ordered false)).lane l = (e.lane l).ordered false := by
    rw [e1.modLane_lane_of_wf l _ (by rw [lanes]; exact hwf), Eff.lane, lanes]
  have cv : (e1.modLane l (·.ordered false)).st.cv = e.st.cv := by rw [e1.modLane_laned l _, st]; rfl
  have wanted : (e1.modLane l (·.ordered false)).laneWanted l = true := by
    rw [Eff.laneWanted, lane, Eff.cv, Eff.cv, cv, hmode]
    simpa [laneOn, Lane.ordered] using hlen
  rw [e.laneFrame_eq l false h, taken]
  exact Eff.followEnable_wakes _ l wanted ((congrArg Lane.state lane).trans hoff)

/-! ### The statement -/

/-- Settles O30: the actions by their RESULT, the frame start by what the stop makes of the lane. -/
theorem laneActionsComplete : Obligations.LaneActionsComplete := by
  unfold Obligations.LaneActionsComplete
  refine ⟨?_, ?_, ?_, ?_⟩
  · rintro s q b _ lvl sid h hb rfl
    refine ⟨fun hrun hcells hpeer => ?_, fun hstopped => ?_, fun hrun hneed => ?_⟩
    · exact execLaneStop_orders s q b lvl sid h hb ((Eff.start s).stopResult_free _ hrun hcells hpeer)
    · exact execLaneStop_refuses s q b lvl sid 1 h hb (if_pos hstopped) (by decide)
    · exact execLaneStop_refuses s q b lvl sid 2 h hb ((Eff.start s).stopResult_needed _ hrun hneed) (by decide)
  · rintro s q b _ lvl sid h hb rfl
    refine ⟨fun hstopped hmode => ?_, fun hrefused => ?_⟩
    · refine execLaneStart_orders s q b lvl sid h hb (if_neg ?_)
      simp [hstopped, hmode]
    · refine execLaneStart_refuses s q b lvl sid 1 h hb (if_pos ?_) (by decide)
      rcases hrefused with hrun | hmode
      · simp [hrun]
      · simp [hmode]
  · rintro s l _ rfl h
    exact (Eff.start s).laneFrame_stops l h
  · rintro s l _ rfl h hoff hwf hmode hlen
    exact (Eff.start s).laneFrame_starts l h hoff hwf hmode hlen

end Sys2Proof.Machine
end

