-- ==== Sys2Proof/Proofs/GateEnables.lean ====
section
/-! SUPPORT. GATE_EN_N and the requests of the gates: what its rise and its fall make of the legs and their gates (R391, R393, R401, R402), and
what CELL_EN_TOGGLE and SLOT_RESET order for a later frame (R223, R256). -/

namespace Sys2Proof.Machine

variable {s0 : Root}

/-! ### Indexed state changed at several places -/

section
variable {β : Type} [DecidableEq β]

/-- Changes the values at the indices of a list, one after the other. -/
def smMods (d : β) (m : SMap β) (l : List Nat) (f : β → β) : SMap β := l.foldl (fun m n => smMod d m n f) m

/-- A change that is made once and for all, and that never gives the default, is read at every place of the list, whatever the form of the
map. -/
theorem smGet_smMods (d : β) (m : SMap β) (l : List Nat) (f : β → β) (hne : ∀ n ∈ l, f (smGet d m n) ≠ d) (hidem : ∀ x, f (f x) = f x)
    (i : Nat) : smGet d (smMods d m l f) i = if i ∈ l then f (smGet d m i) else smGet d m i := by
  induction l generalizing m with
  | nil => rfl
  | cons n r ih =>
    obtain ⟨hn, hr⟩ := List.forall_mem_cons.mp hne
    have read (j : Nat) : smGet d (smMod d m n f) j = if j = n then f (smGet d m j) else smGet d m j := by
      rw [smMod, smGet_smSet_of_ne d m n _ hn]
      split <;> simp [*]
    have rest : ∀ j ∈ r, f (smGet d (smMod d m n f) j) ≠ d := by
      intro j hj
      rw [read]
      split
      · rw [hidem]
        exact hr j hj
      · exact hr j hj
    rw [show smMods d m (n :: r) f = smMods d (smMod d m n f) r f from rfl, ih _ rest, read]
    by_cases h : i = n <;> by_cases hi : i ∈ r <;> simp [h, hi, hidem]

end

/-! ### The rise of GATE_EN_N (R393, R402) -/

/-- The gates of leg u as a rise leaves them: DISABLED where the leg is monitored and not latched, else untouched. -/
def State.disables (s : State) (m : SMap Gate) (u : Nat) : SMap Gate :=
  if (smGet Leg.reset s.gate.legs u).mon = true ∧ (Eff.start s).latched u = false then
    smMod Gate.reset (smMod Gate.reset m (2 * u) fun g => { g.shut s.time.up with st := .disabled }) (2 * u + 1) fun g =>
      { g.shut s.time.up with st := .disabled } else m

theorem Eff.dropEnable_disables (e : Eff s0) (u : Nat) : (e.when ((e.leg u).mon && !e.latched u) (·.dropEnable u)).st =
    { e.st with gate := { e.st.gate with gates := e.st.disables e.st.gate.gates u } } := by
  have latched : e.latched u = (Eff.start e.st).latched u := rfl
  rw [State.disables, latched]
  by_cases h : (e.leg u).mon = true ∧ (Eff.start e.st).latched u = false
  · rw [if_pos h, h.1, h.2]
    rfl
  · have kept : ((e.leg u).mon && !(Eff.start e.st).latched u) = false := by simpa using h
    rw [if_neg h, kept]
    rfl

/-- Disabling one leg touches no latch, so every leg is judged by the latches that stood at the rise. -/
theorem Eff.dropEnables_st (e : Eff s0) (l : List Nat) :
    (e.each l fun e u => e.when ((e.leg u).mon && !e.latched u) (·.dropEnable u)).st =
      { e.st with gate := { e.st.gate with gates := l.foldl e.st.disables e.st.gate.gates } } := by
  induction l generalizing e with
  | nil => rfl
  | cons u r ih =>
    rw [Eff.each_cons, ih, e.dropEnable_disables u]
    rfl

theorem execGateEnNRise_high (s : State) (h : s.gate.enN = true) : execGateEnNRise s = .next s := if_pos h

theorem execGateEnNRise_disables (s : State) (hlow : s.gate.enN = false) (hrun : s.dev.state ≠ .run) (hder : s.dev.state ≠ .derated) :
    execGateEnNRise s = .next { s with gate := { s.gate with
      enN := true, enRise := s.time.up, gates := (List.range 12).foldl s.disables s.gate.gates } } := by
  unfold execGateEnNRise
  extract_lets e0 e1 e2 mon run
  rw [if_neg (by simp [e0, hlow])]
  have st : e2.st = { s with gate := { s.gate with
      enN := true, enRise := s.time.up, gates := (List.range 12).foldl s.disables s.gate.gates } } := e1.dropEnables_st (List.range 12)
  have quiet : run = false := by simp [run, st, hrun, hder]
  rw [quiet, Bool.and_false, Eff.when_false, st]

/-! ### The fall of GATE_EN_N (R391, R401) -/

/-- A leg with its latches cleared. -/
def Leg.cleared (l : Leg) : Leg := { Leg.reset with mon := l.mon, trouble := l.trouble, overlap := l.overlap }

/-- A gate that leaves DISABLED for OFF. -/
def Gate.opened (g : Gate) : Gate := { g with st := .off }

/-- The gates of legs. -/
def legGates (l : List Nat) : List Nat := l.flatMap fun u => [2 * u, 2 * u + 1]

theorem Leg.cleared_ne_reset (l : Leg) (h : l.mon = true) : l.cleared ≠ Leg.reset := by
  intro hreset
  have unmonitored : l.mon = false := congrArg Leg.mon hreset
  exact absurd (h.symm.trans unmonitored) (by decide)

theorem Leg.cleared_cleared (l : Leg) : l.cleared.cleared = l.cleared := rfl

theorem Gate.opened_ne_reset (g : Gate) : g.opened ≠ Gate.reset := fun hreset => nomatch congrArg Gate.st hreset

theorem mem_legGates_range (k : Nat) (h : k < 24) : k ∈ legGates (List.range 12) := by
  refine List.mem_flatMap.mpr ⟨k / 2, List.mem_range.mpr (by omega), ?_⟩
  simp only [List.mem_cons, List.not_mem_nil, or_false]
  omega

/-- The gates and legs of a state let leg u follow its enable without a latch or a command: the leg is monitored and not latched, and the
supplies of its gates are good. -/
structure State.Opens (s : State) (u : Nat) : Prop where
  mon : (smGet Leg.reset s.gate.legs u).mon = true
  latched : (Eff.start s).latched u = false
  supOk : ∀ k, k / 2 = u → (smGet Gate.reset s.gate.gates k).supOk = true
  cmd : ∀ k, k / 2 = u → (smGet Gate.reset s.gate.gates k).cmd = false

/-- The state with the gates of some legs in OFF. -/
def State.opened (s : State) (l : List Nat) : State :=
  { s with gate := { s.gate with gates := smMods Gate.reset s.gate.gates (legGates l) Gate.opened } }

theorem State.opened_legs (s : State) (l : List Nat) : (s.opened l).gate.legs = s.gate.legs := rfl

theorem State.opened_gate (s : State) (l : List Nat) (k : Nat) : smGet Gate.reset (s.opened l).gate.gates k =
    if k ∈ legGates l then (smGet Gate.reset s.gate.gates k).opened else smGet Gate.reset s.gate.gates k :=
  smGet_smMods _ _ _ _ (fun _ _ => Gate.opened_ne_reset _) (fun _ => rfl) k

/-- Opening gates keeps what the enable of a leg asks for. -/
theorem State.Opens.opened {s : State} {u : Nat} (h : s.Opens u) (l : List Nat) : (s.opened l).Opens u := by
  refine ⟨h.mon, h.latched, fun k hk => ?_, fun k hk => ?_⟩
  · rw [State.opened_gate]
    split <;> exact h.supOk k hk
  · rw [State.opened_gate]
    split <;> exact h.cmd k hk

theorem Eff.assertEnable_opens (e : Eff s0) (u : Nat) (h : e.st.Opens u) : (e.assertEnable u).st = e.st.opened [u] := by
  unfold Eff.assertEnable
  extract_lets hi e1 e2
  have st : e1.st = e.st.opened [u] := rfl
  have opens : e1.st.Opens u := st ▸ h.opened [u]
  have unlatched : e1.latched u = false := opens.latched
  have supH : (e1.gch hi).supOk = true := opens.supOk _ (by omega)
  have supL : (e1.gch (hi + 1)).supOk = true := opens.supOk _ (by omega)
  have cmdH : (e1.gch hi).cmd = false := opens.cmd _ (by omega)
  have cmdL : (e1.gch (hi + 1)).cmd = false := opens.cmd _ (by omega)
  simp only [e2, unlatched, supH, supL, cmdH, cmdL, Bool.not_true, Bool.false_and, Bool.false_eq_true, if_false, Eff.when_false, st]

/-- The enables of the legs are asserted (R391). -/
def Eff.assertEnables (e : Eff s0) (l : List Nat) : Eff s0 := e.each l fun e u => e.when (e.leg u).mon (·.assertEnable u)

theorem Eff.assertEnables_opens (e : Eff s0) (l : List Nat) (h : ∀ u ∈ l, e.st.Opens u) :
    (e.assertEnables l).st = e.st.opened l := by
  induction l generalizing e with
  | nil => rfl
  | cons u r ih =>
    obtain ⟨hu, hr⟩ := List.forall_mem_cons.mp h
    have first : (e.when (e.leg u).mon (·.assertEnable u)).st = e.st.opened [u] := by
      rw [hu.mon, Eff.when_true, e.assertEnable_opens u hu]
    rw [Eff.assertEnables, Eff.each_cons, ← Eff.assertEnables, ih _ fun v hv => first ▸ (hr v hv).opened [u], first]
    rfl

/-- Legs that are not monitored have no enable. -/
theorem Eff.assertEnables_unmonitored (e : Eff s0) (l : List Nat) (h : ∀ u ∈ l, (e.leg u).mon = false) : e.assertEnables l = e :=
  e.each_same l _ fun u hu => by rw [h u hu, Eff.when_false]

/-- Clears the latches of legs. -/
theorem Eff.clearLegs_st (e : Eff s0) (l : List Nat) : (e.each l fun e u => e.modLeg u Leg.cleared).st =
    { e.st with gate := { e.st.gate with legs := smMods Leg.reset e.st.gate.legs l Leg.cleared } } := by
  induction l generalizing e with
  | nil => rfl
  | cons u r ih =>
    rw [Eff.each_cons, ih]
    rfl

/-- The state once a fall of GATE_EN_N has cleared every latch (R401). -/
def State.latchesCleared (s : State) : State :=
  { s with
    gate := { s.gate with
      enN := false, stage := false, lastToggle := some (s.time.clock / 65536)
      legs := smMods Leg.reset s.gate.legs (List.range 12) Leg.cleared }
    hub := { s.hub with startNext := s.hub.startNext || s.gate.stage } }

theorem State.latchesCleared_gates (s : State) : s.latchesCleared.gate.gates = s.gate.gates := rfl

theorem State.latchesCleared_legs (s : State) :
    s.latchesCleared.gate.legs = smMods Leg.reset s.gate.legs (List.range 12) Leg.cleared := by
  rw [State.latchesCleared]

theorem State.latchesCleared_leg (s : State) (hmon : ∀ u < 12, (smGet Leg.reset s.gate.legs u).mon = true) (u : Nat) (hu : u < 12) :
    smGet Leg.reset s.latchesCleared.gate.legs u = (smGet Leg.reset s.gate.legs u).cleared := by
  have monitored : ∀ v ∈ List.range 12, (smGet Leg.reset s.gate.legs v).cleared ≠ Leg.reset := fun v hv =>
    Leg.cleared_ne_reset _ (hmon v (List.mem_range.mp hv))
  rw [s.latchesCleared_legs, smGet_smMods _ _ _ Leg.cleared monitored Leg.cleared_cleared, if_pos (List.mem_range.mpr hu)]

theorem execGateEnNFall_low (s : State) (h : s.gate.enN = false) : execGateEnNFall s = .next s := if_pos (by simp [h])

/-- Every latch clears, and with the stage latch the stop of the hub (R401). -/
def Eff.clearLatches (e : Eff s0) : Eff s0 :=
  ((e.modGate fun g => { g with stage := false, lastToggle := some e.now16 }).each (List.range 12) fun e u => e.modLeg u Leg.cleared).when
    e.gate.stage (·.modHub fun h => { h with startNext := true })

theorem Eff.clearLatches_st (s : State) :
    (((Eff.start s).modGate fun g => { g with enN := false }).clearLatches).st = s.latchesCleared := by
  rw [Eff.clearLatches, State.latchesCleared]
  cases hstage : s.gate.stage <;> simp [hstage, Eff.clearLegs_st, Eff.now16]

/-- Outside the 4.5 to 5.0 µs that the manual leaves open the time high decides whether a fall clears the latches. -/
theorem execGateEnNFall_eq (s : State) (clears : Bool) (hen : s.gate.enN = true)
    (hlate : clears = true → s.gate.enRise + 5000 ≤ s.time.up) (hearly : clears = false → s.time.up < s.gate.enRise + 4500) :
    execGateEnNFall s = .next
      ((((Eff.start s).modGate fun g => { g with enN := false }).when clears (·.clearLatches)).assertEnables (List.range 12)).st := by
  unfold execGateEnNFall
  extract_lets e0 high open1 clears1 e1 e2 was e3 l0 e4 e5
  rw [if_neg (by simp [e0, hen])]
  have highEq : high = s.time.up - s.gate.enRise := rfl
  have decided : open1 = false ∧ decide (5000 ≤ high) = clears := by
    cases clears with
    | true =>
      have := hlate rfl
      exact ⟨decide_eq_false (by omega), decide_eq_true (by omega)⟩
    | false =>
      have := hearly rfl
      exact ⟨decide_eq_false (by omega), decide_eq_false (by omega)⟩
  obtain ⟨hopen, hclears⟩ := decided
  have clearsEq : clears1 = clears := by simp only [clears1, hopen, hclears, Bool.false_and, Bool.or_false]
  have lowered : e2 = (Eff.start s).modGate fun g => { g with enN := false } := by
    simp only [e2, e1, hopen, Eff.when_false, e0]
  have cleared : e5 = e2.when clears (·.clearLatches) := by
    simp only [e5, clearsEq]
    rfl
  rw [cleared, lowered]
  rfl

/-- A fall after less than 4.5 µs clears nothing. -/
theorem execGateEnNFall_early (s : State) (hen : s.gate.enN = true) (hmon : ∀ u < 12, (smGet Leg.reset s.gate.legs u).mon = false)
    (hearly : s.time.up < s.gate.enRise + 4500) : execGateEnNFall s = .next { s with gate := { s.gate with enN := false } } := by
  rw [execGateEnNFall_eq s false hen nofun fun _ => hearly, Eff.when_false,
    Eff.assertEnables_unmonitored _ _ fun u hu => hmon u (List.mem_range.mp hu), Eff.modGate_st, Eff.start_st]

theorem execGateEnNFall_opens (s : State) (hen : s.gate.enN = true) (hmon : ∀ u < 12, (smGet Leg.reset s.gate.legs u).mon = true)
    (hgates : ∀ k < 24, (smGet Gate.reset s.gate.gates k).supOk = true ∧ (smGet Gate.reset s.gate.gates k).cmd = false)
    (hlate : s.gate.enRise + 5000 ≤ s.time.up) : execGateEnNFall s = .next (s.latchesCleared.opened (List.range 12)) := by
  have opens : ∀ u ∈ List.range 12, s.latchesCleared.Opens u := by
    intro u hu
    have hu := List.mem_range.mp hu
    have gate (k : Nat) (hk : k / 2 = u) : (smGet Gate.reset s.latchesCleared.gate.gates k).supOk = true ∧
        (smGet Gate.reset s.latchesCleared.gate.gates k).cmd = false := by
      rw [s.latchesCleared_gates]
      exact hgates k (by omega)
    refine ⟨?_, ?_, fun k hk => (gate k hk).left, fun k hk => (gate k hk).right⟩
    · rw [s.latchesCleared_leg hmon u hu]
      exact hmon u hu
    · rw [Eff.latched, Eff.leg, Eff.start_st, s.latchesCleared_leg hmon u hu]
      rfl
  rw [execGateEnNFall_eq s true hen (fun _ => hlate) nofun, Eff.when_true, Eff.assertEnables_opens _ _ (by rwa [Eff.clearLatches_st]),
    Eff.clearLatches_st]

/-! ### Requests that act in a later frame (R223, R256) -/

/-- An action that is answered at once: the answer goes out on the state the action makes. -/
theorem invoke_replies (s u : State) (q : Req) (obj right lvl sid : Nat) (args : List Byte) (active : Bool)
    (run : Act s → Ctx → List Byte → ActRes ⟨s, false⟩) (a : Ans) (h : s.Invoked q obj args right active lvl sid)
    (hrun : ∀ e : Act s, e.st = { s with sess := e.st.sess } →
      ∃ x : Act s, run e ⟨lvl, sid, .req q⟩ args = (x, some a) ∧ x.st = { u with sess := x.st.sess, sent := x.st.sent }) :
    ∃ t, (.next ((Eff.start s).invoke q obj args right active run).st : Host.Outcome State Fault Refusal) = .next t ∧
      t.Replied q 3 a ∧ t = { u with sess := t.sess, sent := t.sent } := by
  obtain ⟨e, hst, hinvoke⟩ := (Eff.start s).invoke_go q obj args right active lvl sid run h
  obtain ⟨x, hx, hu⟩ := hrun e hst
  rw [hx] at hinvoke
  refine ⟨_, congrArg (fun e : Act s => Host.Outcome.next e.st) hinvoke, Eff.answer_replied .., ?_⟩
  rw [Eff.answer_st, hu]

theorem actCellEnToggle_eq (e : Eff s0) (c : Ctx) (b : Byte) (hb : b.toNat < 192) : actCellEnToggle e c [b] =
    if (e.cell b.toNat).state ∈ [.idle, .active, .bypassed] then
      (e.modCell b.toNat fun x => { x with enOff := ((e.frame.k + 2) :: x.enOff).dedup }, some (ansResultFrame 0 (e.frame.k + 2)))
    else (e, some (ansResultFrame 1 0)) := by
  refine ((if_neg (by simp)).trans (if_neg (not_le.mpr hb))).trans (if_congr ?_ rfl rfl)
  simp [octet, or_assoc]

theorem execCellEnToggle_accepts (s : State) (q : Req) (cell : Byte) (lvl sid : Nat) (h : s.Invoked q oCellEnToggle [cell] 2 true lvl sid)
    (hcell : cell.toNat < 192) (hstate : (smGet Cell.reset s.cells cell.toNat).state ∈ [.idle, .active, .bypassed]) :
    ∃ t, execCellEnToggle q [cell] s = .next t ∧ t.Replied q 3 (ansResultFrame 0 (s.frame.k + 2)) ∧
      t = { s with
        sess := t.sess, sent := t.sent, cells := smMod Cell.reset s.cells cell.toNat fun x =>
          { x with enOff := ((s.frame.k + 2) :: x.enOff).dedup } } := by
  refine invoke_replies s { s with cells := smMod Cell.reset s.cells cell.toNat fun x =>
    { x with enOff := ((s.frame.k + 2) :: x.enOff).dedup } } q _ _ lvl sid _ _ _ _ h fun e hst => ?_
  have cells : e.st.cells = s.cells := by rw [hst]
  have frame : e.st.frame = s.frame := by rw [hst]
  refine ⟨e.modCell cell.toNat fun x => { x with enOff := ((s.frame.k + 2) :: x.enOff).dedup }, ?_, ?_⟩
  · rw [actCellEnToggle_eq e _ cell hcell, Eff.cell, cells, if_pos hstate, Eff.frame, frame]
  · rw [Eff.modCell, Eff.modCells_st, hst]

theorem execCellEnToggle_refuses (s : State) (q : Req) (cell : Byte) (lvl sid : Nat) (h : s.Invoked q oCellEnToggle [cell] 2 true lvl sid)
    (hcell : cell.toNat < 192) (hstate : (smGet Cell.reset s.cells cell.toNat).state ∉ [.idle, .active, .bypassed]) :
    ∃ t, execCellEnToggle q [cell] s = .next t ∧ t.Replied q 3 (ansResultFrame 1 0) ∧
      t = { s with sess := t.sess, sent := t.sent } := by
  refine invoke_replies s s q _ _ lvl sid _ _ _ _ h fun e hst => ⟨e, ?_, ?_⟩
  · have cells : e.st.cells = s.cells := by rw [hst]
    rw [actCellEnToggle_eq e _ cell hcell, Eff.cell, cells, if_neg hstate]
  · rw [hst]

theorem actSlotReset_eq (e : Eff s0) (c : Ctx) (args : List Byte) (hlen : args.length = 2) (hi : fieldLe args 0 2 < 512) :
    actSlotReset e c args =
      if bitOf (e.slotCfg (fieldLe args 0 2)) 0 = false then (e, some (ansResultFrame 1 0)) else e.pairAct c oSlotReset args := by
  refine ((if_neg (by simp [hlen])).trans (if_neg (not_le.mpr hi))).trans (if_congr ?_ rfl rfl)
  simp

/-- A CONTROL message puts frames out and changes nothing else. -/
theorem Eff.putControl_st (e : Eff s0) (type cseq frame : Nat) (p : List Byte) :
    (e.putControl type cseq frame p).st = { e.st with sent := (e.putControl type cseq frame p).st.sent } :=
  Eff.foldl_rel (s0 := s0) (fun a b => b = { a with sent := b.sent }) (fun _ => rfl) (fun a b c h1 h2 => by rw [h2, h1])
    (fun e o => e.sendPeer 0 o) (fun e o => by rw [Eff.sendPeer_st]) _ e

theorem Eff.pairAct_alone (e : Eff s0) (c : Ctx) (obj : Nat) (args : List Byte) (h : e.st.pair.standby = false) :
    e.pairAct c obj args = (e.modPair fun p => { p with timed := p.timed ++ [(e.frame.k + 1, obj, args)] },
      some (ansResultFrame 0 (e.frame.k + 1))) := if_neg (by simp [h])

/-- With a standby the action waits for its confirmation, under the number of the message that passes it on. -/
theorem Eff.pairAct_passes (e : Eff s0) (c : Ctx) (obj : Nat) (args : List Byte) (h : e.st.pair.standby = true) :
    ∃ x : Eff s0, e.pairAct c obj args = (x, none) ∧
      x.st = { e.st with sent := x.st.sent, pair := x.st.pair } ∧
      x.st.pair.waitActs = e.st.pair.waitActs ++ [⟨obj, args, e.st.pair.nextCseq, e.st.frame.k + 2, true, c.ret⟩] := by
  refine ⟨_, if_pos h, ?_⟩
  rw [Eff.modPair_st, Eff.sendAction, h, Eff.when_true, Eff.sendControl, Eff.modPair_st, Eff.putControl_st]
  exact ⟨rfl, rfl⟩

section
variable {s : State} {q : Req} {args : List Byte} {lvl sid : Nat}

/-- SLOT_RESET of a slot in range, as it runs on a request that has passed. -/
theorem actSlotReset_admitted (e : Act s) (hst : e.st = { s with sess := e.st.sess }) (c : Ctx) (hlen : args.length = 2)
    (hi : fieldLe args 0 2 < 512) : actSlotReset e c args =
      if bitOf (s.cv oSlotCfg (fieldLe args 0 2)) 0 = false then (e, some (ansResultFrame 1 0)) else e.pairAct c oSlotReset args := by
  have cv : e.st.cv = s.cv := by
    rw [hst]
    rfl
  rw [actSlotReset_eq e c args hlen hi, Eff.slotCfg, Eff.cv, cv]

variable (s q args lvl sid) (h : s.Invoked q oSlotReset args 2 true lvl sid) (hlen : args.length = 2) (hi : fieldLe args 0 2 < 512)
include h hlen hi

theorem execSlotReset_refuses (hoff : bitOf (s.cv oSlotCfg (fieldLe args 0 2)) 0 = false) :
    ∃ t, execSlotReset q args s = .next t ∧ t.Replied q 3 (ansResultFrame 1 0) ∧ t = { s with sess := t.sess, sent := t.sent } := by
  refine invoke_replies s s q _ _ lvl sid _ _ _ _ h fun e hst => ⟨e, ?_, ?_⟩
  · rw [actSlotReset_admitted e hst _ hlen hi, if_pos hoff]
  · rw [hst]

theorem execSlotReset_alone (hon : bitOf (s.cv oSlotCfg (fieldLe args 0 2)) 0 = true) (hpeer : s.pair.standby = false) :
    ∃ t, execSlotReset q args s = .next t ∧ t.Replied q 3 (ansResultFrame 0 (s.frame.k + 1)) ∧
      t = { s with
        sess := t.sess, sent := t.sent, pair := { s.pair with timed := s.pair.timed ++ [(s.frame.k + 1, oSlotReset, args)] } } := by
  refine invoke_replies s { s with pair := { s.pair with timed := s.pair.timed ++ [(s.frame.k + 1, oSlotReset, args)] } } q _ _ lvl sid
    _ _ _ _ h fun e hst => ?_
  have frame : e.st.frame = s.frame := by rw [hst]
  have pair : e.st.pair = s.pair := by rw [hst]
  refine ⟨e.modPair fun p => { p with timed := p.timed ++ [(s.frame.k + 1, oSlotReset, args)] }, ?_, ?_⟩
  · rw [actSlotReset_admitted e hst _ hlen hi, hon, if_neg nofun, Eff.pairAct_alone _ _ _ _ (by rw [pair, hpeer]), Eff.frame, frame]
  · rw [Eff.modPair_st, hst]

theorem execSlotReset_passes (hon : bitOf (s.cv oSlotCfg (fieldLe args 0 2)) 0 = true) (hpeer : s.pair.standby = true) :
    ∃ t, execSlotReset q args s = .next t ∧
      t.pair.waitActs = s.pair.waitActs ++ [⟨oSlotReset, args, s.pair.nextCseq, s.frame.k + 2, true, .req q⟩] ∧
      t = { s with sess := t.sess, sent := t.sent, pair := t.pair } := by
  obtain ⟨e, hst, hinvoke⟩ := (Eff.start s).invoke_go q oSlotReset args 2 true lvl sid actSlotReset h
  have hst : e.st = { s with sess := e.st.sess } := hst
  have pair : e.st.pair = s.pair := by rw [hst]
  obtain ⟨x, hpass, xst, hwait⟩ := e.pairAct_passes ⟨lvl, sid, .req q⟩ oSlotReset args (by rw [pair, hpeer])
  rw [actSlotReset_admitted e hst _ hlen hi, hon, if_neg nofun, hpass] at hinvoke
  refine ⟨_, congrArg (fun e : Act s => Host.Outcome.next e.st) hinvoke, ?_, ?_⟩
  · rw [hwait, hst]
  · rw [xst, hst]

end

/-! ### The statement -/

/-- Settles O40: the edges of GATE_EN_N by what they make of legs and gates, the requests by their RESULT. -/
theorem enablesAndRequestsOfTheGatesComplete : Obligations.EnablesAndRequestsOfTheGatesComplete := by
  unfold Obligations.EnablesAndRequestsOfTheGatesComplete
  refine ⟨execGateEnNRise_high, execGateEnNRise_disables, execGateEnNFall_low, ?_, execGateEnNFall_early, ?_, ?_⟩
  · intro s hen hmon hgates hlate
    refine ⟨_, execGateEnNFall_opens s hen hmon hgates hlate, rfl, rfl, rfl, fun u hu => ?_, fun k hk => ?_, rfl, rfl⟩
    · rw [State.opened_legs, s.latchesCleared_leg hmon u hu, Leg.cleared, hmon u hu]
    · rw [State.opened_gate, if_pos (mem_legGates_range k hk)]
      rfl
  · intro s q cell lvl sid h hcell
    exact ⟨execCellEnToggle_accepts s q cell lvl sid h hcell, execCellEnToggle_refuses s q cell lvl sid h hcell⟩
  · rintro s q args lvl sid _ h hlen rfl hi
    exact ⟨execSlotReset_refuses s q args lvl sid h hlen hi, execSlotReset_alone s q args lvl sid h hlen hi,
      execSlotReset_passes s q args lvl sid h hlen hi⟩

end Sys2Proof.Machine
end

