-- ==== Sys2Proof/Proofs/LoopSections.lean ====
section
/-! SUPPORT. The arithmetic of the loop engine's sections: what saturation, narrowing and `narrow30` make of an exact sum (R62, R63,
R248). -/

namespace Sys2Proof.Machine

/-- A saturated value lies in its width. -/
theorem satTo_range (w : Nat) (x : Int) : -2 ^ (w - 1) ≤ (satTo w x).1 ∧ (satTo w x).1 < 2 ^ (w - 1) := by
  have half : (0 : Int) < 2 ^ (w - 1) := by positivity
  simp only [satTo, clampTo]
  omega

/-- Saturation leaves alone just the values that lie in the width. -/
theorem satTo_false_iff (w : Nat) (x : Int) : (satTo w x).2 = false ↔ -2 ^ (w - 1) ≤ x ∧ x < 2 ^ (w - 1) := by
  have half : (0 : Int) < 2 ^ (w - 1) := by positivity
  simp only [satTo, clampTo, bne_eq_false_iff_eq]
  omega

/-- Where saturation did not act, the value stands. -/
theorem satTo_fst (w : Nat) (x : Int) (h : (satTo w x).2 = false) : (satTo w x).1 = x := by
  simpa only [satTo, bne_eq_false_iff_eq] using h

/-- Narrowing by 30 bits rounds to the nearest multiple, a half upward (R63). -/
theorem narrow_thirty_eq_iff (x y : Int) : narrow 30 x = y ↔ 2 ^ 30 * y - 2 ^ 29 ≤ x ∧ x < 2 ^ 30 * y + 2 ^ 29 := by
  rw [narrow]
  omega

/-- The two saturations of narrow30 by their values and their reports. -/
theorem narrow30_eq (a : Int) : narrow30 a =
    ((satTo 48 (narrow 30 (satTo 80 a).1)).1, (satTo 80 a).2 || (satTo 48 (narrow 30 (satTo 80 a).1)).2) := rfl

/-- What narrow30 answers lies in Q8.40. -/
theorem narrow30_range (a : Int) : -2 ^ 47 ≤ (narrow30 a).1 ∧ (narrow30 a).1 < 2 ^ 47 :=
  satTo_range 48 (narrow 30 (satTo 80 a).1)

/-- Without a saturation narrow30 rounds the exact sum. -/
theorem narrow30_rounds (a : Int) (h : (narrow30 a).2 = false) :
    2 ^ 30 * (narrow30 a).1 - 2 ^ 29 ≤ a ∧ a < 2 ^ 30 * (narrow30 a).1 + 2 ^ 29 := by
  rw [narrow30_eq, Bool.or_eq_false_iff] at h
  obtain ⟨wide, kept⟩ := h
  rw [← narrow_thirty_eq_iff, narrow30_eq, satTo_fst 48 _ kept, satTo_fst 80 a wide]

/-- A sum that rounds into Q8.40 has less than 80 bits, so neither saturation acts. -/
theorem narrow30_exact (a : Int) (hlo : -2 ^ 77 + 2 ^ 29 ≤ a) (hhi : a < 2 ^ 77 - 2 ^ 29) : (narrow30 a).2 = false := by
  have wide : (satTo 80 a).2 = false := (satTo_false_iff 80 a).mpr ⟨by omega, by omega⟩
  have kept : (satTo 48 (narrow 30 a)).2 = false := by
    obtain ⟨lower, upper⟩ := (narrow_thirty_eq_iff a _).mp rfl
    exact (satTo_false_iff 48 _).mpr ⟨by omega, by omega⟩
  rw [narrow30_eq, satTo_fst 80 a wide, wide, kept, Bool.or_false]

/-- A section reports a saturation where one of its three narrowings does. -/
theorem runSection_sat_iff (b0 b1 b2 a1 a2 u s1 s2 : Int) (bexp sec : Nat) (o : SecOut)
    (ho : o = runSection b0 b1 b2 a1 a2 bexp sec u s1 s2) :
    o.sat = false ↔ (narrow30 (b0 * u * 2 ^ bexp + s1 * 2 ^ 30)).2 = false ∧
      (narrow30 (b1 * u * 2 ^ bexp - a1 * o.y + s2 * 2 ^ 30)).2 = false ∧ (narrow30 (b2 * u * 2 ^ bexp - a2 * o.y)).2 = false := by
  subst ho
  simp only [runSection, Bool.or_eq_false_iff, and_assoc]

/-- Settles O41: output and states are each one `narrow30` of an exact sum. -/
theorem sectionsRoundAndSaturate : Obligations.SectionsRoundAndSaturate := by
  intro b0 b1 b2 a1 a2 u s1 s2 bexp sec o ho
  have sat := runSection_sat_iff b0 b1 b2 a1 a2 u s1 s2 bexp sec o ho
  have y : o.y = (narrow30 (b0 * u * 2 ^ bexp + s1 * 2 ^ 30)).1 := by rw [ho, runSection]
  have n1 : o.n1 = (narrow30 (b1 * u * 2 ^ bexp - a1 * o.y + s2 * 2 ^ 30)).1 := by rw [ho, runSection]
  have n2 : o.n2 = (narrow30 (b2 * u * 2 ^ bexp - a2 * o.y)).1 := by rw [ho, runSection]
  refine ⟨y ▸ narrow30_range _, n1 ▸ narrow30_range _, n2 ▸ narrow30_range _, fun h => ?_, fun ylo yhi n1lo n1hi n2lo n2hi => ?_⟩
  · obtain ⟨hy, hn1, hn2⟩ := sat.mp h
    have ry := narrow30_rounds _ hy
    have r1 := narrow30_rounds _ hn1
    have r2 := narrow30_rounds _ hn2
    rw [← y] at ry
    rw [← n1] at r1
    rw [← n2] at r2
    exact ⟨ry, r1, r2⟩
  · exact sat.mpr ⟨narrow30_exact _ ylo yhi, narrow30_exact _ n1lo n1hi, narrow30_exact _ n2lo n2hi⟩

end Sys2Proof.Machine
end

