-- ==== Sys2Proof/Proofs/MeterRequests.lean ====
section
/-! SUPPORT. The requests of meter and dispatcher: what waits for its frame or for the standby, what METER_READ answers, and the record that
METER_SIGN makes of a close (R256, R309, R320, R327 to R332). -/

namespace Sys2Proof.Machine

variable {s0 : Root}

/-! ### Actions that wait for the standby (R79, R256) -/

/-- Without a standby a journalled action acts at the next frame start and is answered at once, with the frame or without. -/
theorem Eff.pairAct_timed (e : Eff s0) (c : Ctx) (obj : Nat) (args : List Byte) (result : Bool) (h : e.st.pair.standby = false) :
    e.pairAct c obj args result = (e.modPair fun p => { p with timed := p.timed ++ [(e.frame.k + 1, obj, args)] },
      some (if result = true then ansResultFrame 0 (e.frame.k + 1) else ansOk)) := if_neg (by simp [h])

/-- With one it waits for its confirmation, under the number of the message that passes it on. -/
theorem Eff.pairAct_waits (e : Eff s0) (c : Ctx) (obj : Nat) (args : List Byte) (result : Bool) (h : e.st.pair.standby = true) :
    ∃ x : Eff s0, e.pairAct c obj args result = (x, none) ∧
      x.st = { e.st with sent := x.st.sent, pair := x.st.pair } ∧
      x.st.pair.waitActs = e.st.pair.waitActs ++ [⟨obj, args, e.st.pair.nextCseq, e.st.frame.k + 2, result, c.ret⟩] := by
  refine ⟨_, if_pos h, ?_⟩
  rw [Eff.modPair_st, Eff.sendAction, h, Eff.when_true, Eff.sendControl, Eff.modPair_st, Eff.putControl_st]
  exact ⟨rfl, rfl⟩

/-- What the request of a journalled action leads to: alone it acts at the next frame start and is answered, with a standby it waits. -/
def State.PassesOn (s : State) (q : Req) (obj : Nat) (args : List Byte) (result : Bool) (o : Host.Outcome State Fault Refusal) : Prop :=
  (s.pair.standby = false → ∃ t, o = .next t ∧ t.Replied q 3 (if result = true then ansResultFrame 0 (s.frame.k + 1) else ansOk) ∧
    t = { s with sess := t.sess, sent := t.sent, pair := { s.pair with timed := s.pair.timed ++ [(s.frame.k + 1, obj, args)] } }) ∧
  (s.pair.standby = true → ∃ t, o = .next t ∧
    t.pair.waitActs = s.pair.waitActs ++ [⟨obj, args, s.pair.nextCseq, s.frame.k + 2, result, .req q⟩] ∧
    t = { s with sess := t.sess, sent := t.sent, pair := t.pair })

/-- An action that is journalled once its own checks have passed. -/
theorem invoke_passesOn (s : State) (q : Req) (obj right lvl sid : Nat) (args : List Byte) (active result : Bool)
    (run : Act s → Ctx → List Byte → ActRes ⟨s, false⟩) (h : s.Invoked q obj args right active lvl sid)
    (hrun : ∀ (e : Act s) (c : Ctx), e.st = { s with sess := e.st.sess } → run e c args = e.pairAct c obj args result) :
    s.PassesOn q obj args result (.next ((Eff.start s).invoke q obj args right active run).st) := by
  refine ⟨fun hpeer => ?_, fun hpeer => ?_⟩
  · refine invoke_replies s { s with pair := { s.pair with timed := s.pair.timed ++ [(s.frame.k + 1, obj, args)] } } q _ _ lvl sid
      _ _ _ _ h fun e hst => ?_
    have frame : e.st.frame = s.frame := by rw [hst]
    have pair : e.st.pair = s.pair := by rw [hst]
    refine ⟨e.modPair fun p => { p with timed := p.timed ++ [(s.frame.k + 1, obj, args)] }, ?_, ?_⟩
    · rw [hrun e _ hst, e.pairAct_timed _ _ _ _ (by rw [pair, hpeer]), Eff.frame, frame]
    · rw [Eff.modPair_st, hst]
  · obtain ⟨e, hst, hinvoke⟩ := (Eff.start s).invoke_go q obj args right active lvl sid run h
    have hst : e.st = { s with sess := e.st.sess } := hst
    have pair : e.st.pair = s.pair := by rw [hst]
    obtain ⟨x, hpass, xst, hwait⟩ := e.pairAct_waits ⟨lvl, sid, .req q⟩ obj args result (by rw [pair, hpeer])
    rw [hrun e _ hst, hpass] at hinvoke
    refine ⟨_, congrArg (fun e : Act s => Host.Outcome.next e.st) hinvoke, ?_, ?_⟩
    · rw [hwait, hst]
    · rw [xst, hst]

/-! ### DISP_EMERG, SOC_SET and METER_ACK (R309, R320, R332) -/

theorem actDispEmerg_eq (e : Eff s0) (c : Ctx) (b : Byte) (hb : b.toNat ≤ 1) :
    actDispEmerg e c [b] = e.pairAct c oDispEmerg [b] false :=
  (if_neg (by simp)).trans (if_neg (not_lt.mpr hb))

theorem actSocSet_eq (e : Eff s0) (c : Ctx) (args : List Byte) (hlen : args.length = 3) (hport : octet args 0 < 192)
    (hsoc : fieldLe args 1 2 ≤ 10000) : actSocSet e c args =
      if !e.contracted (octet args 0) then (e, some (ansResultFrame 1 0)) else e.pairAct c oSocSet args :=
  (if_neg (by simp [hlen])).trans (if_neg (by omega))

theorem actMeterAck_eq (e : Eff s0) (c : Ctx) (args : List Byte) (hlen : args.length = 5) (hport : octet args 0 < 192) :
    actMeterAck e c args = e.pairAct c oMeterAck args false :=
  (if_neg (by simp [hlen])).trans (if_neg (not_le.mpr hport))

/-- The session of the request does not bear on the contracts. -/
theorem Eff.contracted_sess {s : State} (e : Act s) (n : Nat) (h : e.st = { s with sess := e.st.sess }) :
    e.contracted n = (Eff.start s).contracted n := by
  change (Eff.start e.st).contracted n = _
  rw [h]
  rfl

section
variable (s : State) (q : Req) (args : List Byte) (lvl sid : Nat)

theorem execDispEmerg_passesOn (b : Byte) (hb : b.toNat ≤ 1) (h : s.Invoked q oDispEmerg [b] 1 true lvl sid) :
    s.PassesOn q oDispEmerg [b] false (execDispEmerg q [b] s) :=
  invoke_passesOn s q _ _ lvl sid _ _ _ _ h fun e c _ => actDispEmerg_eq e c b hb

theorem execMeterAck_passesOn (hlen : args.length = 5) (hport : octet args 0 < 192) (h : s.Invoked q oMeterAck args 1 true lvl sid) :
    s.PassesOn q oMeterAck args false (execMeterAck q args s) :=
  invoke_passesOn s q _ _ lvl sid _ _ _ _ h fun e c _ => actMeterAck_eq e c args hlen hport

variable (hlen : args.length = 3) (hport : octet args 0 < 192) (hsoc : fieldLe args 1 2 ≤ 10000)
  (h : s.Invoked q oSocSet args 2 true lvl sid)
include hlen hport hsoc h

theorem execSocSet_passesOn (hcon : (Eff.start s).contracted (octet args 0) = true) :
    s.PassesOn q oSocSet args true (execSocSet q args s) :=
  invoke_passesOn s q _ _ lvl sid _ _ _ _ h fun e c hst => by
    rw [actSocSet_eq e c args hlen hport hsoc, e.contracted_sess _ hst, hcon]
    rfl

theorem execSocSet_refuses (hcon : (Eff.start s).contracted (octet args 0) = false) :
    ∃ t, execSocSet q args s = .next t ∧ t.Replied q 3 (ansResultFrame 1 0) ∧ t = { s with sess := t.sess, sent := t.sent } :=
  invoke_replies s s q _ _ lvl sid _ _ _ _ h fun e hst => by
    refine ⟨e, ?_, ?_⟩
    · rw [actSocSet_eq e _ args hlen hport hsoc, e.contracted_sess _ hst, hcon]
      rfl
    · rw [hst]

end

/-! ### Their effects at the frame start -/

theorem Eff.applyCore_socSet (e : Eff s0) (args : List Byte) : e.applyCore oSocSet args = e.applySoc args := rfl

theorem Eff.applyCore_meterAck (e : Eff s0) (args : List Byte) : e.applyCore oMeterAck args = e.applyMeterAck args := rfl

theorem Eff.modPort_st (e : Eff s0) (n : Nat) (f : MPort → MPort) : (e.modPort n f).st =
    { e.st with meter := { e.st.meter with ports := smMod MPort.reset e.st.meter.ports n f } } := rfl

/-! ### METER_CLOSE and METER_READ (R327, R332) -/

theorem actMeterClose_eq (e : Eff s0) (c : Ctx) (b : Byte) (hb : b.toNat < 192 ∨ b.toNat = 255) : actMeterClose e c [b] =
    ((e.when e.isActive (·.sendAction (e.frame.k + 1) oMeterClose [b])).modPair fun p =>
      { p with timed := p.timed ++ [(e.frame.k + 1, oMeterClose, [b])] }, some ansOk) := by
  refine (if_neg (by simp)).trans (if_neg ?_)
  have octet0 : octet [b] 0 = b.toNat := rfl
  omega

/-- Without a standby nothing is passed on. -/
theorem Eff.sendAction_alone (e : Eff s0) (frame obj : Nat) (args : List Byte) (h : e.st.pair.standby = false) :
    e.sendAction frame obj args = e := by
  rw [Eff.sendAction, h, Eff.when_false]

theorem execMeterClose_orders (s : State) (q : Req) (b : Byte) (lvl sid : Nat) (h : s.Invoked q oMeterClose [b] 1 false lvl sid)
    (hb : b.toNat < 192 ∨ b.toNat = 255) (hpeer : s.pair.standby = false) :
    ∃ t, execMeterClose q [b] s = .next t ∧ t.Replied q 3 ansOk ∧
      t = { s with
        sess := t.sess, sent := t.sent, pair := { s.pair with timed := s.pair.timed ++ [(s.frame.k + 1, oMeterClose, [b])] } } := by
  refine invoke_replies s { s with pair := { s.pair with timed := s.pair.timed ++ [(s.frame.k + 1, oMeterClose, [b])] } } q _ _ lvl sid
    _ _ _ _ h fun e hst => ?_
  have frame : e.st.frame = s.frame := by rw [hst]
  have pair : e.st.pair = s.pair := by rw [hst]
  have unsent : e.when e.isActive (·.sendAction (e.frame.k + 1) oMeterClose [b]) = e := by
    rw [Eff.when, e.sendAction_alone _ _ _ (by rw [pair, hpeer]), ite_self]
  refine ⟨e.modPair fun p => { p with timed := p.timed ++ [(s.frame.k + 1, oMeterClose, [b])] }, ?_, ?_⟩
  · rw [actMeterClose_eq e _ b hb, unsent, Eff.frame, frame]
  · rw [Eff.modPair_st, hst]

theorem actMeterRead_eq (e : Eff s0) (c : Ctx) (args : List Byte) (hlen : args.length = 5) (hport : octet args 0 < 192) :
    actMeterRead e c args =
      (e, some (((e.mport (octet args 0)).recs.find? (·.1 == fieldLe args 1 4)).elim (ansErr stNoObject) fun r => ansOk r.2.1)) := by
  refine ((if_neg (by simp [hlen])).trans (if_neg (not_le.mpr hport))).trans ?_
  cases (e.mport (octet args 0)).recs.find? (·.1 == fieldLe args 1 4) with
  | none => rfl
  | some r => rfl

theorem execMeterRead_answers (s : State) (q : Req) (args : List Byte) (lvl sid : Nat) (h : s.Invoked q oMeterRead args 1 false lvl sid)
    (hlen : args.length = 5) (hport : octet args 0 < 192) :
    ∃ t, execMeterRead q args s = .next t ∧
      t.Replied q 3 (((smGet MPort.reset s.meter.ports (octet args 0)).recs.find? (·.1 == fieldLe args 1 4)).elim (ansErr stNoObject)
        fun r => ansOk r.2.1) ∧ t = { s with sess := t.sess, sent := t.sent } := by
  refine invoke_replies s s q _ _ lvl sid _ _ _ _ h fun e hst => ⟨e, ?_, ?_⟩
  · have meter : e.st.meter = s.meter := by rw [hst]
    rw [actMeterRead_eq e _ args hlen hport, Eff.mport, meter]
  · rw [hst]

/-! ### METER_SIGN (R328, R329, R331) -/

/-- A record of a port that holds less than 96 becomes the newest, and none is lost. -/
theorem Eff.addRecord_room (e : Eff s0) (n seq : Nat) (octets : List Byte) (h : (e.mport n).recs.length < 96) :
    (e.addRecord n seq octets).st = { e.st with meter := { e.st.meter with
      ports := smMod MPort.reset e.st.meter.ports n fun p => { p with recs := (seq, octets, false) :: p.recs } } } := by
  have notFull : ((e.mport n).recs.length == 96) = false := beq_false_of_ne (by omega)
  have kept : ((seq, octets, false) :: (e.mport n).recs).take 96 = (seq, octets, false) :: (e.mport n).recs :=
    List.take_of_length_le h
  unfold Eff.addRecord
  extract_lets m lossy e1
  have keeps : lossy = false := by
    simp only [lossy, m, notFull, Bool.false_and]
    split <;> rfl
  rw [keeps, Eff.when_false, Eff.modPort_st, smMod, kept]
  rfl

/-- The octets of a close's record up to its signature (R328, R331), after the record before it, where that is held. -/
def MClose.message (c : MClose) (prev : Option (Nat × List Byte × Bool)) : List Byte :=
  [0x47#8, 0x4D#8, 0x52#8, 0x31#8, 1#8] ++ le 1 c.port ++ le 1 c.cause ++
    le 1 (c.flags + 16 * ofBool (c.seq != 0 && prev.isNone)) ++ le 8 Config.serial.toNat ++ le 4 c.seq ++ c.body ++
    prev.elim (zeros 32) (fun r => sha256 r.2.1)

/-- The record before that of a close, where its port still holds it. -/
def MPort.before (p : MPort) (c : MClose) : Option (Nat × List Byte × Bool) :=
  p.recs.find? fun r => decide ((r.1 + 1) % 2 ^ 32 = c.seq)

/-- A close is signed: it waits no longer, and its record is kept. -/
def Eff.signClose (e : Eff s0) (c : MClose) (octets : List Byte) : Eff s0 :=
  (e.modMeter fun x => { x with closes := x.closes.filter (· != c) }).addRecord c.port c.seq octets

theorem Eff.signClose_room (e : Eff s0) (c : MClose) (octets : List Byte) (h : (e.mport c.port).recs.length < 96) :
    (e.signClose c octets).st = { e.st with meter := { e.st.meter with
      closes := e.st.meter.closes.filter (· != c)
      ports := smMod MPort.reset e.st.meter.ports c.port fun p => { p with recs := (c.seq, octets, false) :: p.recs } } } := by
  rw [Eff.signClose]
  exact Eff.addRecord_room (e.modMeter _) c.port c.seq octets h

/-- The record goes to the record stream and to the standby, where there are any (R329, R557). -/
def Eff.passRecord (e : Eff s0) (port : Nat) (octets : List Byte) : Eff s0 :=
  let e := e.when (e.cv oStreamMeter == 1) (·.modJrnl fun j => { j with jobs := j.jobs ++ [⟨3, port, octets, 0, false⟩] })
  e.when e.pair.standby (·.sendControl 6 0 octets)

theorem Eff.passRecord_alone (e : Eff s0) (port : Nat) (octets : List Byte) (hpeer : e.st.pair.standby = false)
    (hstream : e.st.cv oStreamMeter 0 ≠ 1) : e.passRecord port octets = e := by
  have noStream : (e.cv oStreamMeter == 1) = false := beq_false_of_ne hstream
  rw [Eff.passRecord, noStream, Eff.when_false, Eff.pair, hpeer, Eff.when_false]

/-- The record of a close with its signature (R329). -/
def MClose.signed (c : MClose) (prev : Option (Nat × List Byte × Bool)) : List Byte :=
  c.message prev ++ meterSignature (sha256 (c.message prev))

/-- METER_SIGN with a close of the port waiting. -/
theorem execMeterSign_close (s : State) (n : Fin 192) (c : MClose) (prev : Option (Nat × List Byte × Bool))
    (hfind : s.meter.closes.find? (·.port == n.val) = some c) (hprev : ((Eff.start s).mport c.port).before c = prev) :
    execMeterSign n s =
      if !(Eff.start s).isActive || (Eff.start s).closeOpen c.port then .next s
      else .next (((Eff.start s).signClose c (c.signed prev)).passRecord c.port (c.signed prev)).st := by
  have find : (Eff.start s).meter.closes.find? (·.port == n.val) = some c := hfind
  rw [MPort.before] at hprev
  rw [execMeterSign, find]
  dsimp only
  rw [hprev]
  cases prev with
  | none => rfl
  | some r => rfl

/-- The oldest close of a port is one of that port. -/
theorem MClose.port_of_find {l : List MClose} {n : Nat} {c : MClose} (h : l.find? (·.port == n) = some c) : c.port = n := by
  simpa using List.find?_some h

/-- Only an ACTIVE device signs, and only a close that waits and takes no other cause any more. -/
theorem execMeterSign_idle (s : State) (n : Fin 192)
    (h : s.pair.role ≠ .active ∨ (Eff.start s).closeOpen n.val = true ∨ s.meter.closes.find? (·.port == n.val) = none) :
    execMeterSign n s = .next s := by
  cases hfind : s.meter.closes.find? (·.port == n.val) with
  | none => simp [execMeterSign, hfind]
  | some c =>
    have port := MClose.port_of_find hfind
    rw [execMeterSign_close s n c _ hfind rfl, if_pos ?_]
    rw [port]
    rcases h with role | stillOpen | nothing
    · simp [Eff.isActive, role]
    · simp [stillOpen]
    · exact nomatch hfind.symm.trans nothing

/-- An ACTIVE device without a standby and without a record stream signs the oldest close of the port and keeps its record. -/
theorem execMeterSign_signs (s : State) (n : Fin 192) (c : MClose) (prev : Option (Nat × List Byte × Bool))
    (hrole : s.pair.role = .active) (hpeer : s.pair.standby = false) (hstream : s.cv oStreamMeter 0 ≠ 1)
    (hopen : (Eff.start s).closeOpen n.val = false)
    (hfind : s.meter.closes.find? (·.port == n.val) = some c) (hroom : (smGet MPort.reset s.meter.ports n.val).recs.length < 96)
    (hprev : (smGet MPort.reset s.meter.ports n.val).before c = prev) :
    execMeterSign n s = .next { s with meter := { s.meter with
      closes := s.meter.closes.filter (· != c)
      ports := smMod MPort.reset s.meter.ports n.val fun p => { p with recs := (c.seq, c.signed prev, false) :: p.recs } } } := by
  have port := MClose.port_of_find hfind
  have signed := (Eff.start s).signClose_room c (c.signed prev) (by rwa [port])
  rw [execMeterSign_close s n c prev hfind (by rwa [port]), port, if_neg (by simp [Eff.isActive, hrole, hopen]),
    Eff.passRecord_alone _ _ _ (by rw [signed]; exact hpeer) (by rw [signed]; exact hstream), signed, port]
  rfl

/-! ### The statement -/

/-- Settles O48: the journalled actions by what they pass on, METER_SIGN by the record it makes of a close. -/
theorem meterAndDispatcherRequestsComplete : Obligations.MeterAndDispatcherRequestsComplete := by
  unfold Obligations.MeterAndDispatcherRequestsComplete
  refine ⟨?_, ?_, ?_, execMeterClose_orders, ?_, execMeterSign_idle, ?_⟩
  · intro s q lvl sid right obj result args c hc h
    rcases hc with ⟨b, hb, rfl, rfl, rfl, rfl, rfl⟩ | ⟨hlen, hport, hsoc, hcon, rfl, rfl, rfl, rfl⟩ |
      ⟨hlen, hport, rfl, rfl, rfl, rfl⟩
    · exact execDispEmerg_passesOn s q lvl sid b hb h
    · exact execSocSet_passesOn s q args lvl sid hlen hport hsoc h hcon
    · exact execMeterAck_passesOn s q args lvl sid hlen hport h
  · intro s q args lvl sid h hlen hport hsoc hcon
    exact execSocSet_refuses s q args lvl sid hlen hport hsoc h (bne_eq_false_iff_eq.mpr hcon)
  · intro s args
    rw [Eff.applyCore_socSet, Eff.applyCore_meterAck, Eff.applySoc, Eff.applyMeterAck, Eff.modPort_st, Eff.modPort_st, Eff.start_st]
    exact ⟨rfl, rfl⟩
  · rintro s q args lvl sid _ h hlen hport rfl
    exact execMeterRead_answers s q args lvl sid h hlen hport
  · rintro s n c _ prev m sig hrole hpeer hstream hopen hfind rfl hroom hprev hm hsig
    have port := MClose.port_of_find hfind
    have record : m ++ sig = c.signed prev := by rw [MClose.signed, MClose.message, port, hsig, hm]
    rw [record]
    exact execMeterSign_signs s n c prev hrole hpeer hstream hopen hfind hroom hprev.symm

end Sys2Proof.Machine
end

