-- ==== Sys2Proof/Proofs/ConvSequences.lean ====
section
/-! SUPPORT. The converters while no CONV commit waits: how a trigger starts, waits or is dropped, how a sequence ends, and how a bitstream
sticks and resumes (R359, R361, R365, R367, R379, R382, R384). -/

namespace Sys2Proof.Machine

variable {s0 s1 : Root}

/-! ### Without a CONV commit that waits -/

/-- Every unit has the committed CONV values in force. -/
theorem Eff.ccv_committed (e : Eff s0) (m obj elem : Nat) (h : (e.dom 8).pend = none) : e.ccv m obj elem = e.st.cv obj elem := by
  rw [Eff.ccv, Eff.cvSw, h]
  exact ite_self _

theorem Eff.convTake_committed (e : Eff s0) (m : Nat) (h : (e.dom 8).pend = none) : e.convTake m = e := by
  rw [Eff.convTake, Eff.committing, h, Bool.false_and, Eff.when_false]

theorem Eff.convEnd_committed (e : Eff s0) (h : (e.dom 8).pend = none) : e.convEnd = e := by
  rw [Eff.convEnd, h]

/-! ### The state of a converter -/

@[simp] theorem Eff.modFa_st (e : Eff s0) (f : Nat) (g : ConvF → ConvF) :
    (e.modFa f g).st = { e.st with conv := { e.st.conv with fs := smMod ConvF.reset e.st.conv.fs f g } } := rfl

@[simp] theorem Eff.modSd_st (e : Eff s0) (c : Nat) (g : SdCh → SdCh) :
    (e.modSd c g).st = { e.st with conv := { e.st.conv with sd := smMod SdCh.reset e.st.conv.sd c g } } := rfl

@[simp] theorem Eff.convTrouble_st (e : Eff s0) (m bits : Nat) :
    (e.convTrouble m bits).st = { e.st with conv := { e.st.conv with trouble := smMod 0 e.st.conv.trouble m (· ||| bits) } } := rfl

/-- A converter on which a sequence runs is not at its reset value. -/
theorem ConvF.ne_reset_of_running {x : ConvF} {q : Nat} (h : x.running = some q) : x ≠ ConvF.reset := fun hreset => by
  rw [hreset] at h
  exact nomatch h

theorem Eff.modFa_fa (e : Eff s0) (f : Nat) (g : ConvF → ConvF) (h : g (e.fa f) ≠ ConvF.reset) : (e.modFa f g).fa f = g (e.fa f) :=
  smGet_smMod_self _ _ _ _ h

/-- A converter on which a sequence starts. -/
def ConvF.started (q : Nat) (edge : Int) (x : ConvF) : ConvF :=
  { x with running := some q, lastSeq := q, entry := 0, conv := 0, start := edge }

theorem Eff.startSeq_fa (e : Eff s0) (f q : Nat) (edge : Int) : (e.startSeq f q edge).fa f = (e.fa f).started q edge :=
  e.modFa_fa f _ (ConvF.ne_reset_of_running rfl)

/-! ### Triggers (R365, R367) -/

theorem Eff.edgeAfter_congr (e : Eff s0) (e' : Eff s1) (t : Int) (h : e.st.frame = e'.st.frame) : e.edgeAfter t = e'.edgeAfter t := by
  simp only [Eff.edgeAfter, Eff.frame, h]

/-- A trigger waits for the end of the sequence that runs. -/
theorem Eff.queueTrig_free (e : Eff s0) (f q : Nat) (edge : Int) (h : (e.fa f).queued = none) :
    e.queueTrig f q edge = e.modFa f fun x => { x with queued := some (q, edge) } := by
  rw [Eff.queueTrig, h]

/-- It is dropped where one waits that it does not precede. -/
theorem Eff.queueTrig_full (e : Eff s0) (f q n : Nat) (edge edge' : Int) (h : (e.fa f).queued = some (n, edge'))
    (hlate : ¬(edge' = edge ∧ q < n)) : e.queueTrig f q edge = e.dropTrig f := by
  rw [Eff.queueTrig, h]
  dsimp only
  rw [if_neg hlate]

/-- What the drop of a trigger makes of the state, where its report is only recorded. -/
theorem Eff.dropTrig_st (e : Eff s0) (f : Nat) (hq : e.st.Quiet kConvOverrun f) :
    (e.dropTrig f).st = { e.st with
      trouble := e.st.trouble ||| 16, faults := (e.dropTrig f).st.faults
      conv := { e.st.conv with
        fs := smMod ConvF.reset e.st.conv.fs f fun x => { x with dropped := (x.dropped + 1) % 2 ^ 32 }
        trouble := smMod 0 e.st.conv.trouble f (· ||| 1) } } := by
  have quiet : (((e.modFa f fun x => { x with dropped := (x.dropped + 1) % 2 ^ 32 }).convTrouble f 1).setTrouble 4).st.Quiet
      kConvOverrun f := by
    rw [Eff.setTrouble_st]
    exact hq.congr rfl rfl
  rw [Eff.dropTrig, Eff.fault_quiet _ _ _ _ quiet, Eff.setTrouble_st]
  rfl

section
variable (e : Eff s0) (f q : Nat) (t : Int) (hpend : (e.dom 8).pend = none) (hsrc : seqSrc (e.st.cv oSeqCfg (4 * f + q)) ≠ 0)
include hpend hsrc

/-- An idle converter starts the sequence at the next edge. -/
theorem Eff.convTrig_idle (h : (e.fa f).running = none) : e.convTrig f q t = e.startSeq f q (e.edgeAfter t) := by
  rw [Eff.convTrig, Eff.seqCfg, e.ccv_committed _ _ _ hpend, if_neg hsrc]
  dsimp only
  rw [h]

/-- On a running one a lower sequence on the same edge goes first; any other waits or is dropped. -/
theorem Eff.convTrig_running (r : Nat) (h : (e.fa f).running = some r) : e.convTrig f q t =
    if (e.fa f).start = e.edgeAfter t ∧ (e.fa f).entry = 0 ∧ q < r then
      (e.startSeq f q (e.edgeAfter t)).queueTrig f r (e.edgeAfter t)
    else e.queueTrig f q (e.edgeAfter t) := by
  rw [Eff.convTrig, Eff.seqCfg, e.ccv_committed _ _ _ hpend, if_neg hsrc]
  dsimp only
  rw [h]

end

/-! ### CONVERSION_TRIGGER -/

/-- The frame trigger of a sequence comes, or the trigger of the next tick, and the converters note that it has: `c`. -/
def State.TriggerComes (s : State) (f q src : Nat) (c : ConvSt) : Prop :=
  (src = 1 ∧ s.frame.running = true ∧ 4 * f + q ∉ s.conv.fired ∧ c = { s.conv with fired := (4 * f + q) :: s.conv.fired }) ∨
  (src = 2 ∧ s.hub.running = true ∧ (smGet ConvF.reset s.conv.fs f).tickDone ≠ some s.hub.ticks ∧ c = { s.conv with
    fs := smMod ConvF.reset s.conv.fs f fun x => { x with tickDone := some s.hub.ticks } })

/-- What has come leaves the converter as it runs. -/
theorem State.TriggerComes.converter {s : State} {f q src : Nat} {c : ConvSt} (h : s.TriggerComes f q src c) (x : ConvF)
    (hx : x = smGet ConvF.reset s.conv.fs f) : ∃ tick, smGet ConvF.reset c.fs f = { x with tickDone := tick } := by
  obtain ⟨_, _, _, rfl⟩ | ⟨_, _, _, rfl⟩ := h
  · exact ⟨x.tickDone, hx.symm⟩
  · refine ⟨some s.hub.ticks, ?_⟩
    rw [hx]
    exact smGet_smMod_self ConvF.reset s.conv.fs f (fun x => { x with tickDone := some s.hub.ticks }) fun hreset =>
      Option.some_ne_none _ (congrArg ConvF.tickDone hreset)

section
variable (s : State) (f q : Fin 4) (src : Nat) (hpend : (smGet Domain.reset s.doms 8).pend = none)
  (hsrc : src = seqSrc (s.cv oSeqCfg (4 * f.val + q.val)))
include hpend hsrc

theorem execConversionTrigger_eq : execConversionTrigger f q s =
    if src = 1 && s.frame.running && !s.conv.fired.contains (4 * f.val + q.val) then
      .next (((Eff.start s).modConv fun c => { c with fired := (4 * f.val + q.val) :: c.fired }).convTrig f q.val
        ((Eff.start s).trigInstant src)).st
    else if src = 2 && s.hub.running && (smGet ConvF.reset s.conv.fs f.val).tickDone != some s.hub.ticks then
      .next (((Eff.start s).modFa f fun x => { x with tickDone := some s.hub.ticks }).convTrig f q.val
        ((Eff.start s).trigInstant src)).st
    else .next s := by
  have committed : seqSrc ((Eff.start s).seqCfg f.val q.val) = src := by
    rw [Eff.seqCfg, Eff.ccv_committed _ _ _ _ hpend, hsrc, Eff.start_st]
  unfold execConversionTrigger
  dsimp only
  rw [committed]
  rfl

theorem execConversionTrigger_nothing (hframe : ¬(src = 1 ∧ s.frame.running = true ∧ 4 * f.val + q.val ∉ s.conv.fired))
    (htick : ¬(src = 2 ∧ s.hub.running = true ∧ (smGet ConvF.reset s.conv.fs f.val).tickDone ≠ some s.hub.ticks)) :
    execConversionTrigger f q s = .next s := by
  rw [execConversionTrigger_eq s f q src hpend hsrc, if_neg (by simpa [and_assoc] using hframe),
    if_neg (by simpa [and_assoc] using htick)]

/-- A trigger that comes is noted, and then starts its sequence, waits or is dropped. -/
theorem execConversionTrigger_comes (edge : Int) (c : ConvSt) (x : ConvF) (hx : x = smGet ConvF.reset s.conv.fs f.val)
    (hedge : edge = (Eff.start s).edgeAfter ((Eff.start s).trigInstant src)) (h : s.TriggerComes f.val q.val src c) :
    ∃ e : Act s, e.st = { s with conv := c } ∧ (∃ tick, e.fa f.val = { x with tickDone := tick }) ∧
      (x.running = none → execConversionTrigger f q s = .next (e.startSeq f.val q.val edge).st) ∧
      (∀ r, x.running = some r → execConversionTrigger f q s = .next
        (if x.start = edge ∧ x.entry = 0 ∧ q.val < r then (e.startSeq f.val q.val edge).queueTrig f.val r edge
          else e.queueTrig f.val q.val edge).st) := by
  obtain ⟨e, hst, hexec⟩ : ∃ e : Act s, e.st = { s with conv := c } ∧
      execConversionTrigger f q s = .next (e.convTrig f.val q.val ((Eff.start s).trigInstant src)).st := by
    rw [execConversionTrigger_eq s f q src hpend hsrc]
    obtain ⟨hs, hrun, hnew, rfl⟩ | ⟨hs, hrun, hnew, rfl⟩ := h
    · exact ⟨_, rfl, if_pos (by simp [hs, hrun, hnew])⟩
    · exact ⟨_, rfl, (if_neg (by simp [hs])).trans (if_pos (by simp [hs, hrun, hnew]))⟩
  obtain ⟨tick, hconv⟩ := h.converter x hx
  have conv : e.fa f.val = { x with tickDone := tick } := by rw [Eff.fa, hst, hconv]
  have pend : (e.dom 8).pend = none := by rw [Eff.dom, hst, hpend]
  have source : seqSrc (e.st.cv oSeqCfg (4 * f.val + q.val)) ≠ 0 := by
    have same : e.st.cv = s.cv := by rw [hst]; rfl
    rw [same, ← hsrc]
    obtain ⟨rfl, _⟩ | ⟨rfl, _⟩ := h <;> decide
  have onEdge : e.edgeAfter ((Eff.start s).trigInstant src) = edge := by
    rw [hedge]
    exact e.edgeAfter_congr _ _ (by rw [hst, Eff.start_st])
  refine ⟨e, hst, ⟨tick, conv⟩, fun hrun => ?_, fun r hrun => ?_⟩
  · rw [hexec, e.convTrig_idle _ _ _ pend source (by rw [conv, hrun]), onEdge]
  · rw [hexec, e.convTrig_running _ _ _ pend source r (by rw [conv, hrun]), onEdge, conv]

end

section
variable (s : State) (f q : Fin 4) (x : ConvF) (src : Nat) (edge : Int) (c : ConvSt)
  (hpend : (smGet Domain.reset s.doms 8).pend = none) (hx : x = smGet ConvF.reset s.conv.fs f.val)
  (hsrc : src = seqSrc (s.cv oSeqCfg (4 * f.val + q.val)))
  (hedge : edge = (Eff.start s).edgeAfter ((Eff.start s).trigInstant src)) (h : s.TriggerComes f.val q.val src c)
include hpend hx hsrc hedge h

theorem execConversionTrigger_starts (hrun : x.running = none) : execConversionTrigger f q s = .next { s with conv := { c with
    fs := smMod ConvF.reset c.fs f.val (ConvF.started q.val edge) } } := by
  obtain ⟨e, hst, _, idle, _⟩ := execConversionTrigger_comes s f q src hpend hsrc edge c x hx hedge h
  rw [idle hrun, Eff.startSeq, Eff.modFa_st, hst]
  rfl

theorem execConversionTrigger_waits (r : Nat) (hrun : x.running = some r) (hlater : ¬(x.start = edge ∧ x.entry = 0 ∧ q.val < r))
    (hfree : x.queued = none) : execConversionTrigger f q s = .next { s with conv := { c with
      fs := smMod ConvF.reset c.fs f.val fun x => { x with queued := some (q.val, edge) } } } := by
  obtain ⟨e, hst, ⟨tick, conv⟩, _, running⟩ := execConversionTrigger_comes s f q src hpend hsrc edge c x hx hedge h
  rw [running r hrun, if_neg hlater, e.queueTrig_free _ _ _ (by rw [conv, hfree]), Eff.modFa_st, hst]

theorem execConversionTrigger_drops (r n : Nat) (edge' : Int) (hrun : x.running = some r)
    (hlater : ¬(x.start = edge ∧ x.entry = 0 ∧ q.val < r)) (hfull : x.queued = some (n, edge'))
    (hlate : ¬(edge' = edge ∧ q.val < n)) (hquiet : s.Quiet kConvOverrun f.val) :
    ∃ t, execConversionTrigger f q s = .next t ∧ t = { s with
      trouble := s.trouble ||| 16, faults := t.faults
      conv := { c with
        fs := smMod ConvF.reset c.fs f.val fun x => { x with dropped := (x.dropped + 1) % 2 ^ 32 }
        trouble := smMod 0 c.trouble f.val (· ||| 1) } } := by
  obtain ⟨e, hst, ⟨tick, conv⟩, _, running⟩ := execConversionTrigger_comes s f q src hpend hsrc edge c x hx hedge h
  have quiet : e.st.Quiet kConvOverrun f.val := by
    rw [hst]
    exact hquiet.congr rfl rfl
  refine ⟨(e.dropTrig f.val).st, ?_, ?_⟩
  · rw [running r hrun, if_neg hlater, e.queueTrig_full _ _ n _ edge' (by rw [conv, hfull]) hlate]
  · rw [e.dropTrig_st f.val quiet, hst]

theorem execConversionTrigger_goesFirst (r : Nat) (hrun : x.running = some r) (hfirst : x.start = edge ∧ x.entry = 0 ∧ q.val < r)
    (hfree : x.queued = none) : execConversionTrigger f q s = .next { s with conv := { c with
      fs := smMod ConvF.reset (smMod ConvF.reset c.fs f.val (ConvF.started q.val edge)) f.val fun x => { x with
        queued := some (r, edge) } } } := by
  obtain ⟨e, hst, ⟨tick, conv⟩, _, running⟩ := execConversionTrigger_comes s f q src hpend hsrc edge c x hx hedge h
  have free : ((e.startSeq f.val q.val edge).fa f.val).queued = none := by rw [e.startSeq_fa, conv, ConvF.started, hfree]
  rw [running r hrun, if_pos hfirst, Eff.queueTrig_free _ _ _ _ free, Eff.modFa_st, Eff.startSeq, Eff.modFa_st, hst]
  rfl

end

/-! ### CONV_TRIGGER (R365, R384) -/

/-- A soft trigger waits for the next frame start. -/
def ConvSt.orderSoft (i : Nat) (c : ConvSt) : ConvSt := { c with soft := if i ∈ c.soft then c.soft else c.soft ++ [i] }

theorem actConvTrigger_eq (e : Eff s0) (c : Ctx) (f n : Byte) (hf : f.toNat < 4) (hn : n.toNat < 4)
    (hpend : (e.dom 8).pend = none) (hpeer : e.st.pair.standby = false) : actConvTrigger e c [f, n] =
      if seqSrc (e.st.cv oSeqCfg (4 * f.toNat + n.toNat)) ≠ 4 then (e, some (ansResultFrame 1 0))
      else (e.modConv (ConvSt.orderSoft (4 * f.toNat + n.toNat)), some (ansResultFrame 0 (e.frame.k + 1))) := by
  have ordered (x : Eff s0) (hx : x.st.pair = e.st.pair) : x.when x.isActive (·.sendAction (x.frame.k + 1) oConvTrigger [f, n]) = x := by
    rw [Eff.when, x.sendAction_alone _ _ _ (by rw [hx, hpeer]), ite_self]
  have noted (i : Nat) : (fun c : ConvSt => { c with soft := if c.soft.contains i then c.soft else c.soft ++ [i] }) =
      ConvSt.orderSoft i := by
    funext c
    simp only [ConvSt.orderSoft, List.contains_iff_mem]
  have octet0 : octet [f, n] 0 = f.toNat := rfl
  have octet1 : octet [f, n] 1 = n.toNat := rfl
  unfold actConvTrigger
  rw [if_neg (by simp)]
  dsimp only
  rw [octet0, octet1, if_neg (by omega), Eff.seqCfg, e.ccv_committed _ _ _ hpend, noted,
    ordered (e.modConv (ConvSt.orderSoft (4 * f.toNat + n.toNat))) rfl]
  rfl

section
variable (s : State) (q : Req) (f n : Byte) (lvl sid : Nat) (h : s.Invoked q oConvTrigger [f, n] 2 false lvl sid)
  (hf : f.toNat < 4) (hn : n.toNat < 4) (hpend : (smGet Domain.reset s.doms 8).pend = none) (hpeer : s.pair.standby = false)
include hf hn hpend hpeer

/-- CONV_TRIGGER as it runs on a request that has passed. -/
theorem actConvTrigger_admitted (e : Act s) (hst : e.st = { s with sess := e.st.sess }) (c : Ctx) : actConvTrigger e c [f, n] =
    if seqSrc (s.cv oSeqCfg (4 * f.toNat + n.toNat)) ≠ 4 then (e, some (ansResultFrame 1 0))
    else (e.modConv (ConvSt.orderSoft (4 * f.toNat + n.toNat)), some (ansResultFrame 0 (s.frame.k + 1))) := by
  have cv : e.st.cv = s.cv := by
    rw [hst]
    rfl
  have frame : e.st.frame = s.frame := by rw [hst]
  rw [actConvTrigger_eq e c f n hf hn (by rw [Eff.dom, hst, hpend]) (by rw [hst, hpeer]), cv, Eff.frame, frame]

include h

theorem execConvTrigger_refuses (hsrc : seqSrc (s.cv oSeqCfg (4 * f.toNat + n.toNat)) ≠ 4) :
    ∃ t, execConvTrigger q [f, n] s = .next t ∧ t.Replied q 3 (ansResultFrame 1 0) ∧
      t = { s with sess := t.sess, sent := t.sent } := by
  refine invoke_replies s s q _ _ lvl sid _ _ _ _ h fun e hst => ⟨e, ?_, ?_⟩
  · rw [actConvTrigger_admitted s f n hf hn hpend hpeer e hst, if_pos hsrc]
  · rw [hst]

theorem execConvTrigger_orders (hsrc : seqSrc (s.cv oSeqCfg (4 * f.toNat + n.toNat)) = 4) :
    ∃ t, execConvTrigger q [f, n] s = .next t ∧ t.Replied q 3 (ansResultFrame 0 (s.frame.k + 1)) ∧
      t = { s with sess := t.sess, sent := t.sent, conv := s.conv.orderSoft (4 * f.toNat + n.toNat) } := by
  refine invoke_replies s { s with conv := s.conv.orderSoft (4 * f.toNat + n.toNat) } q _ _ lvl sid _ _ _ _ h fun e hst =>
    ⟨e.modConv (ConvSt.orderSoft (4 * f.toNat + n.toNat)), ?_, ?_⟩
  · rw [actConvTrigger_admitted s f n hf hn hpend hpeer e hst, if_neg (not_not.mpr hsrc)]
  · rw [Eff.modConv_st, hst]

end

/-! ### SEQUENCE_END (R367, R382) -/

theorem execSequenceEnd_idle (s : State) (f : Fin 4) (hrun : (smGet ConvF.reset s.conv.fs f.val).running = none) :
    execSequenceEnd f s = .next s := by
  unfold execSequenceEnd
  dsimp only
  rw [Eff.fa, Eff.start_st, hrun]

section
variable (s : State) (f : Fin 4) (x : ConvF) (q : Nat) (hpend : (smGet Domain.reset s.doms 8).pend = none)
  (hx : x = smGet ConvF.reset s.conv.fs f.val) (hrun : x.running = some q) (hne : { x with running := none } ≠ ConvF.reset)
include hpend hx hrun hne

/-- The end of a sequence frees its converter; what it leaves turns on the trigger that waits. -/
theorem execSequenceEnd_eq (e : Act s) (he : e = (Eff.start s).modFa f.val fun x => { x with running := none }) : execSequenceEnd f s =
    match x.queued with
    | none => .next e.st
    | some (n, edge) => .next (if seqSrc (s.cv oSeqCfg (4 * f.val + n)) = 0 then e.modFa f.val fun x => { x with queued := none }
        else (e.modFa f.val fun x => { x with queued := none }).startSeq f.val n
          (max edge (x.start + 2 * halfEdge * (Eff.start s).seqConversions f.val q))).st := by
  have waits : (e.fa f.val).queued = x.queued := by
    rw [he, Eff.modFa_fa _ _ _ (by rwa [Eff.fa, Eff.start_st, ← hx]), Eff.fa, Eff.start_st, hx]
  have pend : (e.dom 8).pend = none := by rwa [he]
  unfold execSequenceEnd
  dsimp only
  rw [Eff.fa, Eff.start_st, ← hx, hrun]
  dsimp only
  rw [← he, e.convTake_committed _ pend, waits]
  cases x.queued with
  | none => rw [e.convEnd_committed pend]
  | some p =>
    dsimp only
    rw [Eff.convEnd_committed _ (by split <;> exact pend), Eff.seqCfg, Eff.ccv_committed _ _ _ _ (by exact pend), he]
    rfl

theorem execSequenceEnd_frees (hqueued : x.queued = none) : execSequenceEnd f s = .next { s with conv := { s.conv with
    fs := smMod ConvF.reset s.conv.fs f.val fun x => { x with running := none } } } := by
  rw [execSequenceEnd_eq s f x q hpend hx hrun hne _ rfl, hqueued, Eff.modFa_st, Eff.start_st]

theorem execSequenceEnd_starts (n : Nat) (edge : Int) (hqueued : x.queued = some (n, edge))
    (hsrc : seqSrc (s.cv oSeqCfg (4 * f.val + n)) ≠ 0) : execSequenceEnd f s = .next { s with conv := { s.conv with
      fs := smMod ConvF.reset (smMod ConvF.reset (smMod ConvF.reset s.conv.fs f.val fun x => { x with running := none }) f.val
        fun x => { x with queued := none }) f.val
          (ConvF.started n (max edge (x.start + 2 * halfEdge * (Eff.start s).seqConversions f.val q))) } } := by
  rw [execSequenceEnd_eq s f x q hpend hx hrun hne _ rfl, hqueued]
  dsimp only
  rw [if_neg hsrc]
  rfl

end

/-! ### Bitstreams and calibration (R361, R379) -/

section
variable (s : State) (c : Fin 24) (n : Nat)

theorem execSdStuck_early (h : n < 128) : execSdStuck c n false s = .next s := by
  unfold execSdStuck
  dsimp only
  rw [if_neg (by simp), if_neg (by simp [h]), Eff.start_st]

theorem execSdStuck_marks (h : 128 ≤ n) (hnew : (smGet SdCh.reset s.conv.sd c.val).stuck = false) (hquiet : s.Quiet kSdStuck c.val) :
    execSdStuck c n false s = .next { s with
      faults := s.noted 0x064 kSdStuck c.val
      conv := { s.conv with
        sd := smMod SdCh.reset s.conv.sd c.val fun x => { x with stuck := true }, trouble := smMod 0 s.conv.trouble 4 (· ||| 8) } } := by
  have quiet : (((Eff.start s).modSd c.val fun x => { x with stuck := true }).convTrouble 4 8).st.Quiet kSdStuck c.val :=
    hquiet.congr rfl rfl
  unfold execSdStuck
  dsimp only
  rw [if_neg (by simp), if_pos (by simp [h, hnew]), Eff.fault_quiet _ _ _ _ quiet]
  rfl

theorem execSdStuck_clock (h : 16 ≤ c.val) (hnew : (smGet SdCh.reset s.conv.sd c.val).clkMissing = false)
    (hquiet : s.Quiet kXbClock c.val) : execSdStuck c n true s = .next { s with
      faults := s.noted 0x064 kXbClock c.val
      conv := { s.conv with
        sd := smMod SdCh.reset s.conv.sd c.val fun x => { x with clkMissing := true }
        trouble := smMod 0 s.conv.trouble 4 (· ||| 16) } } := by
  have quiet : (((Eff.start s).modSd c.val fun x => { x with clkMissing := true }).convTrouble 4 16).st.Quiet kXbClock c.val :=
    hquiet.congr rfl rfl
  unfold execSdStuck
  dsimp only
  rw [if_pos (by simp [h]), if_neg (by simp [hnew]), Eff.fault_quiet _ _ _ _ quiet]
  rfl

theorem execBitstreamResume_eq : execBitstreamResume c n s =
    if ((smGet SdCh.reset s.conv.sd c.val).stuck = true ∨ (smGet SdCh.reset s.conv.sd c.val).clkMissing = true) ∧ 128 ≤ n then
      .next { s with conv := { s.conv with sd := smMod SdCh.reset s.conv.sd c.val fun x => { x with
        stuck := false, clkMissing := false, settle := some ((Eff.start s).sdFilt c.val).2.2 } } }
    else .next s := by
  unfold execBitstreamResume Eff.when
  dsimp only
  split
  next h =>
    rw [if_pos (by simpa using h)]
    rfl
  next h => rw [if_neg (by simpa using h), Eff.start_st]

end

theorem execCalConverged_eq (s : State) (f : Fin 4) : execCalConverged f s =
    .next (if 2 ∈ s.dev.pllLocked then { s with conv := { s.conv with
      fs := smMod ConvF.reset s.conv.fs f.val fun x => { x with calOk := true } } } else s) := by
  unfold execCalConverged Eff.when
  dsimp only
  split
  next h =>
    rw [if_pos (by simpa using h)]
    rfl
  next h => rw [if_neg (by simpa using h), Eff.start_st]

/-! ### The statement -/

/-- Settles O42, command by command: without a CONV commit a trigger is one that comes or nothing, and what comes starts its sequence, waits
or is dropped by what runs and waits on its converter. -/
theorem converterSequencesComplete : Obligations.ConverterSequencesComplete := by
  unfold Obligations.ConverterSequencesComplete
  refine ⟨?_, ?_, ?_, ?_, execSequenceEnd_idle, ?_, ?_, execCalConverged_eq⟩
  · rintro s f q _ src hpend rfl hsrc hframe htick
    exact execConversionTrigger_nothing s f q src hpend hsrc hframe htick
  · rintro s f q _ src edge c hpend rfl hsrc hedge h
    refine ⟨execConversionTrigger_starts s f q _ src edge c hpend rfl hsrc hedge h, fun r hrun hlater => ⟨?_, ?_⟩, ?_⟩
    · exact execConversionTrigger_waits s f q _ src edge c hpend rfl hsrc hedge h r hrun hlater
    · intro n edge' hfull hlate hquiet
      exact execConversionTrigger_drops s f q _ src edge c hpend rfl hsrc hedge h r n edge' hrun hlater hfull hlate hquiet
    · intro r hrun hstart hentry hlower hfree
      exact execConversionTrigger_goesFirst s f q _ src edge c hpend rfl hsrc hedge h r hrun ⟨hstart, hentry, hlower⟩ hfree
  · intro s q f n lvl sid h hf hn hpend _ hpeer
    exact ⟨execConvTrigger_refuses s q f n lvl sid h hf hn hpend hpeer, execConvTrigger_orders s q f n lvl sid h hf hn hpend hpeer⟩
  · intro s f x q hpend hx hrun hne
    exact ⟨execSequenceEnd_frees s f x q hpend hx hrun hne, execSequenceEnd_starts s f x q hpend hx hrun hne⟩
  · intro s c n
    exact ⟨execSdStuck_early s c n, execSdStuck_marks s c n, execSdStuck_clock s c n⟩
  · rintro s c n _ rfl
    refine ⟨fun hmarked hlong => ?_, fun h => ?_⟩
    · exact (execBitstreamResume_eq s c n).trans (if_pos ⟨hmarked, hlong⟩)
    · refine (execBitstreamResume_eq s c n).trans (if_neg ?_)
      rintro ⟨hmarked, hlong⟩
      rcases h with ⟨hstuck, hclk⟩ | hshort
      · simp [hstuck, hclk] at hmarked
      · omega

end Sys2Proof.Machine
end

