-- ==== Sys2Proof/Proofs/ConvResults.lean ====
section
/-! SUPPORT. Entry results and sigma-delta outputs while no CONV commit waits: the conversion a sample word makes, the word its point takes,
and what the converter keeps (R361, R362, R364, R370, R371, R373, R376, R378, R383). -/

namespace Sys2Proof.Machine

variable {s0 : Root}

/-! ### Points of converters (R371) -/

/-- A word with a QUALITY of its own is not the reset word. -/
theorem mkPoint_ne_reset (v toff : Int) (q f : Nat) (hq : q < 256) (hf : f < 256) (h : q ≠ 0x44) : mkPoint v toff q f ≠ pointReset :=
  fun hreset => by
    have qual := ptQual_mkPoint v toff q f hq hf
    rw [hreset] at qual
    exact h (qual.symm.trans (by decide))

theorem Eff.putPt_pt (e : Eff s0) (n : Nat) (v toff : Int) (q f : Nat) (hn : n < pointCount) (hq : q < 256) (hf : f < 256)
    (h : q ≠ 0x44) : (e.putPt n v toff q f).st.pt n = mkPoint v toff q f := by
  rw [Eff.putPt, Eff.setPoint_st, State.pt]
  dsimp only
  rw [if_pos hn]
  exact smGet_smSet_self _ _ _ _ (mkPoint_ne_reset v toff q f hq hf h)

/-- The word that a result with a REASON leaves in its point. -/
def State.resultWord (s : State) (pt : Nat) (v toff : Int) (reason : Nat) : PointWord :=
  if reason = 0 then mkPoint (satQ31 v) toff (if offQ31 v = true then qSat else 0) 0
  else mkPoint (ptVal (s.pt pt)) toff qInvalid reason

theorem Eff.putResult_st (e : Eff s0) (pt : Nat) (v toff : Int) (reason flags : Nat) :
    (e.putResult pt v toff reason flags).st = { e.st with pts := (e.putResult pt v toff reason flags).st.pts } := by
  unfold Eff.putResult Eff.putPt
  split
  · rfl
  · split
    · rw [Eff.setPoint_st]
    · split <;> rw [Eff.setPoint_st]

/-- A device that follows no other writes the result to a point that is not forced. -/
theorem Eff.putResult_pt (e : Eff s0) (pt : Nat) (v toff : Int) (reason : Nat) (hpt : pt < pointCount) (hreason : reason < 256)
    (hforced : smGet none e.st.faults.forced pt = none) (hstandby : e.st.pair.role ≠ .standby) (hjoining : e.st.pair.role ≠ .joining) :
    (e.putResult pt v toff reason 0).st.pt pt = e.st.resultWord pt v toff reason := by
  unfold Eff.putResult State.resultWord
  rw [if_neg (by simp [hstandby, hjoining]), Eff.faults, hforced]
  dsimp only
  split
  · split <;> exact e.putPt_pt _ _ _ _ _ hpt (by decide) (by decide) (by decide)
  · exact e.putPt_pt _ _ _ _ _ hpt (by decide) hreason (by decide)

/-! ### Conversions (R364, R368, R369) -/

theorem sampleWhy_lt (d : Sample) : sampleWhy d < 256 := by
  unfold sampleWhy
  dsimp only
  split
  · decide
  · exact (Nat.mod_lt _ (by decide)).trans (by decide)

/-- A converter that has not changed channel or gain settles as before. -/
theorem ConvF.settling_same (x : ConvF) (ch g : Nat) (h : x.prev = some (ch, g)) : x.settling ch g = (x.settle, x.settleGain) := by
  simp [ConvF.settling, h]

/-- On a settled and calibrated converter the field die alone gives the REASON. -/
theorem Eff.convReason_settled (e : Eff s0) (f : Nat) (gs : Bool) (own : Nat) (hpll : 2 ∈ e.st.dev.pllLocked)
    (hcal : (e.fa f).calOk = true) : e.convReason f 0 gs own = own := by
  have locked : e.st.dev.pllLocked.contains 2 = true := List.contains_iff_mem.mpr hpll
  rw [Eff.convReason, Eff.dev, locked, hcal]
  by_cases h : own = 0 <;> simp [h]

/-- The one conversion of an entry. -/
theorem Eff.marks_one (e : Eff s0) (f : Nat) (gs : Bool) (first : Nat) (d : Sample) (hpll : 2 ∈ e.st.dev.pllLocked)
    (hcal : (e.fa f).calOk = true) : e.marks f 1 0 gs first 0 [d] = [⟨2 * first, sampleValue d, sampleWhy d⟩] := by
  simp only [Eff.marks, List.range_one, List.map_cons, List.map_nil, List.drop_zero, List.headD_cons, Nat.zero_sub, Nat.add_zero,
    e.convReason_settled f gs _ hpll hcal]

/-- The mean of one value is the value. -/
theorem rdiv_one (a : Int) : rdiv a 1 = a := by
  unfold rdiv
  omega

/-- The result of an entry of one conversion is that conversion, whether MEAN is set or not. -/
theorem entryResult_one (avg : Bool) (c : Conversion) : entryResult avg [c] = ((c.place : Int), 1, c.data, c.reason) := by
  by_cases h : c.reason = 0
  · cases avg <;> simp [entryResult, h, rdiv_one]
  · cases avg <;> simp [entryResult, h]

theorem Eff.modSd_sdch (e : Eff s0) (c : Nat) (g : SdCh → SdCh) (h : g (e.sdch c) ≠ SdCh.reset) :
    (e.modSd c g).sdch c = g (e.sdch c) :=
  smGet_smMod_self _ _ _ _ h

theorem Eff.overRange_st (e : Eff s0) (f reason : Nat) :
    (e.overRange f reason).st = { e.st with conv := (e.overRange f reason).st.conv } := by
  unfold Eff.overRange Eff.when
  split <;> rfl

/-- A result over range leaves the converters as they run. -/
theorem Eff.overRange_fs (e : Eff s0) (f reason : Nat) : (e.overRange f reason).st.conv.fs = e.st.conv.fs := by
  unfold Eff.overRange Eff.when
  split <;> rfl

theorem Eff.overRange_sd (e : Eff s0) (f reason : Nat) : (e.overRange f reason).st.conv.sd = e.st.conv.sd := by
  unfold Eff.overRange Eff.when
  split <;> rfl

/-! ### ENTRY_RESULT (R364, R373) -/

/-- The conversions of an entry are counted, and with them those that are invalid. -/
theorem Eff.converted_fa (e : Eff s0) (f ch g n : Nat) (edge : Int) (l : List Conversion) :
    ((e.converted f ch g n edge l).fa f).entry = (e.fa f).entry ∧
      ((e.converted f ch g n edge l).fa f).invalid = ((e.fa f).invalid + (l.filter (·.reason != 0)).length) % 2 ^ 32 := by
  unfold Eff.converted
  dsimp only
  rw [Eff.modFa_fa _ _ _ fun hreset => Option.some_ne_none _ (congrArg ConvF.prev hreset)]
  exact ⟨rfl, rfl⟩

theorem execEntryResult_idle (s : State) (f : Fin 4) (l u : List Sample) (hrun : (smGet ConvF.reset s.conv.fs f.val).running = none) :
    execEntryResult f l u s = .next s := by
  unfold execEntryResult
  dsimp only
  rw [Eff.fa, Eff.start_st, hrun]

/-- Converter f has completed an entry of n conversions: it goes on to the next entry, and the point of a FRAME sequence counts as
written. -/
def Eff.entryDone (e : Eff s0) (f cfg ch g n : Nat) (l : List Conversion) : Eff s0 :=
  ((e.modFa f fun x => { x with entry := x.entry + 1, conv := x.conv + n }).converted f (8 * f + ch) g n
    ((e.fa f).start + 2 * halfEdge * (e.fa f).conv) l).modConv fun c => { c with
      written := if seqSrc cfg = 1 then (0x1000 + 8 * f + ch) :: c.written else c.written }

theorem Eff.entryDone_st (e : Eff s0) (f cfg ch g n : Nat) (l : List Conversion) :
    (e.entryDone f cfg ch g n l).st = { e.st with conv := (e.entryDone f cfg ch g n l).st.conv } := rfl

theorem Eff.entryDone_fa (e : Eff s0) (f cfg ch g n q : Nat) (l : List Conversion) (hrun : (e.fa f).running = some q) :
    ((e.entryDone f cfg ch g n l).fa f).entry = (e.fa f).entry + 1 ∧
      ((e.entryDone f cfg ch g n l).fa f).invalid = ((e.fa f).invalid + (l.filter (·.reason != 0)).length) % 2 ^ 32 := by
  have next := e.modFa_fa f (fun x => { x with entry := x.entry + 1, conv := x.conv + n }) (ConvF.ne_reset_of_running hrun)
  obtain ⟨entry, invalid⟩ := (e.modFa f fun x => { x with entry := x.entry + 1, conv := x.conv + n }).converted_fa f (8 * f + ch) g n
    ((e.fa f).start + 2 * halfEdge * (e.fa f).conv) l
  rw [next] at entry invalid
  exact ⟨entry, invalid⟩

section
variable (s : State) (f : Fin 4) (x : ConvF) (q w cfg ch g : Nat) (hx : x = smGet ConvF.reset s.conv.fs f.val)
  (hrun : x.running = some q) (hentry : x.entry < field cfg 13 6) (hch : ch = field w 0 3) (hg : g = field w 3 2)
include hx hrun hentry hch hg

/-- The result of an entry of a converter that is not paired. -/
theorem execEntryResult_unpaired (lower upper : List Sample) (l : List Conversion) (r : Int × Nat × Int × Nat)
    (hcfg : cfg = (Eff.start s).seqCfg f.val q) (hw : w = (Eff.start s).convEntry f.val (field cfg 8 5 + x.entry))
    (hunpaired : (if f.val % 2 = 0 then (Eff.start s).ccv f.val oPairMode (f.val / 2) else 0) = 0)
    (hl : l = (Eff.start s).marks f.val (entryCount w) (x.settling (8 * f.val + ch) g).1 (x.settling (8 * f.val + ch) g).2 x.conv 0
      lower)
    (hr : r = entryResult (bitOf w 9) l) :
    execEntryResult f lower upper s = .next (((((Eff.start s).entryDone f.val cfg ch g (entryCount w) l).overRange f.val r.2.2.2).putResult
      (0x1000 + 8 * f.val + ch)
      (correct (signed 32 ((Eff.start s).ccv f.val oChGain (4 * (8 * f.val + ch) + g)))
        (signed 32 ((Eff.start s).ccv f.val oChOfs (4 * (8 * f.val + ch) + g))) r.2.2.1)
      ((r.2.1 * (x.start - s.frame.tk) + r.1 * halfEdge) / (4 * nsq * r.2.1)) r.2.2.2 0).st) := by
  subst hx hcfg hw hch hg hl hr
  unfold execEntryResult
  extract_lets e f' x mode edge
  have running : x.running = some q := hrun
  rw [running]
  dsimp -zeta only
  extract_lets cfg w ch g n c8 sl su lo hi e1 e2 avg all k gain ofs toff r v e3
  have single : mode = 0 := hunpaired
  have notPaired : e2 = e1 := if_neg (by simp [single])
  have conversions : all = lo := if_neg (by simp [single])
  have remains : ¬ field cfg 13 6 ≤ x.entry := not_le.mpr hentry
  rw [if_neg remains, if_neg (by simp [single])]
  clear_value e2 all
  subst notPaired conversions
  rfl

variable (d : Sample) (pt : Nat) (v toff : Int) (hpend : (smGet Domain.reset s.doms 8).pend = none)
  (hcfg : cfg = s.cv oSeqCfg (4 * f.val + q)) (hw : w = s.cv oEntry (32 * f.val + (field cfg 8 5 + x.entry)))
  (hone : entryCount w = 1) (hprev : x.prev = some (8 * f.val + ch, g)) (hsettle : x.settle = 0) (hcal : x.calOk = true)
  (hpll : 2 ∈ s.dev.pllLocked) (hunpaired : f.val % 2 = 1 ∨ s.cv oPairMode (f.val / 2) = 0)
  (hpt : pt = 0x1000 + 8 * f.val + ch)
  (hv : v = (signed 32 (s.cv oChGain (4 * (8 * f.val + ch) + g)) * sampleValue d + 2 ^ 29) / 2 ^ 30 +
    signed 32 (s.cv oChOfs (4 * (8 * f.val + ch) + g)))
  (htoff : toff = (x.start - s.frame.tk + 2 * (x.conv : Int) * halfEdge) / (4 * nsq))
include hpend hcfg hw hone hprev hsettle hcal hpll hunpaired hpt hv htoff

/-- The one conversion of an entry is corrected and stamped, and its converter goes on to the next entry. -/
theorem execEntryResult_one : ∃ e : Act s, execEntryResult f [d] [] s = .next (e.putResult pt v toff (sampleWhy d) 0).st ∧
    e.st = { s with conv := e.st.conv } ∧ (e.fa f.val).entry = x.entry + 1 ∧
      (e.fa f.val).invalid = (x.invalid + if sampleWhy d = 0 then 0 else 1) % 2 ^ 32 := by
  have committed (m obj elem : Nat) : (Eff.start s).ccv m obj elem = s.cv obj elem := (Eff.start s).ccv_committed m obj elem hpend
  have unpaired : (if f.val % 2 = 0 then (Eff.start s).ccv f.val oPairMode (f.val / 2) else 0) = 0 := by
    rcases hunpaired with h | h
    · rw [if_neg (by omega)]
    · rw [committed, h, ite_self]
  have before : (Eff.start s).fa f.val = x := hx.symm
  have conversion := (Eff.start s).marks_one f.val x.settleGain x.conv d hpll (by rw [before, hcal])
  have value : correct (signed 32 ((Eff.start s).ccv f.val oChGain (4 * (8 * f.val + ch) + g)))
      (signed 32 ((Eff.start s).ccv f.val oChOfs (4 * (8 * f.val + ch) + g))) (sampleValue d) = v := by
    rw [committed, committed, hv, correct, narrow]
  have stamp : (((1 : Nat) : Int) * (x.start - s.frame.tk) + ((2 * x.conv : Nat) : Int) * halfEdge) /
      (4 * nsq * ((1 : Nat) : Int)) = toff := by
    rw [htoff, Nat.cast_one, one_mul, mul_one, Nat.cast_mul, Nat.cast_two]
  have result := execEntryResult_unpaired s f x q w cfg ch g hx hrun hentry hch hg [d] [] _ _ (by rw [Eff.seqCfg, committed, hcfg])
    (by rw [Eff.convEntry, committed, hw]) unpaired (by rw [x.settling_same _ _ hprev, hsettle, hone]; exact conversion.symm)
    (entryResult_one _ _).symm
  dsimp only at result
  rw [value, stamp, ← hpt] at result
  obtain ⟨entry, invalid⟩ := (Eff.start s).entryDone_fa f.val cfg ch g (entryCount w) q
    [⟨2 * x.conv, sampleValue d, sampleWhy d⟩] (by rw [before, hrun])
  rw [before] at entry invalid
  refine ⟨_, result, ?_, ?_, ?_⟩
  · rw [Eff.overRange_st, Eff.entryDone_st, Eff.start_st]
  · rw [Eff.fa, Eff.overRange_fs, entry]
  · rw [Eff.fa, Eff.overRange_fs, invalid]
    by_cases h : sampleWhy d = 0 <;> simp [h]

/-- What the point and the converter show of it. -/
theorem execEntryResult_writes (hforced : smGet none s.faults.forced pt = none) (hstandby : s.pair.role ≠ .standby)
    (hjoining : s.pair.role ≠ .joining) : ∃ t, execEntryResult f [d] [] s = .next t ∧
      t.pt pt = s.resultWord pt v toff (sampleWhy d) ∧
      (smGet ConvF.reset t.conv.fs f.val).entry = x.entry + 1 ∧
      (smGet ConvF.reset t.conv.fs f.val).invalid = (x.invalid + if sampleWhy d = 0 then 0 else 1) % 2 ^ 32 ∧
      t = { s with pts := t.pts, conv := t.conv } := by
  obtain ⟨e, hexec, hst, hnext, hcount⟩ := execEntryResult_one s f x q w cfg ch g hx hrun hentry hch hg d pt v toff hpend hcfg hw hone
    hprev hsettle hcal hpll hunpaired hpt hv htoff
  have inRange : pt < pointCount := by
    have channel : ch < 8 := hch ▸ Nat.mod_lt _ (by decide)
    have converter := f.isLt
    change pt < 2097152
    omega
  have kept := e.putResult_st pt v toff (sampleWhy d) 0
  have written := e.putResult_pt pt v toff (sampleWhy d) inRange (sampleWhy_lt d)
    (by rw [hst, hforced]) (by rw [hst]; exact hstandby) (by rw [hst]; exact hjoining)
  have conv : (e.putResult pt v toff (sampleWhy d) 0).st.conv = e.st.conv := by rw [kept]
  refine ⟨_, hexec, ?_, ?_, ?_, ?_⟩
  · rw [written, hst]
    rfl
  · rw [conv, hnext]
  · rw [conv, hcount]
  · rw [kept, hst]

end

/-! ### SD_OUTPUT (R376, R378) -/

theorem Eff.sdFilt_committed (e : Eff s0) (c : Nat) (h : (e.dom 8).pend = none) : e.sdFilt c = sdFilter (e.st.cv oSdFilt c) := by
  rw [Eff.sdFilt, e.ccv_committed _ _ _ h]

theorem Eff.sdClkout_committed (e : Eff s0) (c : Nat) (h : (e.dom 8).pend = none) : e.sdClkout c =
    if c < 16 then 0 else e.st.cv oClkoutCfg (field (e.st.cv oXbClk (c - 16)) 2 2) := by
  rw [Eff.sdClkout, e.ccv_committed _ _ _ h, e.ccv_committed _ _ _ h]

section
variable (s : State) (c : Fin 24) (d : Sample) (x : SdCh) (n : Nat) (v : Int) (hpend : (smGet Domain.reset s.doms 8).pend = none)
  (hx : x = smGet SdCh.reset s.conv.sd c.val) (hstuck : x.stuck = false) (hclk : x.clkMissing = false) (hgap : x.gap = 0)
  (hsettle : x.settle = some n) (hpll : 2 ∈ s.dev.pllLocked)
  (hv : v = (signed 32 (s.cv oSdxGain c.val) * sampleValue d + 2 ^ 29) / 2 ^ 30 + signed 32 (s.cv oSdxOfs c.val))
include hpend hx hstuck hclk hgap hsettle hpll hv

/-- An output of a channel whose modulator runs is corrected, and marked while the filter settles; one output less is to settle. -/
theorem execSdOutput_running : ∃ (e : Act s) (toff : Int),
    execSdOutput c d s = .next (e.putResult (0x1020 + c.val) v toff (if 0 < n then 3 else sampleWhy d) 0).st ∧
      e.st = { s with conv := e.st.conv } ∧ (e.sdch c.val).settle = some (n - 1) := by
  have committed (m obj elem : Nat) : (Eff.start s).ccv m obj elem = s.cv obj elem := (Eff.start s).ccv_committed m obj elem hpend
  obtain ⟨⟨per, delay, count⟩, filter⟩ : ∃ p, (Eff.start s).sdFilt c.val = p := ⟨_, rfl⟩
  unfold execSdOutput
  extract_lets e c' pt x' k v'
  have channel : x' = x := hx.symm
  have value : v' = v := by
    change correct (signed 32 ((Eff.start s).ccv _ _ _)) (signed 32 ((Eff.start s).ccv _ _ _)) _ = v
    rw [committed, committed, hv, correct, narrow]
  rw [filter]
  dsimp -zeta only
  extract_lets period done instant toff left why e1 e2 e3 clk e4 now
  have unsettled : left = n := by simp [left, channel, hsettle]
  have reason : why = if 0 < n then 3 else sampleWhy d := by
    have locked : 2 ∈ e.st.dev.pllLocked := hpll
    simp [why, unsettled, channel, hstuck, hclk, hgap, locked]
  have kept : e3.st = { e2.st with pts := e3.st.pts } := e2.putResult_st ..
  have marked : e2.st = { s with conv := e2.st.conv } := e1.overRange_st ..
  have pend : (e3.dom 8).pend = none := by rw [Eff.dom, kept, marked, hpend]
  have cv : e3.st.cv = s.cv := by
    rw [kept, marked]
    rfl
  have taken : e4 = e3 := e3.convTake_committed _ pend
  have same : now = (per, delay, count) := by
    change e4.sdFilt c.val = _
    rw [taken, ← filter, e3.sdFilt_committed _ pend, Eff.sdFilt_committed _ _ hpend, cv, Eff.start_st]
  have clock : e4.sdClkout c' = clk := by rw [taken]
  have settles : (e1.sdch c.val).settle = some (n - 1) := by
    change ((e.modSd c' _).sdch c').settle = _
    rw [Eff.modSd_sdch _ _ _ fun hreset => Option.some_ne_none _ (congrArg SdCh.settle hreset)]
    change some (if x'.stuck || x'.clkMissing then left else left - 1) = _
    rw [channel, hstuck, hclk, unsettled]
    rfl
  refine ⟨e2, toff, ?_, marked, ?_⟩
  · rw [same, clock, taken, bne_self_eq_false, bne_self_eq_false, Bool.or_false, Eff.when_false, e3.convEnd_committed pend, ← reason,
      ← value]
  · rw [Eff.sdch, Eff.overRange_sd, settles]

theorem execSdOutput_writes (hforced : smGet none s.faults.forced (0x1020 + c.val) = none) (hstandby : s.pair.role ≠ .standby)
    (hjoining : s.pair.role ≠ .joining) : ∃ (t : State) (toff : Int), execSdOutput c d s = .next t ∧
      t.pt (0x1020 + c.val) = s.resultWord (0x1020 + c.val) v toff (if 0 < n then 3 else sampleWhy d) ∧
      (smGet SdCh.reset t.conv.sd c.val).settle = some (n - 1) ∧ t = { s with pts := t.pts, conv := t.conv } := by
  obtain ⟨e, toff, hexec, hst, hleft⟩ := execSdOutput_running s c d x n v hpend hx hstuck hclk hgap hsettle hpll hv
  have inRange : 0x1020 + c.val < pointCount := by
    have channel := c.isLt
    change 0x1020 + c.val < 2097152
    omega
  have kept := e.putResult_st (0x1020 + c.val) v toff (if 0 < n then 3 else sampleWhy d) 0
  have written := e.putResult_pt (0x1020 + c.val) v toff (if 0 < n then 3 else sampleWhy d) inRange
    (by split <;> [decide; exact sampleWhy_lt d]) (by rw [hst, hforced]) (by rw [hst]; exact hstandby) (by rw [hst]; exact hjoining)
  refine ⟨_, toff, hexec, ?_, ?_, ?_⟩
  · rw [written, hst]
    rfl
  · rw [kept, hleft]
  · rw [kept, hst]

end

/-! ### The statement -/

/-- A saturated value fits a point. -/
theorem satQ31_range (v : Int) : -2 ^ 31 ≤ satQ31 v ∧ satQ31 v < 2 ^ 31 := by
  unfold satQ31 clampTo
  omega

/-- So does the value a point holds. -/
theorem ptVal_range (w : PointWord) : -2 ^ 31 ≤ ptVal w ∧ ptVal w < 2 ^ 31 := by
  unfold ptVal signed
  dsimp only
  split <;> omega

/-- The fields of the word of a valid result. -/
theorem State.resultWord_valid (s : State) (pt : Nat) (v toff : Int) : ptVal (s.resultWord pt v toff 0) = satQ31 v ∧
    ptQual (s.resultWord pt v toff 0) = (if offQ31 v = true then qSat else 0) ∧ ptFlags (s.resultWord pt v toff 0) = 0 := by
  obtain ⟨low, high⟩ := satQ31_range v
  have qual : (if offQ31 v = true then qSat else 0) < 256 := by split <;> decide
  rw [State.resultWord, if_pos rfl]
  exact ⟨ptVal_mkPoint _ _ _ _ qual (by decide) low high, ptQual_mkPoint _ _ _ _ qual (by decide),
    ptFlags_mkPoint _ _ _ _ qual (by decide)⟩

/-- An invalid one keeps VALUE and copies REASON. -/
theorem State.resultWord_invalid (s : State) (pt : Nat) (v toff : Int) (reason : Nat) (h : reason ≠ 0) (hlt : reason < 256) :
    ptVal (s.resultWord pt v toff reason) = ptVal (s.pt pt) ∧ ptQual (s.resultWord pt v toff reason) = qInvalid ∧
      ptFlags (s.resultWord pt v toff reason) = reason := by
  obtain ⟨low, high⟩ := ptVal_range (s.pt pt)
  rw [State.resultWord, if_neg h]
  exact ⟨ptVal_mkPoint _ _ _ _ (by decide) hlt low high, ptQual_mkPoint _ _ _ _ (by decide) hlt,
    ptFlags_mkPoint _ _ _ _ (by decide) hlt⟩

/-- Settles O43: the word of the point is the result word of the entry's one conversion, or of the output of the filter. -/
theorem converterResultsComplete : Obligations.ConverterResultsComplete := by
  unfold Obligations.ConverterResultsComplete
  refine ⟨?_, execEntryResult_idle, ?_⟩
  · intro s f d x q w cfg ch g pt v toff hpend hx hrun hcfg hentry hw hone hch hg hprev hsettle hcal hpll hunpaired hpt hforced hstandby
      hjoining hv htoff
    obtain ⟨t, hexec, hword, hnext, hcount, ht⟩ := execEntryResult_writes s f x q w cfg ch g hx hrun hentry hch hg d pt v toff hpend
      hcfg hw hone hprev hsettle hcal hpll hunpaired hpt hv htoff hforced hstandby hjoining
    refine ⟨fun hvalid => ⟨t, hexec, ?_, hnext, ht⟩, fun hinvalid => ⟨t, hexec, ?_, hnext, ?_, ht⟩⟩
    · rw [hword, State.resultWord, if_pos hvalid]
    · rw [hword, State.resultWord, if_neg hinvalid]
    · rw [hcount, if_neg hinvalid]
  · intro s c d x n v hpend hx hstuck hclk hgap hsettle hpll hforced hstandby hjoining hv
    obtain ⟨t, toff, hexec, hword, hleft, ht⟩ := execSdOutput_writes s c d x n v hpend hx hstuck hclk hgap hsettle hpll hv hforced
      hstandby hjoining
    refine ⟨fun hn hvalid => ?_, fun hn => ?_⟩
    · obtain ⟨value, quality, flags⟩ := s.resultWord_valid (0x1020 + c.val) v toff
      rw [if_neg (by omega), hvalid] at hword
      rw [← hword] at value quality flags
      exact ⟨t, hexec, value, quality, flags, by rw [hleft, hn], ht⟩
    · obtain ⟨value, quality, flags⟩ := s.resultWord_invalid (0x1020 + c.val) v toff 3 (by decide) (by decide)
      rw [if_pos hn] at hword
      rw [← hword] at value quality flags
      exact ⟨t, hexec, value, quality, flags, hleft, ht⟩

end Sys2Proof.Machine
end

