-- ==== Sys2Proof/Proofs/GateCommands.lean ====
section
/-! SUPPORT. A command off to a gate whose entry hides another one of the same gate. -/

namespace Sys2Proof.Machine

/-- The gates of `State.hiddenEarly` on an ACTIVE device in RUN whose hub runs and modulates leg 0: the compares decide gate 0, which reads
DISABLED and commanded on, in front of an entry that owes the report of an EARLY. -/
def State.hiddenEarlyModulated : State :=
  { State.hiddenEarly with
    dev := { DevSt.reset with state := .run }
    pair := { PairSt.reset with role := .active, claim := true }
    cfg := [(key oLegEn 0, some 1)]
    hub := { HubSt.reset with running := true, legs := [(0, { HubLeg.reset with begun := true })] } }

theorem hiddenEarlyModulated_byCompare : (Eff.start State.hiddenEarlyModulated).byCompare 0 = true := by decide

/-- The command off makes gate 0 read its reset value, so its entry leaves the list and the hidden one comes to light: its EARLY is reported,
with the event of a new fault. -/
theorem hiddenEarlyModulated_off_reports :
    ∀ t, exec (.gateCommand 0 false) State.hiddenEarlyModulated = .next t → t.faults.evPend = 1 := by
  rintro t ⟨⟩
  rfl

/-- Refutes O39 in its second clause, a command off without a latched EARLY: where the list of gates is not canonical, that every gate
reads as without an EARLY due does not keep the command from reporting one. -/
theorem not_gateCommandsComplete : ¬ Obligations.GateCommandsComplete := by
  unfold Obligations.GateCommandsComplete
  rintro ⟨-, commandOff, -⟩
  obtain ⟨actsAtOnce, -⟩ := commandOff State.hiddenEarlyModulated 0 _ hiddenEarlyModulated_byCompare rfl
    (fun j _ => (hiddenEarly_reads_none j).right) rfl
  have reported := hiddenEarlyModulated_off_reports _ (actsAtOnce (by decide))
  have quiet : State.hiddenEarlyModulated.faults.evPend = 0 := rfl
  exact absurd (reported.symm.trans quiet) (by decide)

end Sys2Proof.Machine
end

