-- ==== Sys2Proof/Proofs/AuxOutputs.lean ====
section
/-! SUPPORT. The end of the inrush time of an auxiliary output whose entry hides another one of the same output. -/

namespace Sys2Proof.Machine

/-- An ACTIVE device in RUN after 100 s, with two entries for output 0: the first, which differs from the reset value in its blanking alone,
hides one that is commanded energised. -/
def State.hiddenCommand : State :=
  { State.reset with
    dev := { DevSt.reset with state := .run }
    pair := { PairSt.reset with role := .active, claim := true }
    time := { TimeSt.reset with up := 100000000000 }
    aux := [(0, { Aux.reset with blanking := true }), (0, { Aux.reset with cmd := true })] }

/-- The inrush time that output 0 shows has passed. -/
theorem hiddenCommand_blank_passed :
    (smGet Aux.reset State.hiddenCommand.aux 0).blankAt + State.hiddenCommand.cv oAxOcBlank 0 * 1000000 ≤ State.hiddenCommand.time.up := by
  decide

/-- The end of blanking makes output 0 read its reset value, so its entry leaves the list and the hidden one comes to light: AX_STATUS
changes, which raises event 48 (R445). -/
theorem hiddenCommand_blank_end_raises :
    ∀ t, exec (.auxOcBlankEnd 0) State.hiddenCommand = .next t → t.faults.evPend = 2 ^ 48 := by
  rintro t ⟨⟩
  rfl

/-- Refutes O44 in its clause on AUX_OC_BLANK: where the list of outputs is not canonical, the end of blanking can change the AX_STATUS of its
output, and then not the outputs alone change but the collector too. -/
theorem not_auxiliaryOutputsComplete : ¬ Obligations.AuxiliaryOutputsComplete := by
  unfold Obligations.AuxiliaryOutputsComplete
  rintro ⟨-, -, -, -, -, -, blankEnd, -⟩
  have ends := (blankEnd State.hiddenCommand 0 _ rfl rfl rfl).trans (congrArg _ (if_pos hiddenCommand_blank_passed))
  have raised := hiddenCommand_blank_end_raises _ ends
  have quiet : State.hiddenCommand.faults.evPend = 0 := rfl
  exact absurd (raised.symm.trans quiet) (by decide)

end Sys2Proof.Machine
end

