-- ==== Sys2Proof/Proofs/Reactions.lean ====
section
/-! SUPPORT. What a report makes of the state: it is logged, and where it is not withheld the reaction of its class follows (R424, R425,
R430 to R434). -/

namespace Sys2Proof.Machine

variable {s0 : Root}

/-! ### What a report is made of -/

/-- Whether the reaction to a report is withheld: by its source, for a forced message in a session that only records, or where the role
does not let the device react (R430, R439). -/
def Eff.withholds (e : Eff s0) (r : Rep) : Bool :=
  let cls := e.classOf r.kind r.addr
  let rec1 := r.forced && (match e.faults.inject with | some i => i.mode == 1 | none => false)
  let follows := e.pair.role == .standby || e.pair.role == .joining
  r.withheld || (rec1 && 2 ≤ cls) || (!e.isActive && 2 ≤ cls && (cls ≤ 5 || !follows))

/-- The message of a report (R422, R424, R442). -/
def Eff.messageOf (e : Eff s0) (r : Rep) : Entry :=
  { addr := r.addr, kind := r.kind, sev := e.classOf r.kind r.addr, source := r.source, time := r.time.getD e.now16, frame := e.frame.k
    merges := 0, access := if sramKind r.kind then r.access else none, forced := r.forced, notActed := e.withholds r, peer := r.peer
    pfTail := false, seq := 0, rid := e.faults.reports + 1 }

/-- A report is logged: its message is recorded, and the event of its class occurs. -/
def Eff.logged (e : Eff s0) (r : Rep) : Eff s0 := (e.record (e.messageOf r)).event (e.classOf r.kind r.addr)

theorem Eff.logged_st (e : Eff s0) (r : Rep) : (e.logged r).st = { e.st with faults := (e.logged r).st.faults } := rfl

theorem Eff.logged_last (e : Eff s0) (r : Rep) : (e.logged r).st.faults.last = some (e.messageOf r) := rfl

/-- A report that is neither forced nor that of an SRAM, and whose reaction is not withheld, is logged as `State.noted` says. -/
theorem Eff.logged_noted (e : Eff s0) (source kind addr : Nat) (access : Option (Nat × Nat)) (hram : sramKind kind = false)
    (hacts : e.withholds { source, kind, addr, access } = false) :
    (e.logged { source, kind, addr, access }).st = { e.st with faults := e.st.noted source kind addr } := by
  have message : e.messageOf { source, kind, addr, access } = e.st.message source kind addr := by
    unfold Eff.messageOf
    rw [hacts, hram, if_neg Bool.false_ne_true]
    rfl
  unfold Eff.logged
  rw [message]
  rfl

/-! ### Reactions leave the dictionary as it is -/

/-- The committed set and the strap its defaults read are those of `a`. -/
def State.SameDict (a b : State) : Prop := b.cfg = a.cfg ∧ b.pair.strapB = a.pair.strapB

theorem State.SameDict.refl (a : State) : a.SameDict a := ⟨rfl, rfl⟩

theorem State.SameDict.trans {a b c : State} (h : a.SameDict b) (k : b.SameDict c) : a.SameDict c :=
  ⟨k.1.trans h.1, k.2.trans h.2⟩

theorem State.SameDict.cv {a b : State} (h : a.SameDict b) : b.cv = a.cv := State.cv_congr h.1 h.2

theorem State.Driven.sameDict {a b : State} (h : a.Driven b) : a.SameDict b := by
  rw [h]
  exact .refl _

theorem Eff.when_sameDict (e : Eff s0) (c : Bool) (f : Eff s0 → Eff s0) (h : e.st.SameDict (f e).st) : e.st.SameDict (e.when c f).st := by
  cases c with
  | true => exact h
  | false => exact .refl _

theorem Eff.sendControl_sameDict (e : Eff s0) (type frame : Nat) (p : List Byte) : e.st.SameDict (e.sendControl type frame p).st := by
  rw [Eff.sendControl, Eff.modPair_st, Eff.putControl_st]
  exact ⟨rfl, rfl⟩

theorem Eff.tripCascade_sameDict (e : Eff s0) (code cause : Nat) : e.st.SameDict (e.tripCascade code cause).st := by
  refine e.when_sameDict _ _ ?_
  extract_lets block e1 e2
  have sent : e.st.SameDict e1.st := by
    simp only [e1, Eff.modDev_st, Eff.tripOn_st]
    exact ⟨rfl, rfl⟩
  have held : e1.st.SameDict e2.st := (e1.safeLevels_driven _).sameDict
  clear_value e2
  exact (sent.trans held).trans (Eff.when_sameDict e2 _ _ ⟨rfl, rfl⟩)

theorem Eff.latchStage_sameDict (e : Eff s0) (bit : Nat) (at16 : Int) : e.st.SameDict (e.latchStage bit at16).st := by
  unfold Eff.latchStage
  extract_lets e1
  have latched : e.st.SameDict e1.st := (Eff.allGatesOff_driven (e.modGate fun g => { g with stage := true })).sameDict
  exact latched.trans (Eff.when_sameDict _ _ _ (e1.sendControl_sameDict _ _ _))

theorem Eff.retire_sameDict (e : Eff s0) (cause : Nat) : e.st.SameDict (e.retire cause).st := by
  unfold Eff.retire
  extract_lets was e1
  have told : e.st.SameDict e1.st := e.when_sameDict _ _ (e.sendControl_sameDict _ _ _)
  have retired := e1.becomePassive_standing .retired (by decide)
  generalize e1.becomeRole .retired = e2 at retired
  exact told.trans ⟨congrArg Standing.cfg retired, congrArg Standing.strapB retired⟩

/-- A reaction leaves the dictionary as it is. -/
theorem Eff.react_sameDict (e : Eff s0) (cls kind addr : Nat) (at16 : Int) : e.st.SameDict (e.react cls kind addr at16).st := by
  have departs : ∀ c, e.st.SameDict (match c with
    | some c => e.modChain fun h => { h with departs := h.departs ++ [(c, 4)] }
    | none => e).st := by
    rintro (_ | c)
    · exact .refl _
    · exact ⟨rfl, rfl⟩
  unfold Eff.react
  extract_lets cause
  split_ifs
  · exact ⟨rfl, rfl⟩
  · exact departs _
  · exact e.latchStage_sameDict 3 at16
  · exact e.tripCascade_sameDict 5 cause
  · exact e.retire_sameDict _
  · exact e.retire_sameDict _
  · exact e.tripCascade_sameDict 6 cause
  · exact e.when_sameDict _ _ (e.retire_sameDict 0)
  · exact e.tripCascade_sameDict 7 cause
  · exact e.when_sameDict _ _ (e.retire_sameDict 0)
  · exact .refl _

/-! ### A report -/

/-- A class holds no journal (R555). -/
def State.NoHold (s : State) (cls : Nat) : Prop := cls < s.cv oJrnlHoldClass 0 ∨ s.cv oJrnlHoldClass 0 = 0xFF

theorem State.NoHold.not {s : State} {cls : Nat} (h : s.NoHold cls) : ¬(s.cv oJrnlHoldClass 0 ≤ cls ∧ s.cv oJrnlHoldClass 0 ≠ 0xFF) := by
  unfold State.NoHold at h
  omega

/-- A gate in BLANK with EARLY latched is in BLANK. -/
theorem Eff.earlyGates_blank (e : Eff s0) (k : Nat) (h : k ∈ e.earlyGates) : (e.gch k).st = .blank := by
  have both := (List.mem_filter.mp h).2
  simp only [Bool.and_eq_true, beq_iff_eq] at both
  exact both.1

/-- A report of a class that holds no journal is logged, and its reaction follows unless it is withheld; in such a report no gate with an
EARLY is turned off where the class is below HALT or no EARLY is latched. -/
theorem Eff.report_eq (e : Eff s0) (r : Rep) (hhold : e.st.NoHold (e.classOf r.kind r.addr))
    (hearly : e.withholds r = true ∨ e.classOf r.kind r.addr < 5 ∨ e.earlyGates = []) :
    e.report r = if e.withholds r then e.logged r
      else (e.logged r).react (e.classOf r.kind r.addr) r.kind r.addr (r.time.getD e.now16) := by
  have unfolded : e.report r =
      let x := if e.withholds r then e.logged r
        else (e.logged r).react (e.classOf r.kind r.addr) r.kind r.addr (r.time.getD e.now16)
      let y := x.when (!e.withholds r && decide (x.cv oJrnlHoldClass ≤ e.classOf r.kind r.addr ∧ x.cv oJrnlHoldClass ≠ 0xFF)) (·.startHold)
      (e.earlyGates.filter fun k => (y.gch k).st != .blank && 5 ≤ e.classOf r.kind r.addr).foldl
        (fun e k => Eff.reportN 2 e { source := 0x070, kind := kGateEarly, addr := 0x8000 + k }) y := rfl
  rw [unfolded]
  extract_lets x y
  have dict : e.st.SameDict x.st := by
    simp only [x]
    split
    · exact ⟨rfl, rfl⟩
    · exact State.SameDict.trans (b := (e.logged r).st) ⟨rfl, rfl⟩ (Eff.react_sameDict _ _ _ _ _)
  have noHold : y = x := by
    simp only [y, Eff.cv, dict.cv, hhold.not, decide_false, Bool.and_false, Eff.when_false]
  have noneGone : (e.earlyGates.filter fun k => (y.gch k).st != .blank && 5 ≤ e.classOf r.kind r.addr) = [] := by
    rcases hearly with withheld | low | noGates
    · have gates : y.gch = e.gch := by
        rw [noHold]
        simp only [x, withheld, if_true]
        rfl
      rw [List.filter_eq_nil_iff, gates]
      intro k hk
      simp [e.earlyGates_blank k hk]
    · simp [Nat.not_le.mpr low]
    · rw [noGates, List.filter_nil]
  rw [noneGone, List.foldl_nil, noHold]

end Sys2Proof.Machine
end

