-- ==== Sys2Proof/Proofs/FaultReports.lean ====
section
/-! SUPPORT. FAULT_REPORT by the class of its kind, the uncorrectable error of the point store, and the repeat of a TRIP (R43, R44, R424 to
R438). -/

namespace Sys2Proof.Machine

variable {s0 : Root}

/-! ### The reaction of each class (R430, R433) -/

theorem Eff.react_logOnly (e : Eff s0) (cls kind addr : Nat) (at16 : Int) (h : cls ≤ 1) : e.react cls kind addr at16 = e := by
  unfold Eff.react
  extract_lets cause
  rw [if_neg (by omega), if_neg (by omega), if_neg (by omega), if_neg (by omega), if_neg (by omega), if_neg (by omega)]

theorem Eff.react_derate (e : Eff s0) (kind addr : Nat) (at16 : Int) : (e.react 2 kind addr at16).st =
    { e.st with dev := { e.st.dev with derate := e.st.dev.derate ||| 1, derateClear := none, derateSince := e.st.time.up } } := rfl

theorem Eff.react_depart (e : Eff s0) (kind addr c : Nat) (at16 : Int) (h : scopeCell kind addr = some c) :
    (e.react 3 kind addr at16).st = { e.st with chain := { e.st.chain with departs := e.st.chain.departs ++ [(c, 4)] } } := by
  have departs : e.react 3 kind addr at16 = match scopeCell kind addr with
    | some c => e.modChain fun h => { h with departs := h.departs ++ [(c, 4)] }
    | none => e := rfl
  rw [departs, h]
  rfl

/-- All gates off: one gate after the other, and nothing else. -/
theorem Eff.allGatesOff_st (e : Eff s0) : e.allGatesOff.st =
    { e.st with gate := { e.st.gate with gates := smMods Gate.reset e.st.gate.gates (List.range 24) (Gate.shut e.st.time.up) } } := by
  have turns (l : List Nat) (e : Eff s0) : (e.each l fun e k => e.modGch k (Gate.shut e.time.up)).st =
      { e.st with gate := { e.st.gate with gates := smMods Gate.reset e.st.gate.gates l (Gate.shut e.st.time.up) } } := by
    induction l generalizing e with
    | nil => rfl
    | cons k r ih =>
      rw [Eff.each_cons, ih]
      rfl
  exact turns _ e

/-- The stage latch without a standby (R399, R430). -/
theorem Eff.latchStage_alone (e : Eff s0) (bit : Nat) (at16 : Int) (h : e.st.pair.standby = false) : (e.latchStage bit at16).st =
    { e.st with
      gate := { e.st.gate with
        stage := true, gates := smMods Gate.reset e.st.gate.gates (List.range 24) (Gate.shut e.st.time.up) }
      dev := { e.st.dev with derate := e.st.dev.derate ||| 2, derateClear := none } } := by
  unfold Eff.latchStage
  extract_lets e1
  have latched : e1.st = { e.st with
      gate := { e.st.gate with
        stage := true, gates := smMods Gate.reset e.st.gate.gates (List.range 24) (Gate.shut e.st.time.up) }
      dev := { e.st.dev with derate := e.st.dev.derate ||| 2, derateClear := none } } := by
    simp only [e1, Eff.derateSet, Eff.modDev_st, Eff.allGatesOff_st]
    rfl
  have alone : (e1.isActive && e1.pair.standby) = false := by
    rw [Eff.pair, latched]
    simp [h]
  rw [alone, Eff.when_false, latched]

/-- On an ACTIVE device the classes that trip do so with their class as the code and STATE_CAUSE 5, but for the kinds with a cause of
their own. -/
theorem Eff.react_trip (e : Eff s0) (cls kind addr : Nat) (at16 : Int) (hcls : cls = 5 ∨ cls = 7 ∨ (cls = 6 ∧ e.hasStandby = false))
    (hrole : e.isActive = true) (hkind : kind ∉ [kNminLost, kPwrFail, kTripAction]) :
    e.react cls kind addr at16 = e.tripCascade cls 5 := by
  simp only [List.mem_cons, List.not_mem_nil, or_false, not_or] at hkind
  obtain ⟨nmin, pwr, trip⟩ := hkind
  unfold Eff.react
  rw [if_neg nmin, if_neg pwr, if_neg trip]
  rcases hcls with rfl | rfl | ⟨rfl, alone⟩
  · rfl
  · simp [hrole]
  · simp [hrole, alone]

/-- FAILOVER to a standby that is there, and the classes that take a device out of the pair that is not ACTIVE: it retires. -/
theorem Eff.react_retires (e : Eff s0) (cls kind addr : Nat) (at16 : Int)
    (h : (cls = 6 ∧ e.isActive = true ∧ e.hasStandby = true) ∨
      ((cls = 6 ∨ cls = 7) ∧ (e.st.pair.role = .standby ∨ e.st.pair.role = .joining))) :
    ∃ cause, e.react cls kind addr at16 = e.retire cause := by
  unfold Eff.react
  extract_lets c
  rcases h with ⟨rfl, active, standby⟩ | ⟨hcls, role⟩
  · exact ⟨if kind = kPwrFail then 1 else 0, by simp [active, standby]⟩
  · have follows : (e.pair.role == .standby || e.pair.role == .joining) = true := by simpa using role
    have passive : e.isActive = false := by rcases role with role | role <;> simp [Eff.isActive, role]
    rcases hcls with rfl | rfl
    · exact ⟨0, by simp [passive, follows]⟩
    · exact ⟨0, by simp [passive, follows]⟩

/-- A device that retires has no claim and its hub outputs are high-impedance; one that was ACTIVE completes its frame (R477). -/
theorem Eff.retire_retired (e : Eff s0) (cause : Nat) :
    (e.retire cause).st.pair.role = .retired ∧ (e.retire cause).st.pair.finishing = e.isActive ∧
      (e.retire cause).st.pair.claim = false ∧ (e.retire cause).st.gate.hiZ = true := by
  unfold Eff.retire
  extract_lets was e1
  have retired := e1.becomePassive_standing .retired (by decide)
  generalize e1.becomeRole .retired = e2 at retired
  exact ⟨congrArg Standing.role retired, rfl, congrArg Standing.claim retired, congrArg Standing.hiZ retired⟩

/-! ### FAULT_REPORT (R424, R425) -/

/-- The role lets a report of a class act (R430). -/
def State.Acts (s : State) (cls : Nat) : Prop :=
  cls ≤ 1 ∨ s.pair.role = .active ∨ (6 ≤ cls ∧ (s.pair.role = .standby ∨ s.pair.role = .joining))

theorem Eff.withholds_acts (e : Eff s0) (source kind addr : Nat) (access : Option (Nat × Nat)) (h : e.st.Acts (e.classOf kind addr)) :
    e.withholds { source, kind, addr, access } = false := by
  unfold Eff.withholds
  simp only [Bool.false_and, Bool.false_or]
  rcases h with low | active | ⟨high, role⟩
  · simp [show ¬(2 ≤ e.classOf kind addr) by omega]
  · simp [Eff.isActive, active]
  · have follows : (e.pair.role == .standby || e.pair.role == .joining) = true := by simpa using role
    simp [follows, show ¬(e.classOf kind addr ≤ 5) by omega]

theorem Eff.withholds_passive (e : Eff s0) (source kind addr : Nat) (access : Option (Nat × Nat)) (hrole : e.st.pair.role ≠ .active)
    (hlo : 2 ≤ e.classOf kind addr) (hhi : e.classOf kind addr ≤ 5) : e.withholds { source, kind, addr, access } = true := by
  simp [Eff.withholds, Eff.isActive, hrole, hlo, hhi]

/-- What a source and its kind make a report of. -/
def faultRep (src : BitVec 12) (kind : Byte) (addr : BitVec 32) (ms ty : Nat) : Rep :=
  { source := src.toNat, kind := kind.toNat, addr := addr.toNat, access := some (ms % 16, ty % 4) }

section
variable (s : State) (src : BitVec 12) (kind : Byte) (addr : BitVec 32) (ms ty : Nat)

theorem execFaultReport_reserved (h : isSource src.toNat = false ∨ kind? kind.toNat = none) :
    execFaultReport src kind addr ms ty s = .next s := by
  unfold execFaultReport
  extract_lets e ok e1
  have reserved : ok = false := by rcases h with h | h <;> simp [ok, h]
  have untouched : e1 = e := by rw [show e1 = e.when (ok && _) _ from rfl, reserved, Bool.false_and, Eff.when_false]
  rw [reserved, Eff.when_false, untouched]
  rfl

variable (hsrc : isSource src.toNat = true) (hkind : kind? kind.toNat ≠ none)
include hsrc hkind

/-- A listed source reports a listed kind: an SRAM_UE has its own effect first. -/
theorem execFaultReport_listed : execFaultReport src kind addr ms ty s =
    .next (((Eff.start s).when (kind.toNat == kSramUe) (·.sramUe addr.toNat ms)).report (faultRep src kind addr ms ty)).st := by
  unfold execFaultReport
  have listed : (isSource src.toNat && (kind? kind.toNat).isSome) = true := by simp [hsrc, Option.isSome_iff_ne_none, hkind]
  rw [listed]
  rfl

variable (hram : sramKind kind.toNat = false) (hue : kind.toNat ≠ kSramUe)
  (hhold : s.NoHold ((Eff.start s).classOf kind.toNat addr.toNat))
include hram hue hhold

/-- A report that may act: the reaction of its class follows on the state with the report noted. -/
theorem execFaultReport_acts (hacts : s.Acts ((Eff.start s).classOf kind.toNat addr.toNat))
    (hearly : (Eff.start s).classOf kind.toNat addr.toNat < 5 ∨ (Eff.start s).earlyGates = []) :
    ∃ e : Act s, e.st = { s with faults := s.noted src.toNat kind.toNat addr.toNat } ∧ execFaultReport src kind addr ms ty s =
      .next (e.react ((Eff.start s).classOf kind.toNat addr.toNat) kind.toNat addr.toNat (Eff.start s).now16).st := by
  have acts := (Eff.start s).withholds_acts src.toNat kind.toNat addr.toNat (some (ms % 16, ty % 4)) hacts
  refine ⟨_, (Eff.start s).logged_noted _ _ _ _ hram acts, ?_⟩
  rw [execFaultReport_listed s src kind addr ms ty hsrc hkind, beq_false_of_ne hue, Eff.when_false, Eff.report_eq _ _ hhold (.inr hearly),
    faultRep, if_neg (by rw [acts]; exact Bool.false_ne_true)]
  rfl

/-- A report whose reaction the role withholds is only recorded, marked not acted on. -/
theorem execFaultReport_withheld (hrole : s.pair.role ≠ .active) (hlo : 2 ≤ (Eff.start s).classOf kind.toNat addr.toNat)
    (hhi : (Eff.start s).classOf kind.toNat addr.toNat ≤ 5) :
    ∃ t, execFaultReport src kind addr ms ty s = .next t ∧
      t.faults.last = some { s.message src.toNat kind.toNat addr.toNat with notActed := true } ∧ t = { s with faults := t.faults } := by
  have withheld : (Eff.start s).withholds (faultRep src kind addr ms ty) = true := Eff.withholds_passive _ _ _ _ _ hrole hlo hhi
  refine ⟨((Eff.start s).logged (faultRep src kind addr ms ty)).st, ?_, ?_, (Eff.start s).logged_st _⟩
  · rw [execFaultReport_listed s src kind addr ms ty hsrc hkind, beq_false_of_ne hue, Eff.when_false,
      Eff.report_eq _ _ hhold (.inl withheld), if_pos withheld]
  · rw [Eff.logged_last, Eff.messageOf, withheld, show (faultRep src kind addr ms ty).kind = kind.toNat from rfl, hram]
    rfl

/-- The classes that trip an ACTIVE device. -/
theorem execFaultReport_trips (cls : Nat) (hcls : cls = (Eff.start s).classOf kind.toNat addr.toNat)
    (htrip : cls = 5 ∨ cls = 7 ∨ (cls = 6 ∧ (Eff.start s).hasStandby = false)) (hrole : s.pair.role = .active)
    (hstate : s.dev.state ∉ [.off, .boot, .safe]) (hearly : (Eff.start s).earlyGates = [])
    (hown : kind.toNat ∉ [kNminLost, kPwrFail, kTripAction]) :
    ∃ t, execFaultReport src kind addr ms ty s = .next t ∧ s.TripsTo cls 5 t ∧
      t = { s with faults := s.noted src.toNat kind.toNat addr.toNat, sent := t.sent, dev := t.dev, hub := t.hub, gate := t.gate } := by
  subst hcls
  obtain ⟨e, noted, reacts⟩ := execFaultReport_acts s src kind addr ms ty hsrc hkind hram hue hhold (.inr (.inl hrole)) (.inr hearly)
  have pair : e.st.pair = s.pair := by rw [noted]
  have dev : e.st.dev = s.dev := by rw [noted]
  have active : e.isActive = true := by simp [Eff.isActive, pair, hrole]
  have standby : e.hasStandby = (Eff.start s).hasStandby := by simp only [Eff.hasStandby, Eff.pair, pair, Eff.start_st]
  simp only [List.mem_cons, List.not_mem_nil, or_false, not_or] at hstate
  obtain ⟨off, boot, safe⟩ := hstate
  have live : e.live = true := by simp [Eff.live, active, dev, off, boot]
  obtain ⟨t, ht, trips, kept⟩ := e.tripCascade_tripsTo ((Eff.start s).classOf kind.toNat addr.toNat) 5 live (by rw [dev]; exact safe)
  rw [e.react_trip _ _ _ _ (by rwa [standby]) active hown, ← ht] at reacts
  obtain ⟨tripped, held, devAfter⟩ := trips
  rw [noted] at tripped devAfter kept
  exact ⟨t, reacts, ⟨tripped, held, devAfter⟩, kept⟩

/-- The classes that take the device out of the pair. -/
theorem execFaultReport_retires (cls : Nat) (hcls : cls = (Eff.start s).classOf kind.toNat addr.toNat)
    (hearly : (Eff.start s).earlyGates = [])
    (hretire : (cls = 6 ∧ s.pair.role = .active ∧ (Eff.start s).hasStandby = true) ∨
      ((cls = 6 ∨ cls = 7) ∧ (s.pair.role = .standby ∨ s.pair.role = .joining))) :
    ∃ t, execFaultReport src kind addr ms ty s = .next t ∧ t.pair.role = .retired ∧
      t.pair.finishing = (Eff.start s).isActive ∧ t.pair.claim = false ∧ t.gate.hiZ = true := by
  subst hcls
  have acts : s.Acts ((Eff.start s).classOf kind.toNat addr.toNat) := by
    rcases hretire with ⟨-, active, -⟩ | ⟨cls, role⟩
    · exact .inr (.inl active)
    · exact .inr (.inr ⟨by omega, role⟩)
  obtain ⟨e, noted, reacts⟩ := execFaultReport_acts s src kind addr ms ty hsrc hkind hram hue hhold acts (.inr hearly)
  have pair : e.st.pair = s.pair := by rw [noted]
  have active : e.isActive = (Eff.start s).isActive := by simp only [Eff.isActive, Eff.pair, pair, Eff.start_st]
  have standby : e.hasStandby = (Eff.start s).hasStandby := by simp only [Eff.hasStandby, Eff.pair, pair, Eff.start_st]
  obtain ⟨cause, retires⟩ := e.react_retires ((Eff.start s).classOf kind.toNat addr.toNat) kind.toNat addr.toNat (Eff.start s).now16 (by
    rw [active, standby, pair]
    simpa [Eff.isActive] using hretire)
  obtain ⟨role, finishing, claim, hiZ⟩ := e.retire_retired cause
  rw [retires] at reacts
  exact ⟨_, reacts, role, finishing.trans active, claim, hiZ⟩

end

/-! ### An uncorrectable error in the point store (R43, R44, R99) -/

/-- What requester r reads of point n once its word is lost: the VALUE it last consumed, else a free one. -/
def State.heldValue (s : State) (r n : Nat) : Int := ((Eff.start s).lastConsumed r n).getD (Config.freeWord s.free).toInt

/-- A point whose word is lost: INVALID with REASON 15 and the VALUE its reader holds. -/
def State.lostWord (s : State) (r n : Nat) : PointWord :=
  mkPoint (s.heldValue r n) (ptToff (s.pt n)) (if bitOf (ptQual (s.pt n)) 2 then ptQual (s.pt n) else ptQual (s.pt n) + qInvalid)
    (ptFlags (s.pt n) / 16 * 16 + 15)

theorem signed_range (w n : Nat) (hw : 0 < w) : -2 ^ (w - 1) ≤ signed w n ∧ signed w n < 2 ^ (w - 1) := by
  obtain ⟨k, rfl⟩ : ∃ k, w = k + 1 := ⟨w - 1, by omega⟩
  have bound : n % 2 ^ (k + 1) < 2 ^ (k + 1) := Nat.mod_lt _ (by positivity)
  have pow : (2 : Nat) ^ (k + 1) = 2 * 2 ^ k := by ring
  have cast : ((2 ^ k : Nat) : Int) = 2 ^ k := by push_cast; rfl
  simp only [signed, Nat.add_sub_cancel, pow] at bound ⊢
  rw [← cast]
  split <;> omega

theorem State.heldValue_range (s : State) (r n : Nat) : -2 ^ 31 ≤ s.heldValue r n ∧ s.heldValue r n < 2 ^ 31 := by
  unfold State.heldValue Eff.lastConsumed
  split
  · exact signed_range 32 _ (by decide)
  · cases smGet none (Eff.start s).st.faults.consumed (r * pointCount + n) with
    | none => exact ⟨BitVec.le_toInt _, BitVec.toInt_lt⟩
    | some v => exact signed_range 32 v (by decide)

theorem ptQual_lt (w : PointWord) : ptQual w < 256 := Nat.mod_lt _ (by decide)

theorem ptFlags_lt (w : PointWord) : ptFlags w < 256 := Nat.mod_lt _ (by decide)

/-- Bit 2 of a number, set where it was clear. -/
theorem bitOf_add_four (q : Nat) (h : bitOf q 2 = false) : bitOf (q + 4) 2 = true := by
  simp only [bitOf, field, beq_eq_false_iff_ne, beq_iff_eq] at *
  omega

theorem State.lostWord_fields (s : State) (r n : Nat) : ptVal (s.lostWord r n) = s.heldValue r n ∧
    bitOf (ptQual (s.lostWord r n)) 2 = true ∧ ptFlags (s.lostWord r n) % 16 = 15 := by
  obtain ⟨lo, hi⟩ := s.heldValue_range r n
  have qual := ptQual_lt (s.pt n)
  have flags : ptFlags (s.pt n) / 16 * 16 + 15 < 256 := by
    have := ptFlags_lt (s.pt n)
    omega
  unfold State.lostWord
  cases bit : bitOf (ptQual (s.pt n)) 2 with
  | true =>
    rw [if_pos rfl, ptVal_mkPoint _ _ _ _ qual flags lo hi, ptQual_mkPoint _ _ _ _ qual flags, ptFlags_mkPoint _ _ _ _ qual flags]
    exact ⟨rfl, bit, by omega⟩
  | false =>
    have valid : ptQual (s.pt n) + qInvalid < 256 := by
      simp only [bitOf, field, beq_eq_false_iff_ne] at bit
      simp only [qInvalid]
      omega
    rw [if_neg Bool.false_ne_true, ptVal_mkPoint _ _ _ _ valid flags lo hi, ptQual_mkPoint _ _ _ _ valid flags,
      ptFlags_mkPoint _ _ _ _ valid flags]
    exact ⟨rfl, bitOf_add_four _ bit, by omega⟩

theorem State.lostWord_ne_reset (s : State) (r n : Nat) : s.lostWord r n ≠ pointReset := by
  intro reset
  obtain ⟨-, -, flags⟩ := s.lostWord_fields r n
  rw [reset] at flags
  exact absurd flags (by decide)

/-- The error is marked: trouble bit 9 with its event, and an item of the journal. -/
def Eff.sramMarked (e : Eff s0) (addr ms : Nat) : Eff s0 := (e.setTrouble 9).jitem 5 0 (le 4 addr ++ le 1 (ms % 16) ++ zeros 3)

theorem Eff.sramMarked_st (e : Eff s0) (addr ms : Nat) : (e.sramMarked addr ms).st = { e.st with
    trouble := e.st.trouble ||| 2 ^ 9, faults := (e.event 11).st.faults, jrnl := (e.sramMarked addr ms).st.jrnl } := by
  unfold Eff.sramMarked Eff.jitem
  cases (e.setTrouble 9).frame.running with
  | true => rfl
  | false => rfl

/-- The mark does not bear on the word. -/
theorem Eff.sramMarked_lostWord (e : Eff s0) (addr ms r n : Nat) : (e.sramMarked addr ms).st.lostWord r n = e.st.lostWord r n := by
  rw [e.sramMarked_st addr ms]
  rfl

/-- The error of a point: the mark, a free value used, and the word. -/
theorem Eff.sramUe_point (e : Eff s0) (addr ms : Nat) (h : addr < 0x1000000) :
    ∃ f j, (e.sramUe addr ms).st = { e.st with
      trouble := e.st.trouble ||| 2 ^ 9, faults := f, jrnl := j, free := e.st.free + 1
      pts := smSet pointReset e.st.pts (addr / 8) (e.st.lostWord (ms % 16) (addr / 8)) } := by
  have stored : addr / 8 < pointCount := by
    simp only [pointCount]
    omega
  have lost : e.sramUe addr ms =
      (e.sramMarked addr ms).tick.setPoint (addr / 8) ((e.sramMarked addr ms).st.lostWord (ms % 16) (addr / 8)) := if_pos h
  refine ⟨(e.event 11).st.faults, (e.sramMarked addr ms).st.jrnl, ?_⟩
  rw [lost, e.sramMarked_lostWord, Eff.setPoint_st, if_pos stored, Eff.tick_st, e.sramMarked_st]

theorem State.Quiet.noHold {s : State} {kind addr : Nat} (h : s.Quiet kind addr) : s.NoHold ((Eff.start s).classOf kind addr) := .inl h.2

/-- A report of a class that only records, forced or not, is logged. -/
theorem Eff.report_quiet (e : Eff s0) (r : Rep) (h : e.st.Quiet r.kind r.addr) : (e.report r).st = (e.logged r).st := by
  have low : e.classOf r.kind r.addr ≤ 1 := h.1
  rw [e.report_eq r h.noHold (.inr (.inl (by omega)))]
  split
  · rfl
  · rw [Eff.react_logOnly _ _ _ _ _ low]

theorem kSramUe_listed : kind? (BitVec.ofNat 8 kSramUe).toNat ≠ none := by decide

theorem execFaultReport_sramUe (s : State) (src : BitVec 12) (addr : BitVec 32) (ms ty : Nat) (hsrc : isSource src.toNat = true)
    (haddr : addr.toNat < 0x1000000) (hquiet : s.Quiet kSramUe addr.toNat) :
    ∃ f j, execFaultReport src (BitVec.ofNat 8 kSramUe) addr ms ty s = .next { s with
      trouble := s.trouble ||| 2 ^ 9, faults := f, jrnl := j, free := s.free + 1
      pts := smSet pointReset s.pts (addr.toNat / 8) (s.lostWord (ms % 16) (addr.toNat / 8)) } := by
  obtain ⟨f, j, lost⟩ := (Eff.start s).sramUe_point addr.toNat ms haddr
  have quiet : ((Eff.start s).sramUe addr.toNat ms).st.Quiet kSramUe addr.toNat := hquiet.congr (by rw [lost]; rfl) (by rw [lost]; rfl)
  have quietly := ((Eff.start s).sramUe addr.toNat ms).report_quiet (faultRep src (BitVec.ofNat 8 kSramUe) addr ms ty) quiet
  rw [Eff.logged_st, lost] at quietly
  exact ⟨_, j, (execFaultReport_listed s src (BitVec.ofNat 8 kSramUe) addr ms ty hsrc kSramUe_listed).trans
    (congrArg Host.Outcome.next quietly)⟩

/-! ### The repeat of a TRIP (R437) -/

theorem execTripRepeat_unarmed (s : State) (h : s.dev.tripRepeat = none) : execTripRepeat s = .next s := by
  unfold execTripRepeat
  extract_lets e
  rw [show e.dev.tripRepeat = none from h]
  rfl

/-- Armed, the repeat is out once 1 µs has passed since the first block. -/
theorem execTripRepeat_armed (s : State) (b : Block) (at0 : Nat) (h : s.dev.tripRepeat = some (b, at0)) :
    execTripRepeat s = .next (if at0 + 1000 ≤ s.time.up then { s with
      sent := (List.range 26).reverse.flatMap (s.tripOut b) ++ s.sent, dev := { s.dev with tripRepeat := none } } else s) := by
  unfold execTripRepeat
  extract_lets e
  rw [show e.dev.tripRepeat = some (b, at0) from h]
  refine congrArg Host.Outcome.next ((e.when_armed_st true _ _ rfl).trans ?_)
  rw [Eff.modDev_st, Eff.tripOn_st]
  rfl

/-- What a TRIP puts out reaches every LOCKED lane. -/
theorem State.tripOut_mem (s : State) (b : Block) (l : Nat) (hl : l < 26) (hlocked : s.locked l) :
    Out.trip l b ∈ (List.range 26).reverse.flatMap (s.tripOut b) := by
  refine List.mem_flatMap.mpr ⟨l, by simpa using hl, ?_⟩
  rw [State.tripOut, if_pos (((Eff.start s).locked_iff l).mpr hlocked)]
  exact List.mem_singleton_self _

/-! ### The statement -/

/-- Settles O45, class by class: a report is noted, and what follows is what the reaction of its class makes of that state. -/
theorem faultReactionsComplete : Obligations.FaultReactionsComplete := by
  unfold Obligations.FaultReactionsComplete
  refine ⟨execFaultReport_reserved, ?classes, ?sram, execTripRepeat_unarmed, ?repeats⟩
  case classes =>
    intro s src kind addr ms ty cls hsrc hkind hram hue hcls hhold
    have hhold : s.NoHold ((Eff.start s).classOf kind.toNat addr.toNat) := hcls ▸ hhold
    have acts := execFaultReport_acts s src kind addr ms ty hsrc hkind hram hue hhold
    rw [← hcls] at acts
    refine ⟨fun hlow => ?_, ?_, ?_, ?_, fun htrip hrole hstate hearly hown => ?_, fun h6 hrole hstandby hearly => ?_,
      fun hlo hhi hrole => ?_, fun h67 hrole hearly => ?_⟩
    · obtain ⟨e, noted, reacts⟩ := acts (.inl hlow) (.inl (by omega))
      rwa [e.react_logOnly _ _ _ _ hlow, noted] at reacts
    · intro h2 hrole
      obtain ⟨e, noted, reacts⟩ := acts (.inr (.inl hrole)) (.inl (by omega))
      rwa [h2, e.react_derate, noted] at reacts
    · intro c h3 hrole hcell
      obtain ⟨e, noted, reacts⟩ := acts (.inr (.inl hrole)) (.inl (by omega))
      rwa [h3, e.react_depart _ _ _ _ hcell, noted] at reacts
    · intro h4 hrole hpeer
      obtain ⟨e, noted, reacts⟩ := acts (.inr (.inl hrole)) (.inl (by omega))
      have latches : e.react cls kind.toNat addr.toNat (Eff.start s).now16 = e.latchStage 3 (Eff.start s).now16 := by rw [h4]; rfl
      rw [latches, e.latchStage_alone _ _ (by rw [noted]; exact hpeer), noted] at reacts
      exact ⟨_, reacts, rfl, rfl⟩
    · obtain ⟨t, ht, ⟨tripped, held, dev⟩, kept⟩ := execFaultReport_trips s src kind addr ms ty hsrc hkind hram hue hhold cls hcls htrip
        hrole hstate hearly hown
      exact ⟨t, ht, tripped, held, dev, kept⟩
    · obtain ⟨t, ht, role, finishing, claim, hiZ⟩ := execFaultReport_retires s src kind addr ms ty hsrc hkind hram hue hhold cls hcls
        hearly (.inl ⟨h6, hrole, hstandby⟩)
      exact ⟨t, ht, role, finishing.trans (beq_iff_eq.mpr hrole), claim, hiZ⟩
    · obtain ⟨t, ht, last, kept⟩ := execFaultReport_withheld s src kind addr ms ty hsrc hkind hram hue hhold hrole (hcls ▸ hlo) (hcls ▸ hhi)
      exact ⟨t, _, ht, last, rfl, kept⟩
    · obtain ⟨t, ht, role, -⟩ := execFaultReport_retires s src kind addr ms ty hsrc hkind hram hue hhold cls hcls hearly
        (.inr ⟨h67, hrole⟩)
      exact ⟨t, ht, role⟩
  case sram =>
    intro s src addr ms ty hsrc haddr hquiet
    obtain ⟨f, j, lost⟩ := execFaultReport_sramUe s src addr ms ty hsrc haddr hquiet
    obtain ⟨value, invalid, reason⟩ := s.lostWord_fields (ms % 16) (addr.toNat / 8)
    have read : smGet pointReset (smSet pointReset s.pts (addr.toNat / 8) (s.lostWord (ms % 16) (addr.toNat / 8))) (addr.toNat / 8) =
        s.lostWord (ms % 16) (addr.toNat / 8) := smGet_smSet_self _ _ _ _ (s.lostWord_ne_reset _ _)
    refine ⟨_, lost, rfl, ?_, ?_, ?_, rfl⟩
    · rw [State.pt, read]
      exact value
    · rw [State.pt, read]
      exact invalid
    · rw [State.pt, read]
      exact reason
  case repeats =>
    intro s b at0 h
    have armed := execTripRepeat_armed s b at0 h
    refine ⟨fun early => ?_, fun due => ?_⟩
    · rwa [if_neg (Nat.not_le.mpr early)] at armed
    · rw [if_pos due] at armed
      exact ⟨_, armed, fun l hl hlocked => List.mem_append_left _ (s.tripOut_mem b l hl hlocked), rfl⟩

end Sys2Proof.Machine
end

