-- ==== Sys2Proof/Proofs/LedgerPath.lean ====
section
/-! SUPPORT. From the holding registers to the Ledger: queue, drop, ring, store and the requests that read and clear it (R426 to R429, R443,
R444, R448). -/

namespace Sys2Proof.Machine

variable {s0 : Root}

/-! ### Holding registers and the queue (R426, R427) -/

theorem execQueueAccept_idle (s : State) (h : s.oldestHeld = none) : execQueueAccept s = .next s := by
  unfold execQueueAccept
  extract_lets e
  rw [show e.st.oldestHeld = none from h]
  rfl

section
variable (s : State) (src : Nat) (m : Entry) (h : s.oldestHeld = some (src, m))
include h

/-- The register that has waited longest, where the queue has space. -/
theorem execQueueAccept_space (hspace : s.queue.length < 256) : execQueueAccept s = .next { s with
    queue := s.queue ++ [m]
    faults := { s.faults with
      holding := smSet none s.faults.holding src none, heldSince := smSet 0 s.faults.heldSince src 0
      fullAt := if s.queue.length = 255 then s.time.up else s.faults.fullAt } } := by
  have fits : (s.queue ++ [m]).take 256 = s.queue ++ [m] := List.take_of_length_le (by simp; omega)
  unfold execQueueAccept
  extract_lets e
  rw [show e.st.oldestHeld = some (src, m) from h]
  refine congrArg Host.Outcome.next ((e.when_armed_st true _ _ rfl).trans ((if_pos hspace).trans ?_))
  extract_lets e1
  have taken : e1.st = { s with
      queue := s.queue ++ [m]
      faults := { s.faults with holding := smSet none s.faults.holding src none, heldSince := smSet 0 s.faults.heldSince src 0 } } := by
    rw [show e1 = (e.freeHold src).pushQueue m from rfl, Eff.pushQueue_st, Eff.freeHold, Eff.modFaults_st, ← fits]
    rfl
  have length : e1.queue.length = s.queue.length + 1 := by
    rw [Eff.queue, taken]
    exact List.length_append
  by_cases last : s.queue.length = 255
  · rw [length, last, if_pos rfl]
    change (e1.modFaults _).st = _
    rw [Eff.modFaults_st, Eff.time, taken]
  · have room : (e1.queue.length == 256) = false := beq_false_of_ne (by omega)
    rw [room, Eff.when_false, if_neg last, taken]

theorem execQueueAccept_full (hfull : 256 ≤ s.queue.length) : execQueueAccept s = .next s := by
  unfold execQueueAccept
  extract_lets e
  rw [show e.st.oldestHeld = some (src, m) from h]
  exact congrArg Host.Outcome.next ((e.when_armed_st true _ _ rfl).trans (if_neg (Nat.not_lt.mpr hfull)))

end

theorem execHoldingDrop_empty (s : State) (src : BitVec 12) (h : smGet none s.faults.holding src.toNat = none) :
    execHoldingDrop src s = .next s := by
  unfold execHoldingDrop
  extract_lets e
  rw [show smGet none e.faults.holding src.toNat = none from h]
  rfl

/-- A register drops its message once it has waited through 2 µs of a full queue. -/
theorem execHoldingDrop_held (s : State) (src : BitVec 12) (m : Entry) (h : smGet none s.faults.holding src.toNat = some m) :
    execHoldingDrop src s =
      if s.queue.length = 256 ∧ max s.faults.fullAt (smGet 0 s.faults.heldSince src.toNat) + 2000 ≤ s.time.up then
        .next ((((Eff.start s).freeHold src.toNat).modFaults fun f => { f with
          lost := smMod 0 f.lost (m.kind / 32) fun n => (n + 1 + m.merges) % 2 ^ 32 }).setTrouble 2).st
      else .next s := by
  unfold execHoldingDrop
  extract_lets e
  rw [show smGet none e.faults.holding src.toNat = some m from h]
  rfl

/-- OVERFLOW is raised as an event of its own: the trouble record and the collector's events alone change. -/
theorem Eff.setTrouble_overflow (e : Eff s0) : (e.setTrouble 2).st.trouble = e.st.trouble ||| 4 ∧
    (e.setTrouble 2).st.faults.holding = e.st.faults.holding ∧ (e.setTrouble 2).st.faults.lost = e.st.faults.lost ∧
    (e.setTrouble 2).st = { e.st with trouble := (e.setTrouble 2).st.trouble, faults := (e.setTrouble 2).st.faults } := ⟨rfl, rfl, rfl, rfl⟩

/-! ### The ring (R428, R442) -/

theorem execLedgerDrain_empty (s : State) (h : s.queue = []) : execLedgerDrain s = .next s := by
  unfold execLedgerDrain
  extract_lets e
  rw [show e.queue = [] from h, ite_self]
  rfl

/-- A message becomes the newest entry of the ring with the next SEQ; beyond that the collector alone changes. -/
theorem Eff.ledger_st (e : Eff s0) (m : Entry) :
    (e.ledger m).st.ring = ({ m with seq := (e.st.faults.ledgerSeq + 1) % 2 ^ 32 } :: e.st.ring).take 32766 ∧
    (e.ledger m).st.faults.ledgerSeq = (e.st.faults.ledgerSeq + 1) % 2 ^ 32 ∧
    (e.ledger m).st = { e.st with ring := (e.ledger m).st.ring, faults := (e.ledger m).st.faults } := by
  unfold Eff.ledger
  extract_lets n m' lossy e1 stamp
  have warned : e1.st.ring = e.st.ring ∧ e1.st = { e.st with faults := e1.st.faults } := by
    simp only [e1]
    split
    · exact ⟨rfl, rfl⟩
    · exact ⟨rfl, rfl⟩
  obtain ⟨ring, kept⟩ := warned
  refine ⟨?_, rfl, ?_⟩
  · rw [Eff.modFaults_st, Eff.pushRing_st, ring]
  · rw [Eff.modFaults_st, Eff.pushRing_st, kept]

theorem execLedgerDrain_restored (s : State) (m : Entry) (r : List Entry) (hqueue : s.queue = m :: r)
    (hrestored : s.dev.state ≠ .boot ∨ 5 ≤ s.dev.bootStage) : ∃ t, execLedgerDrain s = .next t ∧ t.queue = r ∧
      t.ring = ({ m with seq := (s.faults.ledgerSeq + 1) % 2 ^ 32 } :: s.ring).take 32766 ∧
      t.faults.ledgerSeq = (s.faults.ledgerSeq + 1) % 2 ^ 32 ∧ t = { s with queue := t.queue, ring := t.ring, faults := t.faults } := by
  have restored : (s.dev.state == .boot && decide (s.dev.bootStage < 5)) = false := by
    rcases hrestored with state | stage
    · simp [state]
    · simp [Nat.not_lt.mpr stage]
  have popped : (Eff.start s).popQueue.st = { s with queue := r } := by rw [Eff.popQueue_st, Eff.start_st, hqueue]; rfl
  have drained : execLedgerDrain s = .next ((Eff.start s).popQueue.ledger m).st := by
    unfold execLedgerDrain
    extract_lets e
    rw [show (e.dev.state == .boot && decide (e.dev.bootStage < 5)) = false from restored, if_neg Bool.false_ne_true,
      show e.queue = m :: r from hqueue]
  obtain ⟨ring, seq, kept⟩ := (Eff.start s).popQueue.ledger_st m
  rw [popped] at ring seq kept
  refine ⟨_, drained, ?_, ring, seq, ?_⟩
  · rw [kept]
  · rw [kept]

/-! ### The store of the Ledger (R95, R443) -/

/-- The 10 s after an entry to SAFE have passed. -/
def State.safeStore (s : State) : Bool :=
  match s.faults.safeEntry with
  | some t => decide (t + 10000000000 ≤ s.time.up)
  | none => false

theorem State.safeStore_iff (s : State) : s.safeStore = true ↔ ∃ a, s.faults.safeEntry = some a ∧ a + 10000000000 ≤ s.time.up := by
  unfold State.safeStore
  cases s.faults.safeEntry with
  | none => simp
  | some a => simp

/-- LEDGER_STORE_MIN has passed since the last store, and entries have been added. -/
def State.ledgerDue (s : State) : Bool :=
  decide (s.faults.storedSeq < (s.ring.head?.map (·.seq)).getD 0) &&
    decide (s.faults.lastStore + s.cv oLedgerStoreMin 0 * 60000000000 ≤ s.time.up)

theorem State.ledgerDue_iff (s : State) : s.ledgerDue = true ↔ s.faults.storedSeq < (s.ring.head?.map (·.seq)).getD 0 ∧
    s.faults.lastStore + s.cv oLedgerStoreMin 0 * 60000000000 ≤ s.time.up := by
  simp [State.ledgerDue]

/-- The collector once the store after an entry to SAFE has been taken up. -/
def State.storeTaken (s : State) : FaultSt := { s.faults with safeEntry := if s.safeStore then none else s.faults.safeEntry }

theorem execLedgerStore_eq (s : State) : execLedgerStore s =
    .next ((Eff.start s).when ((s.safeStore || s.ledgerDue) && s.persist.job.isNone) fun e =>
      (e.modFaults fun f => { f with safeEntry := if s.safeStore then none else f.safeEntry }).storeSoon 0x20).st := by
  unfold execLedgerStore State.ledgerDue
  cases hring : s.ring with
  | nil => simp only [Eff.ring, Eff.start_st, hring]; rfl
  | cons m r => simp only [Eff.ring, Eff.start_st, hring]; rfl

/-- The bank that does not hold the newest valid record of the Ledger. -/
def Eff.ledgerBank (e : Eff s0) : Nat := if e.newestSeq 0x20 = 0 then 0 else 1 - e.newestBank 0x20

/-- The store of the Ledger takes FIRST, LAST and the ring, and erases the slot of the bank without the newest valid record. -/
theorem Eff.startStore_ledger (e : Eff s0) : (e.startStore [0x20]).st = { e.st with persist := { e.st.persist with
    ledger := smSet none e.st.persist.ledger e.ledgerBank none
    job := some ⟨[0x20], e.ledgerBank, [], e.st.faults.first, e.st.faults.last, e.st.ring⟩ } } := rfl

/-- No store without the flash or the power for it. -/
theorem Eff.storeSoon_refused (e : Eff s0) (d : Nat)
    (h : e.st.persist.small = true ∨ e.st.dev.pwrFail = true ∨ e.st.clk.holdup = true) : e.storeSoon d = e :=
  if_pos (by simpa [or_assoc] using h)

theorem Eff.storeSoon_free (e : Eff s0) (d : Nat) (hsmall : e.st.persist.small = false) (hpwr : e.st.dev.pwrFail = false)
    (hholdup : e.st.clk.holdup = false) (hjob : e.st.persist.job = none) : e.storeSoon d = e.startStore [d] := by
  unfold Eff.storeSoon
  rw [if_neg (by simp [hsmall, hpwr, hholdup]), Eff.persist, hjob]

section
variable (s : State)

theorem execLedgerStore_idle (h : (s.safeStore = false ∧ s.ledgerDue = false) ∨ s.persist.job ≠ none) : execLedgerStore s = .next s := by
  have idle : ((s.safeStore || s.ledgerDue) && s.persist.job.isNone) = false := by
    rcases h with ⟨safe, due⟩ | busy
    · rw [safe, due]
      rfl
    · rw [Option.isNone_eq_false_iff.mpr (Option.isSome_iff_ne_none.mpr busy), Bool.and_false]
  rw [execLedgerStore_eq, idle]
  rfl

variable (hdue : s.safeStore = true ∨ s.ledgerDue = true) (hjob : s.persist.job = none)
include hdue hjob

/-- A store that falls due. -/
theorem execLedgerStore_due : ∃ e : Act s, e.st = { s with faults := s.storeTaken } ∧ execLedgerStore s = .next (e.storeSoon 0x20).st := by
  have due : ((s.safeStore || s.ledgerDue) && s.persist.job.isNone) = true := by simpa [hjob] using hdue
  rw [execLedgerStore_eq, due]
  exact ⟨_, rfl, rfl⟩

theorem execLedgerStore_refused (h : s.persist.small = true ∨ s.dev.pwrFail = true ∨ s.clk.holdup = true) :
    execLedgerStore s = .next { s with faults := s.storeTaken } := by
  obtain ⟨e, taken, stores⟩ := execLedgerStore_due s hdue hjob
  rw [stores, e.storeSoon_refused _ (by rw [taken]; exact h), taken]

theorem execLedgerStore_starts (hsmall : s.persist.small = false) (hpwr : s.dev.pwrFail = false) (hholdup : s.clk.holdup = false)
    (bank : Nat) (hbank : bank = (Eff.start s).ledgerBank) :
    execLedgerStore s = .next { s with
      faults := s.storeTaken
      persist := { s.persist with
        ledger := smSet none s.persist.ledger bank none, job := some ⟨[0x20], bank, [], s.faults.first, s.faults.last, s.ring⟩ } } := by
  obtain ⟨e, taken, stores⟩ := execLedgerStore_due s hdue hjob
  have sameBank : e.ledgerBank = bank := by
    change (Eff.start e.st).ledgerBank = bank
    rw [taken, hbank]
    rfl
  rw [stores, e.storeSoon_free _ (by rw [taken]; exact hsmall) (by rw [taken]; exact hpwr) (by rw [taken]; exact hholdup)
    (by rw [taken]; exact hjob), e.startStore_ledger, sameBank, taken]
  rfl

end

/-! ### The requests (R429, R444, R448) -/

theorem execFirstErrRearm_frees (s : State) (q : Req) (lvl sid : Nat) (h : s.Invoked q oFirstErrRearm [] 2 false lvl sid) :
    ∃ t, execFirstErrRearm q [] s = .next t ∧ t.Replied q 3 ansOk ∧
      t = { s with sess := t.sess, sent := t.sent, faults := { s.faults with firstErr := none } } := by
  refine invoke_replies s { s with faults := { s.faults with firstErr := none } } q _ _ lvl sid _ _ _ _ h fun e hst =>
    ⟨e.modFaults fun f => { f with firstErr := none }, rfl, ?_⟩
  rw [Eff.modFaults_st, hst]

/-- LEDGER_READ of FIRST. -/
theorem actLedgerRead_first (e : Eff s0) (c : Ctx) (args : List Byte) (m : Entry) (hlen : args.length = 5)
    (hcount : 1 ≤ octet args 4 ∧ octet args 4 ≤ 40) (hseq : fieldLe args 0 4 = 0xFFFFFFF0) (hfirst : e.st.faults.first = some m) :
    actLedgerRead e c args = (e, some (ansOk m.octets)) := by
  unfold actLedgerRead
  extract_lets sq n
  rw [if_neg (not_not.mpr hlen), if_neg (by omega), if_pos hseq, Eff.faults, hfirst]

/-- LEDGER_READ of the ring, from a SEQ on. -/
theorem actLedgerRead_ring (e : Eff s0) (c : Ctx) (args : List Byte) (l : List Entry) (hlen : args.length = 5)
    (hcount : 1 ≤ octet args 4 ∧ octet args 4 ≤ 40) (hseq : fieldLe args 0 4 < 0xFFFFFFF0)
    (hl : l = (e.st.ring.reverse.filter fun m => decide (fieldLe args 0 4 ≤ m.seq)).take (octet args 4)) (hne : l ≠ []) :
    actLedgerRead e c args = (e.modFaults fun f => { f with readUpTo := max f.readUpTo (l.foldl (fun a m => max a m.seq) 0) },
      some (ansOk (l.flatMap Entry.octets))) := by
  unfold actLedgerRead
  extract_lets sq n l' top
  have same : l' = l := hl.symm
  rw [if_neg (not_not.mpr hlen), if_neg (by omega), if_neg (by omega), if_neg (by omega), if_neg (by simpa [same] using hne),
    show top = l'.foldl (fun a m => max a m.seq) 0 from rfl, same]

section
variable (s : State) (q : Req) (args : List Byte) (lvl sid : Nat) (h : s.Invoked q oLedgerRead args 2 false lvl sid)
  (hlen : args.length = 5) (hcount : 1 ≤ octet args 4 ∧ octet args 4 ≤ 40)
include h hlen hcount

theorem execLedgerRead_first (m : Entry) (hseq : fieldLe args 0 4 = 0xFFFFFFF0) (hfirst : s.faults.first = some m) :
    ∃ t, execLedgerRead q args s = .next t ∧ t.Replied q 3 (ansOk m.octets) ∧ t = { s with sess := t.sess, sent := t.sent } := by
  refine invoke_replies s s q _ _ lvl sid _ _ _ _ h fun e hst => ⟨e, ?_, ?_⟩
  · exact actLedgerRead_first e _ args m hlen hcount hseq (by rw [hst]; exact hfirst)
  · rw [hst]

theorem execLedgerRead_ring (l : List Entry) (hseq : fieldLe args 0 4 < 0xFFFFFFF0)
    (hl : l = (s.ring.reverse.filter fun m => decide (fieldLe args 0 4 ≤ m.seq)).take (octet args 4)) (hne : l ≠ []) :
    ∃ t, execLedgerRead q args s = .next t ∧ t.Replied q 3 (ansOk (l.flatMap Entry.octets)) ∧
      t = { s with
        sess := t.sess, sent := t.sent
        faults := { s.faults with readUpTo := max s.faults.readUpTo (l.foldl (fun a m => max a m.seq) 0) } } := by
  refine invoke_replies s { s with faults := { s.faults with readUpTo := max s.faults.readUpTo (l.foldl (fun a m => max a m.seq) 0) } }
    q _ _ lvl sid _ _ _ _ h fun e hst => ⟨_, actLedgerRead_ring e _ args l hlen hcount hseq (by rw [hst]; exact hl) hne, ?_⟩
  rw [Eff.modFaults_st, hst]

end

/-- The state with ring and FIRST emptied. -/
def State.ledgerEmptied (s : State) : State := { s with ring := [], faults := { s.faults with first := none } }

theorem actLedgerClear_eq (e : Eff s0) (c : Ctx) : actLedgerClear e c [] =
    (((e.setRing []).modFaults fun f => { f with first := none }).fault 0x082 kLedgerCleared c.sess, some ansOk) := rfl

/-- LEDGER_CLEAR empties ring and FIRST; its own report is the first there is. -/
theorem execLedgerClear_clears (s : State) (q : Req) (lvl sid : Nat) (h : s.Invoked q oLedgerClear [] 2 false lvl sid)
    (hquiet : s.Quiet kLedgerCleared sid) : ∃ t, execLedgerClear q [] s = .next t ∧ t.Replied q 3 ansOk ∧ t.ring = [] ∧
      t.faults.first = some (s.message 0x082 kLedgerCleared sid) ∧
      t = { s with sess := t.sess, sent := t.sent, ring := [], faults := t.faults } := by
  obtain ⟨t, ht, replied, kept⟩ := invoke_replies s
    { s.ledgerEmptied with faults := s.ledgerEmptied.noted 0x082 kLedgerCleared sid } q _ _ lvl sid _ _ _ ansOk h fun e hst => by
      refine ⟨_, actLedgerClear_eq e _, ?_⟩
      have emptied : ((e.setRing []).modFaults fun f => { f with first := none }).st = { s.ledgerEmptied with sess := e.st.sess } := by
        rw [Eff.modFaults_st, Eff.setRing_st, hst]
        rfl
      generalize (e.setRing []).modFaults _ = x at emptied
      rw [x.fault_quiet _ _ _ (hquiet.congr (by rw [emptied]; rfl) (by rw [emptied]; rfl)), emptied]
      rfl
  exact ⟨t, ht, replied, by rw [kept]; rfl, by rw [kept]; rfl, by rw [kept]; rfl⟩

/-! ### The statement -/

/-- Settles O46, a step of the path at a time: registers, queue and ring by what each move leaves, the store by what falls due, the requests
by what they answer. -/
theorem ledgerPathComplete : Obligations.LedgerPathComplete := by
  unfold Obligations.LedgerPathComplete
  refine ⟨fun s src m h => ⟨execQueueAccept_space s src m h, execQueueAccept_full s src m h⟩, execQueueAccept_idle, ?drop,
    execHoldingDrop_empty, execLedgerDrain_restored, execLedgerDrain_empty, ?store, execFirstErrRearm_frees, ?read, execLedgerClear_clears⟩
  case drop =>
    intro s src m h
    have held := execHoldingDrop_held s src m h
    refine ⟨fun hwait => ?_, fun hfull hlong => ?_⟩
    · exact held.trans (if_neg (by omega))
    · obtain ⟨trouble, holding, lost, kept⟩ := (((Eff.start s).freeHold src.toNat).modFaults fun f => { f with
        lost := smMod 0 f.lost (m.kind / 32) fun n => (n + 1 + m.merges) % 2 ^ 32 }).setTrouble_overflow
      exact ⟨_, held.trans (if_pos ⟨hfull, hlong⟩), trouble, holding, lost, kept⟩
  case store =>
    rintro s _ _ bank f rfl rfl hbank hf
    rw [← s.safeStore_iff, ← s.ledgerDue_iff]
    rw [← s.safeStore_iff] at hf
    have taken : f = s.storeTaken := by
      unfold State.storeTaken
      rcases hf with ⟨safe, rfl⟩ | ⟨notSafe, rfl⟩
      · rw [if_pos safe]
      · rw [if_neg notSafe]
    rw [taken]
    refine ⟨fun due job small pwr holdup => ?_, fun due job refused => ?_, fun idle => ?_⟩
    · exact execLedgerStore_starts s due job small pwr holdup bank hbank
    · exact execLedgerStore_refused s due job refused
    · exact execLedgerStore_idle s (by simpa using idle)
  case read =>
    rintro s q args lvl sid _ _ h hlen rfl rfl hlo hhi
    exact ⟨fun m hseq hfirst => execLedgerRead_first s q args lvl sid h hlen ⟨hlo, hhi⟩ m hseq hfirst,
      fun l hseq hl hne => execLedgerRead_ring s q args lvl sid h hlen ⟨hlo, hhi⟩ l hseq hl hne⟩

end Sys2Proof.Machine
end

