-- ==== Sys2Proof/Proofs/Injection.lean ====
section
/-! SUPPORT. Injection sessions, forced messages and points, and the events that registered sessions are told of (R439 to R441, R445 to
R447). -/

namespace Sys2Proof.Machine

variable {s0 : Root}

/-! ### Who injects (R439) -/

/-- An injection session is open until its end. -/
theorem Eff.injectOpen_some (e : Eff s0) (i : Inject) (h : e.st.faults.inject = some i) :
    e.injectOpen = decide (e.st.time.up < i.ends) := by
  simp [Eff.injectOpen, h]

/-- The session that holds the open injection session injects. -/
theorem Eff.injecting_holder (e : Eff s0) (c : Ctx) (i : Inject) (h : e.st.faults.inject = some i) (hsess : i.sess = c.sess)
    (hopen : e.st.time.up < i.ends) : e.injecting c = true := by
  simp [Eff.injecting, Eff.injectOpen, h, hsess, hopen]

/-- Every other session does not, nor does any once the injection session is past its end. -/
theorem Eff.not_injecting (e : Eff s0) (c : Ctx) (h : ∀ i, e.st.faults.inject = some i → i.sess ≠ c.sess ∨ i.ends ≤ e.st.time.up) :
    e.injecting c = false := by
  cases hi : e.st.faults.inject with
  | none => simp [Eff.injecting, hi]
  | some i =>
    rcases h i hi with other | ended
    · simp [Eff.injecting, hi, other]
    · simp [Eff.injecting, Eff.injectOpen, hi, Nat.not_lt.mpr ended]

/-! ### INJECT_OPEN, INJECT_CLOSE and INJECT_EXPIRY (R439) -/

theorem actInjectOpen_eq (e : Eff s0) (c : Ctx) (args : List Byte) (hlen : args.length = 3) (hlo : 1 ≤ fieldLe args 0 2)
    (hhi : fieldLe args 0 2 ≤ 3600) (hmode : octet args 2 ≤ 1) : actInjectOpen e c args =
      if e.injectOpen then (e, some (ansErr stBusy))
      else ((e.when e.faults.inject.isSome (·.endInjection)).modFaults fun f =>
        { f with inject := some ⟨c.sess, octet args 2, e.time.up + fieldLe args 0 2 * 1000000000⟩ }, some ansOk) :=
  (if_neg (not_not.mpr hlen)).trans (if_neg (by omega))

section
variable (s : State) (q : Req) (args : List Byte) (lvl sid : Nat) (h : s.Invoked q oInjectOpen args 2 false lvl sid)
  (hlen : args.length = 3) (hlo : 1 ≤ fieldLe args 0 2) (hhi : fieldLe args 0 2 ≤ 3600) (hmode : octet args 2 ≤ 1)
include h hlen hlo hhi hmode

theorem execInjectOpen_opens (hnone : s.faults.inject = none) :
    ∃ t, execInjectOpen q args s = .next t ∧ t.Replied q 3 ansOk ∧ t = { s with
      sess := t.sess, sent := t.sent
      faults := { s.faults with inject := some ⟨sid, octet args 2, s.time.up + fieldLe args 0 2 * 1000000000⟩ } } := by
  refine invoke_replies s { s with faults := { s.faults with
    inject := some ⟨sid, octet args 2, s.time.up + fieldLe args 0 2 * 1000000000⟩ } } q _ _ lvl sid _ _ _ _ h fun e hst =>
      ⟨e.modFaults fun f => { f with inject := some ⟨sid, octet args 2, s.time.up + fieldLe args 0 2 * 1000000000⟩ }, ?_, ?_⟩
  · have free : e.st.faults.inject = none := by rw [hst]; exact hnone
    have time : e.st.time = s.time := by rw [hst]
    rw [actInjectOpen_eq e _ args hlen hlo hhi hmode, if_neg (by simp [Eff.injectOpen, free]), Eff.faults, free, Option.isSome_none,
      Eff.when_false, Eff.time, time]
  · rw [Eff.modFaults_st, hst]

theorem execInjectOpen_busy (i : Inject) (hi : s.faults.inject = some i) (hopen : s.time.up < i.ends) :
    ∃ t, execInjectOpen q args s = .next t ∧ t.Replied q 3 (ansErr stBusy) ∧ t = { s with sess := t.sess, sent := t.sent } := by
  refine invoke_replies s s q _ _ lvl sid _ _ _ _ h fun e hst => ⟨e, ?_, ?_⟩
  · have opened : e.injectOpen = true := by
      rw [e.injectOpen_some i (by rw [hst]; exact hi), hst]
      exact decide_eq_true hopen
    rw [actInjectOpen_eq e _ args hlen hlo hhi hmode, if_pos opened]
  · rw [hst]

end

section
variable (s : State) (q : Req) (lvl sid : Nat) (h : s.Invoked q oInjectClose [] 2 false lvl sid)
include h

theorem execInjectClose_closes (i : Inject) (hi : s.faults.inject = some i) (hsess : i.sess = sid) (hopen : s.time.up < i.ends) :
    ∃ t, execInjectClose q [] s = .next t ∧ t.Replied q 3 (ansResult 0) ∧
      t = { s with sess := t.sess, sent := t.sent, faults := { s.faults with inject := none, releaseAll := true } } := by
  refine invoke_replies s { s with faults := { s.faults with inject := none, releaseAll := true } } q _ _ lvl sid _ _ _ _ h fun e hst =>
    ⟨e.endInjection, ?_, ?_⟩
  · exact if_pos (e.injecting_holder _ i (by rw [hst]; exact hi) hsess (by rw [hst]; exact hopen))
  · rw [Eff.endInjection, Eff.modFaults_st, hst]

theorem execInjectClose_refuses (hother : ∀ i, s.faults.inject = some i → i.sess ≠ sid ∨ i.ends ≤ s.time.up) :
    ∃ t, execInjectClose q [] s = .next t ∧ t.Replied q 3 (ansResult 1) ∧ t = { s with sess := t.sess, sent := t.sent } := by
  refine invoke_replies s s q _ _ lvl sid _ _ _ _ h fun e hst => ⟨e, ?_, ?_⟩
  · refine if_neg (Bool.eq_false_iff.mp (e.not_injecting _ ?_))
    rw [hst]
    exact hother
  · rw [hst]

end

theorem execInjectExpiry_some (s : State) (i : Inject) (h : s.faults.inject = some i) : execInjectExpiry s =
    .next (if i.ends ≤ s.time.up then { s with faults := { s.faults with inject := none, releaseAll := true } } else s) := by
  unfold execInjectExpiry
  extract_lets e
  rw [show e.faults.inject = some i from h]
  exact congrArg Host.Outcome.next (apply_ite Eff.st _ _ _)

/-! ### FORCE and FORCE_POINT (R440, R441) -/

/-- The report that FORCE makes of its arguments. -/
def forceRep (args : List Byte) : Rep :=
  { source := fieldLe args 0 2, kind := octet args 2, addr := fieldLe args 3 4, forced := true }

theorem actForce_eq (e : Eff s0) (c : Ctx) (args : List Byte) (hlen : args.length = 7) (hsrc : isSource (fieldLe args 0 2) = true)
    (hkind : kind? (octet args 2) ≠ none) : actForce e c args =
      if !e.injecting c then (e, some (ansResult 1)) else (e.report (forceRep args), some (ansResult 0)) :=
  (if_neg (not_not.mpr hlen)).trans (if_neg (by simp [hsrc, hkind]))

/-- The message of a forced report of a class that only records. -/
theorem Eff.messageOf_forceRep (e : Eff s0) (args : List Byte) (h : e.classOf (octet args 2) (fieldLe args 3 4) ≤ 1) :
    e.messageOf (forceRep args) = { e.st.message (fieldLe args 0 2) (octet args 2) (fieldLe args 3 4) with forced := true } := by
  have acts : e.withholds (forceRep args) = false := by
    simp [Eff.withholds, forceRep, show ¬(2 ≤ e.classOf (octet args 2) (fieldLe args 3 4)) by omega]
  unfold Eff.messageOf
  rw [acts, show (forceRep args).access = none from rfl, ite_self]
  rfl

/-- The session of the request does not bear on what is logged. -/
theorem Eff.logged_sess {s : State} (e : Act s) (r : Rep) (h : e.st = { s with sess := e.st.sess }) :
    (e.logged r).st.faults = ((Eff.start s).logged r).st.faults := by
  change ((Eff.start e.st).logged r).st.faults = _
  rw [h]
  rfl

section
variable (s : State) (q : Req) (args : List Byte) (lvl sid : Nat) (h : s.Invoked q oForce args 2 false lvl sid)
  (hlen : args.length = 7) (hsrc : isSource (fieldLe args 0 2) = true) (hkind : kind? (octet args 2) ≠ none)
include h hlen hsrc hkind

theorem execForce_raises (i : Inject) (hi : s.faults.inject = some i) (hsess : i.sess = sid) (hopen : s.time.up < i.ends)
    (hquiet : s.Quiet (octet args 2) (fieldLe args 3 4)) :
    ∃ t, execForce q args s = .next t ∧ t.Replied q 3 (ansResult 0) ∧
      t.faults.last = some { s.message (fieldLe args 0 2) (octet args 2) (fieldLe args 3 4) with forced := true } ∧
      t = { s with sess := t.sess, sent := t.sent, faults := t.faults } := by
  obtain ⟨t, ht, replied, kept⟩ := invoke_replies s { s with faults := ((Eff.start s).logged (forceRep args)).st.faults } q _ _ lvl sid
    _ _ actForce (ansResult 0) h fun e hst => by
      have holder := e.injecting_holder ⟨lvl, sid, .req q⟩ i (by rw [hst]; exact hi) hsess (by rw [hst]; exact hopen)
      refine ⟨e.report (forceRep args), ?_, ?_⟩
      · rw [actForce_eq e _ args hlen hsrc hkind, holder]
        rfl
      · rw [e.report_quiet _ (hquiet.congr (by rw [hst]) (by rw [hst])), e.logged_st, e.logged_sess _ hst, hst]
  have faults : t.faults = ((Eff.start s).logged (forceRep args)).st.faults := by rw [kept]
  refine ⟨t, ht, replied, ?_, ?_⟩
  · rw [faults, Eff.logged_last, (Eff.start s).messageOf_forceRep args hquiet.1]
    rfl
  · rw [kept]

theorem execForce_refuses (hother : ∀ i, s.faults.inject = some i → i.sess ≠ sid ∨ i.ends ≤ s.time.up) :
    ∃ t, execForce q args s = .next t ∧ t.Replied q 3 (ansResult 1) ∧ t = { s with sess := t.sess, sent := t.sent } := by
  refine invoke_replies s s q _ _ lvl sid _ _ _ _ h fun e hst => ⟨e, ?_, ?_⟩
  · have other : e.injecting ⟨lvl, sid, .req q⟩ = false := e.not_injecting _ (by rw [hst]; exact hother)
    rw [actForce_eq e _ args hlen hsrc hkind, other]
    rfl
  · rw [hst]

end

/-- FORCE_POINT of a snapshot point by the holder is journalled while there is room for it. -/
theorem actForcePoint_eq (e : Eff s0) (c : Ctx) (args : List Byte) (hlen : args.length = 9) (hmode : octet args 4 = 1)
    (hpoint : e.inSnapshot (fieldLe args 0 4) = true) (hinject : e.injecting c = true) (hroom : e.forcedSoon.length < 16) :
    actForcePoint e c args = e.pairAct c oForcePoint args := by
  unfold actForcePoint
  extract_lets n mode l
  rw [if_neg (not_not.mpr hlen), if_neg (by omega), if_neg (by simp [n, hpoint]), if_neg (by simp [hinject]), if_neg (by omega),
    if_neg (by rintro ⟨-, -, full⟩; exact absurd hroom (Nat.not_lt.mpr full))]

/-- The session of the request does not bear on the snapshot points, nor on the points that are forced. -/
theorem Eff.inSnapshot_sess {s : State} (e : Act s) (n : Nat) (h : e.st = { s with sess := e.st.sess }) :
    e.inSnapshot n = (Eff.start s).inSnapshot n := by
  change (Eff.start e.st).inSnapshot n = _
  rw [h]
  rfl

theorem Eff.forcedSoon_sess {s : State} (e : Act s) (h : e.st = { s with sess := e.st.sess }) :
    e.forcedSoon = (Eff.start s).forcedSoon := by
  change (Eff.start e.st).forcedSoon = _
  rw [h]
  rfl

theorem execForcePoint_orders (s : State) (q : Req) (args : List Byte) (lvl sid : Nat) (i : Inject)
    (h : s.Invoked q oForcePoint args 2 true lvl sid) (hlen : args.length = 9) (hmode : octet args 4 = 1)
    (hpoint : (Eff.start s).inSnapshot (fieldLe args 0 4) = true) (hi : s.faults.inject = some i) (hsess : i.sess = sid)
    (hopen : s.time.up < i.ends) (hroom : (Eff.start s).forcedSoon.length < 16) (hpeer : s.pair.standby = false) :
    ∃ t, execForcePoint q args s = .next t ∧ t.Replied q 3 (ansResultFrame 0 (s.frame.k + 1)) ∧
      t = { s with
        sess := t.sess, sent := t.sent, pair := { s.pair with timed := s.pair.timed ++ [(s.frame.k + 1, oForcePoint, args)] } } := by
  refine invoke_replies s { s with pair := { s.pair with timed := s.pair.timed ++ [(s.frame.k + 1, oForcePoint, args)] } } q _ _ lvl sid
    _ _ _ _ h fun e hst => ?_
  have frame : e.st.frame = s.frame := by rw [hst]
  have pair : e.st.pair = s.pair := by rw [hst]
  refine ⟨e.modPair fun p => { p with timed := p.timed ++ [(s.frame.k + 1, oForcePoint, args)] }, ?_, ?_⟩
  · rw [actForcePoint_eq e _ args hlen hmode (by rw [e.inSnapshot_sess _ hst, hpoint])
      (e.injecting_holder _ i (by rw [hst]; exact hi) hsess (by rw [hst]; exact hopen)) (by rwa [e.forcedSoon_sess hst]),
      e.pairAct_alone _ _ _ (by rw [pair, hpeer]), Eff.frame, frame]
  · rw [Eff.modPair_st, hst]

/-! ### Events (R445 to R447) -/

/-- EV_SUBSCRIBE of a session that registers. -/
theorem actEvSubscribe_register (e : Eff s0) (c : Ctx) (h : c.sess ≠ 0) : actEvSubscribe e c [1] =
    if e.faults.subs.any (·.sess == c.sess) then (e, some ansNoChange)
    else if 4 ≤ e.faults.subs.length then (e, some (ansErr stBusy))
    else (e.modFaults fun f => { f with subs := f.subs ++ [⟨c.sess, [], []⟩] }, some ansOk) := if_neg h

/-- EV_SUBSCRIBE of a session that deregisters. -/
theorem actEvSubscribe_deregister (e : Eff s0) (c : Ctx) (h : c.sess ≠ 0) : actEvSubscribe e c [0] =
    if e.faults.subs.any (·.sess == c.sess) then (e.modFaults fun f => { f with subs := f.subs.filter (·.sess != c.sess) }, some ansOk)
    else (e, some ansNoChange) := if_neg h

section
variable (s : State) (q : Req) (lvl sid : Nat)

theorem execEvSubscribe_again (h : s.Invoked q oEvSubscribe [1] 0 false lvl sid) (hsid : sid ≠ 0)
    (hreg : s.faults.subs.any (·.sess == sid) = true) :
    ∃ t, execEvSubscribe q [1] s = .next t ∧ t.Replied q 3 ansNoChange ∧ t = { s with sess := t.sess, sent := t.sent } := by
  refine invoke_replies s s q _ _ lvl sid _ _ _ _ h fun e hst => ⟨e, ?_, ?_⟩
  · have faults : e.st.faults = s.faults := by rw [hst]
    rw [actEvSubscribe_register e _ hsid, Eff.faults, faults, if_pos hreg]
  · rw [hst]

theorem execEvSubscribe_registers (h : s.Invoked q oEvSubscribe [1] 0 false lvl sid) (hsid : sid ≠ 0)
    (hreg : s.faults.subs.any (·.sess == sid) = false) (hroom : s.faults.subs.length < 4) :
    ∃ t, execEvSubscribe q [1] s = .next t ∧ t.Replied q 3 ansOk ∧
      t = { s with sess := t.sess, sent := t.sent, faults := { s.faults with subs := s.faults.subs ++ [⟨sid, [], []⟩] } } := by
  refine invoke_replies s { s with faults := { s.faults with subs := s.faults.subs ++ [⟨sid, [], []⟩] } } q _ _ lvl sid _ _ _ _ h
    fun e hst => ⟨e.modFaults fun f => { f with subs := f.subs ++ [⟨sid, [], []⟩] }, ?_, ?_⟩
  · have faults : e.st.faults = s.faults := by rw [hst]
    rw [actEvSubscribe_register e _ hsid, Eff.faults, faults, if_neg (by simp [hreg]), if_neg (by omega)]
  · rw [Eff.modFaults_st, hst]

theorem execEvSubscribe_deregisters (h : s.Invoked q oEvSubscribe [0] 0 false lvl sid) (hsid : sid ≠ 0)
    (hreg : s.faults.subs.any (·.sess == sid) = true) :
    ∃ t, execEvSubscribe q [0] s = .next t ∧ t.Replied q 3 ansOk ∧
      t = { s with sess := t.sess, sent := t.sent, faults := { s.faults with subs := s.faults.subs.filter (·.sess != sid) } } := by
  refine invoke_replies s { s with faults := { s.faults with subs := s.faults.subs.filter (·.sess != sid) } } q _ _ lvl sid _ _ _ _ h
    fun e hst => ⟨e.modFaults fun f => { f with subs := f.subs.filter (·.sess != sid) }, ?_, ?_⟩
  · have faults : e.st.faults = s.faults := by rw [hst]
    rw [actEvSubscribe_deregister e _ hsid, Eff.faults, faults, if_pos hreg]
  · rw [Eff.modFaults_st, hst]

end

/-- What a notification of an event says (R447): the event, its count, the frame, and the message of a class. -/
def State.eventPayload (s : State) (ev n : Nat) : List Byte :=
  le 2 ev ++ le 2 (n % 65536) ++ le 8 s.frame.k ++ le 8 (if ev < 8 then smGet 0 s.faults.evMsg ev else 0)

/-- A session has been told of an event: its count starts again. -/
def Sub.told (b : Sub) (ev now : Nat) : Sub :=
  { b with counts := smSet 0 b.counts ev 0, lastAt := smSet 0 b.lastAt ev (max now 1) }

/-- A session is told of an event that has occurred n times. -/
def Eff.tellEvent (e : Eff s0) (x : Session) (ev n : Nat) : Eff s0 :=
  let e1 := e.tick.transmit x.src true (e.st.sealed 2 0x20 (e.freeWord.toNat % 65536) x.id (e.st.eventPayload ev n))
  e1.modFaults fun f => { f with subs := f.subs.map fun b => if b.sess = x.id then b.told ev e1.time.up else b }

theorem Eff.tellEvent_udp (e : Eff s0) (x : Session) (ev n : Nat) (p : Fin 2) (ip : BitVec 32) (port : BitVec 16)
    (h : x.src = .udp p ip port) : (e.tellEvent x ev n).st = { e.st with
      sent := .dap x.src (e.st.sealed 2 0x20 ((Config.freeWord e.st.free).toNat % 65536) x.id (e.st.eventPayload ev n)) :: e.st.sent
      free := e.st.free + 1
      faults := { e.st.faults with subs := e.st.faults.subs.map fun b => if b.sess = x.id then b.told ev e.st.time.up else b } } := by
  unfold Eff.tellEvent
  rw [h]
  rfl

section
variable (s : State) (slot : Fin 8) (ev : Fin 128) (x : Session) (b : Sub) (hx : smGet none s.sess.slots slot.val = some x)
  (hb : s.faults.subs.find? (·.sess == x.id) = some b)
include hx hb

/-- A registered session is told of an event that occurred and is routed to it, once in 10 ms. -/
theorem execEventNotification_registered : execEventNotification slot ev s =
    if smGet 0 b.counts ev.val = 0 ∨ !bitOf (s.cv oEvRoute ev.val) 2 ∨
      (smGet 0 b.lastAt ev.val ≠ 0 ∧ s.time.up < smGet 0 b.lastAt ev.val + 10000000) then .next s
    else .next ((Eff.start s).tellEvent x ev.val (smGet 0 b.counts ev.val)).st := by
  unfold execEventNotification
  extract_lets e
  rw [show smGet none e.sess.slots slot.val = some x from hx]
  dsimp only
  rw [show e.faults.subs.find? (·.sess == x.id) = some b from hb]
  rfl

theorem execEventNotification_silent (h : smGet 0 b.counts ev.val = 0 ∨ bitOf (s.cv oEvRoute ev.val) 2 = false) :
    execEventNotification slot ev s = .next s := by
  rw [execEventNotification_registered s slot ev x b hx hb, if_pos]
  rcases h with count | route
  · exact .inl count
  · exact .inr (.inl (by rw [route]; rfl))

theorem execEventNotification_tells (hcount : smGet 0 b.counts ev.val ≠ 0) (hroute : bitOf (s.cv oEvRoute ev.val) 2 = true)
    (hlast : smGet 0 b.lastAt ev.val + 10000000 ≤ s.time.up) (e : Fin 2) (ip : BitVec 32) (port : BitVec 16)
    (hsrc : x.src = .udp e ip port) : execEventNotification slot ev s = .next { s with
      sent := .dap x.src (s.sealed 2 0x20 ((Config.freeWord s.free).toNat % 65536) x.id
        (s.eventPayload ev.val (smGet 0 b.counts ev.val))) :: s.sent
      free := s.free + 1
      faults := { s.faults with subs := s.faults.subs.map fun b => if b.sess = x.id then b.told ev.val s.time.up else b } } := by
  rw [execEventNotification_registered s slot ev x b hx hb, if_neg, Eff.tellEvent_udp _ _ _ _ e ip port hsrc]
  · rfl
  · rintro (count | route | ⟨-, early⟩)
    · exact hcount count
    · simp [hroute] at route
    · omega

end

/-- A message of the device is its octets, with a tag or nothing after them. -/
theorem State.sealed_eq (s : State) (kind opcode seq session : Nat) (p : List Byte) :
    ∃ tag, s.sealed kind opcode seq session p = dapOctets kind opcode seq session p ++ tag := by
  unfold State.sealed
  extract_lets m
  cases s.findSession session with
  | none => exact ⟨[], (List.append_nil _).symm⟩
  | some y =>
    dsimp only
    split
    · exact ⟨_, rfl⟩
    · exact ⟨[], (List.append_nil _).symm⟩

/-! ### The statement -/

/-- Settles O47: the requests by who holds the injection session, the notification by what the registration of its session counts. -/
theorem injectionAndEventsComplete : Obligations.InjectionAndEventsComplete := by
  unfold Obligations.InjectionAndEventsComplete
  refine ⟨?opens, ?closes, execInjectExpiry_some, ?forces, execForcePoint_orders, ?registers, execEvSubscribe_deregisters, ?notifies⟩
  case opens =>
    rintro s q args lvl sid _ _ h hlen rfl rfl hlo hhi hmode
    exact ⟨execInjectOpen_opens s q args lvl sid h hlen hlo hhi hmode, execInjectOpen_busy s q args lvl sid h hlen hlo hhi hmode⟩
  case closes =>
    intro s q lvl sid h
    exact ⟨execInjectClose_closes s q lvl sid h, execInjectClose_refuses s q lvl sid h⟩
  case forces =>
    rintro s q args lvl sid _ _ _ h hlen rfl rfl rfl hsrc hkind
    refine ⟨fun i hi hsess hopen hquiet => ?_, execForce_refuses s q args lvl sid h hlen hsrc hkind⟩
    obtain ⟨t, ht, replied, last, kept⟩ := execForce_raises s q args lvl sid h hlen hsrc hkind i hi hsess hopen hquiet
    exact ⟨t, _, ht, replied, last, rfl, kept⟩
  case registers =>
    intro s q lvl sid h hsid
    exact ⟨execEvSubscribe_again s q lvl sid h hsid, execEvSubscribe_registers s q lvl sid h hsid⟩
  case notifies =>
    rintro s slot ev x b _ hx hb rfl
    refine ⟨execEventNotification_silent s slot ev x b hx hb, fun e ip port hcount hroute hlast hsrc => ?_⟩
    obtain ⟨tag, sealed⟩ := s.sealed_eq 2 0x20 ((Config.freeWord s.free).toNat % 65536) x.id
      (s.eventPayload ev.val (smGet 0 b.counts ev.val))
    refine ⟨_, tag, execEventNotification_tells s slot ev x b hx hb hcount hroute hlast e ip port hsrc, ?_, rfl, rfl⟩
    exact congrArg (fun m => Out.dap x.src m :: s.sent) sealed

end Sys2Proof.Machine
end

