-- ==== Sys2Proof/Proofs/RoleChanges.lean ====
section
/-! SUPPORT. What a change of role or of the device state reaches, the claim, and a join attempt that fails (R102, R103, R450, R476, R480, R482). -/

namespace Sys2Proof.Machine

variable {s0 : Root}

/-! ### What a change of role or of state reaches -/

/-- The state `b` is `a` with another role, claim or device state and what goes with them: the sessions with what they hold, the collector,
gates, outputs, hub, converters, CLKOUT pins and meter. -/
def State.Recast (a b : State) : Prop :=
  b = { a with
    stg := b.stg, doms := b.doms, sess := { a.sess with slots := b.sess.slots }, faults := b.faults, dev := b.dev, gate := b.gate
    aux := b.aux, hub := b.hub, conv := b.conv, clk := b.clk, meter := b.meter
    pair := { a.pair with role := b.pair.role, claim := b.pair.claim } }

theorem State.Recast.refl (a : State) : a.Recast a := rfl

theorem State.Recast.trans {a b c : State} (h : a.Recast b) (k : b.Recast c) : a.Recast c := by
  unfold State.Recast at *
  rw [k, h]

theorem State.Recast.frame {a b : State} (h : a.Recast b) : b.frame = a.frame := by rw [h]

theorem State.Recast.spiResp {a b : State} (h : a.Recast b) : b.sess.spiResp = a.sess.spiResp := by rw [h]

theorem State.Recast.pair {a b : State} (h : a.Recast b) : b.pair = { a.pair with role := b.pair.role, claim := b.pair.claim } := by
  rw [h]

theorem State.Driven.recast {a b : State} (h : a.Driven b) : a.Recast b := by
  rw [h]
  rfl

theorem Eff.each_recast {α : Type} (e : Eff s0) (l : List α) (f : Eff s0 → α → Eff s0)
    (h : ∀ (e : Eff s0) (x : α), e.st.Recast (f e x).st) : e.st.Recast (e.each l f).st :=
  Eff.foldl_rel State.Recast .refl (fun _ _ _ => .trans) f h l e

theorem Eff.when_recast (e : Eff s0) (c : Bool) (f : Eff s0 → Eff s0) (h : e.st.Recast (f e).st) : e.st.Recast (e.when c f).st := by
  cases c with
  | true => exact h
  | false => exact .refl _

theorem Eff.modHub_recast (e : Eff s0) (f : HubSt → HubSt) : e.st.Recast (e.modHub f).st := rfl

theorem Eff.modMeter_recast (e : Eff s0) (f : MeterSt → MeterSt) : e.st.Recast (e.modMeter f).st := rfl

theorem Eff.modDev_recast (e : Eff s0) (f : DevSt → DevSt) : e.st.Recast (e.modDev f).st := rfl

theorem Eff.event_recast (e : Eff s0) (n : Nat) : e.st.Recast (e.event n).st := rfl

theorem Eff.setOut_recast (e : Eff s0) (n : Nat) (f : Aux → Aux) : e.st.Recast (e.setOut n f).st :=
  State.Recast.trans (b := (e.modOut n _).st) rfl (Eff.when_recast _ _ _ (Eff.event_recast _ _))

theorem Eff.dropSlot_recast (e : Eff s0) (id : Nat) : e.st.Recast (e.dropSlot id).st := by
  unfold Eff.dropSlot
  split
  · rfl
  · exact .refl _

theorem Eff.unlockAll_recast (e : Eff s0) (id : Nat) : e.st.Recast (e.unlockAll id).st := by
  have h := e.unlockAll_st id
  generalize (e.unlockAll id).st = t at h ⊢
  rw [h]
  rfl

theorem Eff.dropFaults_recast (e : Eff s0) (id : Nat) : e.st.Recast (e.dropFaults id).st := by
  obtain ⟨h, -, -⟩ := e.dropFaults_st id
  generalize (e.dropFaults id).st = t at h ⊢
  rw [h]
  rfl

theorem Eff.endSession_recast (e : Eff s0) (id : Nat) : e.st.Recast (e.endSession id).st :=
  ((e.unlockAll_recast id).trans (Eff.dropFaults_recast _ id)).trans (Eff.dropSlot_recast _ id)

theorem Eff.endSessions_recast (e : Eff s0) : e.st.Recast e.endSessions.st :=
  (e.each_recast _ (fun e id => e.endSession id) fun e id => e.endSession_recast id).trans (Eff.when_recast _ _ _ rfl)

/-- The CLKOUT pins that were not driven leave a mark in the converters alone. -/
theorem Eff.clkoutGap_st (e : Eff s0) : e.clkoutGap.st = { e.st with conv := e.clkoutGap.st.conv } := by
  unfold Eff.clkoutGap Eff.each
  exact Eff.foldl_rel (s0 := s0) (fun a b => b = { a with conv := b.conv }) (fun _ => rfl) (fun a b c h k => by rw [k, h])
    (fun e c => e.modConv fun v => { v with sd := smMod SdCh.reset v.sd c fun x => { x with gap := (sdFilter (e.cv oSdFilt c)).2.2 } })
    (fun _ _ => rfl) _ e

theorem Eff.auxOff_recast (e : Eff s0) : e.st.Recast e.auxOff.st :=
  e.each_recast _ _ fun e n => e.setOut_recast n _

theorem Eff.setRole_recast (e : Eff s0) (r : Role) : e.st.Recast (e.setRole r).st := by
  unfold Eff.setRole
  split_ifs <;> rfl

theorem Eff.putState_recast (e : Eff s0) (d : DevState) (cause : Nat) : e.st.Recast (e.putState d cause).st := by
  unfold Eff.putState
  split <;> rfl

theorem Eff.leaveIdle_recast (e : Eff s0) (owns : Nat → Bool) : e.st.Recast (e.leaveIdle owns).st := by
  rw [Eff.leaveIdle_st]
  rfl

theorem Eff.setState_recast (e : Eff s0) (d : DevState) (cause : Nat) : e.st.Recast (e.setState d cause).st :=
  ((e.when_recast _ _ (e.leaveIdle_recast _)).trans (Eff.putState_recast _ d cause)).trans (Eff.event_recast _ 8)

theorem Eff.readied_recast (e : Eff s0) : e.st.Recast e.readied.st := by
  unfold Eff.readied
  extract_lets e1 e2
  have stops : e.st.Recast e1.st :=
    (((e.modMeter_recast _).trans (Eff.modHub_recast _ _)).trans (Eff.modHub_recast _ _)).trans (Eff.modDev_recast _ _)
  have tested : e1.st.Recast e2.st := e1.each_recast _ _ fun e n => e.when_recast _ _ (e.setOut_recast n _)
  exact (stops.trans tested).trans (Eff.when_recast _ _ _ (Eff.safeLevels_driven _ _).recast)

/-! ### The claim -/

/-- What releasing the claim makes of the state: every gate is off, and the CLKOUT pins are no longer driven. -/
theorem Eff.releaseClaim_st (e : Eff s0) : e.releaseClaim.st = { e.st with
    pair := { e.st.pair with claim := false }
    gate := { e.st.gate with
      hiZ := true, gates := smMods Gate.reset e.st.gate.gates (List.range 24) (Gate.shut e.st.time.up) }
    conv := e.releaseClaim.st.conv, clk := { e.st.clk with clkouts := e.releaseClaim.st.clk.clkouts } } := by
  have gap : (e.when (!e.gate.hiZ) (·.clkoutGap)).st = { e.st with conv := (e.when (!e.gate.hiZ) (·.clkoutGap)).st.conv } := by
    cases !e.gate.hiZ with
    | true => exact e.clkoutGap_st
    | false => rfl
  unfold Eff.releaseClaim
  rw [Eff.clkoutFollow_st, Eff.dropClaim_st, Eff.allGatesOff_st, gap]

theorem Eff.releaseClaim_recast (e : Eff s0) : e.st.Recast e.releaseClaim.st := by
  rw [Eff.releaseClaim_st]
  rfl

/-- What an ACTIVE device that claims the hub makes of the state. -/
theorem Eff.claimHub_st (e : Eff s0) (h : e.st.pair.role = .active) : e.claimHub.st = { e.st with
    gate := e.claimHub.st.gate, hub := e.claimHub.st.hub, conv := e.claimHub.st.conv
    clk := { e.st.clk with clkouts := e.claimHub.st.clk.clkouts }
    pair := { e.st.pair with claim := true, roleOk := false, roleQual := false, refreshAt := e.st.time.up, schedSent := true } } := by
  unfold Eff.claimHub
  extract_lets e1 e2
  have role : e1.clkoutGap.st.pair.role = .active := by
    rw [Eff.clkoutGap_st]
    exact h
  have claimed : e2.st = { e.st with
      gate := { e.st.gate with hiZ := false }, conv := e2.st.conv, clk := { e.st.clk with clkouts := e2.st.clk.clkouts }
      pair := { e.st.pair with claim := true, roleOk := false, roleQual := false, refreshAt := e.st.time.up, schedSent := true } } := by
    rw [show e2 = e1.clkoutGap.takeClaim.clkoutFollow from rfl, Eff.clkoutFollow_st, Eff.takeClaim_st _ role, Eff.clkoutGap_st]
    rfl
  have driven : e2.st.Driven (if e2.hub.running = true then e2.driveLegs else e2.safeLevels (List.range 12)).st := by
    split
    · exact e2.driveLegs_driven
    · exact e2.safeLevels_driven _
  rw [driven, claimed]

theorem Eff.claimHub_hiZ (e : Eff s0) (h : e.st.pair.role = .active) : e.claimHub.st.gate.hiZ = false :=
  congrArg Standing.hiZ (e.claimHub_standing h)

/-! ### Roles -/

theorem Eff.becomeRole_recast (e : Eff s0) (r : Role) : e.st.Recast (e.becomeRole r).st := by
  unfold Eff.becomeRole
  extract_lets e1 was e2
  have released : e.st.Recast e1.st :=
    e.endSessions_recast.trans (Eff.when_recast _ _ _ (e.endSessions.releaseClaim_recast.trans (Eff.auxOff_recast _)))
  have set : e1.st.Recast e2.st := (e1.setRole_recast r).trans (Eff.event_recast _ 10)
  exact (released.trans set).trans (Eff.when_recast _ _ _ ((e2.modDev_recast _).trans (Eff.event_recast _ 8)))

/-- A role other than ACTIVE comes with no claim and no hub output driven. -/
theorem Eff.becomePassive_claim (e : Eff s0) (r : Role) (h : r ≠ .active) :
    (e.becomeRole r).st.pair.role = r ∧ (e.becomeRole r).st.pair.claim = false ∧ (e.becomeRole r).st.gate.hiZ = true := by
  have passive := e.becomePassive_standing r h
  exact ⟨congrArg Standing.role passive, congrArg Standing.claim passive, congrArg Standing.hiZ passive⟩

/-- A device neither in OFF nor in BOOT that becomes ACTIVE. -/
theorem Eff.becomeActive_role (e : Eff s0) (h : e.st.dev.state ≠ .off ∧ e.st.dev.state ≠ .boot) :
    (e.becomeRole .active).st.pair.role = .active := by
  have ended := e.endSessions_standing
  have state : e.endSessions.st.dev.state = e.st.dev.state := congrArg Standing.state ended
  have set : e.roleSet .active = (e.endSessions.setRole .active).event 10 := rfl
  have active : (e.becomeRole .active).st.standing = { e.endSessions.st.standing with role := .active } := by
    rw [Eff.becomeRole_standing, set, Eff.event_standing, Eff.setRole_active_standing _ (by rwa [state])]
  exact congrArg Standing.role active

/-! ### CONTROL messages and join attempts -/

/-- Sending a CONTROL message of a type that is not acknowledged. -/
theorem Eff.sendControl_unacked (e : Eff s0) (type frame : Nat) (p : List Byte) (h : ackedType type = false) :
    (e.sendControl type frame p).st = { e.st with
      sent := (e.sendControl type frame p).st.sent, pair := { e.st.pair with nextCseq := (e.st.pair.nextCseq + 1) % 2 ^ 32 } } := by
  unfold Eff.sendControl
  simp only [h, Bool.false_eq_true, if_false, Eff.modPair_st]
  rw [Eff.putControl_st]

/-- Sending one that is: it waits for its ACK. -/
theorem Eff.sendControl_acked (e : Eff s0) (type frame : Nat) (p : List Byte) (h : ackedType type = true) :
    (e.sendControl type frame p).st = { e.st with
      sent := (e.sendControl type frame p).st.sent
      pair := { e.st.pair with
        nextCseq := (e.st.pair.nextCseq + 1) % 2 ^ 32
        outbox := e.st.pair.outbox ++ [⟨type, e.st.pair.nextCseq, frame, p, e.st.frame.k, false⟩] } } := by
  unfold Eff.sendControl
  simp only [h, if_true, Eff.modPair_st, Eff.frame]
  rw [Eff.putControl_st]

/-- A join attempt that fails, but the third, starts again at J4 with a checkpoint asked for. -/
theorem Eff.joinFail_again (e : Eff s0) (h : e.st.pair.joinAttempts < 2) : e.joinFail.st = { e.st with
    sent := e.joinFail.st.sent
    pair := { e.st.pair with
      joinAttempts := e.st.pair.joinAttempts + 1, ckpt := none, image := none, synced := false, cleanRun := 0, joinStep := 4
      joinAt := e.st.time.up, frFrame := e.st.frame.k, nextCseq := (e.st.pair.nextCseq + 1) % 2 ^ 32 } } := by
  have again : ¬ 3 ≤ e.pair.joinAttempts + 1 := by
    have : e.pair.joinAttempts < 2 := h
    omega
  unfold Eff.joinFail
  extract_lets n e1 e2
  rw [if_neg again, Eff.sendControl_unacked _ _ _ _ rfl]
  rfl

/-- The third retires the device. -/
theorem Eff.joinFail_retires (e : Eff s0) (h : 2 ≤ e.st.pair.joinAttempts) :
    e.joinFail.st.pair.role = .retired ∧ e.joinFail.st.pair.joinStep = 0 ∧ e.joinFail.st.pair.claim = false ∧
      e.joinFail.st.gate.hiZ = true := by
  have third : 3 ≤ e.pair.joinAttempts + 1 := by
    have : 2 ≤ e.pair.joinAttempts := h
    omega
  unfold Eff.joinFail
  extract_lets n e1 e2
  rw [if_pos third]
  obtain ⟨role, claim, hiZ⟩ := e1.becomePassive_claim .retired (by decide)
  generalize e1.becomeRole .retired = x at role claim hiZ
  exact ⟨role, rfl, claim, hiZ⟩

end Sys2Proof.Machine
end

