-- ==== Sys2Proof/Proofs/PairTimers.lean ====
section
/-! SUPPORT. The timers of the pair unit: an absent standby, ROLE_OK, the claim, a silent peer, a replay and a joining step that are late
(R450, R461, R463, R470, R476, R482). -/

namespace Sys2Proof.Machine

variable {s0 : Root}

/-! ### STANDBY_ABSENT (R463) -/

/-- The standby is given up, with what waited for its acknowledgement. -/
def Eff.standbyGone (e : Eff s0) : Eff s0 :=
  e.modPair fun p => { p with standby := false, outbox := [], waitActs := [], peerStanding := [] }

/-- No commit waits for the standby. -/
def State.NoCommitWaits (s : State) : Prop := ∀ d < 15, (smGet Domain.reset s.doms d).pend.any (·.waitPeer) = false

theorem Eff.commitsAlone_none (e : Eff s0) (h : e.st.NoCommitWaits) :
    (e.each (List.range 15) fun e d => e.when ((e.dom d).pend.any (·.waitPeer)) (·.commitAlone d)) = e :=
  e.each_same _ _ fun d hd => by
    rw [show ((e.dom d).pend.any (·.waitPeer)) = false from h d (List.mem_range.mp hd), Eff.when_false]

/-- An action that waited for the standby is answered and acts at its frame. -/
theorem Eff.finishWait_request (e : Eff s0) (w : PendAct) (q : Req) (hobj : w.obj ≠ oTimedAction) (hret : w.ret = .req q) :
    e.finishWait w = (e.modPair fun p => { p with timed := p.timed ++ [(w.frame, w.obj, w.args)] }).answer q 3
      (if w.result = true then ansResultFrame 0 w.frame else ansOk) := by
  unfold Eff.finishWait
  rw [if_neg hobj, hret]
  rfl

section
variable (s : State) (hrole : s.pair.role = .active) (hstandby : s.pair.standby = true) (hmiss : 2 ≤ s.pair.peerMiss)
include hrole hstandby hmiss

theorem execStandbyAbsent_due : execStandbyAbsent s =
    .next (((Eff.start s).standbyGone.each s.pair.waitActs fun e w => e.finishWait w).each (List.range 15)
      fun e d => e.when ((e.dom d).pend.any (·.waitPeer)) (·.commitAlone d)).st :=
  if_neg (by simp [Eff.isActive, hrole, hstandby, Nat.not_lt.mpr hmiss])

theorem execStandbyAbsent_noAction (hcommits : s.NoCommitWaits) (hacts : s.pair.waitActs = []) :
    execStandbyAbsent s = .next { s with
      pair := { s.pair with standby := false, outbox := [], waitActs := [], peerStanding := [] } } := by
  rw [execStandbyAbsent_due s hrole hstandby hmiss, hacts, Eff.each_nil, Eff.commitsAlone_none _ hcommits]
  rfl

theorem execStandbyAbsent_oneAction (hcommits : s.NoCommitWaits) (w : PendAct) (q : Req) (hacts : s.pair.waitActs = [w])
    (hobj : w.obj ≠ oTimedAction) (hret : w.ret = .req q) :
    ∃ t, execStandbyAbsent s = .next t ∧ t.Replied q 3 (if w.result = true then ansResultFrame 0 w.frame else ansOk) ∧
      t = { s with
        sess := t.sess, sent := t.sent
        pair := { s.pair with
          standby := false, outbox := [], waitActs := [], peerStanding := [], timed := s.pair.timed ++ [(w.frame, w.obj, w.args)] } } := by
  have kept : ((Eff.start s).standbyGone.finishWait w).st.doms = s.doms := by
    rw [Eff.finishWait_request _ w q hobj hret, Eff.answer_st]
    rfl
  have commits : ((Eff.start s).standbyGone.finishWait w).st.NoCommitWaits := by
    unfold State.NoCommitWaits
    rwa [kept]
  rw [execStandbyAbsent_due s hrole hstandby hmiss, hacts, Eff.each_cons, Eff.each_nil, Eff.commitsAlone_none _ commits,
    Eff.finishWait_request _ w q hobj hret]
  refine ⟨_, rfl, Eff.answer_replied .., ?_⟩
  rw [Eff.answer_st]
  rfl

end

/-! ### ROLE_OK_HIGH (R461, R476) -/

/-- ROLE_OK is seen high, for long enough or not. -/
def Eff.roleOkRises (e : Eff s0) (qualified : Bool) : Eff s0 :=
  e.modPair fun p => { p with roleOk := true, roleQual := p.roleQual || qualified }

theorem execRoleOkHigh_brief (s : State) (ns : Nat) (h : ns < 1000) :
    execRoleOkHigh ns s = .next { s with pair := { s.pair with roleOk := true } } := by
  have brief : decide (1000 ≤ ns) = false := decide_eq_false (by omega)
  refine (if_pos h).trans ?_
  rw [brief, Eff.modPair_st]
  simp only [Bool.or_false, Eff.start_st]

/-- Qualified, it decides by the role. -/
theorem execRoleOkHigh_qualified (s : State) (ns : Nat) (h : 1000 ≤ ns) : execRoleOkHigh ns s =
    if s.pair.role == .standby && s.pair.peerSerial != 0 && s.pair.peerWord % 16 == 0 then
      .next ((Eff.start s).roleOkRises true).takeOver.st
    else .next (((Eff.start s).roleOkRises true).when (s.pair.role == .active && !s.pair.claim && !s.pair.newerSeen &&
      s.dev.state != .off && s.dev.state != .boot) (·.claimHub)).st := by
  have long : decide (1000 ≤ ns) = true := decide_eq_true h
  refine (if_neg (Nat.not_lt.mpr h)).trans ?_
  rw [long]
  rfl

theorem execRoleOkHigh_claims (s : State) (ns : Nat) (h : 1000 ≤ ns) (hrole : s.pair.role = .active) (hclaim : s.pair.claim = false)
    (hnewer : s.pair.newerSeen = false) (hoff : s.dev.state ≠ .off) (hboot : s.dev.state ≠ .boot) :
    ∃ t, execRoleOkHigh ns s = .next t ∧ t.gate.hiZ = false ∧ t = { s with
      gate := t.gate, hub := t.hub, conv := t.conv, clk := { s.clk with clkouts := t.clk.clkouts }
      pair := { s.pair with claim := true, roleOk := false, roleQual := false, refreshAt := s.time.up, schedSent := true } } := by
  have role : ((Eff.start s).roleOkRises true).st.pair.role = .active := hrole
  refine ⟨((Eff.start s).roleOkRises true).claimHub.st, ?_, Eff.claimHub_hiZ _ role, ?_⟩
  · rw [execRoleOkHigh_qualified s ns h, if_neg (by simp [hrole]), hrole, hclaim, hnewer, bne_iff_ne.mpr hoff, bne_iff_ne.mpr hboot]
    rfl
  · exact Eff.claimHub_st _ role

/-! ### Takeover (R472, R473, R476) -/

/-- A shadow that is complete is not computed again. -/
theorem Eff.runShadow_done {b0 : State} (e : Act b0) (own : Bool) (h : e.shadowDue = false) : e.runShadow own = e :=
  if_pos (by rw [h]; rfl)

/-- A takeover up to the claim. -/
def Eff.takenOver (e : Eff s0) : Eff s0 :=
  let e := e.becomeRole .active
  let first := e.frame.k + (if e.frame.snapped then 1 else 0)
  let e := e.modPair fun p => { p with
    epoch := (p.epoch + 1) % 65536, takeovers := (p.takeovers + 1) % 65536, lastTakeover := first
    trouble := if p.synced then p.trouble else p.trouble ||| 32
    resync := false, replay := false, handoverAt := none, standby := false, peerMiss := 0, outdig := none, avail := none
    onceWait := [], standing := [], peerStanding := [], schedSent := true, outbox := [], finishing := false }
  let e := e.modChain fun h => { h with relayReq := [] }
  let e := e.each (allCells.filter fun n => (e.mport n).started) fun e n => e.modPort n fun m => { m with switched := true }
  e.updateSource

theorem Eff.keep_st (e : Eff s0) (f : {r : Root} → Eff r → Eff r) :
    (e.keep f).st = (f (r := ⟨e.st, true⟩) ⟨e.st, .refl e.st, fun _ => rfl⟩).st := rfl

/-- The claim follows where ROLE_OK has been qualified. -/
theorem Eff.takeOver_eq {b0 : State} (e : Act b0) : e.takeOver = (e.runShadow true).keep fun e =>
    if e.takenOver.pair.roleQual then e.takenOver.claimHub
    else e.takenOver.when (!e.takenOver.pair.roleOk) (·.modPair fun p => { p with trouble := p.trouble ||| 16 }) := rfl

/-- With ROLE_OK qualified and the shadow complete the new device claims the hub. -/
theorem Eff.takeOver_claims {b0 : State} (e : Act b0) (hshadow : e.shadowDue = false)
    (hqual : ∀ x : Eff ⟨e.st, true⟩, x.st = e.st → x.takenOver.st.pair.roleQual = true) :
    ∃ x : Eff ⟨e.st, true⟩, x.st = e.st ∧ e.takeOver.st = x.takenOver.claimHub.st := by
  refine ⟨⟨e.st, .refl e.st, fun _ => rfl⟩, rfl, ?_⟩
  rw [e.takeOver_eq, e.runShadow_done true hshadow, Eff.keep_st, if_pos (hqual _ rfl)]

theorem Eff.updateSource_pair (e : Eff s0) : e.updateSource.st.pair = e.st.pair := by
  unfold Eff.updateSource
  extract_lets
  split <;> rfl

theorem Eff.modPorts_pair (e : Eff s0) (l : List Nat) (f : MPort → MPort) : (e.each l fun e n => e.modPort n f).st.pair = e.st.pair :=
  Eff.foldl_rel (s0 := s0) (fun a b => b.pair = a.pair) (fun _ => rfl) (fun _ _ _ h k => k.trans h) (fun e n => e.modPort n f)
    (fun _ _ => rfl) l e

/-- The takeover makes the device ACTIVE with the next epoch, and leaves ROLE_OK as it was qualified. -/
theorem Eff.takenOver_pair (e : Eff s0) (h : e.st.dev.state ≠ .off ∧ e.st.dev.state ≠ .boot) :
    e.takenOver.st.pair.role = .active ∧ e.takenOver.st.pair.epoch = (e.st.pair.epoch + 1) % 65536 ∧
      e.takenOver.st.pair.takeovers = (e.st.pair.takeovers + 1) % 65536 ∧ e.takenOver.st.pair.roleQual = e.st.pair.roleQual := by
  have role := e.becomeActive_role h
  have recast := e.becomeRole_recast .active
  unfold Eff.takenOver
  generalize e.becomeRole .active = x at role recast
  extract_lets e0 first e1 e2 e3
  have kept : e3.updateSource.st.pair = e1.st.pair := by
    rw [Eff.updateSource_pair, show e3.st.pair = e2.st.pair from e2.modPorts_pair _ _]
    rfl
  rw [kept, Eff.modPair_st, recast.pair]
  exact ⟨role, rfl, rfl, rfl⟩

theorem execRoleOkHigh_takesOver (s : State) (ns : Nat) (h : 1000 ≤ ns) (hrole : s.pair.role = .standby) (hserial : s.pair.peerSerial ≠ 0)
    (hword : s.pair.peerWord % 16 = 0) (hoff : s.dev.state ≠ .off) (hboot : s.dev.state ≠ .boot)
    (hshadow : (Eff.start s).shadowDue = false) :
    ∃ t, execRoleOkHigh ns s = .next t ∧ t.pair.role = .active ∧ t.pair.claim = true ∧ t.gate.hiZ = false ∧
      t.pair.epoch = (s.pair.epoch + 1) % 65536 ∧ t.pair.takeovers = (s.pair.takeovers + 1) % 65536 := by
  have state : s.dev.state ≠ .off ∧ s.dev.state ≠ .boot := ⟨hoff, hboot⟩
  generalize he : (Eff.start s).roleOkRises true = e
  have rises : e.st = { s with pair := { s.pair with roleOk := true, roleQual := true } } := by
    rw [← he, Eff.roleOkRises, Eff.modPair_st, Bool.or_true]
    rfl
  have shadow : e.shadowDue = false := by
    rw [← he]
    exact hshadow
  obtain ⟨x, hx, taken⟩ := e.takeOver_claims shadow fun x hx => by
    obtain ⟨-, -, -, qual⟩ := x.takenOver_pair (by rwa [hx.trans rises])
    rw [qual, hx.trans rises]
  obtain ⟨role, epoch, takeovers, -⟩ := x.takenOver_pair (by rwa [hx.trans rises])
  rw [hx.trans rises] at epoch takeovers
  generalize x.takenOver = y at role epoch takeovers taken
  have pair := congrArg State.pair (y.claimHub_st role)
  refine ⟨y.claimHub.st, ?_, ?_, ?_, y.claimHub_hiZ role, ?_, ?_⟩
  · rw [execRoleOkHigh_qualified s ns h, if_pos (by simp [hrole, hserial, hword]), he, taken]
  · rw [pair]; exact role
  · rw [pair]
  · rw [pair]; exact epoch
  · rw [pair]; exact takeovers

/-! ### CLAIM_RELEASE (R476) -/

theorem execClaimRelease_eq (s : State) : execClaimRelease s =
    .next ((Eff.start s).when (s.pair.claim && decide (2 * s.pair.refreshAt + 3 * s.cv oFramePeriod 0 ≤ 2 * s.time.up)) (·.releaseClaim)).st :=
  rfl

theorem execClaimRelease_due (s : State) (hclaim : s.pair.claim = true)
    (hdue : 2 * s.pair.refreshAt + 3 * s.cv oFramePeriod 0 ≤ 2 * s.time.up) :
    execClaimRelease s = .next (Eff.start s).releaseClaim.st := by
  rw [execClaimRelease_eq, hclaim, decide_eq_true hdue, Bool.and_true, Eff.when_true]

theorem execClaimRelease_early (s : State) (h : s.pair.claim = false ∨ 2 * s.time.up < 2 * s.pair.refreshAt + 3 * s.cv oFramePeriod 0) :
    execClaimRelease s = .next s := by
  have early : (s.pair.claim && decide (2 * s.pair.refreshAt + 3 * s.cv oFramePeriod 0 ≤ 2 * s.time.up)) = false := by
    rcases h with claim | early
    · rw [claim, Bool.false_and]
    · rw [decide_eq_false (Nat.not_le.mpr early), Bool.and_false]
  rw [execClaimRelease_eq, early, Eff.when_false, Eff.start_st]

/-! ### JOIN_NO_CANARY (R450) -/

/-- The device falls back to BOOT: no role, no claim, and the frame record as it was. -/
theorem Eff.setState_boot (e : Eff s0) (cause : Nat) :
    (e.setState .boot cause).st.pair.role = .unset ∧ (e.setState .boot cause).st.pair.claim = false ∧
      (e.setState .boot cause).st.gate.hiZ = true ∧ (e.setState .boot cause).st.dev.state = .boot ∧
      (e.setState .boot cause).st.frame = e.st.frame := by
  have put (x : Eff s0) : (x.putState .boot cause).st = { x.st with
      dev := { x.st.dev with state := .boot, cause := cause }, pair := { x.st.pair with role := .unset, claim := false }
      gate := { x.st.gate with hiZ := true }, aux := deadAux x.st.aux } := by simp [Eff.putState]
  rw [(e.setState_recast .boot cause).frame]
  unfold Eff.setState
  rw [Eff.event_st, put]
  exact ⟨rfl, rfl, rfl, rfl, rfl⟩

theorem execJoinNoCanary_due (s : State) (hrole : s.pair.role = .joining) (hok : s.pair.roleOk = true)
    (hdue : max s.pair.peerAt s.pair.joinAt + 2000000000 ≤ s.time.up) :
    ∃ t, execJoinNoCanary s = .next t ∧ t.pair.role = .unset ∧ t.pair.claim = false ∧ t.gate.hiZ = true ∧ t.dev.state = .boot ∧
      t.dev.bootStage = 5 ∧ t.frame = { s.frame with running := false } := by
  have left := ((Eff.start s).becomeRole_recast .unset).frame
  generalize hz : (Eff.start s).becomeRole .unset = z at left
  generalize hx : z.modPair (fun p => { p with joinStep := 0, waitAt := none }) = x
  have frame : x.st.frame = s.frame := by
    rw [← hx]
    exact left
  obtain ⟨role, claim, hiZ, state, kept⟩ := x.setState_boot 10
  generalize hy : x.setState .boot 10 = y at role claim hiZ state kept
  refine ⟨((y.modDev fun v => { v with bootStage := 5 }).modFrame fun f => { f with running := false }).st, ?_, role, claim, hiZ,
    state, rfl, ?_⟩
  · rw [← hy, ← hx, ← hz]
    exact if_pos (by simp only [Eff.pair, Eff.start_st, hrole, hok, Eff.time, beq_self_eq_true, Bool.true_and]; exact decide_eq_true hdue)
  · rw [Eff.modFrame_st, Eff.modDev_st]
    exact congrArg (fun f : FrameSt => { f with running := false }) (kept.trans frame)

/-! ### REPLAY_RESULT_TIMEOUT (R470) -/

/-- Two failed replays are a divergence with address 3, which on the ACTIVE device does nothing more where it is only recorded. -/
theorem Eff.replayOutcome_bothFail {b0 : State} (e : Act b0) (hrole : e.st.pair.role = .active) (hown : e.st.pair.ownPass = some false)
    (hpeer : e.st.pair.peerPass = some false) (hquiet : e.st.Quiet kDivergence 3) : e.replayOutcome.st = { e.st with
      faults := { e.st with pair := { e.st.pair with replay := false } }.noted 0x050 kDivergence 3
      pair := { e.st.pair with replay := false } } := by
  generalize hx : (e.keep fun e => (e.modPair fun p => { p with replay := false }).fault 0x050 kDivergence 3) = x
  have noted : x.st = { e.st with
      faults := { e.st with pair := { e.st.pair with replay := false } }.noted 0x050 kDivergence 3
      pair := { e.st.pair with replay := false } } := by
    have quiet : { e.st with pair := { e.st.pair with replay := false } }.Quiet kDivergence 3 := hquiet.congr rfl rfl
    rw [← hx]
    exact Eff.fault_quiet ((⟨e.st, .refl e.st, fun _ => rfl⟩ : Eff ⟨e.st, true⟩).modPair fun p => { p with replay := false }) 0x050
      kDivergence 3 quiet
  have active : x.isActive = true := by
    rw [Eff.isActive, Eff.pair, noted, hrole]
    rfl
  have outcome : e.replayOutcome = if x.isActive then x.keep fun e => e.when (3 == 1) (·.retire 2)
      else if x.pair.role != .standby then x else x.keep fun e => e.when (3 == 2 || 3 == 3) (·.retire 2) := by
    unfold Eff.replayOutcome
    rw [show e.pair.ownPass = some false from hown, show e.pair.peerPass = some false from hpeer, ← hx]
    simp [Eff.isActive, hrole]
  rw [outcome, if_pos active, ← noted]
  rfl

theorem execReplayResultTimeout_due (s : State) (hreplay : s.pair.replay = true) (hown : s.pair.ownPass = none)
    (hpeer : s.pair.peerPass = none) (hrole : s.pair.role = .active) (hdue : s.pair.replayAt + 1000000000 ≤ s.time.up)
    (hquiet : s.Quiet kDivergence 3) : execReplayResultTimeout s = .next { s with
      faults := s.noted 0x050 kDivergence 3, pair := { s.pair with replay := false, ownPass := some false, peerPass := some false } } := by
  have due : execReplayResultTimeout s = .next ((Eff.start s).modPair fun p =>
      { p with ownPass := some (p.ownPass.getD false), peerPass := some (p.peerPass.getD false) }).replayOutcome.st :=
    if_pos (by simp only [Eff.pair, Eff.start_st, hreplay, Eff.time, Bool.true_and]; exact decide_eq_true hdue)
  rw [due, Eff.replayOutcome_bothFail _ hrole (by simp [hown]) (by simp [hpeer]) (hquiet.congr rfl rfl)]
  simp only [Eff.modPair_st, Eff.start_st, hown, hpeer, Option.getD_none]
  rfl

/-! ### JOIN_STEP_TIMEOUT (R480, R482) -/

/-- The maximum of a joining step in ms, for the steps that have one. -/
theorem execJoinStepTimeout_eq (s : State) (step ms : Nat) (hstep : (step, ms) ∈ [(1, 100), (2, 50), (3, 100), (4, 60)])
    (hat : s.pair.joinStep = step) : execJoinStepTimeout s =
      .next ((Eff.start s).when (s.pair.role == .joining && decide (s.pair.joinAt + ms * 1000000 < s.time.up)) (·.joinFail)).st := by
  unfold execJoinStepTimeout
  simp only [Eff.pair, Eff.start_st, hat]
  simp only [List.mem_cons, Prod.mk.injEq, List.not_mem_nil, or_false] at hstep
  rcases hstep with ⟨rfl, rfl⟩ | ⟨rfl, rfl⟩ | ⟨rfl, rfl⟩ | ⟨rfl, rfl⟩ <;> rfl

section
variable (s : State) (step ms : Nat) (hstep : (step, ms) ∈ [(1, 100), (2, 50), (3, 100), (4, 60)]) (hat : s.pair.joinStep = step)
include hstep hat

theorem execJoinStepTimeout_early (h : s.time.up ≤ s.pair.joinAt + ms * 1000000) : execJoinStepTimeout s = .next s := by
  rw [execJoinStepTimeout_eq s step ms hstep hat, decide_eq_false (Nat.not_lt.mpr h), Bool.and_false, Eff.when_false, Eff.start_st]

theorem execJoinStepTimeout_late (hrole : s.pair.role = .joining) (h : s.pair.joinAt + ms * 1000000 < s.time.up) :
    execJoinStepTimeout s = .next (Eff.start s).joinFail.st := by
  rw [execJoinStepTimeout_eq s step ms hstep hat, decide_eq_true h, hrole]
  rfl

end

/-! ### The statement -/

/-- Settles O35, a timer at a time: each is its check, and what a timer that has run out makes of role, claim and what waited. -/
theorem pairTimersComplete : Obligations.PairTimersComplete := by
  unfold Obligations.PairTimersComplete
  refine ⟨?absent, execRoleOkHigh_brief, execRoleOkHigh_claims, execRoleOkHigh_takesOver, ?released, execClaimRelease_early,
    fun _ _ => rfl, execJoinNoCanary_due, execReplayResultTimeout_due, ?joining⟩
  case absent =>
    intro s hrole hstandby hmiss hcommits
    exact ⟨execStandbyAbsent_noAction s hrole hstandby hmiss hcommits, execStandbyAbsent_oneAction s hrole hstandby hmiss hcommits⟩
  case released =>
    intro s hclaim hdue
    have released := (Eff.start s).releaseClaim_st
    rw [Eff.start_st] at released
    refine ⟨_, execClaimRelease_due s hclaim hdue, ?_⟩
    generalize (Eff.start s).releaseClaim.st = t at released ⊢
    have gate := congrArg State.gate released
    refine ⟨by rw [gate], by rw [gate, smMods], ?_⟩
    rw [released]
  case joining =>
    intro s step ms hstep hrole hat
    refine ⟨execJoinStepTimeout_early s step ms hstep hat, fun hlate hagain => ?_, fun hlate hthird => ?_⟩
    · exact ⟨_, execJoinStepTimeout_late s step ms hstep hat hrole hlate, (Eff.start s).joinFail_again hagain⟩
    · exact ⟨_, execJoinStepTimeout_late s step ms hstep hat hrole hlate, (Eff.start s).joinFail_retires hthird⟩

end Sys2Proof.Machine
end

