-- ==== Sys2Proof/Proofs/PairActions.lean ====
section
/-! SUPPORT. Handover, rejoining, the own result of a self-replay, and the replay that ends joining step 5 (R102, R450, R469, R470, R477,
R480, R481, R483, R552). -/

namespace Sys2Proof.Machine

variable {s0 : Root}

/-! ### PAIR_HANDOVER (R477, R483) -/

/-- The frame at which a handover asked for now takes place. -/
def State.handoverFrame (s : State) : Nat := s.frame.k + (if s.time.clock = s.frame.tk then 2 else 3)

theorem actPairHandover_possible (e : Eff s0) (c : Ctx) (hrole : e.st.pair.role = .active) (hstandby : e.st.pair.standby = true)
    (hword : e.st.pair.peerWord % 16 = 1) (hnone : e.st.pair.handoverAt = none) : actPairHandover e c [] =
      if Config.freeBool e.st.free then ((e.tick.sendControl 8 e.st.handoverFrame []).modPair fun p =>
          { p with handoverAt := some e.st.handoverFrame }, some (ansResultFrame 0 e.st.handoverFrame))
      else (e.tick, some (ansResultFrame 2 0)) := by
  refine ((if_neg (not_not.mpr rfl)).trans (if_neg ?_)).trans ?_
  · simp [Eff.isActive, Eff.hasStandby, hrole, hstandby, hword, hnone]
  · by_cases h : Config.freeBool e.st.free = true
    · rw [if_pos h]
      exact if_neg (by simp [Eff.freeBool, h])
    · rw [if_neg h]
      exact if_pos (by simp [Eff.freeBool, h])

theorem actPairHandover_impossible (e : Eff s0) (c : Ctx) (h : e.st.pair.role ≠ .active ∨ e.st.pair.standby = false ∨
    e.st.pair.peerWord % 16 ≠ 1 ∨ e.st.pair.handoverAt ≠ none) : actPairHandover e c [] = (e, some (ansResultFrame 1 0)) := by
  refine (if_neg (not_not.mpr rfl)).trans (if_pos ?_)
  rcases h with h | h | h | h
  · simp [Eff.isActive, h]
  · simp [Eff.hasStandby, h]
  · simp [Eff.hasStandby, h]
  · simp [Option.isSome_iff_ne_none.mpr h]

section
variable (s : State) (q : Req) (lvl sid : Nat) (h : s.Invoked q oPairHandover [] 2 false lvl sid)
include h

theorem execPairHandover_refuses (hnot : s.pair.role ≠ .active ∨ s.pair.standby = false ∨ s.pair.peerWord % 16 ≠ 1 ∨
    s.pair.handoverAt ≠ none) :
    ∃ t, execPairHandover q [] s = .next t ∧ t.Replied q 3 (ansResultFrame 1 0) ∧ t = { s with sess := t.sess, sent := t.sent } :=
  invoke_replies s s q _ _ lvl sid _ _ _ _ h fun e hst => by
    have pair : e.st.pair = s.pair := by rw [hst]
    refine ⟨e, actPairHandover_impossible e _ (by rwa [pair]), ?_⟩
    rw [hst]

variable (hrole : s.pair.role = .active) (hstandby : s.pair.standby = true) (hword : s.pair.peerWord % 16 = 1)
  (hnone : s.pair.handoverAt = none)
include hrole hstandby hword hnone

theorem execPairHandover_ready (hready : Config.freeBool s.free = true) :
    ∃ t, execPairHandover q [] s = .next t ∧ t.Replied q 3 (ansResultFrame 0 s.handoverFrame) ∧ t = { s with
      sess := t.sess, sent := t.sent, free := s.free + 1
      pair := { s.pair with
        handoverAt := some s.handoverFrame, nextCseq := (s.pair.nextCseq + 1) % 2 ^ 32
        outbox := s.pair.outbox ++ [⟨8, s.pair.nextCseq, s.handoverFrame, [], s.frame.k, false⟩] } } := by
  refine invoke_replies s { s with
    free := s.free + 1
    pair := { s.pair with
      handoverAt := some s.handoverFrame, nextCseq := (s.pair.nextCseq + 1) % 2 ^ 32
      outbox := s.pair.outbox ++ [⟨8, s.pair.nextCseq, s.handoverFrame, [], s.frame.k, false⟩] } } q _ _ lvl sid _ _ _ _ h fun e hst => ?_
  have pair : e.st.pair = s.pair := by rw [hst]
  have free : e.st.free = s.free := by rw [hst]
  have frame : e.st.handoverFrame = s.handoverFrame := by rw [hst]; rfl
  refine ⟨(e.tick.sendControl 8 s.handoverFrame []).modPair fun p => { p with handoverAt := some s.handoverFrame }, ?_, ?_⟩
  · rw [actPairHandover_possible e _ (by rw [pair, hrole]) (by rw [pair, hstandby]) (by rw [pair, hword]) (by rw [pair, hnone]), free,
      if_pos hready, frame]
  · rw [Eff.modPair_st, Eff.sendControl_acked _ _ _ _ rfl, Eff.tick_st, hst]

theorem execPairHandover_notReady (hready : Config.freeBool s.free = false) :
    ∃ t, execPairHandover q [] s = .next t ∧ t.Replied q 3 (ansResultFrame 2 0) ∧
      t = { s with sess := t.sess, sent := t.sent, free := s.free + 1 } := by
  refine invoke_replies s { s with free := s.free + 1 } q _ _ lvl sid _ _ _ _ h fun e hst => ⟨e.tick, ?_, ?_⟩
  · have pair : e.st.pair = s.pair := by rw [hst]
    have free : e.st.free = s.free := by rw [hst]
    rw [actPairHandover_possible e _ (by rw [pair, hrole]) (by rw [pair, hstandby]) (by rw [pair, hword]) (by rw [pair, hnone]), free,
      hready, if_neg Bool.false_ne_true]
  · rw [Eff.tick_st, hst]

end

/-! ### READY and JOINING from any state (R102, R103, R450, R480) -/

/-- A state other than OFF and BOOT, entered from any. -/
theorem Eff.setState_changes (e : Eff s0) (d : DevState) (cause : Nat) (hd : ¬(d = .off ∨ d = .boot)) :
    (e.setState d cause).st.standing = { e.st.standing with state := d } := by
  unfold Eff.setState
  extract_lets quiet
  rw [Eff.event_st, Eff.putState_st _ d cause hd]
  generalize hx : e.when _ _ = x
  have left : x.st.standing = e.st.standing := by
    rw [← hx]
    refine e.when_standing _ _ ?_
    rw [Eff.leaveIdle_st]
    rfl
  exact congrArg (fun y : Standing => { y with state := d }) left

/-- READY entered from any state. -/
theorem Eff.enterReady_changes (e : Eff s0) (cause : Nat) :
    (e.enterState .ready cause).st.standing = { e.st.standing with state := .ready } := by
  by_cases h : .ready = e.st.dev.state
  · rw [show e.enterState .ready cause = e from if_pos h, h]
    rfl
  · rw [show e.enterState .ready cause = (e.setState .ready cause).readied from if_neg h, Eff.readied_standing,
      e.setState_changes .ready cause (by decide)]

theorem Eff.enterReady_recast (e : Eff s0) (cause : Nat) : e.st.Recast (e.enterState .ready cause).st := by
  by_cases h : .ready = e.st.dev.state
  · rw [show e.enterState .ready cause = e from if_pos h]
    exact .refl _
  · rw [show e.enterState .ready cause = (e.setState .ready cause).readied from if_neg h]
    exact (e.setState_recast .ready cause).trans (Eff.readied_recast _)

/-- Step J1 ends or goes on; nothing but the pair unit knows of it. -/
theorem Eff.joinLanes_step (e : Eff s0) (h : e.st.pair.joinStep = 1) :
    (e.joinLanes.st.pair.joinStep = 1 ∨ e.joinLanes.st.pair.joinStep = 2) ∧
      e.joinLanes.st.pair.joinAttempts = e.st.pair.joinAttempts ∧ e.joinLanes.st.sess = e.st.sess := by
  unfold Eff.joinLanes
  cases e.pair.role == .joining && e.pair.joinStep == 1 && e.laneTrained 24 && e.laneTrained 25 && (e.locked 24 || e.locked 25) with
  | true => exact ⟨.inr rfl, rfl, rfl⟩
  | false => exact ⟨.inl h, rfl, rfl⟩

/-- A device neither in OFF nor in BOOT that becomes JOINING is READY; nothing is sent. -/
theorem Eff.enterJoining_standing (e : Eff s0) (hoff : e.st.dev.state ≠ .off) (hboot : e.st.dev.state ≠ .boot) :
    e.enterJoining.st.standing = { e.st.standing with role := .joining, claim := false, hiZ := true, state := .ready } := by
  have joining := e.becomePassive_standing .joining (by decide)
  unfold Eff.enterJoining
  generalize e.becomeRole .joining = x at joining
  extract_lets e1 e2 e3
  have state : x.st.dev.state = e.st.dev.state := congrArg Standing.state joining
  have running : (x.dev.state != .off && x.dev.state != .boot) = true := by
    simp [state, hoff, hboot]
  have ready : e2 = x.enterState .ready 10 := if_pos running
  have noted : e3.st.standing = e2.st.standing := rfl
  rw [Eff.joinLanes_standing, Eff.modMeter_standing, noted, ready, x.enterReady_changes, joining]

/-- It begins with J1, its attempts counted on; the host's queue stays. -/
theorem Eff.enterJoining_step (e : Eff s0) :
    (e.enterJoining.st.pair.joinStep = 1 ∨ e.enterJoining.st.pair.joinStep = 2) ∧
      e.enterJoining.st.pair.joinAttempts = e.st.pair.joinAttempts ∧ e.enterJoining.st.sess.spiResp = e.st.sess.spiResp := by
  have recast := e.becomeRole_recast .joining
  unfold Eff.enterJoining
  generalize e.becomeRole .joining = x at recast
  extract_lets e1 e2 e3
  have entered : e.st.Recast e2.st := recast.trans (x.when_recast _ _ (x.enterReady_recast 10))
  obtain ⟨step, attempts, sess⟩ := (e3.modMeter fun m => { m with pfArea := none }).joinLanes_step rfl
  have count : e2.st.pair.joinAttempts = e.st.pair.joinAttempts := by rw [entered.pair]
  exact ⟨step, attempts.trans count, (congrArg SessSt.spiResp sess).trans entered.spiResp⟩

/-! ### PAIR_REJOIN (R450, R483) -/

/-- What was answered stays so while nothing is sent and the host's queue and DAPC_ID stay. -/
theorem State.Replied.congr {s t : State} {q : Req} {op : Nat} {a : Ans} (h : s.Replied q op a) (hsent : t.sent = s.sent)
    (hspi : t.sess.spiResp = s.sess.spiResp) (hcfg : t.cfg = s.cfg) (hstrap : t.pair.strapB = s.pair.strapB) : t.Replied q op a := by
  unfold State.Replied at *
  rwa [hsent, hspi, State.cv_congr hcfg hstrap]

/-- The request of a device that may rejoin is answered, then the device becomes JOINING. -/
theorem actPairRejoin_joins (e : Eff s0) (lvl sid : Nat) (q : Req) (hrole : e.st.pair.role = .retired) (hbarred : e.st.pair.barred = false) :
    actPairRejoin e ⟨lvl, sid, .req q⟩ [] =
      (((e.answer q 3 (ansOk (le 1 0))).modPair fun p => { p with joinAttempts := 0 }).enterJoining, none) :=
  (if_neg (not_not.mpr rfl)).trans (if_neg (by simp [hrole, hbarred]))

theorem actPairRejoin_refuses (e : Eff s0) (c : Ctx) (h : e.st.pair.role ≠ .retired ∨ e.st.pair.barred = true) :
    actPairRejoin e c [] = (e, some (ansOk (le 1 1))) :=
  (if_neg (not_not.mpr rfl)).trans (if_pos (by rcases h with h | h <;> simp [h]))

section
variable (s : State) (q : Req) (lvl sid : Nat) (h : s.Invoked q oPairRejoin [] 2 false lvl sid)
include h

theorem execPairRejoin_refuses (hnot : s.pair.role ≠ .retired ∨ s.pair.barred = true) :
    ∃ t, execPairRejoin q [] s = .next t ∧ t.Replied q 3 (ansOk (le 1 1)) ∧ t = { s with sess := t.sess, sent := t.sent } :=
  invoke_replies s s q _ _ lvl sid _ _ _ _ h fun e hst => by
    have pair : e.st.pair = s.pair := by rw [hst]
    refine ⟨e, actPairRejoin_refuses e _ (by rwa [pair]), ?_⟩
    rw [hst]

theorem execPairRejoin_joins (hrole : s.pair.role = .retired) (hbarred : s.pair.barred = false) (hoff : s.dev.state ≠ .off)
    (hboot : s.dev.state ≠ .boot) :
    ∃ t, execPairRejoin q [] s = .next t ∧ t.Replied q 3 (ansOk (le 1 0)) ∧ t.pair.role = .joining ∧ t.pair.joinAttempts = 0 ∧
      (t.pair.joinStep = 1 ∨ t.pair.joinStep = 2) ∧ t.dev.state = .ready := by
  obtain ⟨e, hst, hinvoke⟩ := (Eff.start s).invoke_go q oPairRejoin [] 2 false lvl sid actPairRejoin h
  have pair : e.st.pair = s.pair := by rw [hst]; rfl
  rw [actPairRejoin_joins e lvl sid q (by rw [pair, hrole]) (by rw [pair, hbarred])] at hinvoke
  have replied := e.answer_replied q 3 (ansOk (le 1 0))
  have state : (e.answer q 3 (ansOk (le 1 0))).st.dev = s.dev := by
    rw [Eff.answer_st, hst]
    rfl
  generalize e.answer q 3 (ansOk (le 1 0)) = x at hinvoke replied state
  generalize hy : x.modPair (fun p => { p with joinAttempts := 0 }) = y at hinvoke
  have asked : y.st = { x.st with pair := { x.st.pair with joinAttempts := 0 } } := by
    rw [← hy]
    rfl
  have joined := y.enterJoining_standing (by rw [asked]; exact state ▸ hoff) (by rw [asked]; exact state ▸ hboot)
  obtain ⟨step, attempts, spi⟩ := y.enterJoining_step
  generalize y.enterJoining = z at hinvoke joined step attempts spi
  rw [asked] at joined attempts spi
  refine ⟨z.st, congrArg (fun e : Act s => Host.Outcome.next e.st) hinvoke, ?_, congrArg Standing.role joined, attempts, step,
    congrArg Standing.state joined⟩
  exact replied.congr (congrArg Standing.sent joined) spi (congrArg Standing.cfg joined) (congrArg Standing.strapB joined)

end

/-! ### SELF_REPLAY_DONE (R469, R470) -/

/-- Without the peer's result there is no outcome yet. -/
theorem Eff.replayOutcome_waits {b0 : State} (e : Act b0) (h : e.st.pair.peerPass = none) : e.replayOutcome = e := by
  unfold Eff.replayOutcome
  rw [show e.pair.peerPass = none from h]
  cases e.pair.ownPass <;> rfl

theorem execSelfReplayDone_sends (s : State) (pass : Bool) (hreplay : s.pair.replay = true) (hown : s.pair.ownPass = none)
    (hpeer : s.pair.peerPass = none) :
    ∃ t, execSelfReplayDone pass s = .next t ∧
      t = { s with sent := t.sent, pair := { s.pair with ownPass := some pass, nextCseq := (s.pair.nextCseq + 1) % 2 ^ 32 } } := by
  have sent := (Eff.start s).sendControl_unacked 7 0 (le 8 s.pair.kd ++ le 1 (ofBool (!pass))) rfl
  have done : execSelfReplayDone pass s = .next (((Eff.start s).sendControl 7 0 (le 8 s.pair.kd ++ le 1 (ofBool (!pass)))).modPair
      fun p => { p with ownPass := some pass }).replayOutcome.st := if_neg (by simp [hreplay, hown])
  generalize (Eff.start s).sendControl 7 0 (le 8 s.pair.kd ++ le 1 (ofBool (!pass))) = x at sent done
  rw [Eff.replayOutcome_waits _ (by rw [Eff.modPair_st, sent]; exact hpeer)] at done
  refine ⟨_, done, ?_⟩
  rw [Eff.modPair_st, sent]
  rfl

/-! ### What a checkpoint loads (R480, R552) -/

/-- Whether an element belongs to a set that the devices of a pair share: of any domain but DEVICE. -/
def sharedKey (k : Nat) : Bool := decide (1 ≤ objDomain (k / 65536) ∧ objDomain (k / 65536) < 15)

/-- Values written one after the other. -/
def writes {α : Type} (key : α → Nat) (val : α → Option Nat) (l : List α) (m : SMap (Option Nat)) : SMap (Option Nat) :=
  l.foldl (fun m x => smSet none m (key x) (val x)) m

theorem Eff.setCfgs_st {α : Type} (e : Eff s0) (key : α → Nat) (val : α → Option Nat) (l : List α) :
    (e.each l fun e x => e.setCfg (key x) (val x)).st = { e.st with cfg := writes key val l e.st.cfg } := by
  induction l generalizing e with
  | nil => rfl
  | cons x r ih =>
    rw [Eff.each_cons, ih]
    rfl

/-- Writing values that `g` gives makes their elements read as `g`, in canonical form, and leaves the others. -/
theorem writes_get {α : Type} (key : α → Nat) (val : α → Option Nat) (g : Nat → Option Nat) (l : List α) (m : SMap (Option Nat))
    (hm : smWf none m = true) (hg : ∀ x ∈ l, val x = g (key x)) :
    smWf none (writes key val l m) = true ∧
      ∀ k, smGet none (writes key val l m) k = if k ∈ l.map key then g k else smGet none m k := by
  induction l generalizing m with
  | nil => exact ⟨hm, fun k => (if_neg (by simp)).symm⟩
  | cons x r ih =>
    obtain ⟨hwf, hget⟩ := ih (smSet none m (key x) (val x)) (smWf_set _ _ _ _ hm) fun y hy => hg y (List.mem_cons_of_mem _ hy)
    refine ⟨hwf, fun k => (hget k).trans ?_⟩
    rw [smGet_smSet none m (key x) (val x) none hm, hg x List.mem_cons_self]
    by_cases hr : k ∈ r.map key
    · simp [hr]
    · by_cases hk : k = key x <;> simp [hr, hk]

/-- The committed sets once those of a checkpoint are loaded. -/
def State.setsLoaded (s : State) (cfg : SMap (Option Nat)) : SMap (Option Nat) :=
  writes (·.1) (·.2) (cfg.filter fun x => sharedKey x.1) (writes id (fun _ => none) ((s.cfg.map (·.1)).filter sharedKey) s.cfg)

theorem Eff.loadSets_st (e : Eff s0) (cfg : SMap (Option Nat)) : (e.loadSets cfg).st = { e.st with cfg := e.st.setsLoaded cfg } := by
  unfold Eff.loadSets
  extract_lets shared e1
  have cleared : e1.st = { e.st with cfg := writes id (fun _ => none) ((e.st.cfg.map (·.1)).filter sharedKey) e.st.cfg } :=
    e.setCfgs_st id (fun _ => none) _
  refine (e1.setCfgs_st (fun x : Nat × Option Nat => x.1) (·.2) _).trans ?_
  rw [cleared]
  rfl

/-- In canonical form what is listed is no default. -/
theorem smAbove_mem_ne {β : Type} [DecidableEq β] (d : β) (m : SMap β) (b : Option Nat) (h : smAbove d b m = true) : ∀ p ∈ m, p.2 ≠ d := by
  induction m generalizing b with
  | nil => exact fun _ hp => absurd hp List.not_mem_nil
  | cons x r ih =>
    simp only [smAbove, Bool.and_eq_true, decide_eq_true_eq] at h
    obtain ⟨⟨-, hne⟩, hr⟩ := h
    rintro p (_ | ⟨_, hp⟩)
    · exact hne
    · exact ih _ hr p hp

/-- What is listed reads as listed. -/
theorem smGet_of_mem (m : SMap (Option Nat)) (h : smWf none m = true) (p : Nat × Option Nat) (hp : p ∈ m) : smGet none m p.1 = p.2 :=
  (mem_iff_smGet none m none h p.1 p.2 (smAbove_mem_ne none m none h p hp)).mp hp

/-- An element that is not listed reads as none. -/
theorem smGet_of_not_mem (m : SMap (Option Nat)) (h : smWf none m = true) (k : Nat) (hk : k ∉ m.map (·.1)) : smGet none m k = none := by
  by_contra hne
  exact hk (List.mem_map.mpr ⟨(k, _), (mem_iff_smGet none m none h k _ hne).mpr rfl, rfl⟩)

/-- A shared element reads as the checkpoint holds it, any other as before. -/
theorem State.setsLoaded_get (s : State) (cfg : SMap (Option Nat)) (hs : smWf none s.cfg = true) (hc : smWf none cfg = true) (k : Nat) :
    smGet none (s.setsLoaded cfg) k = if sharedKey k = true then smGet none cfg k else smGet none s.cfg k := by
  obtain ⟨hcleared, cleared⟩ := writes_get id (fun _ => none) (fun _ => none) ((s.cfg.map (·.1)).filter sharedKey) s.cfg hs fun _ _ => rfl
  obtain ⟨-, loaded⟩ := writes_get (·.1) (·.2) (smGet none cfg) (cfg.filter fun x => sharedKey x.1) _ hcleared fun x hx =>
    (smGet_of_mem cfg hc x (List.mem_of_mem_filter hx)).symm
  have listed : k ∈ (cfg.filter fun x => sharedKey x.1).map (·.1) ↔ k ∈ cfg.map (·.1) ∧ sharedKey k = true := by
    rw [show (cfg.filter fun x => sharedKey x.1) = cfg.filter (sharedKey ∘ (·.1)) from rfl, ← List.filter_map, List.mem_filter]
  rw [State.setsLoaded, loaded, cleared, List.map_id]
  simp only [listed, List.mem_filter]
  by_cases hk : sharedKey k = true
  · by_cases hin : k ∈ cfg.map (·.1)
    · simp only [hk, hin, and_self, if_true]
    · simp only [hk, hin, and_true, if_true, if_false]
      rw [smGet_of_not_mem cfg hc k hin, ite_eq_left_iff]
      exact smGet_of_not_mem s.cfg hs k
  · simp only [hk, and_false, Bool.false_eq_true, if_false]

/-- The points that a checkpoint holds. -/
def Ckpt.points (c : Ckpt) : SMap PointWord := c.pts.foldl (fun p x => if x.1 < 2097152 then smSet pointReset p x.1 x.2 else p) []

theorem Eff.setPoints_st (e : Eff s0) (l : List (Nat × PointWord)) : (e.each l fun e p => e.setPoint p.1 p.2).st =
    { e.st with pts := l.foldl (fun p x => if x.1 < 2097152 then smSet pointReset p x.1 x.2 else p) e.st.pts } := by
  induction l generalizing e with
  | nil => rfl
  | cons p r ih => rw [Eff.each_cons, ih, Eff.setPoint_st, List.foldl_cons]

/-- Indexed state given by a function at the indices of a list. -/
def tabled {β : Type} [DecidableEq β] (d : β) (f : Nat → β) (l : List Nat) : SMap β :=
  l.filterMap fun n => if f n = d then none else some (n, f n)

/-- It reads as the function at the indices listed, where they rise. -/
theorem smGet_tabled {β : Type} [DecidableEq β] (d : β) (f : Nat → β) (l : List Nat) (h : l.Pairwise (· < ·)) (n : Nat) :
    smGet d (tabled d f l) n = if n ∈ l then f n else d := by
  induction l with
  | nil => rfl
  | cons a r ih =>
    obtain ⟨above, hr⟩ := List.pairwise_cons.mp h
    have rest := ih hr
    have first : n ∈ r → a < n := above n
    by_cases ha : f a = d
    · rw [show tabled d f (a :: r) = tabled d f r from List.filterMap_cons_none (if_pos ha), rest]
      by_cases hn : n = a
      · subst hn
        simp [ha]
      · simp [hn]
    · rw [show tabled d f (a :: r) = (a, f a) :: tabled d f r from List.filterMap_cons_some (if_neg ha), smGet, rest]
      by_cases hn : n = a
      · simp [hn]
      · by_cases hlt : n < a
        · have : n ∉ r := fun hr => absurd (first hr) (Nat.lt_asymm hlt)
          simp [hn, hlt, this]
        · simp [hn, hlt]

/-- The cells that a checkpoint holds, each with what this device has itself read of it. -/
def State.cellsLoaded (s : State) (c : Ckpt) : SMap Cell :=
  tabled Cell.reset (fun n => (smGet Cell.reset s.cells n).loaded (smGet Cell.reset c.cells n)) allCells

theorem State.cellsLoaded_get (s : State) (c : Ckpt) (n : Nat) (hn : n < 192) :
    smGet Cell.reset (s.cellsLoaded c) n = (smGet Cell.reset s.cells n).loaded (smGet Cell.reset c.cells n) :=
  (smGet_tabled _ _ _ List.pairwise_lt_range n).trans (if_pos (List.mem_range.mpr hn))

/-- The scheduled actions that a checkpoint holds and that have not acted, as journalled actions. -/
def Ckpt.orders (c : Ckpt) : List (Nat × Nat × List Byte) :=
  c.timed.filterMap fun t => match t.2 with
    | some x => if x.isDone then none
      else some (x.fx, oTimedAction, time96 x.target ++ le 3 x.obj ++ [0] ++ le 2 x.args.length ++ x.args)
    | none => none

/-- What loading a checkpoint makes of the state: the core state and the sets become those of the checkpoint. -/
theorem Eff.loadCkpt_st (e : Eff s0) (c : Ckpt) (h : ¬(c.dev = .off ∨ c.dev = .boot)) : (e.loadCkpt c).st = { e.st with
    cfg := e.st.setsLoaded c.cfg, pts := c.points, loop := c.loop, sched := c.sched, casc := c.casc, assay := c.assay, hub := c.hub
    meter := { c.meter with storing := e.st.meter.storing, slots := e.st.meter.slots, pfArea := e.st.meter.pfArea }
    cells := e.st.cellsLoaded c, faults := { e.st.faults with forced := c.forced }, dev := { e.st.dev with state := c.dev }
    pair := { e.st.pair with timed := e.st.pair.timed ++ c.orders } } := by
  unfold Eff.loadCkpt
  extract_lets e1 e2 e3 held e4 e5 e6
  have sets : e1.st = { e.st with cfg := e.st.setsLoaded c.cfg } := e.loadSets_st c.cfg
  have points : e2.st = { e.st with cfg := e.st.setsLoaded c.cfg, pts := c.points } := by
    refine (Eff.setPoints_st _ _).trans ?_
    rw [Eff.clearPoints_st, sets]
    rfl
  have core : e3.st = { e2.st with loop := c.loop, sched := c.sched, casc := c.casc, assay := c.assay } := rfl
  have metered : e4.st = { e3.st with
      meter := { c.meter with storing := e3.st.meter.storing, slots := e3.st.meter.slots, pfArea := e3.st.meter.pfArea } } := rfl
  have cells : e5.st = { e4.st with hub := c.hub, cells := e4.st.cellsLoaded c, faults := { e4.st.faults with forced := c.forced } } := rfl
  have ordered : e6.st = { e5.st with pair := { e5.st.pair with timed := e5.st.pair.timed ++ c.orders } } := rfl
  clear_value e6 e5 e4 e3 e2
  rw [Eff.putState_st _ _ _ h, Eff.dev, ordered, cells, metered, core, points]
  rfl

/-! ### JOIN_REPLAY_DONE (R480, R481) -/

section
variable (s : State) (hrole : s.pair.role = .joining) (hstep : s.pair.joinStep = 5)
include hrole hstep

theorem execJoinReplayDone_lacks (h : (Eff.start s).replayed = none) : execJoinReplayDone s = .next (Eff.start s).joinFail.st := by
  refine (if_neg (by simp [hrole, hstep])).trans ?_
  rw [h]

/-- The replay is loaded, and the live compare begins. -/
theorem execJoinReplayDone_loads (c : Ckpt) (h : (Eff.start s).replayed = some c) : execJoinReplayDone s =
    .next (((Eff.start s).loadCkpt c).modPair fun p => { p with
      joinStep := 6, joinAt := s.time.up, synced := true, cleanRun := 0, image := none, outdig := none
      shadowDone := s.frame.k + (if s.frame.snapped then 1 else 0) }).st := by
  refine (if_neg (by simp [hrole, hstep])).trans ?_
  rw [h]
  rfl

end

/-! ### The statement -/

/-- Settles O36: the requests by what role, peer and the bar allow, the end of a replay by what it sends or loads. -/
theorem pairActionsComplete : Obligations.PairActionsComplete := by
  unfold Obligations.PairActionsComplete
  refine ⟨?handover, execPairRejoin_joins, execPairRejoin_refuses, execSelfReplayDone_sends, ?replay⟩
  case handover =>
    intro s q lvl sid h
    refine ⟨?_, execPairHandover_refuses s q lvl sid h⟩
    rintro hrole hstandby hword hnone _ rfl
    cases hready : Config.freeBool s.free with
    | true => exact execPairHandover_ready s q lvl sid h hrole hstandby hword hnone hready
    | false => exact execPairHandover_notReady s q lvl sid h hrole hstandby hword hnone hready
  case replay =>
    intro s hrole hstep hagain
    cases hreplayed : (Eff.start s).replayed with
    | none =>
      have failed := (Eff.start s).joinFail_again hagain
      refine ⟨_, execJoinReplayDone_lacks s hrole hstep hreplayed, ?_⟩
      generalize (Eff.start s).joinFail.st = t at failed
      have pair := congrArg State.pair failed
      refine ⟨by rw [pair], by rw [pair]; rfl, ?_⟩
      rw [failed]
      rfl
    | some c =>
      refine ⟨_, execJoinReplayDone_loads s hrole hstep c hreplayed, fun hoff hboot => ?_⟩
      have loaded := (Eff.start s).loadCkpt_st c (by simp [hoff, hboot])
      generalize (Eff.start s).loadCkpt c = x at loaded
      rw [Eff.modPair_st, loaded]
      refine ⟨rfl, rfl, hrole, rfl, rfl, rfl, s.cellsLoaded_get c, fun hs hc k => ?_, rfl⟩
      exact (s.setsLoaded_get c.cfg hs hc k).trans (if_congr decide_eq_true_iff rfl rfl)

end Sys2Proof.Machine
end

