-- ==== Sys2Proof/Proofs/Steps.lean ====
section
/-! SUPPORT. What a step is and what it keeps: the front command of the queue, what was sent, and the counters that only rise. -/

namespace Sys2Proof.Machine

/-- Settles O1: the queue's front command is what `step` looks at first. -/
theorem stepRunsTheFrontCommand : Obligations.StepRunsTheFrontCommand := by
  intro c rest s hs
  unfold step
  rw [hs]

/-- Settles O4: at reset every map and list is empty, and OFF has no role that would drive an output. -/
theorem resetMeetsTheInvariant : Obligations.ResetMeetsTheInvariant := by
  have outputs : State.reset.OutputsOk := ⟨nofun, nofun, nofun, fun _ => rfl⟩
  exact ⟨rfl, rfl, rfl, Nat.zero_le _, Nat.zero_le _, outputs⟩

/-- Settles O7: a step is an effect on the state without its front command, and an effect takes back neither of these. -/
theorem stepsNeverTakeBackWhatWasSent : Obligations.StepsNeverTakeBackWhatWasSent := by
  intro s t h
  have moves := step_moves h
  exact ⟨moves.sent, moves.up, moves.free, moves.pending⟩

/-- Settles O8: every command answers an effect, and no effect touches the queue. -/
theorem noCommandFaultsOrIsRefused : Obligations.NoCommandFaultsOrIsRefused := by
  intro c s
  obtain ⟨e, he⟩ := exec_reaches c s
  exact ⟨e.st, he, e.ok.pending⟩

end Sys2Proof.Machine
end

