-- ==== Sys2Proof/Proofs/SetImages.lean ====
section
/-! SUPPORT. The image of a staged set reads back element by element (log 9). -/

namespace Sys2Proof.Machine

/-- The record of one element in a set image: OBJ, a reserved octet, ELEMENT, the number of octets of the value, and the value. -/
def elementOctets (k v : Nat) : List Byte :=
  le 3 (k / 65536) ++ [0] ++ le 2 (k % 65536) ++ le 2 (Nat.log2 v / 8 + 1) ++ le (Nat.log2 v / 8 + 1) v

theorem imageOctets_cons (p : Nat × Nat) (l : List (Nat × Nat)) : imageOctets (p :: l) = elementOctets p.1 p.2 ++ imageOctets l := rfl

/-- The octets counted for a value hold it. -/
theorem lt_octets_log2 (v : Nat) : v < 256 ^ (Nat.log2 v / 8 + 1) := by
  have wide : 2 ^ (Nat.log2 v + 1) ≤ 2 ^ (8 * (Nat.log2 v / 8 + 1)) := Nat.pow_le_pow_right (by norm_num) (by omega)
  calc v < 2 ^ (Nat.log2 v + 1) := Nat.lt_log2_self
    _ ≤ 2 ^ (8 * (Nat.log2 v / 8 + 1)) := wide
    _ = 256 ^ (Nat.log2 v / 8 + 1) := by rw [Nat.pow_mul]

/-- A record has 8 octets in front of its value. -/
@[simp] theorem length_elementOctets (k v : Nat) : (elementOctets k v).length = 8 + (Nat.log2 v / 8 + 1) := by
  simp [elementOctets]
  omega

section
variable (k v : Nat) (bs : List Byte)

theorem elementOctets_object (hk : k < 2 ^ 40) : fieldLe (elementOctets k v ++ bs) 0 3 = k / 65536 := by
  simp only [elementOctets, List.append_assoc]
  exact fieldLe_le_append 3 _ _ (by omega)

theorem elementOctets_element : fieldLe (elementOctets k v ++ bs) 4 2 = k % 65536 := by
  simp only [elementOctets, List.append_assoc]
  exact (fieldLe_le_append_add 3 _ _ 1 2).trans (fieldLe_le_append 2 _ _ (by omega))

theorem elementOctets_size (hv : v < 2 ^ 64) : fieldLe (elementOctets k v ++ bs) 6 2 = Nat.log2 v / 8 + 1 := by
  have bits : Nat.log2 v < 65 := by
    rcases Nat.eq_zero_or_pos v with rfl | pos
    · simp
    · exact ((Nat.log2_lt (by omega)).2 hv).trans (by norm_num)
  simp only [elementOctets, List.append_assoc]
  exact (fieldLe_le_append_add 3 _ _ 3 2).trans ((fieldLe_le_append_add 2 _ _ 0 2).trans (fieldLe_le_append 2 _ _ (by omega)))

theorem elementOctets_value : fieldLe (elementOctets k v ++ bs) 8 (Nat.log2 v / 8 + 1) = v := by
  simp only [elementOctets, List.append_assoc]
  refine (fieldLe_le_append_add 3 _ _ 5 _).trans ((fieldLe_le_append_add 2 _ _ 2 _).trans ((fieldLe_le_append_add 2 _ _ 0 _).trans ?_))
  exact fieldLe_le_append _ _ _ (lt_octets_log2 v)

/-- A record at the front is read as its element, and the reading goes on behind it. -/
theorem readImage_element (fuel : Nat) (hk : k < 2 ^ 40) (hv : v < 2 ^ 64) :
    readImage (fuel + 1) (elementOctets k v ++ bs) = (k, v) :: readImage fuel bs := by
  have long : ¬(elementOctets k v ++ bs).length < 9 := by simp; omega
  have behind : (elementOctets k v ++ bs).drop (8 + (Nat.log2 v / 8 + 1)) = bs := List.drop_left' (length_elementOctets k v)
  have whole : key (k / 65536) (k % 65536) = k := by unfold key; omega
  rw [readImage, if_neg long]
  dsimp only
  rw [elementOctets_size k v bs hv, elementOctets_object k v bs hk, elementOctets_element, elementOctets_value, behind, whole]

end

/-- Fuel for each element is enough to read the image of a list. -/
theorem readImage_imageOctets (l : List (Nat × Nat)) (hl : ∀ p ∈ l, p.1 < 2 ^ 40 ∧ p.2 < 2 ^ 64) (fuel : Nat) (hf : l.length ≤ fuel) :
    readImage fuel (imageOctets l) = l := by
  induction l generalizing fuel with
  | nil => cases fuel <;> rfl
  | cons p r ih =>
    obtain ⟨fuel, rfl⟩ : ∃ n, fuel = n + 1 := ⟨fuel - 1, by simp at hf; omega⟩
    obtain ⟨hk, hv⟩ := hl p List.mem_cons_self
    rw [imageOctets_cons, readImage_element _ _ _ _ hk hv, ih (fun q hq => hl q (List.mem_cons_of_mem _ hq)) fuel (by simpa using hf)]

/-- An image has at least one octet for each element. -/
theorem length_le_imageOctets (l : List (Nat × Nat)) : l.length ≤ (imageOctets l).length := by
  induction l with
  | nil => exact Nat.zero_le _
  | cons p r ih =>
    rw [imageOctets_cons, List.length_append, length_elementOctets, List.length_cons]
    omega

/-- Settles O13, by induction on the elements: each record tells its own length, and the fuel is the number of octets. -/
theorem setImagesRoundTrip : Obligations.SetImagesRoundTrip := fun l hl =>
  readImage_imageOctets l hl _ (length_le_imageOctets l)

end Sys2Proof.Machine
end

