-- ==== Sys2Proof/Proofs/Banks.lean ====
section
/-! SUPPORT. The banks of the point store: posting, the cycles with and without a transfer held, whom a bank grants, and the watchdog (R521 to
R536). -/

namespace Sys2Proof.Machine

variable {s0 : Root}

/-! ### Transfers (R521) -/

theorem Eff.modBank_st (e : Eff s0) (b : Nat) (f : Bank → Bank) :
    (e.modBank b f).st = { e.st with banks := smMod Bank.reset e.st.banks b f } := rfl

/-- What a write of a transfer makes of the point store at word i of its line: the mask decides. -/
def Xfer.put (x : Xfer) (p : SMap PointWord) (i : Nat) : SMap PointWord :=
  if bitOf x.mask.toNat i = true ∧ i < x.words.length ∧ 8 * x.line + i < 2097152 then
    smSet pointReset p (8 * x.line + i) (x.words.getD i 0) else p

/-- One word of a transfer that writes. -/
def Eff.putWord (x : Xfer) (e : Eff s0) (i : Nat) : Eff s0 :=
  match x.words[i]? with
  | some w => e.when (bitOf x.mask.toNat i) (·.setPoint (8 * x.line + i) w)
  | none => e

theorem Eff.putWord_st (x : Xfer) (e : Eff s0) (i : Nat) : (e.putWord x i).st = { e.st with pts := x.put e.st.pts i } := by
  unfold Eff.putWord Xfer.put
  by_cases hi : i < x.words.length
  · cases hm : bitOf x.mask.toNat i <;> simp [hi]
  · simp [hi]

theorem Eff.putWords_st (x : Xfer) (l : List Nat) (e : Eff s0) : (e.each l (Eff.putWord x)).st = { e.st with pts := l.foldl x.put e.st.pts } := by
  induction l generalizing e with
  | nil => rfl
  | cons i r ih => rw [Eff.each_cons, ih, Eff.putWord_st, List.foldl_cons]

/-- A transfer that writes changes the points of its mask. -/
theorem Eff.transfer_write (e : Eff s0) (r : Nat) (x : Xfer) :
    (e.transfer r true x).st = { e.st with pts := (List.range 8).foldl x.put e.st.pts } := Eff.putWords_st x _ e

/-- The collector once requester r has consumed a point of a line. -/
def State.consumedWord (s : State) (r line : Nat) (f : FaultSt) (i : Nat) : FaultSt :=
  { f with consumed := smSet none f.consumed (r * pointCount + (8 * line + i)) (some (rawBits 32 (ptVal (s.pt (8 * line + i))))) }

theorem Eff.consumeLine_st (r line : Nat) (l : List Nat) (e : Eff s0) :
    (e.each l fun e i => e.consume r (8 * line + i)).st = { e.st with faults := l.foldl (e.st.consumedWord r line) e.st.faults } := by
  induction l generalizing e with
  | nil => rfl
  | cons i t ih => exact ih _

/-- A transfer that reads delivers its line. -/
theorem Eff.transfer_read (e : Eff s0) (r : Nat) (x : Xfer) :
    (e.transfer r false x).st = { e.st with faults := e.st.delivered r x.line } := Eff.consumeLine_st r x.line _ e

/-- The grant of one transfer of a reading burst in a slot of its requester's own. -/
theorem Eff.grant_read (e : Eff s0) (n r : Nat) (c : Bool) (u : Burst) (x : Xfer) (rest : List Xfer)
    (hu : smGet none (e.bank n).bursts r = some u) (htodo : u.todo = x :: rest) (hread : u.write = false) :
    (e.grant n r false c).st = { e.st with
      faults := if c = true ∧ e.st.requesterOn r = true then e.st.delivered r x.line else e.st.faults
      banks := smMod Bank.reset e.st.banks n fun k => { k with
        bursts := smSet none k.bursts r (if rest = [] then none else
          some { u with todo := rest, progress := u.progress + 1, since := k.cycle })
        grants := smMod 0 k.grants r fun n => (n + 1) % 2 ^ 32
        held := if c = true ∧ e.st.requesterOn r = true then none else some (r, false, x), heldFor := 0 } } := by
  have last : rest.isEmpty = decide (rest = []) := by cases rest <;> rfl
  unfold Eff.grant
  rw [hu]
  dsimp only
  rw [htodo]
  dsimp only
  rw [hread, last]
  cases hdone : c && e.st.requesterOn r with
  | false =>
    have held : ¬(c = true ∧ e.st.requesterOn r = true) := by simpa using hdone
    rw [if_neg held, if_neg held]
    simp [Eff.modBank_st]
  | true =>
    have done : c = true ∧ e.st.requesterOn r = true := by simpa using hdone
    rw [if_pos done, if_pos done, Eff.when_true, Eff.transfer_read]
    simp [Eff.modBank_st, State.delivered, State.pt]

/-! ### Whom a bank grants (R524, R525) -/

/-- Of two that wait the one that has waited longer; the earlier one of the list where they are equal. -/
def longer (best : Option (Nat × Nat)) (p : Nat × Nat) : Option (Nat × Nat) :=
  match best with
  | none => some p
  | some q => if p.2 < q.2 then some p else some q

theorem longer_fold_mem (l : List (Nat × Nat)) (q : Nat × Nat) : ∃ p ∈ q :: l, l.foldl longer (some q) = some p := by
  induction l generalizing q with
  | nil => exact ⟨q, List.mem_cons_self, rfl⟩
  | cons a r ih =>
    obtain ⟨best, hbest, hlonger⟩ : ∃ best ∈ [q, a], longer (some q) a = some best := by
      by_cases h : a.2 < q.2 <;> simp [longer, h]
    obtain ⟨p, hp, hfold⟩ := ih best
    refine ⟨p, ?_, by rw [List.foldl_cons, hlonger, hfold]⟩
    simp only [List.mem_cons, List.not_mem_nil, or_false] at hbest hp ⊢
    rcases hp with rfl | hp
    · rcases hbest with rfl | rfl <;> simp
    · exact .inr (.inr hp)

/-- Whoever has waited longest waits, and there is such a one as soon as anyone waits. -/
theorem longest_mem (l : List (Nat × Nat)) (h : l ≠ []) : ∃ p ∈ l, longest l = some p.1 := by
  obtain ⟨q, r, rfl⟩ := List.exists_cons_of_ne_nil h
  obtain ⟨p, hp, hfold⟩ := longer_fold_mem r q
  exact ⟨p, hp, congrArg (Option.map Prod.fst) hfold⟩

/-- The largest value over a list is a value of the list, or the start where no value exceeds that. -/
theorem foldl_max_attained {α : Type} (f : α → Nat) (l : List α) (m : Nat) :
    (l.foldl (fun m a => max m (f a)) m = m ∧ ∀ a ∈ l, f a ≤ m) ∨ ∃ a ∈ l, f a = l.foldl (fun m a => max m (f a)) m := by
  induction l generalizing m with
  | nil => exact .inl ⟨rfl, nofun⟩
  | cons a r ih =>
    rcases ih (max m (f a)) with ⟨hfold, hle⟩ | ⟨p, hp, hfold⟩
    · rcases le_total (f a) m with h | h
      · rw [max_eq_left h] at hfold hle
        refine .inl ⟨by rw [List.foldl_cons, max_eq_left h, hfold], ?_⟩
        simpa using ⟨h, hle⟩
      · exact .inr ⟨a, List.mem_cons_self, by rw [List.foldl_cons, hfold, max_eq_right h]⟩
    · exact .inr ⟨p, List.mem_cons_of_mem _ hp, by rw [List.foldl_cons, hfold]⟩

/-- The highest RANK of those that wait is the rank of one that waits. -/
theorem Eff.topRank_mem (e : Eff s0) (b : Nat) (l : List (Nat × Nat)) (h : l ≠ []) : ∃ p ∈ l, e.topRank b l = some p.1 := by
  have top : ∃ p ∈ l, e.bcv b oRank p.1 = l.foldl (fun m p => max m (e.bcv b oRank p.1)) 0 := by
    rcases foldl_max_attained (fun p : Nat × Nat => e.bcv b oRank p.1) l 0 with ⟨hfold, hle⟩ | hmax
    · obtain ⟨q, r, rfl⟩ := List.exists_cons_of_ne_nil h
      exact ⟨q, List.mem_cons_self, by rw [hfold]; exact Nat.le_zero.mp (hle q List.mem_cons_self)⟩
    · exact hmax
  obtain ⟨q, hq, hrank⟩ := top
  obtain ⟨p, hp, hlongest⟩ := longest_mem (l.filter fun p => e.bcv b oRank p.1 == l.foldl (fun m p => max m (e.bcv b oRank p.1)) 0)
    (List.ne_nil_of_mem (List.mem_filter.mpr ⟨hq, by simp [hrank]⟩))
  exact ⟨p, List.mem_of_mem_filter hp, hlongest⟩

/-- A bank grants nobody where nobody waits, and else one of those that wait. -/
theorem Eff.grantee_waits (e : Eff s0) (b : Nat) :
    (e.waiting b = [] ∧ e.grantee b = none) ∨ ∃ p ∈ e.waiting b, ∃ bg, e.grantee b = some (p.1, bg) := by
  unfold Eff.grantee
  extract_lets l w
  rcases eq_or_ne l [] with hl | hl
  · left
    refine ⟨hl, ?_⟩
    rw [hl]
    simp [longest, Eff.topRank]
  · right
    obtain ⟨p, hp, hlongest⟩ := longest_mem l hl
    obtain ⟨p', hp', hrank⟩ := e.topRank_mem b l hl
    split
    next h =>
      obtain ⟨x, hx, heq⟩ : ∃ x ∈ l, x.1 = w % 16 := by simpa using (Bool.and_eq_true_iff.mp h).2
      exact ⟨x, hx, false, by rw [heq]⟩
    · split
      · exact ⟨p, hp, true, by rw [hlongest]; rfl⟩
      · exact ⟨p', hp', true, by rw [hrank]; rfl⟩

/-! ### Cycles (R524, R527, R530) -/

/-- The slot counter and the cycle of a bank move on. -/
def Bank.moved (k : Bank) : Bank := { k with slot := (k.slot + 1) % 128, cycle := k.cycle + 1 }

/-- Without a STORE commit that waits, the slot counter and the cycle move on and nothing else happens. -/
theorem Eff.nextSlot_st (e : Eff s0) (b : Nat) (h : (e.dom 13).pend = none) :
    (e.nextSlot b).st = { e.st with banks := smMod Bank.reset e.st.banks b Bank.moved } := by
  have idle : (e.modBank b Bank.moved).committing 13 = false := by
    unfold Eff.committing
    rw [show ((e.modBank b Bank.moved).dom 13).pend = none from h]
  refine (congrArg Eff.st (if_neg ?_)).trans (e.modBank_st b Bank.moved)
  rw [show (e.modBank b fun k => { k with slot := (k.slot + 1) % 128, cycle := k.cycle + 1 }).committing 13 = false from idle]
  simp

/-- What a cycle makes of the transfer that the bank holds, or of the requester that it grants. -/
def Eff.bankTurn (e : Eff s0) (b : Nat) (completes : Bool) : Eff s0 :=
  match (e.bank b).held with
  | some (r, wr, x) =>
    if completes && e.st.requesterOn r then (e.modBank b fun k => { k with held := none, heldFor := 0 }).transfer r wr x
    else e.modBank b fun k => { k with heldFor := k.heldFor + 1 }
  | none => (e.grantee b).elim e fun g => e.grant b g.1 g.2 completes

theorem Eff.bankTurn_held (e : Eff s0) (b : Nat) (c : Bool) (r : Nat) (wr : Bool) (x : Xfer) (h : (e.bank b).held = some (r, wr, x)) :
    e.bankTurn b c =
      if c && e.st.requesterOn r then (e.modBank b fun k => { k with held := none, heldFor := 0 }).transfer r wr x
      else e.modBank b fun k => { k with heldFor := k.heldFor + 1 } := by
  rw [Eff.bankTurn, h]

theorem Eff.bankTurn_free (e : Eff s0) (b : Nat) (c : Bool) (h : (e.bank b).held = none) :
    e.bankTurn b c = (e.grantee b).elim e fun g => e.grant b g.1 g.2 c := by
  rw [Eff.bankTurn, h]

theorem execStoreCycle_eq (s : State) (b : Fin 8) (c : Bool) (hon : s.islandOn 3 = true) :
    execStoreCycle b c s = .next (((Eff.start s).bankTurn b.val c).nextSlot b.val).st := by
  refine (if_neg (by simp [hon])).trans ?_
  unfold Eff.bankTurn
  cases (Eff.start s).grantee b.val <;> rfl

section
variable (s : State) (b : Fin 8) (c : Bool)

theorem execTransferPost_posts (r : Fin 16) (wr good : Bool) (lines : List (Nat × Byte × List PointWord))
    (hgood : good = (!lines.isEmpty && decide (lines.length ≤ 16) && lines.all fun l =>
      decide (l.1 < 262144) && decide (l.1 % 8 = b.val) && (!wr || decide (l.2.2.length = 8)))) :
    execTransferPost r b wr lines s = .next (
      if good = true ∧ smGet none (smGet Bank.reset s.banks b.val).bursts r.val = none ∧
          (∀ h, (smGet Bank.reset s.banks b.val).held = some h → h.1 ≠ r.val) then { s with
        banks := smMod Bank.reset s.banks b.val fun k => { k with
          bursts := smSet none k.bursts r.val (some ⟨wr, lines.map fun l => ⟨l.1, l.2.1, l.2.2⟩, 0, k.cycle⟩) } } else s) := by
  have free : ((smGet none (smGet Bank.reset s.banks b.val).bursts r.val).isSome ||
      (smGet Bank.reset s.banks b.val).held.any (·.1 == r.val)) = false ↔
      smGet none (smGet Bank.reset s.banks b.val).bursts r.val = none ∧
        ∀ h, (smGet Bank.reset s.banks b.val).held = some h → h.1 ≠ r.val := by
    cases (smGet Bank.reset s.banks b.val).held <;> simp
  unfold execTransferPost
  dsimp only [Eff.start_st, Eff.bank]
  rw [show (!lines.isEmpty && decide (lines.length ≤ 16) && lines.all fun l =>
    decide (l.1 < 262144) && l.1 % 8 == b.val && (!wr || l.2.2.length == 8)) = good from hgood.symm]
  split
  next h =>
    obtain ⟨hg, hfree⟩ := h
    rw [hg, free.2 hfree]
    rfl
  next h =>
    cases hg : good with
    | false => rfl
    | true =>
      rw [Bool.eq_true_of_not_eq_false fun hfree => h ⟨hg, free.1 hfree⟩]
      rfl

theorem execStoreCycle_stopped (h : s.islandOn 3 = false) : execStoreCycle b c s = .next s := if_pos (by simp [h])

variable (hpend : (smGet Domain.reset s.doms 13).pend = none) (hon : s.islandOn 3 = true)
include hpend hon

/-- In a running island a cycle is what it makes of the transfer held or granted, and the move of the slot counter. -/
theorem execStoreCycle_moves (hturn : ((Eff.start s).bankTurn b.val c).st.doms = s.doms) : execStoreCycle b c s =
    .next { ((Eff.start s).bankTurn b.val c).st with
      banks := smMod Bank.reset ((Eff.start s).bankTurn b.val c).st.banks b.val Bank.moved } := by
  rw [execStoreCycle_eq s b c hon, Eff.nextSlot_st _ b.val (by rw [Eff.dom, hturn, hpend])]

/-- A transfer that cannot complete is held one cycle longer. -/
theorem execStoreCycle_holds (r : Nat) (wr : Bool) (x : Xfer) (hheld : (smGet Bank.reset s.banks b.val).held = some (r, wr, x))
    (h : c = false ∨ s.requesterOn r = false) : execStoreCycle b c s = .next { s with
      banks := smMod Bank.reset (smMod Bank.reset s.banks b.val fun k => { k with heldFor := k.heldFor + 1 }) b.val Bank.moved } := by
  have turn : (Eff.start s).bankTurn b.val c = (Eff.start s).modBank b.val fun k => { k with heldFor := k.heldFor + 1 } := by
    rw [(Eff.start s).bankTurn_held b.val c r wr x hheld, if_neg (by rcases h with h | h <;> simp [h])]
  rw [execStoreCycle_moves s b c hpend hon (by rw [turn]; rfl), turn]
  rfl

/-- A transfer held that completes leaves the bank, and is done. -/
theorem execStoreCycle_completes (r : Nat) (wr : Bool) (x : Xfer) (hheld : (smGet Bank.reset s.banks b.val).held = some (r, wr, x))
    (h : s.requesterOn r = true) : execStoreCycle b true s = .next { s with
      faults := if wr = true then s.faults else s.delivered r x.line
      pts := if wr = true then (List.range 8).foldl x.put s.pts else s.pts
      banks := smMod Bank.reset (smMod Bank.reset s.banks b.val fun k => { k with held := none, heldFor := 0 }) b.val Bank.moved } := by
  have turn : ((Eff.start s).bankTurn b.val true).st = { s with
      faults := if wr = true then s.faults else s.delivered r x.line
      pts := if wr = true then (List.range 8).foldl x.put s.pts else s.pts
      banks := smMod Bank.reset s.banks b.val fun k => { k with held := none, heldFor := 0 } } := by
    rw [(Eff.start s).bankTurn_held b.val true r wr x hheld, if_pos (by simp [h])]
    cases wr with
    | true => exact Eff.transfer_write _ r x
    | false => exact Eff.transfer_read _ r x
  rw [execStoreCycle_moves s b true hpend hon (by rw [turn]), turn]

variable (hheld : (smGet Bank.reset s.banks b.val).held = none)
include hheld

theorem execStoreCycle_ungranted (h : (Eff.start s).grantee b.val = none) : execStoreCycle b c s =
    .next { s with banks := smMod Bank.reset s.banks b.val Bank.moved } := by
  have turn : (Eff.start s).bankTurn b.val c = Eff.start s := by rw [(Eff.start s).bankTurn_free b.val c hheld, h]; rfl
  rw [execStoreCycle_moves s b c hpend hon (by rw [turn]; rfl), turn]
  rfl

/-- A requester granted in its own slot has one transfer of its burst done, or held where it does not complete. -/
theorem execStoreCycle_grants (r : Nat) (u : Burst) (x : Xfer) (rest : List Xfer)
    (hgrant : (Eff.start s).grantee b.val = some (r, false)) (hu : smGet none (smGet Bank.reset s.banks b.val).bursts r = some u)
    (htodo : u.todo = x :: rest) (hread : u.write = false) : execStoreCycle b c s = .next { s with
      faults := if c = true ∧ s.requesterOn r = true then s.delivered r x.line else s.faults
      banks := smMod Bank.reset (smMod Bank.reset s.banks b.val fun k => { k with
          bursts := smSet none k.bursts r (if rest = [] then none else
            some { u with todo := rest, progress := u.progress + 1, since := k.cycle })
          grants := smMod 0 k.grants r fun n => (n + 1) % 2 ^ 32
          held := if c = true ∧ s.requesterOn r = true then none else some (r, false, x), heldFor := 0 }) b.val Bank.moved } := by
  have turn := (Eff.start s).grant_read b.val r c u x rest hu htodo hread
  have granted : (Eff.start s).bankTurn b.val c = (Eff.start s).grant b.val r false c := by
    rw [(Eff.start s).bankTurn_free b.val c hheld, hgrant]
    rfl
  rw [execStoreCycle_moves s b c hpend hon (by rw [granted, turn]; rfl), granted, turn]
  rfl

end

/-! ### The watchdog (R530) -/

theorem execBankWatchdog_early (s : State) (b : Fin 8)
    (h : (smGet Bank.reset s.banks b.val).held = none ∨ (smGet Bank.reset s.banks b.val).heldFor < 4096) :
    execBankWatchdog b s = .next s := by
  unfold execBankWatchdog
  dsimp only [Eff.start_st, Eff.bank]
  split
  · rfl
  next hheld => exact if_pos (h.resolve_left (by rw [hheld]; exact Option.some_ne_none _))

/-- The message of the watchdog names requester and access (R422). -/
theorem Eff.messageOf_watchdog (e : Eff s0) (source addr : Nat) (access : Nat × Nat) (h : e.st.Quiet kBankWatchdog addr) :
    e.messageOf { source, kind := kBankWatchdog, addr, access := some access } =
      { e.st.message source kBankWatchdog addr with access := some access } := by
  have acts : e.withholds { source, kind := kBankWatchdog, addr, access := some access } = false :=
    e.withholds_acts source kBankWatchdog addr (some access) (.inl h.1)
  unfold Eff.messageOf
  rw [acts]
  rfl

theorem execBankWatchdog_aborts (s : State) (b : Fin 8) (r : Nat) (wr : Bool) (x : Xfer)
    (hheld : (smGet Bank.reset s.banks b.val).held = some (r, wr, x)) (hfor : 4096 ≤ (smGet Bank.reset s.banks b.val).heldFor)
    (h : s.Quiet kBankWatchdog (x.line * 64)) :
    ∃ t m, execBankWatchdog b s = .next t ∧ t.faults.last = some m ∧
      m = { s.message (1 + b.val) kBankWatchdog (x.line * 64) with access := some (r, if wr = true then 1 else 0) } ∧
      t = { s with
        faults := t.faults
        banks := smMod Bank.reset s.banks b.val fun k => { k with
          held := none, heldFor := 0, bursts := smSet none k.bursts r none, wdog := min (k.wdog + 1) 65535 } } := by
  let e := (Eff.start s).modBank b.val fun k => { k with
    held := none, heldFor := 0, bursts := smSet none k.bursts r none, wdog := min (k.wdog + 1) 65535 }
  let rep : Rep := { source := 1 + b.val, kind := kBankWatchdog, addr := x.line * 64, access := some (r, if wr = true then 1 else 0) }
  have exec : execBankWatchdog b s = .next (e.report rep).st := by
    unfold execBankWatchdog
    dsimp only [Eff.start_st, Eff.bank]
    rw [hheld]
    exact if_neg (not_lt.mpr hfor)
  have quiet : e.st.Quiet kBankWatchdog (x.line * 64) := h.congr rfl rfl
  have logged : (e.report rep).st = (e.logged rep).st := e.report_quiet rep quiet
  refine ⟨_, _, exec, ?_, rfl, ?_⟩
  · rw [logged, e.logged_last]
    exact congrArg some (e.messageOf_watchdog _ _ _ quiet)
  · rw [logged, e.logged_st]
    rfl

/-- Settles O52: a cycle is what the transfer held or granted makes of the state, and the move of the slot counter. -/
theorem banksComplete : Obligations.BanksComplete := by
  unfold Obligations.BanksComplete
  refine ⟨?post, execStoreCycle_stopped, ?held, ?granted, ?who, execBankWatchdog_early, execBankWatchdog_aborts⟩
  case post =>
    intro s r b wr good lines hgood
    exact execTransferPost_posts s b r wr good lines hgood
  case held =>
    intro s b r wr c x hpend hon hheld
    exact ⟨execStoreCycle_holds s b c hpend hon r wr x hheld, execStoreCycle_completes s b hpend hon r wr x hheld⟩
  case granted =>
    intro s b c hpend hon hheld
    refine ⟨fun hnone => ?_, fun r u x rest hgrant hu htodo hread =>
      execStoreCycle_grants s b c hpend hon hheld r u x rest hgrant hu htodo hread⟩
    have nobody : (Eff.start s).grantee b.val = none := by
      rcases (Eff.start s).grantee_waits b.val with h | ⟨p, hp, _⟩
      · exact h.2
      · exact absurd hp (by simp [hnone])
    exact execStoreCycle_ungranted s b c hpend hon hheld nobody
  case who =>
    intro s b
    rcases (Eff.start s).grantee_waits b with ⟨hnone, hnobody⟩ | ⟨p, hp, bg, hgrant⟩
    · exact ⟨fun r bg h => absurd (hnobody.symm.trans h) nofun, fun h => absurd hnone h⟩
    · refine ⟨fun r bg' h => ?_, fun _ h => absurd (hgrant.symm.trans h) nofun⟩
      obtain rfl : p.1 = r := congrArg Prod.fst (Option.some.inj (hgrant.symm.trans h))
      exact ⟨p.2, hp⟩

end Sys2Proof.Machine
end

