-- ==== Sys2Proof/Proofs/WatchArming.lean ====
section
/-! SUPPORT. WU_ARM on a watch unit whose entry hides another one of the same unit. -/

namespace Sys2Proof.Machine

variable {s0 : Root}

theorem Eff.modWu_st (e : Eff s0) (u : Nat) (f : WUnit → WUnit) :
    (e.modWu u f).st = { e.st with watch := smMod WUnit.reset e.st.watch u f } := rfl

/-- Arming a TRIGGERED unit takes the count its triggers start from, then a slot (R542). -/
theorem Eff.wuArmUnit_triggered (e : Eff s0) (u : Nat) (hoff : (e.wu u).state = .off) (hlent : e.lent = false) (hmode : e.wuMode u = 2) :
    e.wuArmUnit u = (e.modWu u fun w => { w with mark := e.wuCount u }).wuRearm u (e.wuPass u + 1) := by
  refine (if_neg (by simp [hoff, hlent])).trans ?_
  unfold Eff.wuStartAt
  rw [hmode]
  rfl

/-- With no slot free the unit is FULL. -/
theorem Eff.wuRearm_full (e : Eff s0) (u first : Nat) (h : e.takeSlot u = none) :
    e.wuRearm u first = e.modWu u fun w => { w with state := .full } := by
  unfold Eff.wuRearm
  rw [h]

/-- An action on one unit whose arguments are that unit. -/
theorem actUnit_eq (e : Eff s0) (u : Byte) (f : Eff s0 → Nat → ActRes s0) (hu : u.toNat < 32) : actUnit e [u] 1 f = f e u.toNat :=
  if_neg (not_le.mpr hu)

/-- An OPERATOR's session. -/
def operatorSession : Session :=
  { id := 1, level := 1, src := .spi, cn := [], dn := [], proved := true, ks := [], hiSeq := none, cache := [], opened := 0, lastValid := 0 }

/-- The request of that session to arm watch unit 0. -/
def armRequest : Req :=
  { src := .spi, seq := 0, session := 1, tag := dapTag [] (dapOctets 0 3 0 1 (actionPayload oWuArm [0]) 0) }

/-- A unit OFF whose one slot holds a closed capture. -/
def closedUnit : WUnit := { WUnit.reset with closed := [(0, some ⟨[], 1, []⟩)] }

/-- A READY device with that session. Unit 0 is TRIGGERED by a count and has one slot. Of its two entries the first differs from the reset
value in the count its triggers started from alone; the second has its slot closed. -/
def State.hiddenCapture : State :=
  { State.reset with
    dev := { DevSt.reset with state := .ready }
    sess := { SessSt.reset with slots := [(0, some operatorSession)] }
    cfg := [(key oWuCfg 0, some 66)]
    watch := [(0, { WUnit.reset with mark := 1 }), (0, closedUnit)] }

theorem hiddenCapture_invoked : State.hiddenCapture.Invoked armRequest oWuArm [0] 1 false 1 1 := by
  have inTime : (Eff.start State.hiddenCapture).overdue operatorSession = false := by
    have up : (Eff.start State.hiddenCapture).time.up = 0 := rfl
    rw [Eff.overdue, up]
    simp [operatorSession]
  have tagged : armRequest.tag = dapTag operatorSession.ks
      (dapOctets 0 3 armRequest.seq.toNat armRequest.session.toNat (actionPayload oWuArm [0]) armRequest.rsv.toNat) := by
    simp [armRequest, operatorSession]
  exact ⟨⟨rfl, by decide, .inr ⟨by decide, by decide, 0, operatorSession, rfl, rfl, rfl, inTime, tagged, rfl, rfl, rfl, rfl⟩⟩,
    le_refl 1, nofun⟩

theorem hiddenCapture_config (x : SessSt) (m : SMap WUnit) : { State.hiddenCapture with sess := x, watch := m }.cv oWuCfg 0 = 66 := by
  simp [State.cv, State.hiddenCapture, smGet]

/-- Arming takes the count 0, so the first entry leaves the list and the hidden one comes to light: no slot is free. -/
theorem hiddenCapture_armed (e : Act State.hiddenCapture) (he : e.st = { State.hiddenCapture with sess := e.st.sess }) :
    (e.wuArmUnit 0).st = { State.hiddenCapture with sess := e.st.sess, watch := [(0, { closedUnit with state := .full })] } := by
  generalize e.st.sess = x at he
  have unit : e.wu 0 = { WUnit.reset with mark := 1 } := by rw [Eff.wu, he]; rfl
  have lent : e.lent = false := by rw [Eff.lent, Eff.pair, he]; rfl
  have config : e.st.cv oWuCfg 0 = 66 := by
    rw [he]
    exact hiddenCapture_config x _
  have mode : e.wuMode 0 = 2 := by rw [Eff.wuMode, Eff.cv, config]
  have count : e.wuCount 0 = 0 := by
    simp only [Eff.wuCount, Eff.cv, config, Eff.faults]
    rw [he]
    rfl
  have bared : (e.modWu 0 fun w => { w with mark := e.wuCount 0 }).st =
      { State.hiddenCapture with sess := x, watch := [(0, closedUnit)] } := by
    rw [Eff.modWu_st, count, he]
    rfl
  rw [e.wuArmUnit_triggered 0 (by rw [unit]; rfl) lent mode]
  generalize (e.modWu 0 fun w => { w with mark := e.wuCount 0 }) = y at bared ⊢
  have config : y.st.cv oWuCfg 0 = 66 := by
    rw [bared]
    exact hiddenCapture_config x _
  have slots : y.wuSlots 0 = 1 := by rw [Eff.wuSlots, Eff.cv, config]; rfl
  have unit : y.wu 0 = closedUnit := by rw [Eff.wu, bared]; rfl
  have taken : y.takeSlot 0 = none := by
    rw [Eff.takeSlot, slots, unit, Eff.cv, config]
    rfl
  rw [y.wuRearm_full _ _ taken, Eff.modWu_st, bared]
  rfl

/-- Refutes O53 in its clause on WU_ARM of a TRIGGERED unit: where the list of units is not canonical, that the unit reads as one with a
free slot does not keep it from being FULL once armed. -/
theorem not_watchUnitsComplete : ¬ Obligations.WatchUnitsComplete := by
  unfold Obligations.WatchUnitsComplete
  rintro ⟨-, -, arm, -⟩
  obtain ⟨-, -, triggered⟩ := arm _ _ _ _ _ _ hiddenCapture_invoked (by decide) rfl
  obtain ⟨t, ht, -, hstate, -⟩ := triggered 0 rfl rfl rfl rfl
  obtain ⟨t', ht', -, full⟩ := invoke_replies State.hiddenCapture
    { State.hiddenCapture with watch := [(0, { closedUnit with state := .full })] } armRequest oWuArm 1 1 1 [0] false actWuArm ansOk
    hiddenCapture_invoked fun e he => ⟨e.wuArmUnit 0, actUnit_eq e 0 (fun e u => (e.wuArmUnit u, some ansOk)) (by decide), by rw [hiddenCapture_armed e he]⟩
  obtain rfl : t' = t := Host.Outcome.next.inj (ht'.symm.trans ht)
  have watch : t'.watch = [(0, { closedUnit with state := .full })] := congrArg State.watch full
  rw [watch] at hstate
  exact absurd hstate (by decide)

end Sys2Proof.Machine
end

