-- ==== Sys2Proof/Proofs/ScheduledActions.lean ====
section
/-! SUPPORT. TIMED_ACTION and TIMED_CANCEL (R511, R512, R514, R517). -/

namespace Sys2Proof.Machine

variable {s0 : Root}

/-- A time change keeps everything but the time unit. -/
theorem Eff.modTime_sess {s : State} (e : Act s) (h : e.st = { s with sess := e.st.sess }) (f : TimeSt → TimeSt)
    (hup : (f s.time).up = s.time.up) :
    (e.modTime f).st = { s with time := f s.time, sess := (e.modTime f).st.sess, sent := (e.modTime f).st.sent } := by
  rw [Eff.modTime_st, h, ← hup]

/-! ### TIMED_ACTION -/

/-- A TIMED_ACTION that its own checks let through: its form, its target and the action that it names (R511, R607). -/
structure Schedules (s0 : Root) (args : List Byte) (r : ActRow s0) : Prop where
  long : 18 ≤ args.length
  counted : (args.drop 18).length = fieldLe args 16 2
  short : (args.drop 18).length ≤ 64
  target : fieldLe args 6 4 < 1000000000
  plain : fieldLe args 12 3 ≠ oTimedAction ∧ fieldLe args 12 3 ≠ oTimedCancel ∧ fieldLe args 12 3 ≠ oStepAuthorise ∧ fieldLe args 12 3 / 65536 ≠ 4
  row : actRow? s0 (fieldLe args 12 3) = some r

/-- Whether the frame of a target is no longer to come. -/
def Eff.targetPassed (e : Eff s0) (args : List Byte) : Bool := decide (e.frameOf (untime96 args) < (e.frame.k + 1 : Nat))

/-- The frame at which a scheduled action runs (R512): that of its target, or the next where that has passed. -/
def Eff.timedFrame (e : Eff s0) (args : List Byte) : Nat :=
  if e.targetPassed args then e.frame.k + 1 else (e.frameOf (untime96 args)).toNat

/-- The entry that a TIMED_ACTION makes in its slot (R517). -/
def Eff.timedEntry (e : Eff s0) (c : Ctx) (args : List Byte) (r : ActRow s0) : Timed :=
  ⟨untime96 args, e.timedFrame args, fieldLe args 12 3, bitOf (octet args 15) 0, e.targetPassed args, false, 0, 0, c.sess,
    e.actRight r (args.drop 18), args.drop 18⟩

section
variable (e : Eff s0) (c : Ctx) (args : List Byte) (r : ActRow s0) (h : Schedules s0 args r)
  (hright : e.actRight r (args.drop 18) ≤ c.level)
include h hright

theorem actTimedAction_noSlot (hslot : e.timedSlot = none) : actTimedAction e c args = (e, some (ansErr stBusy)) := by
  obtain ⟨long, counted, short, target, plain, row⟩ := h
  refine (if_neg (by omega)).trans ((if_neg (by omega)).trans ?_)
  rw [row]
  refine (if_neg (not_lt.mpr hright)).trans ?_
  rw [hslot]

theorem actTimedAction_slot (i : Nat) (hslot : e.timedSlot = some i) : actTimedAction e c args =
    if e.targetPassed args && !bitOf (octet args 15) 0 then (e, some (ansErr stLate))
    else
      let x := e.modTime fun t => { t with timed := smSet none t.timed i (some (e.timedEntry c args r)) }
      if x.pair.standby && x.isActive then
        ((x.sendAction (e.timedFrame args) oTimedAction args).modPair fun p => { p with
          waitActs := p.waitActs ++ [⟨oTimedAction, le 1 i, x.pair.nextCseq, e.timedFrame args, true, c.ret⟩] }, none)
      else (x, some (ansOk (le 4 i ++ le 8 (e.timedFrame args)))) := by
  obtain ⟨long, counted, short, target, plain, row⟩ := h
  refine (if_neg (by omega)).trans ((if_neg (by omega)).trans ?_)
  rw [row]
  refine (if_neg (not_lt.mpr hright)).trans ?_
  rw [hslot]
  rfl

theorem actTimedAction_late (i : Nat) (hslot : e.timedSlot = some i) (hpassed : e.targetPassed args = true)
    (hlate : bitOf (octet args 15) 0 = false) : actTimedAction e c args = (e, some (ansErr stLate)) := by
  rw [actTimedAction_slot e c args r h hright i hslot]
  exact if_pos (by simp [hpassed, hlate])

/-- Off a pair the action takes its slot and is answered at once. -/
theorem actTimedAction_takes (i : Nat) (hslot : e.timedSlot = some i)
    (hlate : e.targetPassed args = false ∨ bitOf (octet args 15) 0 = true)
    (halone : e.st.pair.standby = false ∨ e.st.pair.role ≠ .active) : actTimedAction e c args =
      (e.modTime fun t => { t with timed := smSet none t.timed i (some (e.timedEntry c args r)) },
        some (ansOk (le 4 i ++ le 8 (e.timedFrame args)))) := by
  rw [actTimedAction_slot e c args r h hright i hslot]
  refine (if_neg (by rcases hlate with h | h <;> simp [h])).trans (if_neg ?_)
  rcases halone with h | h <;> simp [Eff.isActive, h]

end

section
variable {s : State} (e : Act s) (hst : e.st = { s with sess := e.st.sess })
include hst

/-- The session of the request bears neither on the slot, nor on frame or right of the action. -/
theorem Eff.timedSlot_sess : e.timedSlot = (Eff.start s).timedSlot := by
  change (Eff.start e.st).timedSlot = _
  rw [hst]
  rfl

theorem Eff.frameOf_sess (target : Int) : e.frameOf target = (Eff.start s).frameOf target := by
  change (Eff.start e.st).frameOf target = _
  rw [hst]
  rfl

theorem Eff.actRight_sess (r : ActRow ⟨s, false⟩) (args : List Byte) : e.actRight r args = (Eff.start s).actRight r args := by
  unfold Eff.actRight Eff.cellRight
  rw [Eff.cell, hst]
  rfl

end

/-! ### TIMED_CANCEL -/

section
variable (e : Eff s0) (c : Ctx) (i : Byte) (hi : i.toNat < 32)
include hi

theorem actTimedCancel_empty (hx : smGet none e.st.time.timed i.toNat = none) : actTimedCancel e c [i] = (e, some (ansOk (le 1 1))) := by
  refine (if_neg (by simp)).trans ((if_neg (not_le.mpr hi)).trans ?_)
  rw [octet_cons_zero, hx]

theorem actTimedCancel_taken (x : Timed) (hx : smGet none e.st.time.timed i.toNat = some x) : actTimedCancel e c [i] =
    if x.isDone then (e, some (ansOk (le 1 1)))
    else if c.level < x.level then (e, some (ansErr stRights))
    else
      ((e.modTime fun t => { t with timed := smSet none t.timed i.toNat none }).sendAction 0 oTimedCancel
        (le 8 x.fx ++ le 3 x.obj ++ x.args), some (ansOk (le 1 0))) := by
  refine (if_neg (by simp)).trans ((if_neg (not_le.mpr hi)).trans ?_)
  rw [octet_cons_zero, hx]

end

/-! ### The requests -/

section
variable (s : State) (q : Req) (args : List Byte) (lvl sid : Nat) (r : ActRow ⟨s, false⟩) (hreq : s.Invoked q oTimedAction args 0 false lvl sid)
  (h : Schedules ⟨s, false⟩ args r) (hright : (Eff.start s).actRight r (args.drop 18) ≤ lvl)
include hreq h hright

theorem execTimedAction_busy (hslot : (Eff.start s).timedSlot = none) : ∃ t, execTimedAction q args s = .next t ∧
    t.Replied q 3 (ansErr stBusy) ∧ t = { s with sess := t.sess, sent := t.sent } := by
  refine invoke_replies s s q _ _ lvl sid _ _ _ _ hreq fun e hst => ⟨e, ?_, by rw [hst]⟩
  exact actTimedAction_noSlot e _ args r h ((e.actRight_sess hst r _).trans_le hright) ((e.timedSlot_sess hst).trans hslot)

variable (i : Nat) (hslot : (Eff.start s).timedSlot = some i)
include hslot

theorem execTimedAction_late (hpassed : (Eff.start s).targetPassed args = true) (hlate : bitOf (octet args 15) 0 = false) :
    ∃ t, execTimedAction q args s = .next t ∧ t.Replied q 3 (ansErr stLate) ∧ t = { s with sess := t.sess, sent := t.sent } := by
  refine invoke_replies s s q _ _ lvl sid _ _ _ _ hreq fun e hst => ⟨e, ?_, by rw [hst]⟩
  have passed : e.targetPassed args = true := by
    rw [Eff.targetPassed, e.frameOf_sess hst, Eff.frame, hst]
    exact hpassed
  exact actTimedAction_late e _ args r h ((e.actRight_sess hst r _).trans_le hright) i ((e.timedSlot_sess hst).trans hslot) passed hlate

theorem execTimedAction_takes (hlate : (Eff.start s).targetPassed args = false ∨ bitOf (octet args 15) 0 = true)
    (halone : s.pair.standby = false ∨ s.pair.role ≠ .active) : ∃ t, execTimedAction q args s = .next t ∧
      t.Replied q 3 (ansOk (le 4 i ++ le 8 ((Eff.start s).timedFrame args))) ∧
      t = { s with
        sess := t.sess, sent := t.sent
        time := { s.time with timed := smSet none s.time.timed i (some ((Eff.start s).timedEntry ⟨lvl, sid, .req q⟩ args r)) } } := by
  have taken := fun (e : Act s) (hst : e.st = { s with sess := e.st.sess }) => actTimedAction_takes e ⟨lvl, sid, .req q⟩ args r h
    ((e.actRight_sess hst r _).trans_le hright) i ((e.timedSlot_sess hst).trans hslot)
  refine invoke_replies s { s with time := { s.time with
    timed := smSet none s.time.timed i (some ((Eff.start s).timedEntry ⟨lvl, sid, .req q⟩ args r)) } } q _ _ lvl sid _ _ _ _ hreq
    fun e hst => ?_
  have passed : e.targetPassed args = (Eff.start s).targetPassed args := by
    rw [Eff.targetPassed, e.frameOf_sess hst, Eff.frame, hst]
    rfl
  have frame : e.timedFrame args = (Eff.start s).timedFrame args := by
    rw [Eff.timedFrame, passed, e.frameOf_sess hst, Eff.frame, hst]
    rfl
  have entry : e.timedEntry ⟨lvl, sid, .req q⟩ args r = (Eff.start s).timedEntry ⟨lvl, sid, .req q⟩ args r := by
    rw [Eff.timedEntry, frame, passed, e.actRight_sess hst]
    rfl
  refine ⟨_, (taken e hst (by rwa [passed]) (by rwa [hst])).trans (by rw [frame]), ?_⟩
  rw [entry]
  exact e.modTime_sess hst _ rfl

end

section
variable (s : State) (q : Req) (i : Byte) (lvl sid : Nat) (hreq : s.Invoked q oTimedCancel [i] 0 false lvl sid) (hi : i.toNat < 32)
include hreq hi

theorem execTimedCancel_nothing (h : ∀ x, smGet none s.time.timed i.toNat = some x → x.isDone = true) :
    ∃ t, execTimedCancel q [i] s = .next t ∧ t.Replied q 3 (ansOk (le 1 1)) ∧ t = { s with sess := t.sess, sent := t.sent } := by
  refine invoke_replies s s q _ _ lvl sid _ _ _ _ hreq fun e hst => ⟨e, ?_, by rw [hst]⟩
  cases hx : smGet none s.time.timed i.toNat with
  | none => exact actTimedCancel_empty e _ i hi (by rw [hst, hx])
  | some x => exact (actTimedCancel_taken e _ i hi x (by rw [hst, hx])).trans (if_pos (h x hx))

variable (x : Timed) (hx : smGet none s.time.timed i.toNat = some x) (hdone : x.isDone = false)
include hx hdone

theorem execTimedCancel_refuses (hlvl : lvl < x.level) : ∃ t, execTimedCancel q [i] s = .next t ∧ t.Replied q 3 (ansErr stRights) ∧
    t = { s with sess := t.sess, sent := t.sent } := by
  refine invoke_replies s s q _ _ lvl sid _ _ _ _ hreq fun e hst => ⟨e, ?_, by rw [hst]⟩
  exact (actTimedCancel_taken e _ i hi x (by rw [hst, hx])).trans ((if_neg (by simp [hdone])).trans (if_pos hlvl))

theorem execTimedCancel_frees (hlvl : x.level ≤ lvl) (hpeer : s.pair.standby = false) : ∃ t, execTimedCancel q [i] s = .next t ∧
    t.Replied q 3 (ansOk (le 1 0)) ∧ t = { s with
      sess := t.sess, sent := t.sent, time := { s.time with timed := smSet none s.time.timed i.toNat none } } := by
  refine invoke_replies s { s with time := { s.time with timed := smSet none s.time.timed i.toNat none } } q _ _ lvl sid _ _ _ _ hreq
    fun e hst => ⟨e.modTime fun t => { t with timed := smSet none t.timed i.toNat none }, ?_, e.modTime_sess hst _ rfl⟩
  refine (actTimedCancel_taken e _ i hi x (by rw [hst, hx])).trans ((if_neg (by simp [hdone])).trans ((if_neg (not_lt.mpr hlvl)).trans ?_))
  rw [Eff.sendAction_alone _ _ _ _ (by rw [Eff.modTime_st, hst]; exact hpeer)]

end

/-! ### The statement -/

/-- Settles O51: the checks pass, and slot, target and pair decide the answer. -/
theorem scheduledActionsComplete : Obligations.ScheduledActionsComplete := by
  unfold Obligations.ScheduledActionsComplete
  refine ⟨?schedule, ?cancel⟩
  case schedule =>
    rintro s q args _ lvl sid _ r _ hreq hlong rfl hcount hshort htarget rfl ha hc hstep hstore hrow hright rfl
    have h : Schedules ⟨s, false⟩ args r := ⟨hlong, hcount, hshort, htarget, ⟨ha, hc, hstep, hstore⟩, hrow⟩
    have passed : (Eff.start s).targetPassed args = decide ((Eff.start s).frameOf (untime96 args) < s.frame.k + 1) := rfl
    refine ⟨execTimedAction_busy s q args lvl sid r hreq h hright, fun i hslot hpassed hlate => ?_, ?_⟩
    · exact execTimedAction_late s q args lvl sid r hreq h hright i hslot (by rw [passed, decide_eq_true hpassed]) hlate
    · rintro i _ _ hslot rfl hok rfl halone
      exact execTimedAction_takes s q args lvl sid r hreq h hright i hslot hok halone
  case cancel =>
    intro s q i lvl sid hreq hi
    refine ⟨fun hx => execTimedCancel_nothing s q i lvl sid hreq hi fun x h => absurd (hx.symm.trans h) nofun, fun x hx => ⟨?_, ?_, ?_⟩⟩
    · intro hdone
      refine execTimedCancel_nothing s q i lvl sid hreq hi fun y hy => ?_
      rwa [Option.some.inj (hy.symm.trans hx)]
    · exact fun hdone hlvl => execTimedCancel_refuses s q i lvl sid hreq hi x hx hdone hlvl
    · exact fun hdone hlvl hpeer => execTimedCancel_frees s q i lvl sid hreq hi x hx hdone hlvl hpeer

end Sys2Proof.Machine
end

