-- ==== Sys2Proof/Proofs/JournalHolds.lean ====
section
/-! SUPPORT. Holds on the journal: what a hold spans, and its requests (R555, R557). -/

namespace Sys2Proof.Machine

variable {s0 : Root}

/-- A change of the journal keeps everything but the journal. -/
theorem Eff.modJrnl_sess {s : State} (e : Act s) (h : e.st = { s with sess := e.st.sess }) (f : JrnlSt → JrnlSt) :
    (e.modJrnl f).st = { s with jrnl := f s.jrnl, sess := (e.modJrnl f).st.sess, sent := (e.modJrnl f).st.sent } := by
  rw [Eff.modJrnl_st, h]

/-! ### Largest and smallest of a list -/

theorem le_foldl_max (l : List Nat) (m : Nat) : m ≤ l.foldl max m ∧ ∀ a ∈ l, a ≤ l.foldl max m := by
  induction l generalizing m with
  | nil => exact ⟨le_rfl, nofun⟩
  | cons a r ih =>
    obtain ⟨hm, hr⟩ := ih (max m a)
    exact ⟨(le_max_left m a).trans hm, List.forall_mem_cons.mpr ⟨(le_max_right m a).trans hm, hr⟩⟩

theorem foldl_max_le (l : List Nat) (m n : Nat) (hm : m ≤ n) (h : ∀ a ∈ l, a ≤ n) : l.foldl max m ≤ n :=
  List.foldlRecOn (motive := (· ≤ n)) l max hm fun _ hb a ha => max_le hb (h a ha)

theorem foldl_min_le (l : List Nat) (m : Nat) : l.foldl min m ≤ m :=
  List.foldlRecOn (motive := (· ≤ m)) l min le_rfl fun _ hb _ _ => (min_le_left _ _).trans hb

/-! ### What a hold spans -/

/-- The complete checkpoints. -/
def JrnlSt.ckpts (j : JrnlSt) : List Ckpt := ([j.slotA, j.slotB].filterMap id).filter (·.done)

theorem JrnlSt.mem_ckpts (j : JrnlSt) (c : Ckpt) : c ∈ j.ckpts ↔ (j.slotA = some c ∨ j.slotB = some c) ∧ c.done = true := by
  simp only [JrnlSt.ckpts, List.mem_filter, List.mem_filterMap, List.mem_cons, List.not_mem_nil, or_false, id, exists_eq_right, eq_comm]

/-- The frames of the complete checkpoints at or before F_h − JRNL_PRE. -/
def Eff.ckptsBefore (e : Eff s0) : List Nat :=
  (e.jrnl.ckpts.filter fun c => c.frame ≤ e.frame.k - e.cv oJrnlPre).map (·.frame)

/-- The first frame of a hold that starts now. -/
def Eff.holdFirst (e : Eff s0) : Nat :=
  if e.ckptsBefore.isEmpty then (e.jrnl.ckpts.map (·.frame)).foldl min e.frame.k else e.ckptsBefore.foldl max 0

theorem Eff.holdFirst_le (e : Eff s0) : e.holdFirst ≤ e.frame.k := by
  unfold Eff.holdFirst
  split
  · exact foldl_min_le _ _
  · refine foldl_max_le _ _ _ (Nat.zero_le _) fun a ha => ?_
    obtain ⟨c, hc, rfl⟩ := List.mem_map.mp ha
    have before : c.frame ≤ e.frame.k - e.cv oJrnlPre := by simpa using (List.mem_filter.mp hc).2
    omega

/-- No checkpoint that is old enough lies after the first frame. -/
theorem Eff.le_holdFirst (e : Eff s0) (c : Ckpt) (hslot : e.jrnl.slotA = some c ∨ e.jrnl.slotB = some c) (hdone : c.done = true)
    (h : c.frame ≤ e.frame.k - e.cv oJrnlPre) : c.frame ≤ e.holdFirst := by
  have mem : c.frame ∈ e.ckptsBefore :=
    List.mem_map_of_mem (List.mem_filter.mpr ⟨(e.jrnl.mem_ckpts c).mpr ⟨hslot, hdone⟩, decide_eq_true h⟩)
  unfold Eff.holdFirst
  rw [if_neg (by simp [List.ne_nil_of_mem mem])]
  exact (le_foldl_max _ 0).2 _ mem

/-- A hold of a number on a cause at frame `fh`, from frame `first` on, with entries out of a list only. -/
structure Hold.Spans (h : Hold) (num fh first : Nat) (l : List (Nat × List Byte)) : Prop where
  num : h.num = num
  fh : h.fh = fh
  octets : h.octets ≤ holdOctets
  first_eq : h.first = first
  entries : ∀ x ∈ h.entries, x ∈ l ∧ first ≤ x.1

theorem Hold.Spans.take {h : Hold} {num fh first : Nat} {l : List (Nat × List Byte)} (hs : h.Spans num fh first l)
    (x : Nat × List Byte) (hx : x ∈ l) : (h.take x.1 x.2).Spans num fh first l := by
  unfold Hold.take
  split
  · exact hs
  next hopen =>
    split
    · exact ⟨hs.num, hs.fh, hs.octets, hs.first_eq, hs.entries⟩
    next hroom =>
      have late : first ≤ x.1 := by
        have : ¬x.1 < h.first := fun hlt => hopen (by simp [hlt])
        rw [hs.first_eq] at this
        omega
      exact ⟨hs.num, hs.fh, not_lt.mp hroom, hs.first_eq, List.forall_mem_cons.mpr ⟨⟨hx, late⟩, hs.entries⟩⟩

/-- Entries before its end that fit leave a hold open. -/
theorem Hold.takes_open (l : List (Nat × List Byte)) (h : Hold) (hopen : h.complete = false)
    (hroom : h.octets + (l.map (·.2.length)).sum ≤ holdOctets) (hearly : ∀ x ∈ l, x.1 < h.last) :
    (l.foldl (fun h x => h.take x.1 x.2) h).complete = false ∧ (l.foldl (fun h x => h.take x.1 x.2) h).last = h.last := by
  induction l generalizing h with
  | nil => exact ⟨hopen, rfl⟩
  | cons x r ih =>
    rw [List.map_cons, List.sum_cons] at hroom
    have early : x.1 < h.last := hearly x List.mem_cons_self
    obtain ⟨hlast, hcomplete, hoctets⟩ : (h.take x.1 x.2).last = h.last ∧ (h.take x.1 x.2).complete = false ∧
        (h.take x.1 x.2).octets ≤ h.octets + x.2.length := by
      unfold Hold.take
      split
      · exact ⟨rfl, hopen, Nat.le_add_right _ _⟩
      · rw [if_neg (by omega)]
        exact ⟨rfl, decide_eq_false (not_le.mpr early), le_rfl⟩
    rw [List.foldl_cons, ← hlast]
    exact ih _ hcomplete (by omega) fun y hy => hlast ▸ hearly y (List.mem_cons_of_mem _ hy)

/-- The hold that starts now. -/
def Eff.holdNow (e : Eff s0) : Hold :=
  e.jrnl.entries.reverse.foldl (fun h x => h.take x.1 x.2) ⟨e.jrnl.holdNum + 1, e.holdFirst, e.frame.k, e.frame.k + e.cv oJrnlPost, [], 0,
    false, false, e.jrnl.ckpts.find? (·.frame == e.holdFirst)⟩

theorem Eff.holdNow_spans (e : Eff s0) : e.holdNow.Spans (e.jrnl.holdNum + 1) e.frame.k e.holdFirst e.jrnl.entries :=
  List.foldlRecOn (motive := (Hold.Spans · (e.jrnl.holdNum + 1) e.frame.k e.holdFirst e.jrnl.entries)) e.jrnl.entries.reverse _
    ⟨rfl, rfl, Nat.zero_le _, rfl, nofun⟩ fun _ hs x hx => hs.take x (List.mem_reverse.mp hx)

theorem Eff.holdNow_open (e : Eff s0) (hroom : (e.jrnl.entries.map (·.2.length)).sum ≤ holdOctets)
    (hearly : ∀ x ∈ e.jrnl.entries, x.1 < e.frame.k + e.cv oJrnlPost) :
    e.holdNow.complete = false ∧ e.holdNow.last = e.frame.k + e.cv oJrnlPost := by
  refine Hold.takes_open _ _ rfl ?_ fun x hx => hearly x (List.mem_reverse.mp hx)
  rw [List.map_reverse, List.sum_reverse]
  simpa using hroom

theorem Eff.startHold_first (e : Eff s0) (h : e.st.jrnl.hold = none) : e.startHold.st =
    { e.st with jrnl := { e.st.jrnl with holdNum := e.st.jrnl.holdNum + 1, hold := some e.holdNow } } := by
  unfold Eff.startHold
  rw [Eff.modJrnl_st, h]
  rfl

theorem Eff.startHold_again (e : Eff s0) (h : e.st.jrnl.hold ≠ none) :
    e.startHold.st = { e.st with jrnl := { e.st.jrnl with holdsMissed := (e.st.jrnl.holdsMissed + 1) % 2 ^ 32 } } := by
  obtain ⟨x, hx⟩ := Option.ne_none_iff_exists'.mp h
  unfold Eff.startHold
  rw [Eff.modJrnl_st, hx]
  dsimp only
  rw [← hx]

/-! ### The requests -/

section
variable (s : State) (q : Req) (lvl sid : Nat)

theorem actJrnlHold_eq (e : Eff s0) (c : Ctx) : actJrnlHold e c [] = (e.startHold, some ansOk) := if_neg (by simp)

theorem execJrnlHold_starts (h : s.Invoked q oJrnlHold [] 2 false lvl sid) (hnone : s.jrnl.hold = none) :
    ∃ t, execJrnlHold q [] s = .next t ∧ t.Replied q 3 ansOk ∧ t = { s with
      sess := t.sess, sent := t.sent, jrnl := { s.jrnl with holdNum := s.jrnl.holdNum + 1, hold := some (Eff.start s).holdNow } } := by
  refine invoke_replies s { s with jrnl := { s.jrnl with holdNum := s.jrnl.holdNum + 1, hold := some (Eff.start s).holdNow } }
    q _ _ lvl sid _ _ _ _ h fun e hst => ⟨e.startHold, actJrnlHold_eq e _, ?_⟩
  have now : e.holdNow = (Eff.start s).holdNow := by
    change (Eff.start e.st).holdNow = _
    rw [hst]
    rfl
  rw [e.startHold_first (by rw [hst, hnone]), now, hst]

theorem execJrnlHold_missed (h : s.Invoked q oJrnlHold [] 2 false lvl sid) (hhold : s.jrnl.hold ≠ none) :
    ∃ t, execJrnlHold q [] s = .next t ∧ t.Replied q 3 ansOk ∧ t = { s with
      sess := t.sess, sent := t.sent, jrnl := { s.jrnl with holdsMissed := (s.jrnl.holdsMissed + 1) % 2 ^ 32 } } := by
  refine invoke_replies s { s with jrnl := { s.jrnl with holdsMissed := (s.jrnl.holdsMissed + 1) % 2 ^ 32 } }
    q _ _ lvl sid _ _ _ _ h fun e hst => ⟨e.startHold, actJrnlHold_eq e _, ?_⟩
  rw [e.startHold_again (by rwa [hst]), hst]

theorem execJrnlRelease_releases (h : s.Invoked q oJrnlRelease [] 2 false lvl sid) : ∃ t, execJrnlRelease q [] s = .next t ∧
    t.Replied q 3 (if s.jrnl.hold = none then ansNoChange else ansOk) ∧
    t = { s with sess := t.sess, sent := t.sent, jrnl := { s.jrnl with hold := none } } := by
  refine invoke_replies s { s with jrnl := { s.jrnl with hold := none } } q _ _ lvl sid _ _ _ _ h fun e hst => ?_
  have journal : e.st.jrnl = s.jrnl := by rw [hst]
  by_cases hnone : s.jrnl.hold = none
  · refine ⟨e, (if_neg (by simp)).trans ((if_pos (by simp [journal, hnone])).trans (by rw [if_pos hnone])), ?_⟩
    rw [← hnone, hst]
  · refine ⟨e.modJrnl fun j => { j with hold := none }, ?_, e.modJrnl_sess hst _⟩
    exact (if_neg (by simp)).trans ((if_neg (by simp [journal, hnone])).trans (by rw [if_neg hnone]))

section
variable (args : List Byte) (h : s.Invoked q oJrnlExport args 1 false lvl sid) (hlen : args.length = 4)
include h hlen

theorem execJrnlExport_sends (x : Hold) (hx : s.jrnl.hold = some x) (hcomplete : x.complete = true) :
    ∃ t, execJrnlExport q args s = .next t ∧ t.Replied q 3 (ansResult 0) ∧ t = { s with
      sess := t.sess, sent := t.sent
      jrnl := { s.jrnl with jobs := s.jrnl.jobs ++ [⟨2, x.num, x.image s.dev.fwVer, fieldLe args 0 4, false⟩] } } := by
  refine invoke_replies s { s with jrnl := { s.jrnl with
    jobs := s.jrnl.jobs ++ [⟨2, x.num, x.image s.dev.fwVer, fieldLe args 0 4, false⟩] } } q _ _ lvl sid _ _ _ _ h fun e hst =>
    ⟨e.modJrnl fun j => { j with jobs := j.jobs ++ [⟨2, x.num, x.image s.dev.fwVer, fieldLe args 0 4, false⟩] }, ?_, e.modJrnl_sess hst _⟩
  refine (if_neg (by simp [hlen])).trans ?_
  rw [Eff.jrnl, Eff.dev, hst]
  dsimp only
  rw [hx]
  exact if_pos hcomplete

theorem execJrnlExport_refuses (hopen : ∀ x, s.jrnl.hold = some x → x.complete = false) :
    ∃ t, execJrnlExport q args s = .next t ∧ t.Replied q 3 (ansResult 1) ∧ t = { s with sess := t.sess, sent := t.sent } := by
  refine invoke_replies s s q _ _ lvl sid _ _ _ _ h fun e hst => ⟨e, (if_neg (by simp [hlen])).trans ?_, by rw [hst]⟩
  have hold : e.jrnl.hold = s.jrnl.hold := by rw [Eff.jrnl, hst]
  rw [hold]
  cases hx : s.jrnl.hold with
  | none => rfl
  | some x => exact if_neg (by simp [hopen x hx])

end

end

end Sys2Proof.Machine
end

