-- ==== Sys2Proof/Proofs/ReadingRoom.lean ====
section
/-! SUPPORT. The record stream (R556, R557) and Reading Room (R558 to R560). -/

namespace Sys2Proof.Machine

variable {s0 : Root}

/-! ### The record stream -/

/-- The object whose turn it is (R556): a meter record, or the first object with a datagram to send. -/
def SJob.turn (jobs : List SJob) : Option SJob := (jobs.find? fun x => x.kind == 3).or (jobs.find? (·.ready))

/-- The objects that are not sent whole. -/
def SJob.unsent (jobs : List SJob) : List SJob := jobs.filter fun x => x.growing || x.ready

/-- The octets of a datagram before its CRC. -/
def SJob.datagram (x : SJob) (seq : Nat) (last : Bool) (p : List Byte) : List Byte :=
  le 4 0x31535256 ++ le 1 x.kind ++ le 1 (ofBool last) ++ zeros 2 ++ le 8 Config.serial.toNat ++ le 4 seq ++ le 4 x.id ++
    le 4 x.offset ++ le 2 p.length ++ zeros 2 ++ p

theorem SJob.turn_of_ready (jobs : List SJob) (x : SJob) (hx : x ∈ jobs) (hready : x.ready = true) : ∃ y, SJob.turn jobs = some y := by
  have found : (jobs.find? (·.ready)).isSome = true := List.find?_isSome.mpr ⟨x, hx, hready⟩
  unfold SJob.turn
  cases jobs.find? fun x => x.kind == 3 with
  | some y => exact ⟨y, rfl⟩
  | none => exact Option.isSome_iff_exists.mp found

/-- The first object has its turn where it is a meter record, or no other is. -/
theorem SJob.turn_first (x : SJob) (r : List SJob) (hready : x.ready = true) (h : x.kind = 3 ∨ ∀ y ∈ r, y.kind ≠ 3) :
    SJob.turn (x :: r) = some x := by
  by_cases hmeter : x.kind = 3
  · simp [SJob.turn, hmeter]
  · have none : r.find? (fun x => x.kind == 3) = none := by simpa using h.resolve_left hmeter
    simp [SJob.turn, hmeter, none, hready]

section
variable (s : State)

theorem execStreamDatagram_empty (h : s.jrnl.jobs = []) : execStreamDatagram s = .next s := by
  have same : { s with jrnl := { s.jrnl with jobs := [] } } = s := by rw [← h]
  refine Eq.trans ?_ (congrArg Host.Outcome.next same)
  unfold execStreamDatagram
  dsimp only [Eff.start_st, Eff.jrnl]
  rw [h]
  rfl

theorem execStreamDatagram_waits (hready : ∃ x ∈ s.jrnl.jobs, x.ready = true) (h : s.cv oStreamIp 0 = 0 ∨ s.time.up < s.jrnl.nextAt) :
    execStreamDatagram s = .next s := by
  obtain ⟨x, hx, hr⟩ := hready
  obtain ⟨y, hy⟩ := SJob.turn_of_ready (SJob.unsent s.jrnl.jobs) x (List.mem_filter.mpr ⟨hx, by simp [hr]⟩) hr
  simp only [SJob.turn, SJob.unsent] at hy
  unfold execStreamDatagram
  dsimp only [Eff.start_st, Eff.jrnl]
  rw [hy]
  exact if_pos h

/-- The object in turn sends its next octets, and leaves the stream with its last. -/
theorem execStreamDatagram_sends (x : SJob) (r : List SJob) (p : List Byte) (last : Bool) (hjobs : s.jrnl.jobs = x :: r)
    (hready : x.ready = true) (hturn : x.kind = 3 ∨ ∀ y ∈ r, y.kind ≠ 3) (hrest : ∀ y ∈ r, y.growing = true ∨ y.ready = true)
    (hip : s.cv oStreamIp 0 ≠ 0) (hnext : s.jrnl.nextAt ≤ s.time.up) (hp : p = (x.octets.drop x.offset).take 1436)
    (hlast : last = (!x.growing && decide (x.octets.length ≤ x.offset + p.length))) :
    execStreamDatagram s = .next { s with
      sent := .stream (.udp (if s.cv oStreamE 0 = 0 then 0 else 1) (BitVec.ofNat 32 (s.cv oStreamIp 0)) (BitVec.ofNat 16 (s.cv oStreamUdp 0)))
        (x.datagram s.jrnl.seq last p ++ le 4 (crc32c (x.datagram s.jrnl.seq last p)).toNat) :: s.sent
      jrnl := { s.jrnl with
        jobs := (if last = true then [] else [{ x with offset := x.offset + p.length }]) ++ r, seq := (s.jrnl.seq + 1) % 2 ^ 32
        nextAt := s.time.up + (((x.datagram s.jrnl.seq last p).length + 4) * 8000 + s.cv oStreamRateNet 0 - 1) / s.cv oStreamRateNet 0 } } := by
  have whole : SJob.unsent (x :: r) = x :: r := List.filter_eq_self.mpr (by simpa [hready] using hrest)
  have turn := SJob.turn_first x r hready hturn
  simp only [SJob.turn, SJob.unsent] at turn whole
  have first : List.idxOf x (x :: r) = 0 := List.idxOf_cons_self
  have long : (x.datagram s.jrnl.seq last p ++ le 4 (crc32c (x.datagram s.jrnl.seq last p)).toNat).length =
      (x.datagram s.jrnl.seq last p).length + 4 := by rw [List.length_append, length_le]
  unfold execStreamDatagram
  dsimp only [Eff.start_st, Eff.jrnl]
  rw [hjobs, whole, turn]
  refine (if_neg (not_or.mpr ⟨hip, not_lt.mpr hnext⟩)).trans ?_
  rw [first, ← hp, ← hlast, ← long]
  rfl

end

/-! ### Starting, stopping and filling a replay -/

/-- The domains of a mask that a session stages. -/
def stagedMask (owns : Nat → Bool) (n : Nat) : Nat := (List.range n).foldl (fun a d => if owns d then a + 2 ^ d else a) 0

theorem stagedMask_succ (owns : Nat → Bool) (n : Nat) :
    stagedMask owns (n + 1) = if owns n then stagedMask owns n + 2 ^ n else stagedMask owns n := by
  rw [stagedMask, List.range_succ, List.foldl_append]
  rfl

theorem stagedMask_lt (owns : Nat → Bool) (n : Nat) : stagedMask owns n < 2 ^ n := by
  induction n with
  | zero => exact Nat.one_pos
  | succ n ih =>
    rw [stagedMask_succ]
    split <;> omega

theorem bitOf_eq_testBit (n b : Nat) : bitOf n b = n.testBit b := by
  simp [bitOf, field, Nat.testBit_eq_decide_div_mod_eq, BEq.beq]

/-- The bits of the mask are the domains that the session stages. -/
theorem bitOf_stagedMask (owns : Nat → Bool) (n d : Nat) (h : d < n) : bitOf (stagedMask owns n) d = owns d := by
  rw [bitOf_eq_testBit]
  induction n with
  | zero => exact absurd h (Nat.not_lt_zero d)
  | succ n ih =>
    have below := Nat.testBit_lt_two_pow (stagedMask_lt owns n)
    rw [stagedMask_succ]
    rcases Nat.lt_succ_iff_lt_or_eq.mp h with hlt | rfl
    · split
      · rw [Nat.add_comm, Nat.testBit_two_pow_add_gt hlt, ih hlt]
      · exact ih hlt
    · cases howns : owns d with
      | true => rw [if_pos rfl, Nat.add_comm, Nat.testBit_two_pow_add_eq, below]; rfl
      | false => rw [if_neg Bool.false_ne_true, below]

/-- Whether a replay cannot start (R558): one runs, or RR_UNIT is not OFF. -/
def Eff.rrBusy (e : Eff s0) : Bool :=
  e.jrnl.run.isSome || decide (31 < e.cv oRrUnit) || (e.wu (e.cv oRrUnit)).state != .off

/-- The run that RR_START begins (R558, R560). -/
def Eff.rrRun (e : Eff s0) (sess : Nat) (args : List Byte) : RRun :=
  ⟨octet args 0 == 1, octet args 1 == 1,
    stagedMask (fun d => bitOf (fieldLe args 2 2) d && (e.dom d).owner == sess && sess != 0) 15, fieldLe args 4 8, fieldLe args 12 8,
    e.sourceCkpt (octet args 1 == 1), e.jrnl.runs + 1⟩

section
variable {s : State} (e : Act s) (hst : e.st = { s with sess := e.st.sess })
include hst

/-- The session of the request bears neither on RR_UNIT nor on the source. -/
theorem Eff.rrBusy_sess : e.rrBusy = (Eff.start s).rrBusy := by
  change (Eff.start e.st).rrBusy = _
  rw [hst]
  rfl

theorem Eff.sourceFits_sess (imported : Bool) (first last : Nat) :
    e.sourceFits imported first last = (Eff.start s).sourceFits imported first last := by
  change (Eff.start e.st).sourceFits imported first last = _
  rw [hst]
  rfl

theorem Eff.rrRun_sess (sess : Nat) (args : List Byte) : e.rrRun sess args = (Eff.start s).rrRun sess args := by
  change (Eff.start e.st).rrRun sess args = _
  rw [hst]
  rfl

end

/-- RR_START with arguments in range. -/
theorem actRrStart_eq (e : Eff s0) (c : Ctx) (args : List Byte) (hlen : args.length = 20) (hmode : octet args 0 ≤ 1) (hsrc : octet args 1 ≤ 1)
    (hmask : fieldLe args 2 2 < 2 ^ 15) (hspan : fieldLe args 4 8 ≤ fieldLe args 12 8) : actRrStart e c args =
    if e.rrBusy then (e, some (ansResult 1))
    else if octet args 1 == 1 && badImport e.jrnl.image then (e.modJrnl fun j => { j with status := 4 }, some (ansResult 1))
    else if !e.sourceFits (octet args 1 == 1) (fieldLe args 4 8) (fieldLe args 12 8) then (e, some (ansResult 1))
    else (e.modJrnl fun j => { j with
      run := some (e.rrRun c.sess args), runs := j.runs + 1, status := 1, firstDiff := none, diffs := 0, words := [] },
      some (ansResult 0)) :=
  (if_neg (by simp [hlen])).trans (if_neg (by omega))

section
variable (s : State) (q : Req) (args : List Byte) (lvl sid : Nat) (h : s.Invoked q oRrStart args 2 false lvl sid)
  (hlen : args.length = 20) (hmode : octet args 0 ≤ 1) (hsrc : octet args 1 ≤ 1) (hmask : fieldLe args 2 2 < 2 ^ 15)
  (hspan : fieldLe args 4 8 ≤ fieldLe args 12 8)
include h hlen hmode hsrc hmask hspan

theorem execRrStart_busy (hbusy : (Eff.start s).rrBusy = true) : ∃ t, execRrStart q args s = .next t ∧ t.Replied q 3 (ansResult 1) ∧
    t = { s with sess := t.sess, sent := t.sent } := by
  refine invoke_replies s s q _ _ lvl sid _ _ _ _ h fun e hst => ⟨e, ?_, by rw [hst]⟩
  exact (actRrStart_eq e _ args hlen hmode hsrc hmask hspan).trans (if_pos ((e.rrBusy_sess hst).trans hbusy))

variable (hfree : (Eff.start s).rrBusy = false)
include hfree

theorem execRrStart_bad (himport : octet args 1 = 1) (hbad : badImport s.jrnl.image = true) : ∃ t, execRrStart q args s = .next t ∧
    t.Replied q 3 (ansResult 1) ∧ t = { s with sess := t.sess, sent := t.sent, jrnl := { s.jrnl with status := 4 } } := by
  refine invoke_replies s { s with jrnl := { s.jrnl with status := 4 } } q _ _ lvl sid _ _ _ _ h fun e hst =>
    ⟨e.modJrnl fun j => { j with status := 4 }, ?_, e.modJrnl_sess hst _⟩
  refine (actRrStart_eq e _ args hlen hmode hsrc hmask hspan).trans ((if_neg ?_).trans (if_pos ?_))
  · rw [e.rrBusy_sess hst, hfree]
    exact Bool.false_ne_true
  · rw [Eff.jrnl, hst]
    simp [himport, hbad]

theorem execRrStart_starts (hgood : octet args 1 = 1 → badImport s.jrnl.image = false)
    (hfits : (Eff.start s).sourceFits (octet args 1 == 1) (fieldLe args 4 8) (fieldLe args 12 8) = true) :
    ∃ t, execRrStart q args s = .next t ∧ t.Replied q 3 (ansResult 0) ∧ t = { s with
      sess := t.sess, sent := t.sent
      jrnl := { s.jrnl with
        run := some ((Eff.start s).rrRun sid args), runs := s.jrnl.runs + 1, status := 1, firstDiff := none, diffs := 0, words := [] } } := by
  refine invoke_replies s { s with jrnl := { s.jrnl with
    run := some ((Eff.start s).rrRun sid args), runs := s.jrnl.runs + 1, status := 1, firstDiff := none, diffs := 0, words := [] } }
    q _ _ lvl sid _ _ _ _ h fun e hst => ⟨e.modJrnl fun j => { j with
      run := some (e.rrRun sid args), runs := j.runs + 1, status := 1, firstDiff := none, diffs := 0, words := [] }, ?_, ?_⟩
  · refine (actRrStart_eq e _ args hlen hmode hsrc hmask hspan).trans ((if_neg ?_).trans ((if_neg ?_).trans (if_neg ?_)))
    · rw [e.rrBusy_sess hst, hfree]
      exact Bool.false_ne_true
    · rw [Eff.jrnl, hst]
      simpa using hgood
    · rw [e.sourceFits_sess hst, hfits]
      exact Bool.false_ne_true
  · rw [e.rrRun_sess hst]
    exact e.modJrnl_sess hst _

end

section
variable (s : State) (q : Req) (lvl sid : Nat) (h : s.Invoked q oRrStop [] 2 false lvl sid)
include h

theorem execRrStop_idle (hrun : s.jrnl.run = none) : ∃ t, execRrStop q [] s = .next t ∧ t.Replied q 3 ansNoChange ∧
    t = { s with sess := t.sess, sent := t.sent } := by
  refine invoke_replies s s q _ _ lvl sid _ _ _ _ h fun e hst => ⟨e, (if_neg (by simp)).trans (if_pos ?_), by rw [hst]⟩
  rw [Eff.jrnl, hst]
  simp [hrun]

theorem execRrStop_stops (hrun : s.jrnl.run ≠ none) : ∃ t, execRrStop q [] s = .next t ∧ t.Replied q 3 ansOk ∧ t = { s with
    sess := t.sess, sent := t.sent, jrnl := { s.jrnl with run := none, status := 0, jobs := endObject s.jrnl.jobs } } := by
  refine invoke_replies s { s with jrnl := { s.jrnl with run := none, status := 0, jobs := endObject s.jrnl.jobs } } q _ _ lvl sid _ _ _ _ h
    fun e hst => ⟨e.modJrnl fun j => { j with run := none, status := 0, jobs := endObject j.jobs }, ?_, e.modJrnl_sess hst _⟩
  refine (if_neg (by simp)).trans (if_neg ?_)
  rw [Eff.jrnl, hst]
  simp [hrun]

end

/-- RR_IMPORT of octets that lie within the source. -/
theorem actRrImport_eq (e : Eff s0) (c : Ctx) (args : List Byte) (hlen : args.length = 6 + fieldLe args 4 2) (hn : fieldLe args 4 2 ≤ 1024)
    (hend : fieldLe args 0 4 + fieldLe args 4 2 ≤ 20971520) : actRrImport e c args =
    if !(e.st.devState == .ready || e.st.devState == .safe) then (e, some (ansResult 1))
    else (e.modJrnl fun j => { j with
      image := padTo (fieldLe args 0 4) j.image ++ args.drop 6 ++ j.image.drop (fieldLe args 0 4 + fieldLe args 4 2) }, some (ansResult 0)) := by
  have room : 2 * 1048576 + ringOctets = 20971520 := rfl
  exact (if_neg (by omega)).trans (if_neg (by omega))

section
variable (s : State) (q : Req) (args : List Byte) (lvl sid : Nat) (h : s.Invoked q oRrImport args 2 false lvl sid)
  (hlen : args.length = 6 + fieldLe args 4 2) (hn : fieldLe args 4 2 ≤ 1024) (hend : fieldLe args 0 4 + fieldLe args 4 2 ≤ 20971520)
include h hlen hn hend

theorem execRrImport_refuses (hstate : s.devState ≠ .ready ∧ s.devState ≠ .safe) : ∃ t, execRrImport q args s = .next t ∧
    t.Replied q 3 (ansResult 1) ∧ t = { s with sess := t.sess, sent := t.sent } := by
  refine invoke_replies s s q _ _ lvl sid _ _ _ _ h fun e hst => ⟨e, ?_, by rw [hst]⟩
  have state : e.st.devState = s.devState := by rw [hst]; rfl
  exact (actRrImport_eq e _ args hlen hn hend).trans (if_pos (by simp [state, hstate]))

theorem execRrImport_fills (hstate : s.devState = .ready ∨ s.devState = .safe) : ∃ t, execRrImport q args s = .next t ∧
    t.Replied q 3 (ansResult 0) ∧ t = { s with
      sess := t.sess, sent := t.sent
      jrnl := { s.jrnl with
        image := padTo (fieldLe args 0 4) s.jrnl.image ++ args.drop 6 ++ s.jrnl.image.drop (fieldLe args 0 4 + fieldLe args 4 2) } } := by
  refine invoke_replies s { s with jrnl := { s.jrnl with
    image := padTo (fieldLe args 0 4) s.jrnl.image ++ args.drop 6 ++ s.jrnl.image.drop (fieldLe args 0 4 + fieldLe args 4 2) } }
    q _ _ lvl sid _ _ _ _ h fun e hst => ⟨e.modJrnl fun j => { j with
      image := padTo (fieldLe args 0 4) j.image ++ args.drop 6 ++ j.image.drop (fieldLe args 0 4 + fieldLe args 4 2) }, ?_, e.modJrnl_sess hst _⟩
  have state : e.st.devState = s.devState := by rw [hst]; rfl
  exact (actRrImport_eq e _ args hlen hn hend).trans (if_neg (by rcases hstate with h | h <;> simp [state, h]))

end

/-! ### A replayed frame -/

/-- What the digests of a replayed frame make of the counters. -/
def JrnlSt.compared (j : JrnlSt) (next : Nat) (eq : Bool) : JrnlSt := { j with
  firstDiff := if eq = true then j.firstDiff else some (j.firstDiff.getD next)
  diffs := if eq = true then j.diffs else (j.diffs + 1) % 2 ^ 32 }

/-- What the end of a replayed frame makes of the run. -/
def JrnlSt.ended (j : JrnlSt) (r : RRun) : JrnlSt := { j with
  run := if r.last ≤ r.next then none else some { r with next := r.next + 1 }, status := if r.last ≤ r.next then 3 else 1
  jobs := if r.last ≤ r.next then endObject j.jobs else j.jobs }

/-- One record of a replayed frame goes to RR_UNIT. -/
def Eff.rrRecord (u : Nat) (e : Eff s0) (x : ARec) : Eff s0 :=
  (e.modJrnl fun j => { j with words := smSet none j.words x.point (some x.word) }).modWu u fun w => { w with
    recs := (x :: w.recs).take (e.cv oWuRsize u * 4096) }

/-- The records of a replayed frame go to RR_UNIT and, with RR_STREAM set, to the stream. -/
def Eff.rrRecords (e : Eff s0) (u num : Nat) (stream : Bool) (recs : List ARec) : Eff s0 :=
  (e.each recs (Eff.rrRecord u)).when (stream && !recs.isEmpty) (·.modJrnl fun j => { j with
    jobs := growObject j.jobs num (recs.flatMap ARec.octets) })

theorem Eff.rrRecords_st (e : Eff s0) (u num : Nat) (stream : Bool) (recs : List ARec) (t : State)
    (ht : t = (e.rrRecords u num stream recs).st) :
    t = { e.st with watch := t.watch, jrnl := { e.st.jrnl with words := t.jrnl.words, jobs := t.jrnl.jobs } } := by
  subst ht
  have each : (e.each recs (Eff.rrRecord u)).st = { e.st with
      watch := (e.each recs (Eff.rrRecord u)).st.watch
      jrnl := { e.st.jrnl with words := (e.each recs (Eff.rrRecord u)).st.jrnl.words } } :=
    Eff.foldl_rel (s0 := s0) (fun a b => b = { a with watch := b.watch, jrnl := { a.jrnl with words := b.jrnl.words } }) (fun _ => rfl)
      (fun a b c h1 h2 => by rw [h2, h1]) (Eff.rrRecord u) (fun _ _ => rfl) recs e
  unfold Eff.rrRecords
  generalize e.each recs (Eff.rrRecord u) = x at each
  cases stream && !recs.isEmpty with
  | false =>
    rw [Eff.when_false]
    have jobs : x.st.jrnl.jobs = e.st.jrnl.jobs := by rw [each]
    rw [jobs]
    exact each
  | true =>
    rw [Eff.when_true, Eff.modJrnl_st, each]

section
variable (s : State) (eq : Bool) (ch : List (Fin 2097152 × PointWord))

theorem execReplayFrame_none (h : s.jrnl.run = none) : execReplayFrame eq ch s = .next s := by
  unfold execReplayFrame
  dsimp only [Eff.start_st, Eff.jrnl]
  rw [h]

variable (r : RRun) (h : s.jrnl.run = some r)
include h

theorem execReplayFrame_paused (hpaused : (Eff.start s).rrPaused = true) : execReplayFrame eq ch s = .next s := by
  unfold execReplayFrame
  dsimp only [Eff.start_st, Eff.jrnl]
  rw [h]
  exact if_pos hpaused

variable (hgoes : (Eff.start s).rrPaused = false)
include hgoes

/-- A replayed frame compares its digests, records its changes, and goes on or ends the run. -/
theorem execReplayFrame_goes : ∃ (e : Act s) (u : Nat) (stream : Bool) (recs : List ARec),
    e.st = { s with jrnl := s.jrnl.compared r.next eq } ∧ (ch = [] → recs = []) ∧
    execReplayFrame eq ch s = .next ((e.rrRecords u r.num stream recs).modJrnl (·.ended r)).st := by
  unfold execReplayFrame
  dsimp only [Eff.start_st, Eff.jrnl]
  rw [h]
  dsimp only
  rw [if_neg (by simp [hgoes])]
  refine ⟨_, _, _, _, ?counted, ?unchanged, rfl⟩
  case counted =>
    cases eq with
    | true => rfl
    | false =>
      rw [Bool.not_false, Eff.when_true, Eff.modJrnl_st]
      cases hfirst : s.jrnl.firstDiff <;> simp [JrnlSt.compared, hfirst]
  case unchanged =>
    rintro rfl
    simp

theorem execReplayFrame_changes : ∃ t, execReplayFrame eq ch s = .next t ∧ t = { s with
    watch := t.watch, jrnl := { (s.jrnl.compared r.next eq).ended r with jobs := t.jrnl.jobs, words := t.jrnl.words } } := by
  obtain ⟨e, u, stream, recs, counted, -, goes⟩ := execReplayFrame_goes s eq ch r h hgoes
  have recorded := e.rrRecords_st u r.num stream recs _ rfl
  refine ⟨_, goes, ?_⟩
  generalize e.rrRecords u r.num stream recs = x at recorded
  rw [Eff.modJrnl_st, recorded, counted]
  rfl

theorem execReplayFrame_unchanged : execReplayFrame eq [] s = .next { s with jrnl := (s.jrnl.compared r.next eq).ended r } := by
  obtain ⟨e, u, stream, recs, counted, norecs, goes⟩ := execReplayFrame_goes s eq [] r h hgoes
  obtain rfl := norecs rfl
  have same : (e.rrRecords u r.num stream []).st = e.st := by
    rw [Eff.rrRecords, Eff.each_nil, List.isEmpty_nil, Bool.not_true, Bool.and_false, Eff.when_false]
  rw [goes, Eff.modJrnl_st, same, counted]

end

/-! ### The statement -/

/-- Settles O54, a request and an event at a time: each is its checks, and the change of the journal that they let through. -/
theorem journalStreamAndReplaysComplete : Obligations.JournalStreamAndReplaysComplete := by
  unfold Obligations.JournalStreamAndReplaysComplete
  refine ⟨?hold, execJrnlRelease_releases, ?send, ?silent, ?sends, ?start, ?stop, ?fill, execReplayFrame_none, ?frame⟩
  case hold =>
    intro s q lvl sid h
    refine ⟨fun hnone => ?_, execJrnlHold_missed s q lvl sid h⟩
    obtain ⟨t, ht, replied, changed⟩ := execJrnlHold_starts s q lvl sid h hnone
    obtain ⟨num, fh, octets, first, entries⟩ := (Eff.start s).holdNow_spans
    refine ⟨t, (Eff.start s).holdNow, ht, replied, num, fh, ?_, octets, ?_, ?_, (Eff.start s).holdNow_open, changed⟩
    · rw [first]
      exact (Eff.start s).holdFirst_le
    · rwa [first]
    · intro c hslot hdone hold
      rw [first]
      exact (Eff.start s).le_holdFirst c hslot hdone hold
  case send =>
    intro s q args lvl sid h hlen
    exact ⟨execJrnlExport_sends s q lvl sid args h hlen, execJrnlExport_refuses s q lvl sid args h hlen⟩
  case silent =>
    rintro s (h | ⟨hready, h⟩)
    · exact execStreamDatagram_empty s h
    · exact execStreamDatagram_waits s hready h
  case sends =>
    rintro s x r p m last hjobs hready hturn hrest hip hnext hp hlast rfl
    exact execStreamDatagram_sends s x r p last hjobs hready hturn hrest hip hnext hp hlast
  case start =>
    intro s q args lvl sid h hlen hmode hsrc hmask hspan
    have free (hrun : s.jrnl.run = none) (hunit : s.cv oRrUnit 0 ≤ 31) (hoff : (smGet WUnit.reset s.watch (s.cv oRrUnit 0)).state = .off) :
        (Eff.start s).rrBusy = false := by
      have unit : decide (31 < (Eff.start s).cv oRrUnit) = false := decide_eq_false (not_lt.mpr hunit)
      rw [Eff.rrBusy, unit]
      simp [hrun, hoff]
    refine ⟨fun hbusy => ?_, fun hrun hunit hoff => execRrStart_bad s q args lvl sid h hlen hmode hsrc hmask hspan (free hrun hunit hoff), ?_⟩
    · refine execRrStart_busy s q args lvl sid h hlen hmode hsrc hmask hspan ?_
      rcases hbusy with hrun | hunit | hunit
      · simp [Eff.rrBusy, Option.isSome_iff_ne_none.mpr hrun]
      · simp [Eff.rrBusy, hunit]
      · simp [Eff.rrBusy, hunit]
    · intro hrun hunit hoff hgood hfits
      obtain ⟨t, ht, replied, changed⟩ :=
        execRrStart_starts s q args lvl sid h hlen hmode hsrc hmask hspan (free hrun hunit hoff) hgood hfits
      refine ⟨t, (Eff.start s).rrRun sid args, ht, replied, rfl, rfl, rfl, rfl, rfl, rfl, fun d hd => ?_, changed⟩
      rw [Eff.rrRun, bitOf_stagedMask _ _ _ hd]
      simp [and_assoc]
  case stop =>
    intro s q lvl sid h
    exact ⟨execRrStop_idle s q lvl sid h, execRrStop_stops s q lvl sid h⟩
  case fill =>
    rintro s q args lvl sid off n h rfl rfl hlen hn hend
    exact ⟨execRrImport_refuses s q args lvl sid h hlen hn hend, execRrImport_fills s q args lvl sid h hlen hn hend⟩
  case frame =>
    intro s eq ch r h
    exact ⟨execReplayFrame_paused s eq ch r h, execReplayFrame_changes s eq ch r h, execReplayFrame_unchanged s eq r h⟩

end Sys2Proof.Machine
end

