-- ==== Sys2Proof/Proofs/Servo.lean ====
section
/-! SUPPORT. The servo: its samples, HOLD, discontinuities and authorised steps (R490 to R495). -/

namespace Sys2Proof.Machine

variable {s0 : Root}

/-- What is done under a condition, by the condition. -/
theorem Eff.when_st {c : Bool} {p : Prop} [Decidable p] (h : c = true ↔ p) (e : Eff s0) (f : Eff s0 → Eff s0) :
    (e.when c f).st = if p then (f e).st else e.st := by
  by_cases hp : p
  · rw [if_pos hp, h.mpr hp, Eff.when_true]
  · rw [if_neg hp, Bool.eq_false_of_not_eq_true (mt h.mp hp), Eff.when_false]

/-! ### HOLD and discontinuities (R492, R494) -/

/-- The time unit in HOLD, with the mean INCREMENT of the last samples. -/
def TimeSt.held (t : TimeSt) : TimeSt := { t with
  servo := .hold, holdGood := 0, incr := if t.incrs = [] then t.incr else t.incrs.foldl (· + ·) 0 / t.incrs.length }

theorem Eff.enterHold_st (e : Eff s0) (h : e.st.Quiet kTimeHold 0) :
    e.enterHold.st = { e.st with time := e.st.time.held, faults := e.st.noted 0x051 kTimeHold 0 } := by
  have mean (t : TimeSt) : ({ t with
      servo := .hold, holdGood := 0
      incr := if t.incrs.isEmpty then t.incr else t.incrs.foldl (· + ·) 0 / t.incrs.length } : TimeSt) = t.held := by
    cases hl : t.incrs <;> simp [TimeSt.held, hl]
  unfold Eff.enterHold
  simp only [mean]
  exact Eff.fault_quiet _ 0x051 kTimeHold 0 (h.congr rfl rfl)

/-- A sample beyond STEP_THRESHOLD: HOLD, the trouble bit, and every running meter interval is marked. -/
theorem Eff.discontinuity_st (e : Eff s0) (hhold : e.st.Quiet kTimeHold 0) (hdisc : e.st.Quiet kTimeDiscontinuity 0) :
    e.discontinuity.st = { e.st with
      time := e.st.time.held, trouble := e.st.trouble ||| 2, faults := e.discontinuity.st.faults
      meter := { e.st.meter with ports := e.st.meter.ports.map fun p => (p.1, { p.2 with disc := p.2.disc || p.2.started }) } } := by
  unfold Eff.discontinuity
  have held := e.enterHold_st hhold
  generalize e.enterHold = x at held ⊢
  have marked := x.setTrouble_st 1
  generalize x.setTrouble 1 = y at marked ⊢
  have dict : y.st.cfg = e.st.cfg ∧ y.st.pair.strapB = e.st.pair.strapB := by rw [marked, held]; exact ⟨rfl, rfl⟩
  have raised (z : Eff s0) (hz : z.st = { y.st with meter := z.st.meter }) : (z.fault 0x051 kTimeDiscontinuity).st =
      { z.st with faults := (z.fault 0x051 kTimeDiscontinuity).st.faults } := by
    have quiet : z.st.Quiet kTimeDiscontinuity 0 := hdisc.congr (by rw [hz, dict.1]) (by rw [hz, dict.2])
    rw [Eff.fault_quiet z 0x051 kTimeDiscontinuity 0 quiet]
  generalize hz : y.modMeter _ = z
  have zst := congrArg Eff.st hz
  rw [Eff.modMeter_st] at zst
  rw [raised z (by rw [← zst]), ← zst, marked, held]
  rfl

/-! ### Offset samples (R492 to R494) -/

/-- The time unit once a sample has come; a FREE servo acquires. -/
def TimeSt.sampled (t : TimeSt) (o : Int) : TimeSt := { t with
  samples := (o :: t.samples).take 8, lastSample := o, servo := if t.servo == .free then .acquire else t.servo }

/-- What the servo makes of a sample in ACQUIRE: nothing before eight samples agree; then it locks, on the first lock with a step
where the mean is large and the state allows one. -/
def Eff.acquire (e : Eff s0) (thr : Int) : Eff s0 :=
  match e.lockMean with
  | none => e
  | some m =>
    let first := !e.time.everLocked && !e.time.stepUsed
    let e := (e.modTime fun t => { t with valid := true }).modTime fun t => { t with everLocked := true }
    if !decide (thr < m ∨ m < -thr) then e.modTime fun t => { t with servo := .locked }
    else if first && e.mayStep then e.modTime fun t => { t with servo := .locked, stepAt := some (-m), samples := [] }
    else e.discontinuity

/-- What the servo makes of a sample that has come, by its mode; `far` is beyond STEP_THRESHOLD. -/
def Eff.servoTurn (e : Eff s0) (thr : Int) (far : Bool) : Eff s0 :=
  match e.time.servo with
  | .free => e
  | .acquire => e.acquire thr
  | .locked => if far && e.time.stepAt.isNone then e.discontinuity else e.steer
  | .hold =>
    let n := if far then 0 else e.time.holdGood + 1
    if 8 ≤ n then e.modTime fun t => { t with servo := .locked, holdGood := 0 } else e.modTime fun t => { t with holdGood := n }

theorem Eff.offsetSample_eq (e : Eff s0) (o : Int) : e.offsetSample o =
    ((e.modTime (·.sampled o)).servoTurn e.stepThr (decide (e.stepThr < o ∨ o < -e.stepThr))).modTime fun t => { t with lastSampleAt := t.up } :=
  rfl

theorem Eff.offsetSample_acquires (e : Eff s0) (o : Int) (h : e.st.time.servo = .free ∨ e.st.time.servo = .acquire) :
    e.offsetSample o = ((e.modTime (·.sampled o)).acquire e.stepThr).modTime fun t => { t with lastSampleAt := t.up } := by
  have servo : (e.modTime (·.sampled o)).time.servo = .acquire := by
    rcases h with h | h <;> simp [TimeSt.sampled, h]
  rw [Eff.offsetSample_eq, Eff.servoTurn, servo]

theorem Eff.offsetSample_locked_far (e : Eff s0) (o : Int) (hservo : e.st.time.servo = .locked) (hstep : e.st.time.stepAt = none)
    (hfar : o < -e.stepThr ∨ e.stepThr < o) :
    e.offsetSample o = (e.modTime (·.sampled o)).discontinuity.modTime fun t => { t with lastSampleAt := t.up } := by
  have servo : (e.modTime (·.sampled o)).time.servo = .locked := by simp [TimeSt.sampled, hservo]
  have step : (e.modTime (·.sampled o)).time.stepAt.isNone = true := by simp [TimeSt.sampled, hstep]
  rw [Eff.offsetSample_eq, Eff.servoTurn, servo, step, decide_eq_true hfar.symm]
  rfl

/-- The first sample of a FREE servo. -/
theorem Eff.offsetSample_first (e : Eff s0) (o : Int) (hservo : e.st.time.servo = .free) (hnone : e.st.time.samples = []) :
    (e.offsetSample o).st = { e.st with time := { e.st.time with
      samples := [o], lastSample := o, servo := .acquire, lastSampleAt := e.st.time.up } } := by
  have one : (e.modTime (·.sampled o)).lockMean = none := if_neg (by simp [TimeSt.sampled, hnone])
  rw [e.offsetSample_acquires o (.inl hservo), Eff.acquire, one]
  simp [TimeSt.sampled, hservo, hnone]

section
variable (e : Eff s0) (o m : Int) (hservo : e.st.time.servo = .acquire)
  (hmean : (Eff.start { e.st with time := { e.st.time with samples := (o :: e.st.time.samples).take 8 } }).lockMean = some m)
include hservo hmean

/-- Samples that agree about a small mean lock the servo. -/
theorem Eff.offsetSample_locks (hsmall : -e.stepThr ≤ m ∧ m ≤ e.stepThr) : (e.offsetSample o).st = { e.st with time := { e.st.time with
    samples := (o :: e.st.time.samples).take 8, lastSample := o, servo := .locked, valid := true, everLocked := true
    lastSampleAt := e.st.time.up } } := by
  have mean : (e.modTime (·.sampled o)).lockMean = some m := hmean
  have small : (!decide (e.stepThr < m ∨ m < -e.stepThr)) = true := by simpa using ⟨hsmall.2, hsmall.1⟩
  rw [e.offsetSample_acquires o (.inr hservo), Eff.acquire, mean]
  dsimp only
  rw [if_pos small]
  simp [TimeSt.sampled, hservo]

/-- About a large mean the first lock steps, where the state allows it. -/
theorem Eff.offsetSample_steps (hlarge : m < -e.stepThr ∨ e.stepThr < m) (hnever : e.st.time.everLocked = false)
    (hunused : e.st.time.stepUsed = false) (hmay : e.mayStep = true) : (e.offsetSample o).st = { e.st with time := { e.st.time with
    samples := [], lastSample := o, servo := .locked, valid := true, everLocked := true, stepAt := some (-m)
    lastSampleAt := e.st.time.up } } := by
  have mean : (e.modTime (·.sampled o)).lockMean = some m := hmean
  have large : ¬(!decide (e.stepThr < m ∨ m < -e.stepThr)) = true := by simpa [or_iff_not_imp_left] using hlarge.symm
  have may : ((!(e.modTime (·.sampled o)).time.everLocked && !(e.modTime (·.sampled o)).time.stepUsed) && e.mayStep) = true := by
    simp [TimeSt.sampled, hnever, hunused, hmay]
  rw [e.offsetSample_acquires o (.inr hservo), Eff.acquire, mean]
  dsimp only
  rw [if_neg large]
  refine (congrArg (fun x : Eff s0 => (x.modTime fun t => { t with lastSampleAt := t.up }).st) (if_pos may)).trans ?_
  simp [TimeSt.sampled]

end

/-- A far sample of a LOCKED servo never steps. -/
theorem Eff.offsetSample_jumps (e : Eff s0) (o : Int) (hservo : e.st.time.servo = .locked) (hstep : e.st.time.stepAt = none)
    (hfar : o < -e.stepThr ∨ e.stepThr < o) (hhold : e.st.Quiet kTimeHold 0) (hdisc : e.st.Quiet kTimeDiscontinuity 0) :
    (e.offsetSample o).st = { e.st with
      time := { (e.st.time.sampled o).held with lastSampleAt := e.st.time.up }, trouble := e.st.trouble ||| 2
      faults := (e.offsetSample o).st.faults
      meter := { e.st.meter with ports := e.st.meter.ports.map fun p => (p.1, { p.2 with disc := p.2.disc || p.2.started }) } } := by
  rw [e.offsetSample_locked_far o hservo hstep hfar, Eff.modTime_st,
    (e.modTime (·.sampled o)).discontinuity_st (hhold.congr rfl rfl) (hdisc.congr rfl rfl)]
  rfl

/-! ### The loss of samples (R492) -/

theorem execTimeHold_elsewhere (s : State) (h : s.time.servo ≠ .locked) : execTimeHold s = .next s :=
  if_neg (by simp [h])

/-- The steering of the peer expects a sample each frame. -/
theorem execTimeHold_peer (s : State) (hservo : s.time.servo = .locked) (hsource : s.time.source = 2) (hquiet : s.Quiet kTimeHold 0) :
    execTimeHold s = .next (
      if s.time.lastSampleAt + 4 * s.cv oFramePeriod 0 ≤ s.time.up then { s with time := s.time.held, faults := s.noted 0x051 kTimeHold 0 }
      else s) := by
  have due : (s.time.servo == .locked && decide ((s.time.lastSampleAt : Int) + 4 * ((Eff.start s).tf : Int) ≤ s.time.up)) =
      decide (s.time.lastSampleAt + 4 * s.cv oFramePeriod 0 ≤ s.time.up) := by
    rw [hservo, beq_self_eq_true, Bool.true_and]
    refine decide_eq_decide.mpr ?_
    change (s.time.lastSampleAt : Int) + 4 * (s.cv oFramePeriod 0 : Int) ≤ s.time.up ↔ _
    omega
  unfold execTimeHold
  simp only [Eff.time, Eff.start_st, hsource, if_true, due, decide_eq_true_eq, (Eff.start s).enterHold_st hquiet]
  split <;> rfl

end Sys2Proof.Machine
end

