-- ==== Sys2Proof/Proofs/Calendar.lean ====
section
/-! SUPPORT. Authorised steps, UTC and the calendar clock (R489, R495, R508 to R510). -/

namespace Sys2Proof.Machine

variable {s0 : Root}

/-! ### STEP_AUTHORISE (R495) -/

section
variable (s : State) (q : Req) (lvl sid : Nat) (h : s.Invoked q oStepAuthorise [] 2 false lvl sid)

/-- STEP_AUTHORISE as it runs on a request that has passed. -/
theorem actStepAuthorise_admitted (e : Act s) (hst : e.st = { s with sess := e.st.sess }) (c : Ctx) : actStepAuthorise e c [] =
    if s.pair.role = .active ∧ s.dev.state ∈ [.ready, .discover, .safe] then
      (Eff.start s).lockMean.elim (e, some (ansResultFrame 2 0)) fun m => e.pairAct c oStepAuthorise (le 8 (rawBits 64 (-m)))
    else (e, some (ansResultFrame 1 0)) := by
  have mean : e.lockMean = (Eff.start s).lockMean := by
    change (Eff.start e.st).lockMean = _
    rw [hst]
    rfl
  have role : e.st.pair = s.pair := by rw [hst]
  have dev : e.st.dev = s.dev := by rw [hst]
  have may : (!(e.isActive && (e.dev.state == .ready || e.dev.state == .discover || e.dev.state == .safe))) = true ↔
      ¬(s.pair.role = .active ∧ s.dev.state ∈ [.ready, .discover, .safe]) := by
    simp [Eff.isActive, role, dev, and_assoc, imp_iff_not_or]
  refine (if_neg (by simp)).trans ((if_congr may rfl rfl).trans ((ite_not ..).trans (if_congr Iff.rfl ?_ rfl)))
  rw [mean]
  cases (Eff.start s).lockMean <;> rfl

include h

theorem execStepAuthorise_refuses (hmay : ¬(s.pair.role = .active ∧ s.dev.state ∈ [.ready, .discover, .safe])) :
    ∃ t, execStepAuthorise q [] s = .next t ∧ t.Replied q 3 (ansResultFrame 1 0) ∧ t = { s with sess := t.sess, sent := t.sent } := by
  refine invoke_replies s s q _ _ lvl sid _ _ _ _ h fun e hst => ⟨e, ?_, ?_⟩
  · rw [actStepAuthorise_admitted s e hst, if_neg hmay]
  · rw [hst]

variable (hmay : s.pair.role = .active ∧ s.dev.state ∈ [.ready, .discover, .safe])
include hmay

theorem execStepAuthorise_disagree (hmean : (Eff.start s).lockMean = none) :
    ∃ t, execStepAuthorise q [] s = .next t ∧ t.Replied q 3 (ansResultFrame 2 0) ∧ t = { s with sess := t.sess, sent := t.sent } := by
  refine invoke_replies s s q _ _ lvl sid _ _ _ _ h fun e hst => ⟨e, ?_, ?_⟩
  · rw [actStepAuthorise_admitted s e hst, if_pos hmay, hmean, Option.elim_none]
  · rw [hst]

variable (m : Int) (hmean : (Eff.start s).lockMean = some m)
include hmean

theorem execStepAuthorise_alone (hpeer : s.pair.standby = false) :
    ∃ t, execStepAuthorise q [] s = .next t ∧ t.Replied q 3 (ansResultFrame 0 (s.frame.k + 1)) ∧
      t = { s with
        sess := t.sess, sent := t.sent
        pair := { s.pair with timed := s.pair.timed ++ [(s.frame.k + 1, oStepAuthorise, le 8 (rawBits 64 (-m)))] } } := by
  refine invoke_replies s { s with pair := { s.pair with timed := s.pair.timed ++ [(s.frame.k + 1, oStepAuthorise, le 8 (rawBits 64 (-m)))] } }
    q _ _ lvl sid _ _ _ _ h fun e hst => ?_
  have frame : e.st.frame = s.frame := by rw [hst]
  have pair : e.st.pair = s.pair := by rw [hst]
  refine ⟨e.modPair fun p => { p with timed := p.timed ++ [(s.frame.k + 1, oStepAuthorise, le 8 (rawBits 64 (-m)))] }, ?_, ?_⟩
  · rw [actStepAuthorise_admitted s e hst, if_pos hmay, hmean]
    exact (e.pairAct_alone _ _ _ (by rw [pair, hpeer])).trans (by rw [Eff.frame, frame])
  · rw [Eff.modPair_st, hst]

theorem execStepAuthorise_passes (hpeer : s.pair.standby = true) :
    ∃ t, execStepAuthorise q [] s = .next t ∧
      t.pair.waitActs = s.pair.waitActs ++ [⟨oStepAuthorise, le 8 (rawBits 64 (-m)), s.pair.nextCseq, s.frame.k + 2, true, .req q⟩] ∧
      t = { s with sess := t.sess, sent := t.sent, pair := t.pair } := by
  obtain ⟨e, hst, hinvoke⟩ := (Eff.start s).invoke_go q oStepAuthorise [] 2 false lvl sid actStepAuthorise h
  have hst : e.st = { s with sess := e.st.sess } := hst
  have pair : e.st.pair = s.pair := by rw [hst]
  obtain ⟨x, hpass, xst, hwait⟩ := e.pairAct_passes ⟨lvl, sid, .req q⟩ oStepAuthorise (le 8 (rawBits 64 (-m))) (by rw [pair, hpeer])
  have run : actStepAuthorise e ⟨lvl, sid, .req q⟩ [] = (x, none) := by
    rw [actStepAuthorise_admitted s e hst, if_pos hmay, hmean]
    exact hpass
  rw [run] at hinvoke
  refine ⟨_, congrArg (fun e : Act s => Host.Outcome.next e.st) hinvoke, ?_, ?_⟩
  · rw [hwait, hst]
  · rw [xst, hst]

end

/-! ### UTC (R489) -/

theorem execLeapSecond_eq (s : State) : execLeapSecond s = .next (
    if s.time.leap ≠ 0 ∧ s.time.leapDay + s.time.leap ≤ (Eff.start s).utcSec then
      { s with time := { s.time with utc := (s.time.utc + s.time.leap).toNat, leap := 0 } } else s) := by
  refine congrArg Host.Outcome.next (Eff.when_st ?_ _ _)
  simp only [Bool.and_eq_true, bne_iff_ne, decide_eq_true_eq]
  exact Iff.rfl

/-! ### The comparison of the calendar clock (R509) -/

theorem execCalendarCompare_idle (s : State) (h : s.cv oCalAuto 0 = 0 ∨ (Eff.start s).ptpLocked = false ∨
    s.time.up < s.time.lastCompare + 60000000000) : execCalendarCompare s = .next s :=
  if_pos (by
    change (decide (s.cv oCalAuto 0 = 0) || !(Eff.start s).ptpLocked || decide (s.time.up < s.time.lastCompare + 60000000000)) = true
    simpa [or_assoc] using h)

/-- The calendar clock after a comparison: set where it is more than 1 ms off. -/
def Eff.compared (e : Eff s0) (d : Int) : Eff s0 :=
  let e := e.modTime fun t => { t with calErr := d }
  if decide (32 < d ∨ d < -32) then e.setCal e.utcCal.toNat else e

theorem Eff.compared_st (e : Eff s0) (d : Int) : (e.compared d).st = { e.st with time := { e.st.time with
    calErr := if 32 < d ∨ d < -32 then 0 else d
    calBase := if 32 < d ∨ d < -32 then e.utcCal.toNat else e.st.time.calBase
    calAt := if 32 < d ∨ d < -32 then e.st.time.up else e.st.time.calAt
    calValid := if 32 < d ∨ d < -32 then true else e.st.time.calValid } } := by
  by_cases off : 32 < d ∨ d < -32
  · simp only [Eff.compared, decide_eq_true off, if_true, if_pos off]
    rfl
  · simp only [Eff.compared, decide_eq_false off, Bool.false_eq_true, if_false, if_neg off]
    rfl

section
variable (s : State) (d : Int) (hauto : s.cv oCalAuto 0 ≠ 0) (hlocked : (Eff.start s).ptpLocked = true)
  (hdue : s.time.lastCompare + 60000000000 ≤ s.time.up) (hd : d = ((Eff.start s).calNow : Int) - (Eff.start s).utcCal)
include hauto hlocked hdue hd

theorem execCalendarCompare_eq : execCalendarCompare s =
    let drift := s.time.drift + (d - s.time.calErr)
    let e := (Eff.start s).compared d
    let hour := s.time.lastCompare / 3600000000000 < s.time.up / 3600000000000
    let e := if hour then e.setCfg (key oCalTrim 0) (some (rawBits 16 (max (-500) (min 500
      (signed 16 (e.cv oCalTrim) - drift * 10000000 / (32768 * 3600)))))) else e
    .next (e.modTime fun t => { t with lastCompare := t.up, drift := if hour then 0 else drift }).st := by
  subst hd
  refine if_neg ?_
  change ¬(decide (s.cv oCalAuto 0 = 0) || !(Eff.start s).ptpLocked || decide (s.time.up < s.time.lastCompare + 60000000000)) = true
  simp [hauto, hlocked, hdue]

theorem execCalendarCompare_within (hhour : s.time.up / 3600000000000 = s.time.lastCompare / 3600000000000) :
    execCalendarCompare s = .next { s with time := { s.time with
      lastCompare := s.time.up, drift := s.time.drift + (d - s.time.calErr), calErr := if 32 < d ∨ d < -32 then 0 else d
      calBase := if 32 < d ∨ d < -32 then (Eff.start s).utcCal.toNat else s.time.calBase
      calAt := if 32 < d ∨ d < -32 then s.time.up else s.time.calAt
      calValid := if 32 < d ∨ d < -32 then true else s.time.calValid } } := by
  have within : ¬s.time.lastCompare / 3600000000000 < s.time.up / 3600000000000 := by omega
  rw [execCalendarCompare_eq s d hauto hlocked hdue hd]
  simp only [within, if_false, Eff.modTime_st, Eff.compared_st]
  rfl

theorem execCalendarCompare_hourly (hhour : s.time.lastCompare / 3600000000000 < s.time.up / 3600000000000) :
    ∃ t, execCalendarCompare s = .next t ∧ t.time.drift = 0 ∧ t.time.lastCompare = s.time.up ∧
      t.cfg = smSet none s.cfg (key oCalTrim 0) (some (rawBits 16 (max (-500) (min 500
        (signed 16 (s.cv oCalTrim 0) - (s.time.drift + (d - s.time.calErr)) * 10000000 / (32768 * 3600)))))) ∧
      t = { s with cfg := t.cfg, time := t.time } := by
  refine ⟨_, execCalendarCompare_eq s d hauto hlocked hdue hd, ?_⟩
  rw [if_pos hhour, if_pos hhour, Eff.modTime_st, Eff.setCfg_st, Eff.cv, Eff.compared_st]
  exact ⟨rfl, rfl, rfl, rfl⟩

end

/-! ### CAL_SET and CAL_TAMPER_CLEAR (R509, R510) -/

section
variable (s : State) (q : Req) (args : List Byte) (lvl sid : Nat) (h : s.Invoked q oCalSet args 2 false lvl sid) (hlen : args.length = 8)
include h hlen

theorem execCalSet_refuses (hlocked : (Eff.start s).ptpLocked = true) (hauto : s.cv oCalAuto 0 = 1) :
    ∃ t, execCalSet q args s = .next t ∧ t.Replied q 3 (ansOk (le 1 1)) ∧ t = { s with sess := t.sess, sent := t.sent } := by
  refine invoke_replies s s q _ _ lvl sid _ _ _ _ h fun e hst => ⟨e, ?_, by rw [hst]⟩
  have follows : e.ptpLocked = true ∧ e.cv oCalAuto = 1 := by
    change (Eff.start e.st).ptpLocked = true ∧ e.st.cv oCalAuto 0 = 1
    rw [hst]
    exact ⟨hlocked, hauto⟩
  exact (if_neg (by simp [hlen])).trans (if_pos (by simpa using follows))

theorem execCalSet_sets (hfree : (Eff.start s).ptpLocked = false ∨ s.cv oCalAuto 0 ≠ 1) :
    ∃ t, execCalSet q args s = .next t ∧ t.Replied q 3 (ansOk (le 1 0)) ∧
      t = { s with
        sess := t.sess, sent := t.sent
        time := { s.time with
          calBase := fieldLe args 0 8, calAt := s.time.up, calValid := true, calErr := 0, valid := true
          tamper := ((4, (Eff.start s).calNow) :: s.time.tamper).take 8 } } := by
  refine invoke_replies s { s with time := { s.time with
      calBase := fieldLe args 0 8, calAt := s.time.up, calValid := true, calErr := 0, valid := true
      tamper := ((4, (Eff.start s).calNow) :: s.time.tamper).take 8 } }
    q _ _ lvl sid _ _ _ _ h fun e hst =>
      ⟨((e.tamperEvent 4).setCal (fieldLe args 0 8)).modTime fun t => { t with valid := true }, ?_, ?_⟩
  · have free : ¬(e.ptpLocked = true ∧ e.cv oCalAuto = 1) := by
      change ¬((Eff.start e.st).ptpLocked = true ∧ e.st.cv oCalAuto 0 = 1)
      rw [hst]
      exact fun follows => hfree.elim (fun hlocked => Bool.false_ne_true (hlocked.symm.trans follows.1)) (· follows.2)
    exact (if_neg (by simp [hlen])).trans (if_neg (by simpa using free))
  · have now : e.calNow = (Eff.start s).calNow := by
      change (Eff.start e.st).calNow = _
      rw [hst]
      rfl
    rw [Eff.modTime_st, Eff.setCal, Eff.modTime_st, Eff.tamperEvent, Eff.modTime_st, now, hst]

end

theorem execCalTamperClear_clears (s : State) (q : Req) (lvl sid : Nat) (h : s.Invoked q oCalTamperClear [] 2 false lvl sid)
    (hquiet : s.Quiet kTroubleClear sid) :
    ∃ t, execCalTamperClear q [] s = .next t ∧ t.Replied q 3 ansOk ∧
      t = { s with
        sess := t.sess, sent := t.sent, faults := s.noted 0x082 kTroubleClear sid, time := { s.time with tamper := [] } } := by
  refine invoke_replies s { s with faults := s.noted 0x082 kTroubleClear sid, time := { s.time with tamper := [] } }
    q _ _ lvl sid _ _ _ _ h fun e hst => ⟨(e.modTime fun t => { t with tamper := [] }).fault 0x082 kTroubleClear sid, if_neg (by simp), ?_⟩
  have quiet : (e.modTime fun t => { t with tamper := [] }).st.Quiet kTroubleClear sid := by
    rw [Eff.modTime_st, hst]
    exact hquiet.congr rfl rfl
  rw [Eff.fault_quiet _ _ _ _ quiet, Eff.modTime_st, hst]
  rfl

/-! ### Pins and rails (R508, R510, R574) -/

theorem execTamperNFall_eq (s : State) (us : Nat) : execTamperNFall us s = .next (
    if us < 1000 then { s with time := { s.time with tamperLow := false } } else { s with time := { s.time with
      tamperLow := true, tamper := ((1, (Eff.start s).calNow) :: s.time.tamper).take 8 } }) := by
  unfold execTamperNFall
  dsimp only
  by_cases h : us < 1000
  · rw [decide_eq_false (not_le.mpr h), if_pos h]
    rfl
  · rw [decide_eq_true (not_lt.mp h), if_neg h]
    rfl

theorem execOscillatorStop_eq (s : State) (us : Nat) : execOscillatorStop us s = .next (
    if us < 1000 then { s with time := { s.time with calBase := (Eff.start s).calNow, calAt := s.time.up, oscOk := true } }
    else { s with time := { s.time with
      calBase := (Eff.start s).calNow, calAt := s.time.up, oscOk := false, calValid := false
      tamper := if s.time.oscOk = true then ((3, (Eff.start s).calNow) :: s.time.tamper).take 8 else s.time.tamper } }) := by
  unfold execOscillatorStop
  dsimp only
  by_cases h : us < 1000
  · rw [decide_eq_true h, if_pos h]
    simp
  · rw [decide_eq_false h, if_neg h]
    cases hosc : s.time.oscOk
    · simp [hosc]
    · simp [hosc, Eff.tamperEvent]
      rfl

section
variable (s : State) (mv : Nat)

/-- The monitored rails once VBAT has been read. -/
def ClkSt.vbatRead (c : ClkSt) (mv : Nat) : ClkSt := { c with
  railMv := smSet 0 c.railMv 9 mv
  notOk := if 2000 ≤ mv ∧ mv ≤ 3600 then c.notOk.filter (· != 9) else (9 :: c.notOk).dedup }

theorem Eff.readRail_vbat (e : Eff s0) : (e.readRail 9 mv).st = { e.st with clk := e.st.clk.vbatRead mv } := by
  simp [Eff.readRail, ClkSt.vbatRead, inWindow, railWindow]

/-- Of the rails that BACKUP depends on, VBAT reads the new value, VDD_FD what it read before. -/
theorem ClkSt.vbatRead_lost (c : ClkSt) (hwf : smWf 0 c.railMv = true) :
    ((c.vbatRead mv).notOk.contains 9 && smGet 0 (c.vbatRead mv).railMv 9 == 0 && (c.vbatRead mv).notOk.contains 7 &&
      decide (smGet 0 (c.vbatRead mv).railMv 7 < 1620)) = decide (mv = 0 ∧ 7 ∈ c.notOk ∧ smGet 0 c.railMv 7 < 1620) := by
  have read (i : Nat) : smGet 0 (c.vbatRead mv).railMv i = if i = 9 then mv else smGet 0 c.railMv i :=
    smGet_smSet 0 c.railMv 9 mv none hwf i
  rw [read, read, if_pos rfl, if_neg (by omega), Bool.eq_iff_iff]
  by_cases within : 2000 ≤ mv ∧ mv ≤ 3600
  · have some : mv ≠ 0 := by omega
    simp [some]
  · simp [ClkSt.vbatRead, within, and_assoc]

/-- VBAT has been read, before BACKUP is looked at: a low voltage is recorded once. -/
def Eff.vbatNoted (e : Eff s0) (mv : Nat) : Eff s0 :=
  ((e.readRail 9 mv).when (decide (mv < 2200) && !e.time.vbatLow) (·.tamperEvent 2)).modTime fun t => { t with
    vbatLow := decide (mv < 2200), calValid := t.calValid && decide (1800 ≤ mv) }

theorem Eff.vbatNoted_st (e : Eff s0) : (e.vbatNoted mv).st = { e.st with
    clk := e.st.clk.vbatRead mv
    time := { e.st.time with
      vbatLow := decide (mv < 2200), calValid := e.st.time.calValid && decide (1800 ≤ mv)
      tamper := if mv < 2200 ∧ e.st.time.vbatLow = false then ((2, e.calNow) :: e.st.time.tamper).take 8 else e.st.time.tamper } } := by
  have low : (decide (mv < 2200) && !e.time.vbatLow) = decide (mv < 2200 ∧ e.st.time.vbatLow = false) := by
    simp [Bool.decide_and]
  rw [Eff.vbatNoted, low]
  by_cases hlow : mv < 2200 ∧ e.st.time.vbatLow = false
  · rw [decide_eq_true hlow, if_pos hlow, Eff.when_true, Eff.modTime_st, Eff.tamperEvent, Eff.modTime_st, Eff.readRail_vbat]
    rfl
  · rw [decide_eq_false hlow, if_neg hlow, Eff.when_false, Eff.modTime_st, Eff.readRail_vbat]

/-- Whether VBAT at `mv` and VDD_FD as last read take BACKUP with them (R574). -/
def State.backupLost (s : State) (mv : Nat) : Bool := decide (mv = 0 ∧ 7 ∈ s.clk.notOk ∧ smGet 0 s.clk.railMv 7 < 1620)

theorem Eff.vbatAt_eq (e : Eff s0) (hwf : smWf 0 e.st.clk.railMv = true) : e.vbatAt mv =
    (e.vbatNoted mv).when (e.st.backupLost mv) fun e => (e.setCfg (key oCalTrim 0) none).modTime fun t => { t with
      calBase := 0, calAt := t.up, calValid := false, calErr := 0, tamper := [] } := by
  have clk : (e.vbatNoted mv).st.clk = e.st.clk.vbatRead mv := by rw [Eff.vbatNoted_st]
  change (e.vbatNoted mv).backupCheck = _
  unfold Eff.backupCheck
  dsimp only
  rw [Eff.clk, clk, ClkSt.vbatRead_lost mv _ hwf]
  rfl

variable (hwf : smWf 0 s.clk.railMv = true)
include hwf

theorem execVbatLow_kept (hkept : s.backupLost mv = false) : execVbatLow mv s = .next { s with
    clk := s.clk.vbatRead mv
    time := { s.time with
      vbatLow := decide (mv < 2200), calValid := s.time.calValid && decide (1800 ≤ mv)
      tamper := if mv < 2200 ∧ s.time.vbatLow = false then ((2, (Eff.start s).calNow) :: s.time.tamper).take 8 else s.time.tamper } } := by
  rw [execVbatLow, Eff.vbatAt_eq mv _ hwf, Eff.start_st, hkept, Eff.when_false, Eff.vbatNoted_st]
  rfl

theorem execVbatLow_lost (hlost : s.backupLost mv = true) : execVbatLow mv s = .next { s with
    clk := s.clk.vbatRead mv, cfg := smSet none s.cfg (key oCalTrim 0) none
    time := { s.time with
      vbatLow := true, calValid := false, tamper := [], calBase := 0, calAt := s.time.up, calErr := 0 } } := by
  obtain rfl := (of_decide_eq_true hlost).1
  rw [execVbatLow, Eff.vbatAt_eq 0 _ hwf, Eff.start_st, hlost, Eff.when_true, Eff.modTime_st, Eff.setCfg_st, Eff.vbatNoted_st]
  rfl

end

/-! ### The statement -/

/-- Settles O50: the samples of the servo by its mode, the authorised step by what its request meets, UTC, and the calendar clock by what
compares, sets and resets it. -/
theorem servoAndCalendarComplete : Obligations.ServoAndCalendarComplete := by
  unfold Obligations.ServoAndCalendarComplete
  refine ⟨?_, execTimeHold_elsewhere, execTimeHold_peer, ?_, execLeapSecond_eq, execCalendarCompare_idle, execCalendarCompare_within,
    execCalendarCompare_hourly, ?_, execCalTamperClear_clears, execTamperNFall_eq, ?_, execOscillatorStop_eq⟩
  · rintro s o t rfl
    refine ⟨(Eff.start s).offsetSample_first o, fun m hservo hmean => ⟨(Eff.start s).offsetSample_locks o m hservo hmean,
      (Eff.start s).offsetSample_steps o m hservo hmean⟩, fun hservo hstep hfar hhold hdisc => ?_⟩
    have jumps := (Eff.start s).offsetSample_jumps o hservo hstep hfar hhold hdisc
    generalize ((Eff.start s).offsetSample o).st = t at jumps ⊢
    rw [jumps]
    exact ⟨rfl, hstep, rfl, rfl, rfl⟩
  · intro s q lvl sid h
    refine ⟨fun hmay => execStepAuthorise_refuses s q lvl sid h (not_and_or.mpr hmay),
      fun hrole hdev => execStepAuthorise_disagree s q lvl sid h ⟨hrole, hdev⟩,
      fun m hrole hdev => execStepAuthorise_alone s q lvl sid h ⟨hrole, hdev⟩ m,
      fun m hrole hdev => execStepAuthorise_passes s q lvl sid h ⟨hrole, hdev⟩ m⟩
  · intro s q args lvl sid h hlen
    exact ⟨execCalSet_refuses s q args lvl sid h hlen, execCalSet_sets s q args lvl sid h hlen⟩
  · rintro s mv _ _ hwf rfl rfl
    exact ⟨fun kept => execVbatLow_kept s mv hwf (decide_eq_false kept), fun lost => execVbatLow_lost s mv hwf (decide_eq_true lost)⟩

end Sys2Proof.Machine
end

