-- ==== Sys2Proof/Proofs/PtpMessages.lean ====
section
/-! SUPPORT. The PTP port: what its messages yield, its master, and what it sends (R489, R496 to R500). -/

namespace Sys2Proof.Machine

variable {s0 : Root}

/-- Reading what was changed, where the new value is no default or the list canonical. -/
theorem smGet_smMod_same {β : Type} [DecidableEq β] (d : β) (m : SMap β) (n : Nat) (f : β → β)
    (h : f (smGet d m n) ≠ d ∨ smWf d m = true) : smGet d (smMod d m n f) n = f (smGet d m n) :=
  h.elim (smGet_smMod_self d m n f) fun hwf => (smGet_smSet d m n _ none hwf n).trans (if_pos rfl)

/-! ### Sync and Follow_Up (R496, R498) -/

/-- offsetFromMaster of a complete Sync on port m (R498). -/
def Eff.offsetFrom (e : Eff s0) (m : Nat) (t1 t2 corr : Int) : Int := t2 - t1 - (e.ptp m).pathDelay - corr - e.ptpConst oPtpAsym m

theorem Eff.ptpOffset_idle (e : Eff s0) (m : Nat) (t1 t2 corr : Int) (h : e.st.time.source ≠ 1) :
    (e.ptpOffset m t1 t2 corr).st = { e.st with time := { e.st.time with ptpOffset := e.offsetFrom m t1 t2 corr } } := by
  unfold Eff.ptpOffset
  exact (Eff.when_st (p := e.st.time.source = 1) beq_iff_eq _ _).trans (if_neg h)

/-- Where PTP steers, the offset is a sample of the servo; here its first. -/
theorem Eff.ptpOffset_first (e : Eff s0) (m : Nat) (t1 t2 corr : Int) (hsource : e.st.time.source = 1) (hservo : e.st.time.servo = .free)
    (hnone : e.st.time.samples = []) : (e.ptpOffset m t1 t2 corr).st = { e.st with time := { e.st.time with
      ptpOffset := e.offsetFrom m t1 t2 corr, samples := [e.offsetFrom m t1 t2 corr], lastSample := e.offsetFrom m t1 t2 corr
      servo := .acquire, lastSampleAt := e.st.time.up } } := by
  unfold Eff.ptpOffset
  refine ((Eff.when_st (p := e.st.time.source = 1) beq_iff_eq _ _).trans (if_pos hsource)).trans ?_
  exact Eff.offsetSample_first _ _ hservo hnone

section
variable (s : State) (m : Fin 2) (sq : BitVec 16) (two : Bool) (t1 ing cor li : Int)

theorem execPtpSyncReceive_ignored (h : m.val ≠ (Eff.start s).ptpSelected ∨ li < -4 ∨ 1 < li ∨ (Eff.start s).ptpMaster = true) :
    execPtpSyncReceive m sq two t1 ing cor li s = .next s := if_pos h

/-- What a Sync leaves on its port. -/
def PtpPort.synced (p : PtpPort) (sq : BitVec 16) (two : Bool) (t1 t2 cor li : Int) : PtpPort := { p with
  syncSeq := sq.toNat, syncT2 := if two then some t2 else none, syncCorr := cor, t1 := t1, t2 := t2, interval := li }

/-- The path delay of the port stays what it was. -/
theorem synced_offsetFrom (t2 : Int) (hread : li ≠ 0 ∨ smWf PtpPort.reset s.time.ports = true) :
    ((Eff.start s).modPtp m.val (·.synced sq two t1 t2 cor li)).offsetFrom m.val t1 t2 cor =
      t2 - t1 - (smGet PtpPort.reset s.time.ports m.val).pathDelay - cor - (Eff.start s).ptpConst oPtpAsym m.val := by
  have value : (PtpPort.synced (smGet PtpPort.reset s.time.ports m.val) sq two t1 t2 cor li) ≠ PtpPort.reset ∨
      smWf PtpPort.reset s.time.ports = true :=
    hread.imp_left fun hne same => hne (congrArg PtpPort.interval same :)
  have kept : ((Eff.start s).modPtp m.val (·.synced sq two t1 t2 cor li)).ptp m.val =
      (smGet PtpPort.reset s.time.ports m.val).synced sq two t1 t2 cor li :=
    smGet_smMod_same PtpPort.reset s.time.ports m.val (·.synced sq two t1 t2 cor li) value
  rw [Eff.offsetFrom, kept]
  rfl

variable (t2 : Int) (hport : m.val = (Eff.start s).ptpSelected) (hli : -4 ≤ li) (hli' : li ≤ 1) (hslave : (Eff.start s).ptpMaster = false)
  (ht2 : t2 = ing - (Eff.start s).ptpConst oPtpIngressLat m.val)
include hport hli hli' hslave ht2

/-- A two-step Sync waits for its Follow_Up, a one-step one yields its offset. -/
theorem execPtpSyncReceive_taken : execPtpSyncReceive m sq two t1 ing cor li s =
    let e := (Eff.start s).modPtp m.val (·.synced sq two t1 t2 cor li)
    .next (if two then e else e.ptpOffset m.val t1 t2 cor).st := by
  subst ht2
  exact if_neg (by simp [hport, hslave]; omega)

variable (o : Int)
  (ho : o = t2 - t1 - (smGet PtpPort.reset s.time.ports m.val).pathDelay - cor - (Eff.start s).ptpConst oPtpAsym m.val)
  (hread : li ≠ 0 ∨ smWf PtpPort.reset s.time.ports = true)
include ho hread

theorem execPtpSyncReceive_idle (hsource : s.time.source ≠ 1) :
    execPtpSyncReceive m sq false t1 ing cor li s = .next { s with time := { s.time with
      ptpOffset := o, ports := smMod PtpPort.reset s.time.ports m.val (·.synced sq false t1 t2 cor li) } } := by
  rw [execPtpSyncReceive_taken s m sq false t1 ing cor li t2 hport hli hli' hslave ht2]
  dsimp only
  rw [if_neg Bool.false_ne_true, Eff.ptpOffset_idle _ _ _ _ _ hsource, synced_offsetFrom s m sq false t1 cor li t2 hread, ← ho]
  rfl

theorem execPtpSyncReceive_first (hsource : s.time.source = 1) (hservo : s.time.servo = .free) (hnone : s.time.samples = []) :
    execPtpSyncReceive m sq false t1 ing cor li s = .next { s with time := { s.time with
      ptpOffset := o, samples := [o], lastSample := o, servo := .acquire, lastSampleAt := s.time.up
      ports := smMod PtpPort.reset s.time.ports m.val (·.synced sq false t1 t2 cor li) } } := by
  rw [execPtpSyncReceive_taken s m sq false t1 ing cor li t2 hport hli hli' hslave ht2]
  dsimp only
  rw [if_neg Bool.false_ne_true, Eff.ptpOffset_first _ _ _ _ _ hsource hservo hnone,
    synced_offsetFrom s m sq false t1 cor li t2 hread, ← ho]
  rfl

end

section
variable (s : State) (m : Fin 2) (sq : BitVec 16) (t1 cor : Int)

theorem execPtpFollowUpReceive_ignored (h : (smGet PtpPort.reset s.time.ports m.val).syncT2 = none ∨
    (smGet PtpPort.reset s.time.ports m.val).syncSeq ≠ sq.toNat ∨ m.val ≠ (Eff.start s).ptpSelected ∨ (Eff.start s).ptpMaster = true) :
    execPtpFollowUpReceive m sq t1 cor s = .next s := by
  unfold execPtpFollowUpReceive
  dsimp only [Eff.ptp, Eff.start_st]
  cases hsync : (smGet PtpPort.reset s.time.ports m.val).syncT2 with
  | none => rfl
  | some t2 => exact if_neg fun ⟨hseq, hport, hslave⟩ => by simp_all

/-- What a Follow_Up leaves on its port. -/
def PtpPort.followed (p : PtpPort) (t1 cor : Int) : PtpPort := { p with syncT2 := none, t1 := t1, syncCorr := p.syncCorr + cor }

theorem execPtpFollowUpReceive_taken (t2 : Int) (hsync : (smGet PtpPort.reset s.time.ports m.val).syncT2 = some t2)
    (hseq : (smGet PtpPort.reset s.time.ports m.val).syncSeq = sq.toNat) (hport : m.val = (Eff.start s).ptpSelected)
    (hslave : (Eff.start s).ptpMaster = false) (hsource : s.time.source ≠ 1) (hwf : smWf PtpPort.reset s.time.ports = true) :
    execPtpFollowUpReceive m sq t1 cor s = .next { s with time := { s.time with
      ptpOffset := t2 - t1 - (smGet PtpPort.reset s.time.ports m.val).pathDelay -
        ((smGet PtpPort.reset s.time.ports m.val).syncCorr + cor) - (Eff.start s).ptpConst oPtpAsym m.val
      ports := smMod PtpPort.reset s.time.ports m.val (·.followed t1 cor) } } := by
  let x := (Eff.start s).modPtp m.val (·.followed t1 cor)
  have port : x.ptp m.val = (smGet PtpPort.reset s.time.ports m.val).followed t1 cor :=
    smGet_smMod_same PtpPort.reset s.time.ports m.val (·.followed t1 cor) (.inr hwf)
  have taken : execPtpFollowUpReceive m sq t1 cor s =
      .next (x.ptpOffset m.val t1 t2 ((smGet PtpPort.reset s.time.ports m.val).syncCorr + cor)).st := by
    unfold execPtpFollowUpReceive
    dsimp only [Eff.ptp, Eff.start_st]
    rw [hsync]
    exact if_pos ⟨hseq, hport, by rw [hslave]; rfl⟩
  rw [taken, Eff.ptpOffset_idle _ _ _ _ _ hsource, Eff.offsetFrom, port]
  rfl

end

/-! ### Path delays (R498) -/

section
variable (s : State) (m : Fin 2) (sq : BitVec 16)

/-- Only the response to the request that is outstanding is taken. -/
theorem outstanding_other {o : Option (Nat × Int)} (h : ∀ t, o ≠ some (sq.toNat, t)) : ∀ p, o = some p → p.1 ≠ sq.toNat := by
  rintro ⟨n, t⟩ rfl rfl
  exact h t rfl

theorem execPtpDelayRespReceive_ignored (t4 cor : Int) (h : ∀ t3, (smGet PtpPort.reset s.time.ports m.val).reqT3 ≠ some (sq.toNat, t3)) :
    execPtpDelayRespReceive m sq t4 cor s = .next s := by
  unfold execPtpDelayRespReceive
  dsimp only [Eff.ptp, Eff.start_st]
  cases hreq : (smGet PtpPort.reset s.time.ports m.val).reqT3 with
  | none => rfl
  | some p => exact if_pos (outstanding_other sq h p hreq)

theorem execPtpDelayRespReceive_taken (t4 cor t3 d : Int) (p : PtpPort) (hp : p = smGet PtpPort.reset s.time.ports m.val)
    (hreq : p.reqT3 = some (sq.toNat, t3))
    (hd : d = ((p.t2 - t3) + (t4 - p.t1) - (p.syncCorr + (Eff.start s).ptpConst oPtpAsym m.val) - cor) / 2) :
    execPtpDelayRespReceive m sq t4 cor s = .next { s with time := { s.time with
      pathDelay := d, ports := smMod PtpPort.reset s.time.ports m.val fun p => { p with pathDelay := d, reqT3 := none } } } := by
  subst hd hp
  unfold execPtpDelayRespReceive
  dsimp only [Eff.ptp, Eff.start_st]
  rw [hreq]
  exact if_neg (not_not.mpr rfl)

theorem execPtpPdelayRespReceive_ignored (ing tu : Int) (h : ∀ t1, (smGet PtpPort.reset s.time.ports m.val).pdelT1 ≠ some (sq.toNat, t1)) :
    execPtpPdelayRespReceive m sq ing tu s = .next s := by
  unfold execPtpPdelayRespReceive
  dsimp only [Eff.ptp, Eff.start_st]
  cases hreq : (smGet PtpPort.reset s.time.ports m.val).pdelT1 with
  | none => rfl
  | some p => exact if_pos (outstanding_other sq h p hreq)

theorem execPtpPdelayRespReceive_taken (ing tu t1 d : Int) (hreq : (smGet PtpPort.reset s.time.ports m.val).pdelT1 = some (sq.toNat, t1))
    (hd : d = (ing - (Eff.start s).ptpConst oPtpIngressLat m.val - t1 - (tu + (Eff.start s).ptpConst oPtpAsym m.val)) / 2) :
    execPtpPdelayRespReceive m sq ing tu s = .next { s with time := { s.time with
      pathDelay := d, ports := smMod PtpPort.reset s.time.ports m.val fun p => { p with pathDelay := d, pdelT1 := none } } } := by
  subst hd
  unfold execPtpPdelayRespReceive
  dsimp only [Eff.ptp, Eff.start_st]
  rw [hreq]
  exact if_neg (not_not.mpr rfl)

end

/-! ### Requests of others (R498, R499) -/

theorem execPtpPdelayReqReceive_answers (s : State) (m : Fin 2) (sq : BitVec 16) (ing cor : Int) :
    execPtpPdelayReqReceive m sq ing cor s = .next { s with
      free := s.free + 1
      sent := s.ptpMsg m.val .pdelayResp sq.toNat 0 (cor + ((Config.freeWord s.free).toNat : Int)) none :: s.sent } := by
  unfold execPtpPdelayReqReceive
  dsimp only
  rw [add_sub_cancel_left]
  rfl

theorem execPtpDelayReqReceive_eq (s : State) (m : Fin 2) (sq : BitVec 16) (ing cor t : Int)
    (ht : t = ing - (Eff.start s).ptpConst oPtpIngressLat m.val) : execPtpDelayReqReceive m sq ing cor s = .next (
      if (Eff.start s).ptpMaster = true ∧ m.val = (Eff.start s).ptpSelected ∧ s.cv oPtpProfile 0 = 0 then { s with
        sent := s.ptpMsg m.val .delayResp sq.toNat (t - t % 65536) (cor - t % 65536) none :: s.sent } else s) := by
  subst ht
  exact congrArg Host.Outcome.next (Eff.when_st (by simp [and_assoc]) _ _)

/-! ### Messages of the device's own (R497 to R499) -/

section
variable (s : State)

theorem execPtpSyncSend_eq (eg : Int) : execPtpSyncSend eg s =
    let t := eg + (Eff.start s).ptpConst oPtpEgressLat (Eff.start s).ptpSelected
    .next (if (Eff.start s).ptpMaster = true then ((Eff.start s).sendOwn .sync (t - t % 65536) (t % 65536)).st else s) :=
  congrArg Host.Outcome.next (Eff.when_st Iff.rfl _ _)

theorem execPtpAnnounceSend_eq : execPtpAnnounceSend s = .next (if (Eff.start s).ptpMaster = true then
    ((Eff.start s).sendOwn .announce 0 0 (some ⟨s.cv oPtpPriority 0, 248, 0xFE, s.cv oPtpPriority 1, 0xA0⟩)).st else s) :=
  congrArg Host.Outcome.next (Eff.when_st Iff.rfl _ _)

theorem execPtpDelayReqSend_eq (eg : Int) : execPtpDelayReqSend eg s =
    let m := (Eff.start s).ptpSelected
    let n := ((Eff.start s).ptp m).nextSeq .delayReq
    .next (if s.cv oPtpProfile 0 = 0 ∧ (Eff.start s).ptpMaster = false then
      (((Eff.start s).sendOwn .delayReq 0 (-((Eff.start s).ptpConst oPtpAsym m))).modPtp m fun p => { p with
        reqT3 := some (n, eg + (Eff.start s).ptpConst oPtpEgressLat m) }).st else s) :=
  congrArg Host.Outcome.next (Eff.when_st (by simp) _ _)

theorem execPtpPdelayReqSend_eq (eg : Int) : execPtpPdelayReqSend eg s =
    let m := (Eff.start s).ptpSelected
    let n := ((Eff.start s).ptp m).nextSeq .pdelayReq
    .next (if s.cv oPtpProfile 0 = 1 then
      (((Eff.start s).sendOwn .pdelayReq 0 (-((Eff.start s).ptpConst oPtpAsym m))).modPtp m fun p => { p with
        pdelT1 := some (n, eg + (Eff.start s).ptpConst oPtpEgressLat m) }).st else s) :=
  congrArg Host.Outcome.next (Eff.when_st (by simp) _ _)

end

/-! ### The master of the port in use (R489, R497) -/

/-- The leap second that a master announces. -/
def Foreign.leap (f : Foreign) : Int := if f.leap61 = true then 1 else if f.leap59 = true then -1 else 0

/-- The time unit under a best master: its UTC offset, and whether the device is master itself. -/
def TimeSt.following (t : TimeSt) (f : Foreign) (master : Bool) : TimeSt := { t with
  master := master, utc := if f.utcValid then f.utc else t.utc, utcFromPtp := f.utcValid }

/-- Whether the device takes the role of master from a best foreign master. -/
def State.outranks (s : State) (f : Foreign) : Bool :=
  decide (s.cv oPtpSlaveOnly 0 = 0) && s.pair.role == .active && betterSet (Eff.start s).ownSet f.set

theorem Eff.selectMaster_st (e : Eff s0) (f : Foreign) (h : (e.ptp e.ptpSelected).best = some f) :
    e.selectMaster.st = { e.st with time := { e.st.time.following f (e.st.outranks f) with
      leap := f.leap
      leapDay := if e.st.time.leap = f.leap then e.st.time.leapDay
        else (Eff.start { e.st with time := e.st.time.following f (e.st.outranks f) }).dayEnd } } := by
  unfold Eff.selectMaster
  rw [h]
  rfl

theorem Eff.selectMaster_none (e : Eff s0) (h : (e.ptp e.ptpSelected).best = none) : e.selectMaster = e := by
  unfold Eff.selectMaster
  rw [h]

section
variable (s : State) (m : Fin 2)

section
variable (gm : BitVec 64) (p1 cc ac va p2 utc sr : Nat) (uv l61 l59 : Bool)

/-- A port that has heard an Announce knows its master. -/
theorem PtpPort.announced_ne_reset (p : PtpPort) (f : Foreign) : p.announced f ≠ PtpPort.reset := fun same =>
  List.cons_ne_nil _ _ (congrArg PtpPort.masters same :)

/-- Where AUTO does not return to E0, the Announce joins its port, and the port in use selects its master. -/
theorem execPtpAnnounceReceive_eq (hback : s.cv oPtpPort 0 ≠ 2 ∨ m.val = 1 ∨ s.time.selected = 0) :
    execPtpAnnounceReceive m gm p1 cc ac va p2 utc uv l61 l59 sr s =
      let e := (Eff.start s).modPtp m.val (·.announced ⟨gm.toNat, [p1, cc, ac, va, p2, gm.toNat, sr], utc, uv, l61, l59, 0⟩)
      .next (if m.val = (Eff.start s).ptpSelected then e.selectMaster.st else e.st) := by
  unfold execPtpAnnounceReceive
  extract_lets e set x back y
  have stays : back = false := by
    change (s.cv oPtpPort 0 == 2 && m.val == 0 && s.time.selected == 1 && decide (16 ≤ (x.ptp 0).announces)) = false
    rcases hback with h | h | h <;> simp [h]
  have kept : y = x := by
    unfold y
    rw [stays, Eff.when_false]
  rw [kept]
  exact congrArg Host.Outcome.next (Eff.when_st beq_iff_eq _ _)

variable (p : PtpPort)
  (hp : p = (smGet PtpPort.reset s.time.ports m.val).announced ⟨gm.toNat, [p1, cc, ac, va, p2, gm.toNat, sr], utc, uv, l61, l59, 0⟩)
include hp

/-- The port reads what it has heard. -/
theorem announced_read (hport : m.val = (Eff.start s).ptpSelected) (x : Act s)
    (hx : x = (Eff.start s).modPtp m.val (·.announced ⟨gm.toNat, [p1, cc, ac, va, p2, gm.toNat, sr], utc, uv, l61, l59, 0⟩)) :
    x.ptp x.ptpSelected = p := by
  subst hx hp
  change smGet PtpPort.reset _ (Eff.start s).ptpSelected = _
  rw [← hport]
  exact smGet_smMod_self _ _ _ (PtpPort.announced · _) (PtpPort.announced_ne_reset _ _)

variable (hback : s.cv oPtpPort 0 ≠ 2 ∨ m.val = 1 ∨ s.time.selected = 0)
include hback

theorem execPtpAnnounceReceive_joins (h : m.val ≠ (Eff.start s).ptpSelected ∨ p.best = none) :
    execPtpAnnounceReceive m gm p1 cc ac va p2 utc uv l61 l59 sr s = .next { s with time := { s.time with
      ports := smSet PtpPort.reset s.time.ports m.val p } } := by
  rw [execPtpAnnounceReceive_eq s m gm p1 cc ac va p2 utc sr uv l61 l59 hback]
  extract_lets x
  have joined : x.st = { s with time := { s.time with ports := smSet PtpPort.reset s.time.ports m.val p } } := by
    rw [hp]
    rfl
  by_cases hport : m.val = (Eff.start s).ptpSelected
  · have read := announced_read s m gm p1 cc ac va p2 utc sr uv l61 l59 p hp hport x rfl
    rw [if_pos hport, x.selectMaster_none (by rw [read]; exact h.resolve_left (not_not.mpr hport)), joined]
  · rw [if_neg hport, joined]

theorem execPtpAnnounceReceive_follows (f : Foreign) (hport : m.val = (Eff.start s).ptpSelected) (hbest : p.best = some f) :
    ∃ t, execPtpAnnounceReceive m gm p1 cc ac va p2 utc uv l61 l59 sr s = .next t ∧ t = { s with time := { s.time with
      ports := smSet PtpPort.reset s.time.ports m.val p
      utc := if f.utcValid = true then f.utc else s.time.utc, utcFromPtp := f.utcValid, leap := f.leap
      leapDay := if s.time.leap = f.leap then s.time.leapDay else (Eff.start t).dayEnd, master := s.outranks f } } := by
  rw [execPtpAnnounceReceive_eq s m gm p1 cc ac va p2 utc sr uv l61 l59 hback]
  extract_lets x
  have read := announced_read s m gm p1 cc ac va p2 utc sr uv l61 l59 p hp hport x rfl
  rw [if_pos hport, x.selectMaster_st f (by rw [read, hbest])]
  refine ⟨_, rfl, ?_⟩
  rw [hp]
  rfl

end

/-! ### The end of the Announces (R492, R497) -/

/-- The time unit without a master: UTC from UTC_OFFSET, no leap second, and whether the device is master itself. -/
def TimeSt.masterless (t : TimeSt) (master : Bool) : TimeSt := { t with utcFromPtp := false, leap := 0, master := master }

/-- Whether the device is master where it knows no other. -/
def State.mastersAlone (s : State) : Bool := decide (s.cv oPtpSlaveOnly 0 = 0) && s.pair.role == .active

theorem Eff.withdrawPtp_free (e : Eff s0) (h : e.st.time.servo ≠ .locked ∨ e.st.time.source ≠ 1) :
    e.withdrawPtp.st = { e.st with time := e.st.time.masterless e.st.mastersAlone } := by
  unfold Eff.withdrawPtp
  refine (Eff.when_st (p := e.st.time.servo = .locked ∧ e.st.time.source = 1) (by simp) _ _).trans (if_neg ?_)
  exact not_and_or.mpr h

/-- A servo LOCKED to PTP has lost its source. -/
theorem Eff.withdrawPtp_locked (e : Eff s0) (hservo : e.st.time.servo = .locked) (hsource : e.st.time.source = 1)
    (hquiet : e.st.Quiet kTimeHold 0) : e.withdrawPtp.st = { e.st with
      time := (e.st.time.masterless e.st.mastersAlone).held, faults := e.st.noted 0x051 kTimeHold 0 } := by
  unfold Eff.withdrawPtp
  refine ((Eff.when_st (p := e.st.time.servo = .locked ∧ e.st.time.source = 1) (by simp) _ _).trans (if_pos ⟨hservo, hsource⟩)).trans ?_
  exact Eff.enterHold_st _ (hquiet.congr rfl rfl)

/-- A port that has lost its masters. -/
def PtpPort.emptied (p : PtpPort) : PtpPort := { p with masters := [], announces := 0 }

/-- A port that has lost its masters, and AUTO gone over from E0 to E1. -/
def State.portEmptied (s : State) (m : Nat) : State := { s with time := { s.time with
  ports := smMod PtpPort.reset s.time.ports m PtpPort.emptied
  selected := if s.cv oPtpPort 0 = 2 ∧ m = 0 then 1 else s.time.selected } }

theorem execAnnounceTimeout_other (hport : m.val ≠ (Eff.start s).ptpSelected) : execAnnounceTimeout m s = .next { s with
    time := { s.time with ports := smMod PtpPort.reset s.time.ports m.val PtpPort.emptied } } :=
  if_pos (by simp [hport])

theorem execAnnounceTimeout_used (hport : m.val = (Eff.start s).ptpSelected) : ∃ x : Act s, x.st = s.portEmptied m.val ∧
    execAnnounceTimeout m s = .next (if (x.ptp x.ptpSelected).best.isSome then x.selectMaster else x.withdrawPtp).st := by
  refine ⟨_, ?_, if_neg (by simp [hport])⟩
  refine (Eff.when_st (p := s.cv oPtpPort 0 = 2 ∧ m.val = 0)
    (by simp only [Bool.and_eq_true, beq_iff_eq]; exact Iff.rfl) _ _).trans ?_
  unfold State.portEmptied
  split <;> rfl

section
variable (hwf : smWf PtpPort.reset s.time.ports = true) (hport : m.val = (Eff.start s).ptpSelected)
include hwf

/-- Over on E1 the device knows the masters that E1 knows. -/
theorem State.portEmptied_over (hauto : s.cv oPtpPort 0 = 2) (hzero : m.val = 0) :
    (Eff.start (s.portEmptied m.val)).ptp (Eff.start (s.portEmptied m.val)).ptpSelected = smGet PtpPort.reset s.time.ports 1 := by
  have moved : (Eff.start (s.portEmptied m.val)).ptpSelected = 1 :=
    (if_pos hauto).trans (if_pos ⟨hauto, hzero⟩)
  rw [moved]
  exact (smGet_smSet _ _ _ _ none hwf 1).trans (if_neg (by omega))

include hport

/-- Elsewhere it knows none, nor on E1 where E1 knows none. -/
theorem State.portEmptied_alone (hnone : s.cv oPtpPort 0 = 2 → m.val = 0 → (smGet PtpPort.reset s.time.ports 1).best = none) :
    ((Eff.start (s.portEmptied m.val)).ptp (Eff.start (s.portEmptied m.val)).ptpSelected).best = none := by
  by_cases hauto : s.cv oPtpPort 0 = 2 ∧ m.val = 0
  · rw [s.portEmptied_over m hwf hauto.1 hauto.2, hnone hauto.1 hauto.2]
  · have stays : (Eff.start (s.portEmptied m.val)).ptpSelected = m.val := by
      have selected : (s.portEmptied m.val).time.selected = s.time.selected := if_neg hauto
      exact (if_congr Iff.rfl selected rfl).trans hport.symm
    have empty : (Eff.start (s.portEmptied m.val)).ptp m.val = (smGet PtpPort.reset s.time.ports m.val).emptied :=
      smGet_smMod_same PtpPort.reset s.time.ports m.val PtpPort.emptied (.inr hwf)
    rw [stays, empty]
    rfl

section
variable (hnone : s.cv oPtpPort 0 = 2 → m.val = 0 → (smGet PtpPort.reset s.time.ports 1).best = none)
include hnone

theorem execAnnounceTimeout_withdraws : ∃ x : Act s, x.st = s.portEmptied m.val ∧ execAnnounceTimeout m s = .next x.withdrawPtp.st := by
  obtain ⟨x, hx, hexec⟩ := execAnnounceTimeout_used s m hport
  have alone : (x.ptp x.ptpSelected).best = none := by
    change ((Eff.start x.st).ptp (Eff.start x.st).ptpSelected).best = none
    rw [hx]
    exact s.portEmptied_alone m hwf hport hnone
  exact ⟨x, hx, by rw [hexec, alone]; rfl⟩

theorem execAnnounceTimeout_free (hfree : s.time.servo ≠ .locked ∨ s.time.source ≠ 1) : execAnnounceTimeout m s = .next {
    s.portEmptied m.val with time := (s.portEmptied m.val).time.masterless s.mastersAlone } := by
  obtain ⟨x, hx, hexec⟩ := execAnnounceTimeout_withdraws s m hwf hport hnone
  rw [hexec, x.withdrawPtp_free (by rw [hx]; exact hfree), hx]
  rfl

theorem execAnnounceTimeout_locked (hservo : s.time.servo = .locked) (hsource : s.time.source = 1) (hquiet : s.Quiet kTimeHold 0) :
    execAnnounceTimeout m s = .next { s with
      time := ((s.portEmptied m.val).time.masterless s.mastersAlone).held, faults := s.noted 0x051 kTimeHold 0 } := by
  obtain ⟨x, hx, hexec⟩ := execAnnounceTimeout_withdraws s m hwf hport hnone
  rw [hexec, x.withdrawPtp_locked (by rw [hx]; exact hservo) (by rw [hx]; exact hsource) (by rw [hx]; exact hquiet.congr rfl rfl), hx]
  rfl

end

theorem execAnnounceTimeout_follows (f : Foreign) (hauto : s.cv oPtpPort 0 = 2) (hzero : m.val = 0)
    (hbest : (smGet PtpPort.reset s.time.ports 1).best = some f) : execAnnounceTimeout m s = .next { s with
      time := { (s.portEmptied m.val).time.following f (s.outranks f) with
        leap := f.leap
        leapDay := if s.time.leap = f.leap then s.time.leapDay
          else (Eff.start { s with time := (s.portEmptied m.val).time.following f (s.outranks f) }).dayEnd } } := by
  obtain ⟨x, hx, hexec⟩ := execAnnounceTimeout_used s m hport
  have known : (x.ptp x.ptpSelected).best = some f := by
    change ((Eff.start x.st).ptp (Eff.start x.st).ptpSelected).best = some f
    rw [hx, s.portEmptied_over m hwf hauto hzero, hbest]
  rw [hexec, known, Option.isSome_some, if_pos rfl, x.selectMaster_st f known, hx]
  rfl

end

end

/-! ### The statement -/

/-- Settles O49: Sync and Follow_Up by the offset, the responses by the path delay, Announce and its timeout by the master that the port
in use has, and the device's own messages. -/
theorem ptpMessagesComplete : Obligations.PtpMessagesComplete := by
  unfold Obligations.PtpMessagesComplete
  refine ⟨execPtpSyncReceive_ignored, ?_, ?_, ?_, ?_, execPtpPdelayReqReceive_answers, execPtpDelayReqReceive_eq, ?_, ?_, ?_⟩
  · intro s m sq t1 ing cor li t2 o hport hli hli' hslave ht2 ho hread
    exact ⟨execPtpSyncReceive_taken s m sq true t1 ing cor li t2 hport hli hli' hslave ht2,
      execPtpSyncReceive_idle s m sq t1 ing cor li t2 hport hli hli' hslave ht2 o ho hread,
      execPtpSyncReceive_first s m sq t1 ing cor li t2 hport hli hli' hslave ht2 o ho hread⟩
  · rintro s m sq t1 cor t2 _ rfl
    exact ⟨execPtpFollowUpReceive_ignored s m sq t1 cor, execPtpFollowUpReceive_taken s m sq t1 cor t2⟩
  · rintro s m sq t4 cor p rfl
    exact ⟨execPtpDelayRespReceive_ignored s m sq t4 cor, fun t3 d => execPtpDelayRespReceive_taken s m sq t4 cor t3 d _ rfl⟩
  · rintro s m sq ing tu p rfl
    exact ⟨execPtpPdelayRespReceive_ignored s m sq ing tu, execPtpPdelayRespReceive_taken s m sq ing tu⟩
  · intro s m gm p1 cc ac va p2 utc sr uv l61 l59 p hp hback
    by_cases hjoins : m.val ≠ (Eff.start s).ptpSelected ∨ p.best = none
    · refine ⟨_, execPtpAnnounceReceive_joins s m gm p1 cc ac va p2 utc sr uv l61 l59 p hp hback hjoins, rfl, fun _ => rfl,
        fun f hport hbest => ?_⟩
      exact hjoins.elim (absurd hport) fun hnone => absurd (hnone.symm.trans hbest) nofun
    · obtain ⟨hport, hsome⟩ := not_or.mp hjoins
      obtain ⟨f, hbest⟩ := Option.ne_none_iff_exists'.mp hsome
      obtain ⟨t, hexec, ht⟩ := execPtpAnnounceReceive_follows s m gm p1 cc ac va p2 utc sr uv l61 l59 p hp hback f (not_not.mp hport) hbest
      refine ⟨t, hexec, by rw [ht], fun h => absurd h hjoins, fun g _ hg => ?_⟩
      obtain rfl := Option.some_injective _ (hbest.symm.trans hg)
      have ports : t.time.ports = smSet PtpPort.reset s.time.ports m.val p := by rw [ht]
      have leap : t.time.leap = f.leap := by rw [ht]
      rw [ports, leap]
      exact ht
  · rintro s m _ _ hwf rfl rfl
    refine ⟨execAnnounceTimeout_other s m, fun hport => execAnnounceTimeout_free s m hwf hport,
      fun hport hnone hservo hsource hquiet => ?_, fun f hport hauto hzero hbest => ?_⟩
    · exact ⟨_, execAnnounceTimeout_locked s m hwf hport hnone hservo hsource hquiet, rfl, rfl, rfl⟩
    · have selected : (s.portEmptied m.val).time.selected = 1 := if_pos ⟨hauto, hzero⟩
      refine ⟨_, execAnnounceTimeout_follows s m hwf hport f hauto hzero hbest, rfl, selected, ?_⟩
      rw [← selected]
      rfl
  · rintro s eg t m p rfl rfl rfl
    exact ⟨execPtpSyncSend_eq s eg, execPtpAnnounceSend_eq s, execPtpDelayReqSend_eq s eg, execPtpPdelayReqSend_eq s eg⟩

end Sys2Proof.Machine
end
